-- ==== Sys2Proof/Word.lean ====
section
/-! DEFINITION. The words of the Cristad (R4): a byte, a half, a word, a doubleword, a vector register and a
256-bit TID entry, and the few widenings every file uses. -/

namespace Sys2Proof

/-- A byte (R4). -/
abbrev Byte := BitVec 8
/-- A word: general registers and most system registers (R4, R17). -/
abbrev Word := BitVec 32
/-- A 64-bit value: address registers and addresses (R17, R137). -/
abbrev Addr := BitVec 64
/-- A vector register, 512 bits (R45). -/
abbrev Vec := BitVec 512

/-- A 5-bit field naming a g register (R69). -/
abbrev GReg := BitVec 5
/-- A 3-bit field naming an address register (R69). -/
abbrev AReg := BitVec 3
/-- A 3-bit field naming a predicate (R69). -/
abbrev PReg := BitVec 3
/-- A 4-bit field naming a vector register (R76). -/
abbrev VReg := BitVec 4
/-- A 3-bit field naming a lane mask (R76). -/
abbrev KReg := BitVec 3

end Sys2Proof
end

