-- ==== Sys2Proof/Config.lean ====
section
/-! DEFINITION. What one part fixes and the manual does not lay down: functions and constants without a body, so that no proof can rest
on their values (log entries 5 and 6). SHA-256, ECDSA, ECDH and AES-256-GCM are not among them: they are written out in
Machine/Digest.lean, Machine/Curve.lean and Machine/Cipher.lean. -/

namespace Sys2Proof.Config

/-- The private half of the device identity key, the secret number that goes into its signature of a digest, and the key's certificate
chain (R376, R377). -/
opaque identitySecret : Nat
opaque signNonce : (digest : List Byte) → Nat
opaque identityChain : List Byte
/-- The device serial number (R373). -/
opaque deviceSerial : BitVec 64
/-- The hash of the Mladnar signing key held in fuses, the key that comes with a signed blob, and the boot ROM's digest (R376, R377,
log entry 52). -/
opaque fuseKeyHash : List Byte
opaque blobKey : (blob : List Byte) → List Byte
opaque bootRomDigest : List Byte
/-- The fuse configuration that measurement 4 covers (R377). -/
opaque fuseConfig : List Byte
/-- Does a certificate chain end at one of the authorities that the policy accepts (R376, R378)? -/
opaque chainAccepted : (authorities : List (List Byte)) → (chain : List Byte) → Bool
/-- The identity public key that a certificate chain carries (R378). -/
opaque chainKey : (chain : List Byte) → List Byte
/-- The ephemeral secret and the nonce of one key exchange of a port, by a count of exchanges (R378). -/
opaque ephemeralSecret : (port count : Nat) → Nat
opaque ephemeralNonce : (port count : Nat) → List Byte
/-- The shared secret where a peer's signed public key is no point of the curve, by which nothing is said (R378). -/
opaque ecdhUnstated : (peer : List Byte) → List Byte
/-- The addresses that the firmware configures at power-on for a port and for its peer (R328). -/
opaque macAddress : (port : Nat) → (peer : Bool) → BitVec 48
/-- The nonce of a signed SPDM response, by a count of responses, and the keys that a session establishes (R317, R377). -/
opaque spdmNonce : (count : Nat) → List Byte
opaque spdmKeys : (transcript : List Byte) → List Byte
/-- The body of an SPDM response that carries no certificate and no measurement (R377). -/
opaque spdmBody : (code arg : Nat) → (transcript : List Byte) → List Byte

/-- The micro-wear-units that a reading of a monitor comes to under a calibration constant, CALB or CALE (R368, log entry 49). -/
opaque wearUnits : (constant : BitVec 32) → (reading : Nat) → Nat
/-- Was the last packet of a cell only partly injected when the cell was sealed for the n-th time (R354, log entry 88)? -/
opaque partlyInjected : (cell n : Nat) → Bool
/-- The croft site of the memory channel that serves a granule of tier-1 memory (R245, R364, log entry 26). -/
opaque channelSite : (granule : Nat) → BitVec 7

/-- What CMAP reads for a logical croft number that the package does not have (R310, log entry 17). -/
opaque cmapBeyond : (log : Nat) → BitVec 7

/-- How many launches the dispatcher holds (R219, log entry 18). -/
opaque dispatchRoom : Nat
/-- What the GROW of a reeve node returns, whose domain has no launch, by cell, node and how many GROWs it executed before
(R199, log entry 19). -/
opaque growReeve : (cell node count : Nat) → BitVec 32

end Sys2Proof.Config
end

