-- ==== Sys2Proof/Syntax.lean ====
section
/-! DEFINITION. The instructions of the Cristad: one constructor for each row of the table of operations and events.
The first 228 are instruction words, their arguments the fields of the word (R66 to R99): d, a, b registers, la and lb
the last-use bits, st the stall count. The next 15 are register moves that the table lists as steps of their own, and the
word that is no instruction. The others are the steps of the other agents of the machine; the party concerned, and the
data that reaches it from outside, stand in the parameters that State holds for the step (`Params` of Machine/State.lean). -/

namespace Sys2Proof

/-- The table of operations and events, row by row; each docstring names the rule. -/
inductive Instr where
  /-- ADD: R108. -/
  | add (d a b : GReg) (la lb : Bool) (st : BitVec 2)
  /-- SUB: R108. -/
  | sub (d a b : GReg) (la lb : Bool) (st : BitVec 2)
  /-- AND: R108. -/
  | and (d a b : GReg) (la lb : Bool) (st : BitVec 2)
  /-- ANDN: R108. -/
  | andn (d a b : GReg) (la lb : Bool) (st : BitVec 2)
  /-- OR: R108. -/
  | or (d a b : GReg) (la lb : Bool) (st : BitVec 2)
  /-- ORN: R108. -/
  | orn (d a b : GReg) (la lb : Bool) (st : BitVec 2)
  /-- XOR: R108. -/
  | xor (d a b : GReg) (la lb : Bool) (st : BitVec 2)
  /-- XNOR: R108. -/
  | xnor (d a b : GReg) (la lb : Bool) (st : BitVec 2)
  /-- SHL: R109. -/
  | shl (d a b : GReg) (la lb : Bool) (st : BitVec 2)
  /-- SHR: R109. -/
  | shr (d a b : GReg) (la lb : Bool) (st : BitVec 2)
  /-- SHA: R109. -/
  | sha (d a b : GReg) (la lb : Bool) (st : BitVec 2)
  /-- ROTL: R109. -/
  | rotl (d a b : GReg) (la lb : Bool) (st : BitVec 2)
  /-- MINS: R108. -/
  | mins (d a b : GReg) (la lb : Bool) (st : BitVec 2)
  /-- MAXS: R108. -/
  | maxs (d a b : GReg) (la lb : Bool) (st : BitVec 2)
  /-- MINU: R108. -/
  | minu (d a b : GReg) (la lb : Bool) (st : BitVec 2)
  /-- MAXU: R108. -/
  | maxu (d a b : GReg) (la lb : Bool) (st : BitVec 2)
  /-- ADDS: R108. -/
  | adds (d a b : GReg) (la lb : Bool) (st : BitVec 2)
  /-- SUBS: R108. -/
  | subs (d a b : GReg) (la lb : Bool) (st : BitVec 2)
  /-- SEL: R110. -/
  | sel (d : GReg) (p : PReg) (a b : GReg) (la lb : Bool) (st : BitVec 2)
  /-- ADDI: R111. -/
  | addi (d a : GReg) (la : Bool) (st : BitVec 2) (imm : BitVec 13)
  /-- ANDI: R111. -/
  | andi (d a : GReg) (la : Bool) (st : BitVec 2) (imm : BitVec 13)
  /-- ORI: R111. -/
  | ori (d a : GReg) (la : Bool) (st : BitVec 2) (imm : BitVec 13)
  /-- XORI: R111. -/
  | xori (d a : GReg) (la : Bool) (st : BitVec 2) (imm : BitVec 13)
  /-- MOVI: R111. -/
  | movi (d : GReg) (st : BitVec 2) (imm : BitVec 13)
  /-- MULI: R111. -/
  | muli (d a : GReg) (la : Bool) (st : BitVec 2) (imm : BitVec 13)
  /-- CMPEQ: R112. -/
  | cmpeq (p : PReg) (comb : BitVec 2) (a b : GReg) (la lb : Bool) (st : BitVec 2)
  /-- CMPNE: R112. -/
  | cmpne (p : PReg) (comb : BitVec 2) (a b : GReg) (la lb : Bool) (st : BitVec 2)
  /-- CMPLT: R112. -/
  | cmplt (p : PReg) (comb : BitVec 2) (a b : GReg) (la lb : Bool) (st : BitVec 2)
  /-- CMPLE: R112. -/
  | cmple (p : PReg) (comb : BitVec 2) (a b : GReg) (la lb : Bool) (st : BitVec 2)
  /-- CMPGT: R112. -/
  | cmpgt (p : PReg) (comb : BitVec 2) (a b : GReg) (la lb : Bool) (st : BitVec 2)
  /-- CMPGE: R112. -/
  | cmpge (p : PReg) (comb : BitVec 2) (a b : GReg) (la lb : Bool) (st : BitVec 2)
  /-- CMPLTU: R112. -/
  | cmpltu (p : PReg) (comb : BitVec 2) (a b : GReg) (la lb : Bool) (st : BitVec 2)
  /-- CMPLEU: R112. -/
  | cmpleu (p : PReg) (comb : BitVec 2) (a b : GReg) (la lb : Bool) (st : BitVec 2)
  /-- CMPGTU: R112. -/
  | cmpgtu (p : PReg) (comb : BitVec 2) (a b : GReg) (la lb : Bool) (st : BitVec 2)
  /-- CMPGEU: R112. -/
  | cmpgeu (p : PReg) (comb : BitVec 2) (a b : GReg) (la lb : Bool) (st : BitVec 2)
  /-- CMPBITANY: R112. -/
  | cmpbitany (p : PReg) (comb : BitVec 2) (a b : GReg) (la lb : Bool) (st : BitVec 2)
  /-- CMPBITNONE: R112. -/
  | cmpbitnone (p : PReg) (comb : BitVec 2) (a b : GReg) (la lb : Bool) (st : BitVec 2)
  /-- CMPIEQ: R113. -/
  | cmpieq (p : PReg) (a : GReg) (la : Bool) (st : BitVec 2) (imm : BitVec 13)
  /-- CMPINE: R113. -/
  | cmpine (p : PReg) (a : GReg) (la : Bool) (st : BitVec 2) (imm : BitVec 13)
  /-- CMPILT: R113. -/
  | cmpilt (p : PReg) (a : GReg) (la : Bool) (st : BitVec 2) (imm : BitVec 13)
  /-- CMPILTU: R113. -/
  | cmpiltu (p : PReg) (a : GReg) (la : Bool) (st : BitVec 2) (imm : BitVec 13)
  /-- SHLI: R114. -/
  | shli (d a : GReg) (n : BitVec 5) (la : Bool) (st : BitVec 2)
  /-- SHRI: R114. -/
  | shri (d a : GReg) (n : BitVec 5) (la : Bool) (st : BitVec 2)
  /-- SHAI: R114. -/
  | shai (d a : GReg) (n : BitVec 5) (la : Bool) (st : BitVec 2)
  /-- ROTLI: R114. -/
  | rotli (d a : GReg) (n : BitVec 5) (la : Bool) (st : BitVec 2)
  /-- CLZ: R114. -/
  | clz (d a : GReg) (la : Bool) (st : BitVec 2)
  /-- CTZ: R114. -/
  | ctz (d a : GReg) (la : Bool) (st : BitVec 2)
  /-- POPC: R114. -/
  | popc (d a : GReg) (la : Bool) (st : BitVec 2)
  /-- BREV: R114. -/
  | brev (d a : GReg) (la : Bool) (st : BitVec 2)
  /-- BSWAP: R114. -/
  | bswap (d a : GReg) (la : Bool) (st : BitVec 2)
  /-- BFX: R115. -/
  | bfx (d a b : GReg) (la lb : Bool) (st : BitVec 2)
  /-- BFXS: R115. -/
  | bfxs (d a b : GReg) (la lb : Bool) (st : BitVec 2)
  /-- BFI: R115. -/
  | bfi (d a b : GReg) (la lb : Bool) (st : BitVec 2)
  /-- FSHL: R116. -/
  | fshl (d a b : GReg) (la lb : Bool) (st : BitVec 2) (c : BitVec 5)
  /-- FSHR: R116. -/
  | fshr (d a b : GReg) (la lb : Bool) (st : BitVec 2) (c : BitVec 5)
  /-- LUT3: R117. -/
  | lut3 (d a b : GReg) (la lb : Bool) (tbl : BitVec 8)
  /-- MUL: R118. -/
  | mul (d a b : GReg) (la lb : Bool) (st : BitVec 2)
  /-- MULHS: R118. -/
  | mulhs (d a b : GReg) (la lb : Bool) (st : BitVec 2)
  /-- MULHU: R118. -/
  | mulhu (d a b : GReg) (la lb : Bool) (st : BitVec 2)
  /-- DIVS: R119. -/
  | divs (d a b : GReg) (la lb : Bool) (st : BitVec 2)
  /-- DIVU: R119. -/
  | divu (d a b : GReg) (la lb : Bool) (st : BitVec 2)
  /-- REMS: R119. -/
  | rems (d a b : GReg) (la lb : Bool) (st : BitVec 2)
  /-- REMU: R119. -/
  | remu (d a b : GReg) (la lb : Bool) (st : BitVec 2)
  /-- FADD: R120. -/
  | fadd (d a b : GReg) (la lb : Bool) (st : BitVec 2)
  /-- FSUB: R120. -/
  | fsub (d a b : GReg) (la lb : Bool) (st : BitVec 2)
  /-- FMUL: R120. -/
  | fmul (d a b : GReg) (la lb : Bool) (st : BitVec 2)
  /-- FFMA: R120. -/
  | ffma (d a b : GReg) (la lb : Bool) (st : BitVec 2)
  /-- FMIN: R121. -/
  | fmin (d a b : GReg) (la lb : Bool) (st : BitVec 2)
  /-- FMAX: R121. -/
  | fmax (d a b : GReg) (la lb : Bool) (st : BitVec 2)
  /-- FABS: R121. -/
  | fabs (d a : GReg) (la : Bool) (st : BitVec 2)
  /-- FNEG: R121. -/
  | fneg (d a : GReg) (la : Bool) (st : BitVec 2)
  /-- FCVTIF: R123. -/
  | fcvtif (d a : GReg) (la : Bool) (st : BitVec 2)
  /-- FCVTFI: R123. -/
  | fcvtfi (d a : GReg) (la : Bool) (st : BitVec 2)
  /-- FSQRT: R122. -/
  | fsqrt (d a : GReg) (la : Bool) (st : BitVec 2)
  /-- FCMPEQ: R124. -/
  | fcmpeq (p : PReg) (a b : GReg) (la lb : Bool) (st : BitVec 2)
  /-- FCMPNE: R124. -/
  | fcmpne (p : PReg) (a b : GReg) (la lb : Bool) (st : BitVec 2)
  /-- FCMPLT: R124. -/
  | fcmplt (p : PReg) (a b : GReg) (la lb : Bool) (st : BitVec 2)
  /-- FCMPLE: R124. -/
  | fcmple (p : PReg) (a b : GReg) (la lb : Bool) (st : BitVec 2)
  /-- FCMPUN: R124. -/
  | fcmpun (p : PReg) (a b : GReg) (la lb : Bool) (st : BitVec 2)
  /-- ADDA: R125. -/
  | adda (d a : AReg) (b : GReg) (lb : Bool) (st : BitVec 2)
  /-- ADDAU: R125. -/
  | addau (d a : AReg) (b : GReg) (lb : Bool) (st : BitVec 2)
  /-- ADDAS: R125. -/
  | addas (d a : AReg) (b : GReg) (lb : Bool) (st : BitVec 2) (s : BitVec 3)
  /-- MOVGA: R125. -/
  | movga (d : AReg) (a b : GReg) (la lb : Bool) (st : BitVec 2)
  /-- MOVAG: R125. -/
  | movag (d : GReg) (a : AReg) (st : BitVec 2)
  /-- MOVAGH: R125. -/
  | movagh (d : GReg) (a : AReg) (st : BitVec 2)
  /-- SUBA: R125. -/
  | suba (d : GReg) (a b : AReg) (st : BitVec 2)
  /-- ADDAI: R126. -/
  | addai (d a : AReg) (st : BitVec 2) (imm : BitVec 13)
  /-- BR: R127. -/
  | br (p : PReg) (n : Bool) (st : BitVec 2) (off : BitVec 20)
  /-- CALL: R128. -/
  | call (p : PReg) (n : Bool) (st : BitVec 2) (off : BitVec 20)
  /-- JMPR: R129. -/
  | jmpr (a : GReg) (la : Bool) (st : BitVec 2)
  /-- CALLR: R129. -/
  | callr (a : GReg) (la : Bool) (st : BitVec 2)
  /-- RET: R130. -/
  | ret (st : BitVec 2)
  /-- RTT: R131. -/
  | rtt (st : BitVec 2)
  /-- LOOP: R133. -/
  | loop (a : GReg) (la : Bool) (st : BitVec 2) (imm : BitVec 13)
  /-- LDB: R143. -/
  | ldb (t : GReg) (x : AReg) (st : BitVec 2) (off : BitVec 12)
  /-- LDBS: R143. -/
  | ldbs (t : GReg) (x : AReg) (st : BitVec 2) (off : BitVec 12)
  /-- LDH: R143. -/
  | ldh (t : GReg) (x : AReg) (st : BitVec 2) (off : BitVec 12)
  /-- LDHS: R143. -/
  | ldhs (t : GReg) (x : AReg) (st : BitVec 2) (off : BitVec 12)
  /-- LDW: R143. -/
  | ldw (t : GReg) (x : AReg) (st : BitVec 2) (off : BitVec 12)
  /-- LDD: R143. -/
  | ldd (t : GReg) (x : AReg) (st : BitVec 2) (off : BitVec 12)
  /-- STB: R143. -/
  | stb (t : GReg) (x : AReg) (lt : Bool) (st : BitVec 2) (off : BitVec 12)
  /-- STH: R143. -/
  | sth (t : GReg) (x : AReg) (lt : Bool) (st : BitVec 2) (off : BitVec 12)
  /-- STW: R143. -/
  | stw (t : GReg) (x : AReg) (lt : Bool) (st : BitVec 2) (off : BitVec 12)
  /-- STD: R143. -/
  | std (t : GReg) (x : AReg) (lt : Bool) (st : BitVec 2) (off : BitVec 12)
  /-- LDA: R145. -/
  | lda (t x : AReg) (st : BitVec 2) (off : BitVec 12)
  /-- STA: R145. -/
  | sta (t x : AReg) (st : BitVec 2) (off : BitVec 12)
  /-- AMOADD: R148. -/
  | amoadd (d : GReg) (x : AReg) (b : GReg) (lb dw : Bool)
  /-- AMOAND: R148. -/
  | amoand (d : GReg) (x : AReg) (b : GReg) (lb dw : Bool)
  /-- AMOOR: R148. -/
  | amoor (d : GReg) (x : AReg) (b : GReg) (lb dw : Bool)
  /-- AMOXOR: R148. -/
  | amoxor (d : GReg) (x : AReg) (b : GReg) (lb dw : Bool)
  /-- AMOMINS: R148. -/
  | amomins (d : GReg) (x : AReg) (b : GReg) (lb dw : Bool)
  /-- AMOMAXS: R148. -/
  | amomaxs (d : GReg) (x : AReg) (b : GReg) (lb dw : Bool)
  /-- AMOMINU: R148. -/
  | amominu (d : GReg) (x : AReg) (b : GReg) (lb dw : Bool)
  /-- AMOMAXU: R148. -/
  | amomaxu (d : GReg) (x : AReg) (b : GReg) (lb dw : Bool)
  /-- AMOSWAP: R148. -/
  | amoswap (d : GReg) (x : AReg) (b : GReg) (lb dw : Bool)
  /-- AMOCAS: R148. -/
  | amocas (d : GReg) (x : AReg) (b : GReg) (la lb dw : Bool)
  /-- AMOFADD: R149. -/
  | amofadd (d : GReg) (x : AReg) (b : GReg) (lb : Bool)
  /-- DCAS: R151. -/
  | dcas (d : GReg) (x : AReg) (b : GReg) (la lb : Bool)
  /-- AMOV2: R151. -/
  | amov2 (d : GReg) (x : AReg) (b : GReg) (lb : Bool)
  /-- FENCE: R146. -/
  | fence (st : BitVec 2)
  /-- MOVS: R195. -/
  | movs (d : GReg) (idx : BitVec 10) (st : BitVec 2)
  /-- MOVSW: R195. -/
  | movsw (d : GReg) (idx : BitVec 10) (st : BitVec 2)
  /-- TRAP: R196. -/
  | trap (code : BitVec 10) (st : BitVec 2)
  /-- WSPILL: R197. -/
  | wspill (st : BitVec 2)
  /-- WFILL: R197. -/
  | wfill (st : BitVec 2)
  /-- WIDX: R198. -/
  | widx (d : GReg) (half f : BitVec 5) (st : BitVec 2)
  /-- VLD: R154. -/
  | vld (v : VReg) (x : AReg) (st : BitVec 2) (off : BitVec 12)
  /-- VLDH: R154. -/
  | vldh (v : VReg) (x : AReg) (st : BitVec 2) (off : BitVec 12)
  /-- VST: R154. -/
  | vst (v : VReg) (x : AReg) (lt : Bool) (st : BitVec 2) (off : BitVec 12)
  /-- VSTH: R154. -/
  | vsth (v : VReg) (x : AReg) (lt : Bool) (st : BitVec 2) (off : BitVec 12)
  /-- GATHW: R155. -/
  | gathw (v : VReg) (x : AReg) (vi : VReg) (k : KReg) (sc : BitVec 2)
  /-- SCATW: R155. -/
  | scatw (v : VReg) (x : AReg) (vi : VReg) (k : KReg) (sc : BitVec 2)
  /-- GATHH: R155. -/
  | gathh (v : VReg) (x : AReg) (vi : VReg) (k : KReg) (sc : BitVec 2)
  /-- SCATH: R155. -/
  | scath (v : VReg) (x : AReg) (vi : VReg) (k : KReg) (sc : BitVec 2)
  /-- VADD: R157. -/
  | vadd (w : BitVec 2) (vd va vb : VReg) (k : KReg) (la lb : Bool) (st : BitVec 2)
  /-- VSUB: R157. -/
  | vsub (w : BitVec 2) (vd va vb : VReg) (k : KReg) (la lb : Bool) (st : BitVec 2)
  /-- VMUL: R157. -/
  | vmul (w : BitVec 2) (vd va vb : VReg) (k : KReg) (la lb : Bool) (st : BitVec 2)
  /-- VMULHS: R157. -/
  | vmulhs (w : BitVec 2) (vd va vb : VReg) (k : KReg) (la lb : Bool) (st : BitVec 2)
  /-- VAND: R157. -/
  | vand (w : BitVec 2) (vd va vb : VReg) (k : KReg) (la lb : Bool) (st : BitVec 2)
  /-- VOR: R157. -/
  | vor (w : BitVec 2) (vd va vb : VReg) (k : KReg) (la lb : Bool) (st : BitVec 2)
  /-- VXOR: R157. -/
  | vxor (w : BitVec 2) (vd va vb : VReg) (k : KReg) (la lb : Bool) (st : BitVec 2)
  /-- VANDN: R157. -/
  | vandn (w : BitVec 2) (vd va vb : VReg) (k : KReg) (la lb : Bool) (st : BitVec 2)
  /-- VSHL: R157. -/
  | vshl (w : BitVec 2) (vd va vb : VReg) (k : KReg) (la lb : Bool) (st : BitVec 2)
  /-- VSHR: R157. -/
  | vshr (w : BitVec 2) (vd va vb : VReg) (k : KReg) (la lb : Bool) (st : BitVec 2)
  /-- VSHA: R157. -/
  | vsha (w : BitVec 2) (vd va vb : VReg) (k : KReg) (la lb : Bool) (st : BitVec 2)
  /-- VMINS: R157. -/
  | vmins (w : BitVec 2) (vd va vb : VReg) (k : KReg) (la lb : Bool) (st : BitVec 2)
  /-- VMAXS: R157. -/
  | vmaxs (w : BitVec 2) (vd va vb : VReg) (k : KReg) (la lb : Bool) (st : BitVec 2)
  /-- VMINU: R157. -/
  | vminu (w : BitVec 2) (vd va vb : VReg) (k : KReg) (la lb : Bool) (st : BitVec 2)
  /-- VMAXU: R157. -/
  | vmaxu (w : BitVec 2) (vd va vb : VReg) (k : KReg) (la lb : Bool) (st : BitVec 2)
  /-- VADDS: R157. -/
  | vadds (w : BitVec 2) (vd va vb : VReg) (k : KReg) (la lb : Bool) (st : BitVec 2)
  /-- VSUBS: R157. -/
  | vsubs (w : BitVec 2) (vd va vb : VReg) (k : KReg) (la lb : Bool) (st : BitVec 2)
  /-- VABS: R157. -/
  | vabs (w : BitVec 2) (vd va : VReg) (k : KReg) (la : Bool) (st : BitVec 2)
  /-- VDOT4: R157. -/
  | vdot4 (vd va vb : VReg) (k : KReg) (la lb : Bool) (st : BitVec 2)
  /-- VFADD: R158. -/
  | vfadd (w : BitVec 2) (vd va vb : VReg) (k : KReg) (la lb : Bool) (st : BitVec 2)
  /-- VFSUB: R158. -/
  | vfsub (w : BitVec 2) (vd va vb : VReg) (k : KReg) (la lb : Bool) (st : BitVec 2)
  /-- VFMUL: R158. -/
  | vfmul (w : BitVec 2) (vd va vb : VReg) (k : KReg) (la lb : Bool) (st : BitVec 2)
  /-- VFFMA: R158. -/
  | vffma (w : BitVec 2) (vd va vb : VReg) (k : KReg) (la lb : Bool) (st : BitVec 2)
  /-- VFFMS: R158. -/
  | vffms (w : BitVec 2) (vd va vb : VReg) (k : KReg) (la lb : Bool) (st : BitVec 2)
  /-- VFMIN: R158. -/
  | vfmin (w : BitVec 2) (vd va vb : VReg) (k : KReg) (la lb : Bool) (st : BitVec 2)
  /-- VFMAX: R158. -/
  | vfmax (w : BitVec 2) (vd va vb : VReg) (k : KReg) (la lb : Bool) (st : BitVec 2)
  /-- VFABS: R158. -/
  | vfabs (w : BitVec 2) (vd va : VReg) (k : KReg) (la : Bool) (st : BitVec 2)
  /-- VFNEG: R158. -/
  | vfneg (w : BitVec 2) (vd va : VReg) (k : KReg) (la : Bool) (st : BitVec 2)
  /-- VFDIV: R158. -/
  | vfdiv (w : BitVec 2) (vd va vb : VReg) (k : KReg) (la lb : Bool) (st : BitVec 2)
  /-- VFSQRT: R158. -/
  | vfsqrt (vd va : VReg) (k : KReg) (la : Bool) (st : BitVec 2)
  /-- VCVTF32F16: R159. -/
  | vcvtf32f16 (hi : Bool) (vd va : VReg) (k : KReg) (la : Bool) (st : BitVec 2)
  /-- VCVTF16F32: R159. -/
  | vcvtf16f32 (hi : Bool) (vd va : VReg) (k : KReg) (la : Bool) (st : BitVec 2)
  /-- VCVTF32BF: R159. -/
  | vcvtf32bf (hi : Bool) (vd va : VReg) (k : KReg) (la : Bool) (st : BitVec 2)
  /-- VCVTBFF32: R159. -/
  | vcvtbff32 (hi : Bool) (vd va : VReg) (k : KReg) (la : Bool) (st : BitVec 2)
  /-- VCVTF32F8A: R159. -/
  | vcvtf32f8a (hi : Bool) (vd va : VReg) (k : KReg) (la : Bool) (st : BitVec 2)
  /-- VCVTF8AF32: R159. -/
  | vcvtf8af32 (hi : Bool) (vd va : VReg) (k : KReg) (la : Bool) (st : BitVec 2)
  /-- VCVTF32F8B: R159. -/
  | vcvtf32f8b (hi : Bool) (vd va : VReg) (k : KReg) (la : Bool) (st : BitVec 2)
  /-- VCVTF8BF32: R159. -/
  | vcvtf8bf32 (hi : Bool) (vd va : VReg) (k : KReg) (la : Bool) (st : BitVec 2)
  /-- VCVTF32I32: R159. -/
  | vcvtf32i32 (vd va : VReg) (k : KReg) (la : Bool) (st : BitVec 2)
  /-- VCVTI32F32: R159. -/
  | vcvti32f32 (vd va : VReg) (k : KReg) (la : Bool) (st : BitVec 2)
  /-- VCVTI32I16: R159. -/
  | vcvti32i16 (hi : Bool) (vd va : VReg) (k : KReg) (la : Bool) (st : BitVec 2)
  /-- VCVTI32I8: R159. -/
  | vcvti32i8 (hi : Bool) (vd va : VReg) (k : KReg) (la : Bool) (st : BitVec 2)
  /-- VCVTI8I32: R159. -/
  | vcvti8i32 (hi : Bool) (vd va : VReg) (k : KReg) (la : Bool) (st : BitVec 2)
  /-- VBCAST: R162. -/
  | vbcast (v : VReg) (g : GReg)
  /-- VINS: R162. -/
  | vins (v : VReg) (g : GReg) (n : BitVec 6)
  /-- VEXT: R162. -/
  | vext (g : GReg) (vb : VReg) (n : BitVec 6)
  /-- VSHUF: R162. -/
  | vshuf (v vb : VReg)
  /-- VROT: R162. -/
  | vrot (v vb : VReg) (n : BitVec 6)
  /-- VREDADD: R162. -/
  | vredadd (g : GReg) (vb : VReg)
  /-- VREDFADD: R162. -/
  | vredfadd (g : GReg) (vb : VReg)
  /-- VREDMAX: R162. -/
  | vredmax (g : GReg) (vb : VReg)
  /-- VREDMIN: R162. -/
  | vredmin (g : GReg) (vb : VReg)
  /-- VSCAN: R162. -/
  | vscan (v vb : VReg)
  /-- VPOPK: R162. -/
  | vpopk (g : GReg) (kn : BitVec 6)
  /-- VMOVK: R162. -/
  | vmovk (kn : BitVec 6) (g : GReg)
  /-- VKMOV: R162. -/
  | vkmov (g : GReg) (kn : BitVec 6)
  /-- VCMPEQ: R160. -/
  | vcmpeq (ty : BitVec 2) (kd : KReg) (va vb : VReg) (k : KReg) (la lb : Bool) (st : BitVec 2)
  /-- VCMPNE: R160. -/
  | vcmpne (ty : BitVec 2) (kd : KReg) (va vb : VReg) (k : KReg) (la lb : Bool) (st : BitVec 2)
  /-- VCMPLT: R160. -/
  | vcmplt (ty : BitVec 2) (kd : KReg) (va vb : VReg) (k : KReg) (la lb : Bool) (st : BitVec 2)
  /-- VCMPLE: R160. -/
  | vcmple (ty : BitVec 2) (kd : KReg) (va vb : VReg) (k : KReg) (la lb : Bool) (st : BitVec 2)
  /-- VCMPGT: R160. -/
  | vcmpgt (ty : BitVec 2) (kd : KReg) (va vb : VReg) (k : KReg) (la lb : Bool) (st : BitVec 2)
  /-- VCMPGE: R160. -/
  | vcmpge (ty : BitVec 2) (kd : KReg) (va vb : VReg) (k : KReg) (la lb : Bool) (st : BitVec 2)
  /-- VCMPUN: R160. -/
  | vcmpun (kd : KReg) (va vb : VReg) (k : KReg) (la lb : Bool) (st : BitVec 2)
  /-- VLUT3: R161. -/
  | vlut3 (vd va vb : VReg) (k : KReg) (la lb : Bool) (tbl : BitVec 8)
  /-- OFFER: R168. -/
  | offer (d : GReg) (a : AReg) (persist : Bool) (st : BitVec 2)
  /-- EVTEST: R171. -/
  | evtest (d a : GReg) (la : Bool) (st : BitVec 2)
  /-- EVWAIT: R171. -/
  | evwait (d a : GReg) (la : Bool) (st : BitVec 2)
  /-- PAUSE: R172. -/
  | pause (n : BitVec 5) (st : BitVec 2)
  /-- DLR: R174. -/
  | dlr (d : GReg) (n : BitVec 3) (st : BitVec 2)
  /-- DLW: R174. -/
  | dlw (n : BitVec 3) (a : GReg) (la : Bool) (st : BitVec 2)
  /-- RETIRE: R173. -/
  | retire (st : BitVec 2)
  /-- MCLAIM: R181. -/
  | mclaim (d a : GReg) (la : Bool) (st : BitVec 2)
  /-- MREL: R181. -/
  | mrel (a : GReg) (la : Bool) (st : BitVec 2)
  /-- MMA: R182. -/
  | mma (d a b : GReg) (la lb : Bool) (st : BitVec 2)
  /-- MZERO: R185. -/
  | mzero (d a : GReg) (la : Bool) (st : BitVec 2)
  /-- MDRAIN: R186. -/
  | mdrain (d a b : GReg) (la lb : Bool) (st : BitVec 2)
  /-- COPY: R188. -/
  | copy (a : AReg) (st : BitVec 2)
  /-- COPYG: R188. -/
  | copyg (a : AReg) (st : BitVec 2)
  /-- COPYOP: R189. -/
  | copyop (a : AReg) (st : BitVec 2)
  /-- CONV: R192. -/
  | conv (a : AReg) (st : BitVec 2)
  /-- PLANES: R192. -/
  | planes (a : AReg) (st : BitVec 2)
  /-- SPARSIFY: R192. -/
  | sparsify (a : AReg) (st : BitVec 2)
  /-- SCALEC: R193. -/
  | scalec (a : AReg) (st : BitVec 2)
  /-- TIDSET: R194. -/
  | tidset (a : GReg) (b : AReg) (la : Bool) (st : BitVec 2)
  /-- TIDGET: R194. -/
  | tidget (a : GReg) (b : AReg) (la : Bool) (st : BitVec 2)
  /-- TIDCLR: R194. -/
  | tidclr (a : GReg) (la : Bool) (st : BitVec 2)
  /-- GROW: R199. -/
  | grow (d a : GReg) (la : Bool) (st : BitVec 2)
  /-- LAUNCH: R200. -/
  | launch (d : GReg) (a : AReg) (st : BitVec 2)
  /-- RESTART: R309. -/
  | restart (d : GReg) (a : AReg) (st : BitVec 2)
  /-- SEAL: R354. -/
  | seal (a : GReg) (la : Bool) (st : BitVec 2)
  /-- STALL: R82. -/
  | stall (n : BitVec 8)
  /-- WIDE: R82. -/
  | wide (hi : BitVec 19)
  /-- MOD: R82. -/
  | mod (rnd : BitVec 3) (sat : Bool)
  /-- CRIT: R362. -/
  | crit
  /-- PAIR_LOW_READ: R31: MOVS of the low register of a pair. -/
  | pairLowRead (d : GReg) (idx : BitVec 10) (st : BitVec 2)
  /-- NCTL_WRITE: R33: MOVSW of NCTL. -/
  | nctlWrite (d : GReg) (st : BitVec 2)
  /-- WPOS_WRITE: R35: MOVSW of WPOS. -/
  | wposWrite (d : GReg) (st : BitVec 2)
  /-- NSTAT_ACCESS: R50: MOVS or MOVSW of NSTAT. -/
  | nstatAccess (write : Bool) (d : GReg) (st : BitVec 2)
  /-- CMAP_WRITE: R310: MOVSW of CMAP. -/
  | cmapWrite (d : GReg) (st : BitVec 2)
  /-- XINVH_WRITE: R314: MOVSW of XINVH. -/
  | xinvhWrite (d : GReg) (st : BitVec 2)
  /-- RQBASE_WRITE: R349: MOVSW of RQBASE. -/
  | rqbaseWrite (d : GReg) (st : BitVec 2)
  /-- RQTAIL_WRITE: R349: MOVSW of RQTAIL. -/
  | rqtailWrite (d : GReg) (st : BitVec 2)
  /-- RQOVF_WRITE: R349: MOVSW of RQOVF. -/
  | rqovfWrite (d : GReg) (st : BitVec 2)
  /-- CELLST_SEAL: R349: MOVSW of CELLST with SEALED 1. -/
  | cellstSeal (d : GReg) (st : BitVec 2)
  /-- CELLST_UNSEAL: R358: MOVSW of CELLST with SEALED 0. -/
  | cellstUnseal (d : GReg) (st : BitVec 2)
  /-- ISLST_WRITE: R375: MOVSW of ISLST. -/
  | islstWrite (d : GReg) (st : BitVec 2)
  /-- ALCMD_COMMIT: R374: MOVSW of ALCMD. -/
  | alcmdCommit (d : GReg) (st : BitVec 2)
  /-- REGISTER_WRITE: R30: MOVSW of a register without behaviour of its own. -/
  | registerWrite (d : GReg) (idx : BitVec 10) (st : BitVec 2)
  /-- WORD_NOT_AN_INSTRUCTION: R67: a fetched word that fails check 3. -/
  | wordNotAnInstruction (w : Word)
  /-- NODE_SELECT: R14 (parameters: pcell). -/
  | nodeSelect
  /-- VALUE_ARRIVAL: R28: entry `i` of the results owed to that node arrives (parameters: pcell, slot, i). -/
  | valueArrival
  /-- ACCESS_PERFORMED: R247: access `i` of those in flight is performed at its home (parameters: i). -/
  | accessPerformed
  /-- COMMAND_ACCEPTANCE: R175 (parameters: site, eng). -/
  | commandAcceptance
  /-- COMMAND_EXECUTION: R177 (parameters: site, eng). -/
  | commandExecution
  /-- COMMAND_COMPLETION: R178 (parameters: site, eng). -/
  | commandCompletion
  /-- GANG_START: R268 (parameters: inst). -/
  | gangStart
  /-- GANG_STEP_BEGIN: R268 (parameters: site). -/
  | gangStepBegin
  /-- FAST_COMMIT: R228 (parameters: inst, ev). -/
  | fastCommit
  /-- SETTLING_ROUND: R230 (parameters: inst). -/
  | settlingRound
  /-- INSTANCE_END: R233 (parameters: inst). -/
  | instanceEnd
  /-- NODE_RESUME: R234 (parameters: pcell, slot). -/
  | nodeResume
  /-- INSTANT_OVERRUN: R239 (parameters: inst). -/
  | instantOverrun
  /-- DISPATCH: R295. -/
  | dispatch
  /-- HOST_REQUEST_LAUNCH: R294 (parameters: slot). -/
  | hostRequestLaunch
  /-- DRAIN_REQUEST: R300 (parameters: slot). -/
  | drainRequest
  /-- HOST_REQUEST_RESTORE: R294 (parameters: slot). -/
  | hostRequestRestore
  /-- HOST_REQUEST_DISCARD: R294 (parameters: slot). -/
  | hostRequestDiscard
  /-- DRAIN_LIMIT_EXPIRY: R300 (parameters: launch). -/
  | drainLimitExpiry
  /-- FORCE_LIMIT_EXPIRY: R300 (parameters: launch). -/
  | forceLimitExpiry
  /-- CLEAN_SAVE: R301 (parameters: inst). -/
  | cleanSave
  /-- FORCED_SAVE: R302 (parameters: inst). -/
  | forcedSave
  /-- FORCED_SAVE_TIMEOUT: R303 (parameters: inst). -/
  | forcedSaveTimeout
  /-- PAGE_SERVICE_RESUME: R315: the reeve writes the table entry at tier-1 address `entry` and resumes the node (cell `unit`, `slot`) or the engine `slot` of site `unit` (parameters: engine, unit, slot, entry, value). -/
  | pageServiceResume
  /-- HELD_RESUME: R345 (parameters: pcell, slot). -/
  | heldResume
  /-- HELD_RETIRE: R346 (parameters: pcell, slot). -/
  | heldRetire
  /-- INVALIDATION_COMPLETE: R314. -/
  | invalidationComplete
  /-- SOFFER_WRITE: R320 (parameters: slot, value). -/
  | sofferWrite
  /-- HOST_MEM_ACCESS: R318, R323: to BAR0 when `bar`, else by decoder 0 (tier-1) or, when `decoder`, 1 (tier-2); `data` gives the length, and the bytes of a write (parameters: bar, decoder, write, off, data). -/
  | hostMemAccess
  /-- REPORT_WRITE: R349 (parameters: die). -/
  | reportWrite
  /-- REGISTER_PARITY_ERROR: R352 (parameters: pcell). -/
  | registerParityError
  /-- SEAL_FORCELIM_EXPIRY: R355 (parameters: inst). -/
  | sealForcelimExpiry
  /-- PATROL_SCRUB: R350: a scrub of the storage of the cell corrects `n` words (parameters: pcell, n). -/
  | patrolScrub
  /-- TWIN_HASH_COMPARE: R360 (parameters: inst, lcell). -/
  | twinHashCompare
  /-- TWIN_MATCH_TIMEOUT: R360 (parameters: inst, lcell). -/
  | twinMatchTimeout
  /-- REMOTE_TIMEOUT: R364: access `i` of those in flight is never answered (parameters: i). -/
  | remoteTimeout
  /-- HOST_ABORT: R365. -/
  | hostAbort
  /-- SPARE_PROMOTED: R363 (parameters: log). -/
  | sparePromoted
  /-- WEAR_MONITOR_READ: R368: the converted readings, in micro-wear-units (parameters: pcell, bti, em). -/
  | wearMonitorRead
  /-- BUDGET_PERIOD: R277. -/
  | budgetPeriod
  /-- THERMAL_DERATE: R371 (parameters: isl, tj). -/
  | thermalDerate
  /-- THERMAL_CAP_RISE: R371 (parameters: isl, tj). -/
  | thermalCapRise
  /-- THERMAL_SHUTDOWN: R371 (parameters: isl). -/
  | thermalShutdown
  /-- ALMANAC_COMMIT: R374. -/
  | almanacCommit
  /-- ALMANAC_COMMIT_DONE: R374 (parameters: ok). -/
  | almanacCommitDone
  /-- POWER_ON: R376: `data` gives the GiB of tier-2 memory at each memory port, two bytes each (parameters: data). -/
  | powerOn
  /-- POWER_DOWN_REQUEST: R374. -/
  | powerDownRequest
  /-- DATA_FRAME: R332 (parameters: port, first, last, chan, seq, moff, data, tag). -/
  | dataFrame
  /-- ACK_FRAME: R331: `ctl` is the count in the nonce of a control frame (R330) (parameters: port, seq, ctl, tag). -/
  | ackFrame
  /-- NAK_FRAME: R331 (parameters: port, seq, ctl, tag). -/
  | nakFrame
  /-- ALLOW_FRAME: R333 (parameters: port, chan, ctl, data, tag). -/
  | allowFrame
  /-- KEYX_FRAME: R378 (parameters: port, data). -/
  | keyxFrame
  /-- FRAME_SEND: R331 (parameters: port). -/
  | frameSend
  /-- RETRANSMIT_TIMEOUT: R331 (parameters: port). -/
  | retransmitTimeout
  /-- LINK_PEER_LOST: R334 (parameters: port). -/
  | linkPeerLost
  /-- SPDM_REQUEST: R377: `code` is the request, `arg` a measurement index or a slot (parameters: code, arg). -/
  | spdmRequest
  /-- SNOOP: R325 (parameters: line). -/
  | snoop
  /-- POWER_LOSS: R374. -/
  | powerLoss
  /-- HOST_LINK_UP: R317. -/
  | hostLinkUp
  /-- PORT_RETRAINED: R334 (parameters: port). -/
  | portRetrained
  /-- ACK_INTERVAL_EXPIRY: R332 (parameters: port). -/
  | ackIntervalExpiry
  /-- OTHER_ETHERTYPE_FRAME: R328 (parameters: port). -/
  | otherEthertypeFrame
  /-- ISLAND_CLOCK_STALL_END: R369 (parameters: isl). -/
  | islandClockStallEnd
  deriving DecidableEq, Repr

end Sys2Proof
end

