-- ==== Sys2Proof/Machine/State.lean ====
section
/-! DEFINITION. The state of the machine as plain data: cells and their nodes, memories and poison, accesses in flight,
crofts and their engines, domain instances and the Sheaf, launches and saved contexts, the package's registers, the host
port, the Fjargeton ports and the Almanac; the reasons a step can stop; the state after reset. -/

namespace Sys2Proof.Machine

/-- Values by number, kept in rising order of the number; `Store` of Machine/Ops.lean reads an unlisted number as a default
and lists no default. Register files, memory and other sparse arrays. -/
abbrev Store (α : Type) := List (Nat × α)
/-- Records by number: cells, nodes, crofts, instances. -/
abbrev Tab (α : Type) := List (Nat × α)

/-! ### Causes and traps (R345, R346) -/

/-- The causes of the 6-bit cause table (R346). -/
inductive Cause where
  | none | illegalOpcode | illegalEncoding | hintSequence | stallUndersized | windowOverflow | windowUnderflow | loopNest
  | fetchFault | misaligned | addressSpace | remoteOutsideDomain | pageNotPresent | pageProtection | amoAlias | divZero
  | fpInvalid | fpDivzero | fpOverflow | fpUnderflow | fpInexact | vectorNoContext | engineRole | engineDescriptor
  | slotNotOwned | tidInvalid | eventChoiceInvalid | eventNotParticipant | eventSecondOffer | eventLength
  | causalityCycle | instantOverrun | privileged | software | breakpoint | watchpoint | singleStep | doubleTrap
  | poisonConsumed | poisonFetch | enginePoison | correctedThreshold | tripleVoteDisagree | twinMismatch | cellSealed
  | staleNodeDelivery | spillAreaFault | patchRange | growLimit | drainRequest | forcedSave | translationWalkError
  | hostAbort | domainKill | linkPeerLost | linkAuthFail | linkRetryExhausted | compressOverflow | remoteTimeout
  | thermalDerate | wearDerate | wearDrain | wearRetire | sparePromoted
  deriving DecidableEq, Repr

/-- A trap as an instruction raises it: the cause, the 16 detail bits of TCAUSE [31:16], and TADDR. -/
structure Trap where
  cause : Cause
  detail : BitVec 16 := 0
  taddr : Addr := 0
  deriving DecidableEq, Repr

/-- A report, the record of R347. -/
structure Report where
  cause : Cause
  held : Bool := false
  twin : Bool := false
  pcell : Nat := 0xFFFF
  nid : Word := 0
  tcause : Word := 0
  tip : Word := 0
  taddr : Addr := 0
  group : Option Nat := .none
  deriving DecidableEq, Repr

/-! ### A node (R11 to R38) -/

/-- The node states of R12. -/
inductive NodeSt where
  | idle | ready | running | offering | waiting | paused | sleeping | trapped | retired | sealed
  deriving DecidableEq, Repr

/-- A register that last use can release: its value (0 while released) and its liveness (R22). -/
structure RegCell where
  val : Word := 0
  live : Bool := true
  deriving DecidableEq, Repr

/-- A vector register with its liveness. -/
structure VCell where
  val : Vec := 0
  live : Bool := true
  deriving DecidableEq, Repr

/-- A vector context: v0 to v15 and k1 to k7 (R24, log entry 67). -/
structure VCtx where
  v : Store VCell := []
  k : Store (BitVec 16) := []
  deriving DecidableEq, Repr

/-- A register as an instruction names it (R69). -/
inductive RegName where
  | g (n : GReg) | a (n : AReg) | p (n : PReg) | v (n : VReg) | k (n : KReg)
  deriving DecidableEq, Repr

/-- The storage a register name reaches: g1 to g15, a word of the node's region, a trap-bank word, and the other files
(R17, R18, R20). -/
inductive Loc where
  | g (n : Nat) | region (w : Nat) | bank (n : Nat) | a (n : Nat) | p (n : Nat) | v (n : Nat) | k (n : Nat)
  deriving DecidableEq, Repr

/-- A value on its way to a register. A vector write replaces the bits of `mask` alone, and so does a lane-mask write. -/
inductive RegVal where
  | word (w : Word) | addr (a : Addr) | bit (b : Bool) | vec (v mask : Vec) | lanes (k sel : BitVec 16)
  deriving DecidableEq, Repr

/-- One register write. -/
structure RegWrite where
  loc : Loc
  val : RegVal
  deriving DecidableEq, Repr

/-- A fixed-latency result that lands at a cycle (R27). -/
structure FixedWrite where
  land : Nat
  write : RegWrite
  deriving DecidableEq, Repr

/-- How the response of an access becomes register writes. -/
inductive OwedForm where
  /-- the value is known when the instruction issues: divisions, FSQRT, MOVS, TIDGET and the like -/
  | value (writes : List RegWrite)
  /-- a load of `size` bytes into a g register, sign-extended or not (R143) -/
  | load (loc : Loc) (size : Nat) (signed : Bool)
  /-- a doubleword into a register pair (R143, R148) -/
  | pair (lo hi : Loc)
  /-- a doubleword into an address register (R145) -/
  | areg (n : Nat)
  /-- a vector load of 64 or 32 bytes (R154) -/
  | vec (n : Nat) (half : Bool)
  /-- a gather of words or halves: part i is lane i (R155) -/
  | gather (n : Nat) (half : Bool)
  /-- DCAS: part 0 is the old first word, part 1 the old second word (R151) -/
  | two (l1 l2 : Loc)
  /-- AMOV2: part 1 is returned (R151) -/
  | second (loc : Loc)
  /-- a response that writes no register: an access whose result is g0 (R142) -/
  | discard
  deriving DecidableEq, Repr

/-- A part of a response: the bytes read, as a little-endian number, and the trap of a poisoned location (R141). -/
structure Part where
  n : Nat
  data : Nat
  poison : Option Trap := .none
  /-- the access wrote its location (a CAS that fails does not, R148) -/
  wrote : Bool := false
  deriving DecidableEq, Repr

/-- An interlocked result that the node is owed (R28). -/
structure Owed where
  tok : Nat
  dests : List Loc
  form : OwedForm
  need : Nat := 0
  got : List Part := []
  /-- exceptions set when the result arrives (R50) -/
  flags : BitVec 5 := 0
  /-- the result of FSQRT, VFP DIV or SQRT, VREDFADD, for which an access of NSTAT waits (R50) -/
  fp : Bool := false
  /-- a watchpoint of kind store that fires if the compare-and-swap writes (R37, R148) -/
  watch : Option Trap := .none
  /-- one of the three executions of a CRIT follower was outvoted: the vote, taken when the result arrives, counts it (R362) -/
  outvoted : Bool := false
  deriving DecidableEq, Repr

/-- A captured entry of a choice record (R164). -/
structure OfferEntry where
  ev : Nat
  role : Nat
  cbuf : Nat
  rbuf : Nat
  len : Nat
  deriving DecidableEq, Repr

/-- The hints of the run that the node has executed and whose follower comes next (R81, R82), and what an OFFER
that waits in its FENCE has captured (R168). -/
structure Hints where
  start : Option Word := .none
  stall : Nat := 0
  wide : Option (BitVec 19) := .none
  mod : Option (BitVec 3 × Bool) := .none
  crit : Bool := false
  offer : Option (List OfferEntry) := .none
  deriving DecidableEq, Repr

/-- A captured offer (R168). -/
structure Offer where
  recAddr : Nat
  persist : Bool
  entries : List OfferEntry
  d : GReg
  st : Nat
  deriving DecidableEq, Repr

/-- The EVWAIT a node waits in (R171). -/
structure Wait where
  ev : Nat
  d : GReg
  /-- the register that the EVWAIT releases when it completes (R22) -/
  rel : List Loc := []
  deriving DecidableEq, Repr

/-- What a node slot holds (R11 to R38, R306). -/
structure Node where
  stt : NodeSt := .idle
  gen : BitVec 16 := 0
  ordinal : Nat := 0
  prio : Nat := 0
  notv : Bool := false
  base : Nat := 0
  size : Nat := 48
  g : Store RegCell := []
  region : Store RegCell := []
  bank : Store RegCell := []
  a : Store Addr := []
  p : Store Bool := []
  dPend : Store Word := []
  dComm : Store Word := []
  dWritten : List Nat := []
  vec : Option VCtx := .none
  nctl : Word := 0
  flags : BitVec 5 := 0
  inTrap : Bool := false
  tcause : Word := 0
  tip : Word := 0
  taddr : Addr := 0
  tvec : Word := 0
  wstk : Word := 0
  wlim : Word := 0
  cur : Nat := 0
  res : Nat := 1
  spilled : Nat := 0
  loopc : Word := 0
  loops : Word := 0
  loope : Word := 0
  tloopc : Word := 0
  tloops : Word := 0
  tloope : Word := 0
  param : Word := 0
  bka : Store Word := []
  wpa : Store Word := []
  dbgc : Word := 0
  /-- high registers captured by a read of their low register (R31), by index -/
  high : Store (Option Word) := []
  pc : Word := 0
  hints : Hints := {}
  issueAt : Nat := 0
  fixed : List FixedWrite := []
  owed : List Owed := []
  tok : Nat := 0
  /-- traps to take at the next instruction boundaries, in the order of their arrival (R37, R141) -/
  pend : List Trap := []
  /-- the offset at which a breakpoint does not fire again, after RTT (R37) -/
  bkSkip : Option Word := .none
  /-- the node's reaction has begun and is suspended or resumed, not new (R223) -/
  begun : Bool := false
  /-- the events of the node's one offer of this instant (R167, R223) -/
  made : Option (List Nat) := .none
  /-- how that offer resolved: present on an event, or otherwise (R169, R229) -/
  settled : Option (Option Nat) := .none
  /-- the offer in which the node stands -/
  offer : Option Offer := .none
  wait : Option Wait := .none
  /-- the result of a resolved offer or wait, not yet delivered to g[d] (R168, R171), and the cycle before which the node
  does not resume (R234) -/
  resolved : Option Word := .none
  delay : Nat := 0
  pauseN : Nat := 0
  sleep : Nat := 0
  /-- GROWs executed by the node in this instance (R199) -/
  grows : Nat := 0
  /-- the trap for which a TRAPPED node is held -/
  heldFor : Option Trap := .none
  /-- INSTANT_OVERRUN to take on selection (R239) -/
  overrun : Bool := false
  deriving DecidableEq, Repr

/-! ### Cells -/

/-- Ageing of a cell (R368, R370, R373). -/
structure Wear where
  wb : Nat := 0
  we : Nat := 0
  /-- 0 ACTIVE, 1 DERATED, 2 DRAINED, 3 RETIRED -/
  state : Nat := 0
  cap : Nat := 7
  seals : Nat := 0
  setot : Nat := 0
  calb : Word := 0
  cale : Word := 0
  /-- microseconds in service -/
  micros : Nat := 0
  deriving DecidableEq, Repr

/-- A soft error that meets a CRIT follower: the bits that it flips in the value and in the exception set of each of the
three executions (R362). -/
structure SoftError where
  val : Addr × Addr × Addr := (0, 0, 0)
  exc : BitVec 5 × BitVec 5 × BitVec 5 := (0, 0, 0)
  deriving DecidableEq, Repr

/-- A cell, compute or reeve (R11, R14, R349). -/
structure Cell where
  cyc : Nat := 0
  inst : Option Nat := .none
  lcell : Nat := 0
  codeOff : Nat := 0
  codeLen : Nat := 0
  /-- the launch whose patched code the code region holds (R297) -/
  codeTag : Option Nat := .none
  running : Option Nat := .none
  rr : Store Nat := []
  nodes : Tab Node := []
  isSealed : Bool := false
  regErr : Bool := false
  secnt : Nat := 0
  /-- CORRECTED_THRESHOLD reports since the last Almanac commit (R352); seals since power-on (R358) -/
  thresholds : Nat := 0
  sealsOn : Nat := 0
  /-- stores and scatter lanes discarded at the station of the sealed cell (R141) -/
  discarded : Nat := 0
  wear : Wear := {}
  /-- the soft errors that meet the next CRIT followers (R362) -/
  soft : List SoftError := []
  deriving DecidableEq, Repr

/-! ### Accesses in flight (R246 to R250) -/

/-- A source of accesses (R246). -/
inductive Src where
  | node (pcell slot : Nat) (gen : BitVec 16)
  | engine (site eng : Nat)
  | host
  deriving DecidableEq, Repr

/-- A home (R243 to R245). -/
inductive Home where
  | cell (pcell : Nat) | bin (b : Nat) | chan (granule : Nat) | bridge
  deriving DecidableEq, Repr

/-- What an access does at its home. -/
inductive AccOp where
  | load
  | store (data : Nat)
  /-- an atomic by its function code, with operand and expected value (R148) -/
  | amo (fn : Nat) (v e : Nat)
  /-- DCAS and AMOV2, whose second location is `key2` (R151) -/
  | dcas (v1 v2 e1 e2 : Nat)
  | amov2 (v : Nat)
  deriving DecidableEq, Repr

/-- Where a response goes: the part of an owed result of a node of a given generation. -/
structure Ret where
  pcell : Nat
  slot : Nat
  gen : BitVec 16
  tok : Nat
  part : Nat
  deriving DecidableEq, Repr

/-- An access that is issued and not yet performed. `key` is its place in the one memory of State; `win`, for an address of
a granary window, is the instance and the window offset, from which the place follows when the access is performed
(shadow pairs flip, R212). -/
structure Access where
  src : Src
  /-- in twin mode the node of the second copy for which the one access is performed too (R261) -/
  src2 : Option Src := .none
  home : Home
  op : AccOp
  key : Nat
  size : Nat
  va : Addr := 0
  detail : BitVec 16 := 0
  win : Option (Nat × Nat) := .none
  home2 : Option Home := .none
  key2 : Nat := 0
  win2 : Option (Nat × Nat) := .none
  va2 : Addr := 0
  /-- in twin mode, the same place in the cell of the twin copy (R360) -/
  mirror : Option Nat := .none
  mirror2 : Option Nat := .none
  rets : List Ret := []
  /-- a host page with SYSATOM (R150) -/
  sysatom : Bool := false
  /-- what the host bridge has read for an atomic and not yet written back (R150, R325) -/
  read : Option (Nat × Option Trap) := .none
  /-- the packet was partly injected when its cell was sealed, and its tail flits are poisoned (R354) -/
  tail : Bool := false
  /-- the budget that counts it: 0 none, 1 tier-1, 2 tier-2, 4 granary ALU (R277), that of its second location, the station's
  site, and whether admitted -/
  budget : Nat := 0
  budget2 : Nat := 0
  site : Nat := 0
  admitted : Bool := true
  deriving DecidableEq, Repr

/-! ### Crofts and engines (R175 to R193, R263 to R274) -/

/-- The claim state of an operand slot (R181, R264). -/
inductive Claim where
  | free | held (nid : Word) | releasing
  deriving DecidableEq, Repr

/-- A CPY command (R187). -/
structure CpyDesc where
  src : Addr
  dst : Addr
  len0 : Nat
  count1 : Nat
  count2 : Nat
  sstride1 : Int
  sstride2 : Int
  dstride1 : Int
  dstride2 : Int
  dkind : Bool
  publish : Bool
  cop : Nat
  ctype : Nat
  mcast : BitVec 32
  idx : Addr
  deriving DecidableEq, Repr

/-- A CNV command (R191). From its acceptance on `sat` and `nrows` hold what the captured entries make of the descriptor's SAT and of
an NROWS of 0. -/
structure CnvDesc where
  stid : Nat
  dtid : Nat
  rnd : Nat
  sat : Bool
  dslot : Bool
  slot : Nat
  publish : Bool
  row0 : Nat
  nrows : Nat
  soff : Nat
  deriving DecidableEq, Repr

/-- What a queued command does. -/
inductive CmdOp where
  | mma (aslot bslot acc tida tidb : Nat) (gang : Bool)
  | mzero (acc : Nat)
  | mdrain (acc : Nat) (itype : Bool) (tid : Nat) (publish : Bool)
  | copy (d : CpyDesc) | copyg (d : CpyDesc) | copyop (d : CpyDesc)
  | conv (d : CnvDesc) | planes (d : CnvDesc) | sparsify (d : CnvDesc) | scalec (d : CnvDesc)
  deriving DecidableEq, Repr

/-- A snapshot of one accepted count of an order slot (R177). -/
structure Snap where
  slot : Nat
  eng : Nat
  count : Nat
  deriving DecidableEq, Repr

/-- An engine command. -/
structure Cmd where
  op : CmdOp
  inst : Nat
  wait : BitVec 8 := 0
  oslot : Nat := 0
  seten : Bool := false
  event : Option Nat := .none
  /-- captured TID entries (R65) -/
  tid1 : BitVec 256 := 0
  tid2 : BitVec 256 := 0
  snap : List Snap := []
  gang : Option Nat := .none
  deriving DecidableEq, Repr

/-- A standing offer of an engine: the event and the first byte of the contribution (R273, R274). -/
structure Standing where
  ev : Nat
  addr : Addr
  publish : Bool := false
  deriving DecidableEq, Repr

/-- The operand slots of an MMA as it read them: their bytes and their poisoned doublewords (R202). -/
structure Operands where
  mem : List Host.Cell := []
  poison : List Nat := []
  deriving DecidableEq, Repr

/-- One engine of a croft. -/
structure Engine where
  /-- the command at its second issue cycle (R175) -/
  atIssue : Option Cmd := .none
  queue : List Cmd := []
  /-- the head has begun; chunks of it done; its first fault reported (R179) -/
  begun : Bool := false
  prog : Nat := 0
  faulted : Bool := false
  /-- the gang has started: the cycle of the croft's thresh cell from which the step may begin (R268) -/
  gangAt : Option Nat := .none
  /-- the access at which the engine is held for page service (R179), and the answer that no frame can be had (R315) -/
  heldFor : Option Trap := .none
  noFrame : Bool := false
  /-- the row index of the run in progress, and whether it came from poison (R188) -/
  row : Option (Nat × Bool) := .none
  /-- the operands of the MMA in progress, each line of them read once (R202) -/
  operands : Option Operands := .none
  /-- requests of the chunk in progress that the station has admitted (R277) -/
  paid : Nat := 0
  standing : List Standing := []
  /-- commands behind a seal complete unexecuted (R354) -/
  dead : Bool := false
  deriving DecidableEq, Repr

/-- A cached leaf translation (R314). -/
structure TlbEntry where
  root : Nat
  vpn : Nat
  level : Nat
  leaf : Addr
  deriving DecidableEq, Repr

/-- A croft site: engines, claims, order slots, station (R263, R277, R314). -/
structure Croft where
  claims : Store Claim := []
  /-- accepted and completed counts, by 3 × slot + engine (R177) -/
  acc : Store Nat := []
  done : Store Nat := []
  eng : Tab Engine := []
  gangAcc : Nat := 0
  /-- the launch of the last occupant (R220) -/
  lastTag : Option Nat := .none
  tlb : List TlbEntry := []
  /-- bytes admitted in this period, by budget (R277) -/
  spent : Store Nat := []
  deriving DecidableEq, Repr

/-! ### Images (R203 to R216) -/

/-- A node table entry (R207). -/
structure NodeEntry where
  lcell : Nat
  slot : Nat
  prio : Nat
  vec : Bool
  notv : Bool
  stack : Nat
  entry : Nat
  tvec : Nat
  wstk : Nat
  wlim : Nat
  deriving DecidableEq, Repr

/-- A participant word (R209). -/
structure Participant where
  id : Nat
  pkind : Nat
  role : Nat
  obs : Bool
  deriving DecidableEq, Repr

/-- An event table entry with its participants (R209). -/
structure EventEntry where
  kind : Nat
  etype : Nat := 0
  eop : Nat := 0
  gran : Bool := false
  len : Nat := 0
  parts : List Participant := []
  shfirst : Nat := 0
  shcount : Nat := 0
  estep : Nat := 0xFF
  deriving DecidableEq, Repr

/-- A shadow pair (R212). -/
structure ShadowPair where
  voff : Nat
  hoff : Nat
  len : Nat
  event : Nat
  deriving DecidableEq, Repr

/-- A parameter descriptor and a patch entry (R213). -/
structure ParamDesc where
  poff : Nat
  ptype : Nat
  deriving DecidableEq, Repr
structure Patch where
  word : Nat
  pkind : Nat
  pindex : Nat
  deriving DecidableEq, Repr

/-- A kernel image, as the loader reads it from the Ralger file. -/
structure Image where
  w : Nat := 1
  h : Nat := 1
  fault : Nat := 0
  dual : Bool := false
  step : Nat := 0
  nb : Nat := 0
  widths : List Nat := []
  psize : Nat := 0
  param : Nat := 0
  codeOff : Nat := 0
  code : List Word := []
  dataOff : Nat := 0
  data : List Byte := []
  granary : List Byte := []
  granOff : Nat := 0
  dramVa : Nat := 0
  dram : List Byte := []
  nodes : List NodeEntry := []
  events : List EventEntry := []
  tids : List (BitVec 256) := []
  shadow : List ShadowPair := []
  params : List ParamDesc := []
  patches : List Patch := []
  deriving DecidableEq, Repr

/-! ### Domain instances and the Sheaf (R223 to R241) -/

/-- The status of an event (R224). -/
inductive EvSt where
  | unknown | present | absent | faulted
  deriving DecidableEq, Repr

/-- An event's status in the current instant, and its permanent status: unknown until it has one (R224). -/
structure EvState where
  st : EvSt := .unknown
  perm : EvSt := .unknown
  deriving DecidableEq, Repr

/-- Where a domain instance stands. -/
inductive InstPhase where
  /-- an instant is open -/
  | running
  /-- the instant before has ended and the next waits to begin (R233 step 4) -/
  | between
  /-- stopped for a forced save (R302) -/
  | forced
  /-- over: crofts not yet released -/
  | ended
  deriving DecidableEq, Repr

/-- What is compared of a packet of a twin-mode group (R360): its class, logical destination, address, size and data bytes. -/
structure Packet where
  cls : Nat
  dest : Nat
  addr : Nat
  size : Nat
  data : List Byte
  deriving DecidableEq, Repr

/-- What an entry of the TID table becomes (R194): 32 bytes that are known, or those that an access reads at another home. -/
inductive TidImage where
  | value (v : BitVec 256)
  | read (a : Access)
  deriving DecidableEq, Repr

/-- A packet of one copy of a twin-mode group, held for comparison (R261, R360): an access, an offer, a write of a TID entry, or a
GROW with its key's NID and number and its increment. -/
inductive TwinMsg where
  | access (a : Access)
  | offer (lcell slot : Nat) (o : Offer)
  | tid (src : Src) (n : Nat) (image : TidImage)
  | grow (src : Src) (nid : BitVec 16) (count v : Nat)
  deriving DecidableEq, Repr
structure TwinPacket where
  second : Bool
  lcell : Nat
  msg : TwinMsg
  deriving DecidableEq, Repr

/-- A domain instance. -/
structure Inst where
  launch : Nat := 0
  group : Nat := 0
  reeve : Bool := false
  image : Image := {}
  /-- sites of the crofts by domain index, and of the twin copy -/
  sites : List Nat := []
  twin : List Nat := []
  /-- the generations of the node slots by ordinal, the twin copy's after them: the NIDs that deliveries carry (R240) -/
  gens : List (BitVec 16) := []
  phase : InstPhase := .running
  instant : Nat := 0
  ev : Store EvState := []
  flipped : List Nat := []
  tids : Store (BitVec 256) := []
  /-- charge in micro-wear-units (R372) -/
  wear : Nat := 0
  /-- stop request of a drain, forced save begun, restart after a seal (R300, R355) -/
  stop : Bool := false
  forcing : Bool := false
  restart : Bool := false
  /-- gangs started (R268) -/
  gangs : Nat := 0
  /-- the offers of asynchronous participants, by event, kind and identifier, that stood at the end of the last instant (R233) -/
  stood : List (Nat × Nat × Nat) := []
  /-- in twin mode: the packets held for comparison, and those that an engine's chunk in progress would send (R360) -/
  twinq : List TwinPacket := []
  sent : List Packet := []
  /-- contributions to a combining event that the stations have admitted, by event (R277) -/
  paid : Store Nat := []
  deriving DecidableEq, Repr

/-! ### Launches and saved contexts (R292 to R309) -/

/-- Where a launch stands (R300). -/
inductive LaunchPhase where
  | dispatching | draining | stopping | forcing | ended
  deriving DecidableEq, Repr

/-- A saved instance: the record of R305 to R307 as data, and its digest at the save. -/
structure Saved where
  group : Nat
  /-- 0 clean, 1 forced, 2 unstarted (R303) -/
  kind : Nat
  instant : Nat := 0
  wear : Nat := 0
  ev : Store EvState := []
  tids : Store (BitVec 256) := []
  /-- node slots by logical cell × 20 + slot; the twin copy's cells follow at 4 × crofts -/
  nodes : Tab Node := []
  local_ : List (Nat × Byte) := []
  localPoison : List Nat := []
  window : List (Nat × Byte) := []
  windowPoison : List Nat := []
  crofts : Tab Croft := []
  /-- operand slots and tiles by croft index × 2^20, and poison likewise -/
  slots : List (Nat × Byte) := []
  slotsPoison : List Nat := []
  digest : List Byte := []
  /-- beside the record: the ports whose binding the instance keeps, each with whether it went down since (R334, R337); and the
  offers that stood at the end of the last instant (R233) -/
  ports : Tab Bool := []
  stood : List (Nat × Nat × Nat) := []
  deriving DecidableEq, Repr

/-- A GROW key with its recorded value (R199, R304). -/
structure GrowKey where
  group : Nat
  nid : BitVec 16
  count : Nat
  old : Nat
  deriving DecidableEq, Repr

/-- A launch held by the dispatcher. -/
structure Launch where
  tag : Addr := 0
  image : Image := {}
  params : List Byte := []
  copyDigest : List Byte := []
  /-- where the launch copy and the save set stand in tier-1 memory, and the copy's length (R219, R304, log entry 20) -/
  copyAt : Option Nat := .none
  copyLen : Nat := 0
  setAt : Option Nat := .none
  count : Nat := 0
  nextG : Nat := 0
  /-- groups to place again or to restore, before any not yet dispatched -/
  again : List Nat := []
  prio : Nat := 0
  /-- false restart, true notify (R355) -/
  notify : Bool := false
  dual : Bool := false
  cslot : Nat := 0
  drainlim : Nat := 0
  forcelim : Nat := 0
  overrun : Nat := 0
  budgets : List Nat := []
  troot : Nat := 0
  phase : LaunchPhase := .dispatching
  gdone : Nat := 0
  wear : Nat := 0
  fcause : Option (Cause × Option Nat) := .none
  grows : List GrowKey := []
  saved : List Saved := []
  killed : Bool := false
  failed : Bool := false
  /-- the completion record has been sent (R298) -/
  completed : Bool := false
  deriving DecidableEq, Repr

/-! ### Package, host, ports -/

/-- A host-port slot (R318, R319). -/
structure HostSlot where
  window : Store Byte := []
  offered : Option Nat := .none
  done : Bool := false
  fault : Bool := false
  err : Bool := false
  taint : Bool := false
  dlen : Nat := 0
  ien : Bool := false
  inst : Word := 0
  /-- requests delivered to the firmware and not yet handled, answers and completion records it holds (R321) -/
  request : Option (List Byte) := .none
  answers : List (List Byte) := []
  completions : List (List Byte) := []
  deriving DecidableEq, Repr

/-- Registers of one die's report ring (R349) and the reports that wait for it. -/
structure Ring where
  base : Nat := 0x16000
  head : Nat := 0
  tail : Nat := 0
  ovf : Nat := 0
  first : Nat := 0
  pending : List Report := []
  /-- CELLX -/
  cellx : Nat := 0
  deriving DecidableEq, Repr

/-- An island (R369, R371, R375). -/
structure Island where
  req : Nat := 7
  tcap : Nat := 7
  /-- the hottest junction, °C -/
  tj : Int := 0
  /-- the effective level in force -/
  level : Nat := 7
  stalled : Bool := false
  off : Bool := false
  /-- a sensor has read 105 °C and not yet less than 100 °C -/
  hot : Bool := false
  /-- microseconds spent at each level -/
  time : Store Nat := []
  deriving DecidableEq, Repr

/-- What one Almanac bank holds of the state, as data (R373). -/
structure Bank where
  seq : Nat := 0
  /-- microseconds since the first commit, of which the bank holds the whole seconds -/
  micros : Nat := 0
  wear : Tab Wear := []
  islands : Tab Island := []
  cmap : Store Nat := []
  history : List (List Byte) := []
  signature : List Byte := []
  valid : Bool := false
  deriving DecidableEq, Repr

/-- A frame kept in the retry window of a port (R331). -/
structure Frame where
  chan : Nat
  seq : Nat
  first : Bool
  last : Bool
  moff : Nat
  payload : List Byte
  sends : Nat := 1
  deriving DecidableEq, Repr

/-- A message of a channel: bytes on the wire. -/
structure LinkMsg where
  chan : Nat
  bytes : List Byte
  deriving DecidableEq, Repr

/-- A Fjargeton port (R328 to R340). -/
structure Port where
  up : Bool := false
  /-- its own address and its peer's, as the firmware configures them (R328) -/
  mac : List Byte := List.replicate 6 0
  peerMac : List Byte := List.replicate 6 0
  /-- compression class: 0 plain, 1 level 1, 2 INT8, 3 INT4 (R338) -/
  cls : Nat := 0
  bound : Option Nat := .none
  txKey : List Byte := []
  rxKey : List Byte := []
  txSalt : List Byte := []
  rxSalt : List Byte := []
  /-- exchanges that this port has entered, no two of which share a key pair or a nonce (R378) -/
  exchanges : Nat := 0
  /-- our own KEYX of the exchange in progress has been sent (R378) -/
  keyxSent : Bool := false
  txSeq : Nat := 0
  rxNext : Nat := 0
  ctl : Nat := 0
  window : List Frame := []
  sinceAck : Nat := 0
  tagFails : Nat := 0
  dropped : Nat := 0
  /-- messages waiting to be cut into frames, and the message being received by channel -/
  outbox : List LinkMsg := []
  /-- the message being sent: channel, bytes on the wire, bytes sent, and whether a frame of it has gone -/
  sending : Option (Nat × List Byte × Nat × Bool) := .none
  partial_ : Store (List Byte) := []
  inbox : List LinkMsg := []
  /-- cumulative bytes begun, granted by the peer, and granted to the peer, by channel (R333) -/
  begun : Store Nat := []
  grant : Store Nat := []
  granted : Store Nat := []
  residual : Tab (List Word) := []
  /-- frames sent to the peer, oldest first: MAC header and MAC client data (R328, R329) -/
  wire : List (List Byte) := []
  deriving DecidableEq, Repr

/-- The requests that the device makes on CXL.cache (R317, R325). -/
inductive CacheKind where
  | rdCurr | rdOwn | wrCur | itoMWr | dirtyEvict
  deriving DecidableEq, Repr
/-- One of them: its kind, the host address and the bytes. -/
structure CacheReq where
  kind : CacheKind
  addr : Nat
  n : Nat
  deriving DecidableEq, Repr

/-- What the signed policy says (R338, R370, R375, R376, R378), as data: the spec gives its bytes no layout (log entry 90). -/
structure Policy where
  version : Nat := 0
  /-- the worn shares, in per cent, at which a cell is DERATED, DRAINED and RETIRED -/
  derate : Nat := 80
  drain : Nat := 95
  retire : Nat := 100
  /-- the compression class of each port -/
  classes : List Nat := []
  /-- the kernel signature mode and the kernel-signing keys -/
  sigMode : Nat := 0
  keys : List (List Byte) := []
  /-- the authorities whose peers the ports accept -/
  authorities : List (List Byte) := []
  /-- CALB and CALE, and STATE with its cap, of the cells for which a new policy gives them -/
  calib : Tab (Word × Word) := []
  states : Tab (Nat × Nat) := []
  deriving DecidableEq, Repr

/-- The package's own registers and records. -/
structure Pkg where
  booted : Bool := false
  linkUp : Bool := false
  /-- the reeve firmware image in flash, its version, and the fuse counter (R376) -/
  firmware : List Byte := []
  fwVersion : Nat := 0
  fuseCount : Nat := 0
  /-- the signed policy in flash: its bytes, and what they say; and the policy in force, as POWER_ON loaded it (R375, R376) -/
  policy : List Byte := []
  flash : Policy := {}
  rules : Policy := {}
  /-- bytes of tier-2 memory at each memory port, as enumerated at bring-up (R327) -/
  tier2 : List Nat := []
  cmapx : Nat := 0
  cmap : Store Nat := []
  cmapFail : Bool := false
  xinvl : Word := 0
  xinvh : Word := 0
  /-- TROOTs whose invalidation is in progress (R314) -/
  xbusy : List Nat := []
  rings : Tab Ring := []
  sethr : Nat := 64
  wcellx : Nat := 0
  islx : Nat := 0
  islands : Tab Island := []
  banks : Tab Bank := []
  /-- SEQ of the last completed commit, a commit in progress, another asked for, ALST.ERR -/
  alseq : Nat := 0
  alBusy : Bool := false
  alAgain : Bool := false
  alErr : Bool := false
  /-- the bank being written, with its contents -/
  alBank : Option (Nat × Bank) := .none
  /-- microseconds since the first commit -/
  micros : Nat := 0
  /-- neither bank was valid at power-on, so no launch is placed; the digest of the bank of measurement 5 (R374, R377) -/
  noBank : Bool := false
  bankDigest : List Byte := []
  history : List (List Byte) := []
  powerDown : Bool := false
  /-- SPDM measurement 6 and the responses sent (R377) -/
  launchLog : List Byte := List.replicate 32 0
  spdm : List (List Byte) := []
  /-- the keys of the link's integrity and encryption, once an SPDM session has established them (R317) -/
  ideKeys : Option (List Byte) := .none
  /-- answers to reads of the host, MSI-X vectors sent, lines whose snoop was answered as a miss (R318, R323, R325, R326) -/
  hostReads : List (List Byte × Bool) := []
  msix : List Nat := []
  snoops : List Nat := []
  cacheReqs : List CacheReq := []
  deriving DecidableEq, Repr

/-- The parameters of a step of another agent: the parties and the data that reach it from outside. -/
structure Params where
  pcell : Nat := 0
  slot : Nat := 0
  i : Nat := 0
  site : Nat := 0
  eng : Nat := 0
  inst : Nat := 0
  ev : Nat := 0
  launch : Nat := 0
  lcell : Nat := 0
  engine : Bool := false
  unit : Nat := 0
  entry : Nat := 0
  value : Addr := 0
  decoder : Bool := false
  bar : Bool := false
  hostMem : Bool := false
  /-- the addresses of an engine's request that stays without a response (R364) -/
  lost : Option (Nat × Nat) := .none
  /-- of a request with two homes, that of its second word (R364) -/
  second : Bool := false
  atomic : Bool := false
  write : Bool := false
  off : Nat := 0
  data : List Byte := []
  die : Nat := 0
  n : Nat := 0
  log : Nat := 0
  bti : Nat := 0
  em : Nat := 0
  isl : Nat := 0
  tj : Int := 0
  ok : Bool := true
  port : Nat := 0
  first : Bool := false
  last : Bool := false
  chan : Nat := 0
  seq : Nat := 0
  ctl : Nat := 0
  moff : Nat := 0
  tag : BitVec 128 := 0
  code : Nat := 0
  arg : Nat := 0
  line : Nat := 0
  deriving DecidableEq, Repr

/-- Who acts next: a cell issues the next word of its running node, or another agent takes a step. -/
inductive Choice where
  | issue (pcell : Nat)
  | event (e : Instr) (par : Params)
  deriving DecidableEq, Repr

/-! ### The state -/

/-- The whole machine (log entry 75). -/
structure State where
  /-- every byte of every memory that is not 0, by its key (Machine/Ops.lean), and the poisoned doublewords -/
  mem : List Host.Cell := []
  poison : List Nat := []
  /-- errors in protected storage that nothing has met yet, by doubleword: 1 correctable, 2 detected and not correctable (R350);
  they come from outside, and no step makes one -/
  flaws : Store Nat := []
  cells : Tab Cell := []
  crofts : Tab Croft := []
  insts : Tab Inst := []
  nextInst : Nat := 0
  launches : Tab Launch := []
  /-- launches are numbered from 1 -/
  nextLaunch : Nat := 1
  net : List Access := []
  pkg : Pkg := {}
  host : Tab HostSlot := []
  ports : Tab Port := []
  /-- the cell whose running node executes -/
  cur : Nat := 0
  /-- the parameters of the step in progress -/
  par : Params := {}
  /-- who acts next, and after (the model's own: the order that the manual leaves to timing) -/
  agenda : List Choice := []
  deriving DecidableEq, Repr

/-! ### Why a step can stop -/

/-- Faults. -/
inductive Fault where
  /-- Raised by the meaning of an instruction word in a state whose current cell has no RUNNING node, which no step
  reaches: a step issues only from a cell that runs a node (R14). Safe. -/
  | noRunningNode
  deriving DecidableEq, Repr

/-- Refusals. -/
inductive Refusal where
  /-- Raised by an arm of Machine/Dispatch.lean that has no meaning yet. Safe. -/
  | notModelled (mnemonic : String)
  deriving DecidableEq, Repr

/-- The machine right after reset: power has come, nothing is placed, the boot ROM has not run (R220, R374, R376). Every
register of R8's maps has the value the maps give; log entry 1 names the others. -/
def State.reset : State := {}

end Sys2Proof.Machine
end

