-- ==== Sys2Proof/Machine/Data.lean ====
section
/-! DEFINITION. Sparse arrays, the one memory of State with its poison, and little-endian numbers (R4, R9): the
operations by which every other file reads and writes plain data. -/

namespace Sys2Proof.Machine

/-! ### Records by number -/

/-- The record numbered `k`. -/
def Tab.get? {α : Type} : Tab α → Nat → Option α
  | [], _ => none
  | (j, v) :: t, k => if j = k then some v else Tab.get? t k

/-- The record numbered `k` becomes `v`; numbers stay in rising order. -/
def Tab.set {α : Type} : Tab α → Nat → α → Tab α
  | [], k, v => [(k, v)]
  | (j, w) :: t, k, v =>
    if k = j then (k, v) :: t
    else if k < j then (k, v) :: (j, w) :: t
    else (j, w) :: Tab.set t k v

/-- No record is numbered `k` any more. -/
def Tab.erase {α : Type} (t : Tab α) (k : Nat) : Tab α := t.filter (fun e => e.1 != k)

/-- The record numbered `k`, or `d`. -/
def Tab.getD {α : Type} (t : Tab α) (k : Nat) (d : α) : α := (Tab.get? t k).getD d

/-- A record changed where it stands, if it does. -/
def Tab.modify {α : Type} (t : Tab α) (k : Nat) (f : α → α) : Tab α :=
  match Tab.get? t k with
  | some v => Tab.set t k (f v)
  | none => t

/-- The value at `k`; an unlisted number holds `d`. -/
def Store.get {α : Type} (d : α) (t : Store α) (k : Nat) : α := (Tab.get? t k).getD d

/-- The value at `k` becomes `v`; the value `d` is never listed. -/
def Store.set {α : Type} [DecidableEq α] (d : α) (t : Store α) (k : Nat) (v : α) : Store α :=
  if v = d then Tab.erase t k else Tab.set t k v

/-- Numbers in strictly rising order. -/
def keysRise : List Nat → Bool
  | [] => true
  | [_] => true
  | a :: b :: t => decide (a < b) && keysRise (b :: t)

/-- The canonical form of a store: numbers strictly rise, and no entry holds the value an unlisted number reads as. -/
def Store.canon {α : Type} [DecidableEq α] (d : α) (t : Store α) : Bool :=
  keysRise (t.map (·.1)) && t.all (fun e => decide (e.2 ≠ d))

/-- A set of numbers in rising order: insertion. -/
def setInsert : List Nat → Nat → List Nat
  | [], k => [k]
  | j :: t, k => if k = j then j :: t else if k < j then k :: j :: t else j :: setInsert t k

/-- A set of numbers: removal. -/
def setErase (t : List Nat) (k : Nat) : List Nat := t.filter (· != k)

/-! ### Numbers and bytes -/

/-- bits(x, hi, lo) of R9 on a number: `w` bits from bit `lo`. -/
def bitsN (x lo w : Nat) : Nat := x / 2 ^ lo % 2 ^ w

/-- The little-endian number of a list of bytes (R4). -/
def leNat : List Byte → Nat
  | [] => 0
  | b :: t => b.toNat + 256 * leNat t

/-- The `n` bytes of a number, lowest first (R4). -/
def leBytes : Nat → Nat → List Byte
  | 0, _ => []
  | n + 1, x => BitVec.ofNat 8 x :: leBytes n (x / 256)

/-- The bytes of a list from `off`, `n` of them; bytes past its end read 0. -/
def slice (l : List Byte) (off n : Nat) : List Byte :=
  let t := (l.drop off).take n
  t ++ List.replicate (n - t.length) 0

/-- A little-endian field of a record. -/
def field (l : List Byte) (off n : Nat) : Nat := leNat (slice l off n)

/-- A signed reading of the low `w` bits of a number. -/
def sgn (w x : Nat) : Int :=
  let m := x % 2 ^ w
  if m < 2 ^ (w - 1) then (m : Int) else (m : Int) - 2 ^ w

/-- The `w`-bit two's complement pattern of an integer. -/
def unsgn (w : Nat) (x : Int) : Nat := (x % (2 ^ w : Nat)).toNat

/-! ### The one memory (R137, R243, R311)

A place in any memory has a key: the region number in bits [63:56] and the bits of R311 beneath it. Regions 0 to 4 are
those of R311 (tier-1, tier-2, host, cell local memory, granary bin); 5 and 6, the model's own, hold operand slots and
accumulator tiles, a tile element in 8 bytes of which 5 are used. -/

abbrev keyTier1 (a : Nat) : Nat := a
abbrev keyTier2 (a : Nat) : Nat := 2 ^ 56 + a
abbrev keyHost (a : Nat) : Nat := 2 * 2 ^ 56 + a
/-- Local memory of a physical cell. -/
abbrev keyLocal (pcell off : Nat) : Nat := 3 * 2 ^ 56 + pcell * 2 ^ 17 + off
/-- A granary bin, by its number 4 × site + i. -/
abbrev keyBin (bin off : Nat) : Nat := 4 * 2 ^ 56 + bin * 2 ^ 19 + off
/-- An operand slot of a croft site. -/
abbrev keySlot (site slot off : Nat) : Nat := 5 * 2 ^ 56 + site * 2 ^ 19 + slot * 2 ^ 15 + off
/-- An element of an accumulator tile of a croft site: row and column 0 to 127. -/
abbrev keyTile (site tile row col : Nat) : Nat :=
  6 * 2 ^ 56 + site * 2 ^ 20 + tile * 2 ^ 17 + (row * 128 + col) * 8
/-- The region of a key, and the bits beneath. -/
abbrev keyRegion (k : Nat) : Nat := k / 2 ^ 56
abbrev keyLow (k : Nat) : Nat := k % 2 ^ 56

/-- The memory of State. -/
abbrev Memory := List Host.Cell

/-- What an unlisted byte reads as: 0 (log entry 2). -/
abbrev memDefault : Byte := 0

/-- One byte. -/
def Memory.get (m : Memory) (k : Nat) : Byte := Store.get memDefault m k
/-- One byte written. -/
def Memory.set (m : Memory) (k : Nat) (b : Byte) : Memory := Store.set memDefault m k b
/-- The canonical form of the memory. -/
def Memory.wf (m : Memory) : Bool := Store.canon memDefault m

/-- `n` bytes from `k`. -/
def Memory.bytes (m : Memory) (k : Nat) : Nat → List Byte
  | 0 => []
  | n + 1 => Memory.get m k :: Memory.bytes m (k + 1) n
/-- Bytes written from `k` on. -/
def Memory.setBytes (m : Memory) (k : Nat) : List Byte → Memory
  | [] => m
  | b :: t => Memory.setBytes (Memory.set m k b) (k + 1) t
/-- The little-endian number of `n` bytes at `k` (R4). -/
def Memory.num (m : Memory) (k n : Nat) : Nat := leNat (Memory.bytes m k n)
/-- A number stored in `n` bytes at `k`, little-endian (R4). -/
def Memory.setNum (m : Memory) (k n x : Nat) : Memory := Memory.setBytes m k (leBytes n x)
/-- Every byte from `k`, `n` of them, cleared. -/
def Memory.clear (m : Memory) (k n : Nat) : Memory := m.filter (fun e => !(k ≤ e.1 && e.1 < k + n))
/-- The listed bytes from `k`, `n` of them, by their distance from `k`. -/
def Memory.extract (m : Memory) (k n : Nat) : List (Nat × Byte) :=
  (m.filter (fun e => k ≤ e.1 && e.1 < k + n)).map (fun e => (e.1 - k, e.2))
/-- Bytes by distance written from `k` on. -/
def Memory.insertAll (m : Memory) (k : Nat) : List (Nat × Byte) → Memory
  | [] => m
  | (o, b) :: t => Memory.insertAll (Memory.set m (k + o) b) k t

/-- The doublewords that `n` bytes at `k` touch. -/
def dwords (k n : Nat) : List Nat := (List.range ((k + n - 1) / 8 + 1 - k / 8)).map (· + k / 8)

/-- Some doubleword of the range is poisoned (R141, R350). -/
def poisonedAt (p : List Nat) (k n : Nat) : Bool := (dwords k n).any (fun d => p.contains d)
/-- The doublewords of the range that lie in it wholly become clean. -/
def cleanAt (p : List Nat) (k n : Nat) : List Nat := p.filter (fun d => !(k ≤ 8 * d && 8 * d + 8 ≤ k + n))
/-- Every doubleword the range touches becomes poisoned. -/
def poisonAt (p : List Nat) (k n : Nat) : List Nat := (dwords k n).foldl setInsert p

end Sys2Proof.Machine
end

