-- ==== Sys2Proof/Machine/Fp.lean ====
section
/-! DEFINITION. Numbers to the bit (R41 to R53): floating-point formats, exact values, the one rounding with its
exceptions, and the operations that every cell, vector unit, bin and engine shares. Bit patterns are numbers. -/

namespace Sys2Proof.Machine

/-! ### Formats (R42, R43) -/

/-- A floating-point format: widths of the exponent and the fraction, the bias, and whether it has an infinity (F8A has
none). -/
structure Fmt where
  e : Nat
  f : Nat
  bias : Nat
  inf : Bool := true
  deriving DecidableEq, Repr

def fp32 : Fmt := { e := 8, f := 23, bias := 127 }
def fp16 : Fmt := { e := 5, f := 10, bias := 15 }
def bf16 : Fmt := { e := 8, f := 7, bias := 127 }
def f8a : Fmt := { e := 4, f := 3, bias := 7, inf := false }
def f8b : Fmt := { e := 5, f := 2, bias := 15 }
def fa40 : Fmt := { e := 8, f := 31, bias := 127 }

/-- Bits of the format. -/
def Fmt.width (k : Fmt) : Nat := 1 + k.e + k.f
/-- The pattern of all-ones exponent and zero fraction. -/
def Fmt.topExp (k : Fmt) : Nat := (2 ^ k.e - 1) * 2 ^ k.f
/-- The pattern of the largest finite value. -/
def Fmt.maxFin (k : Fmt) : Nat := if k.inf then k.topExp - 1 else 2 ^ (k.e + k.f) - 2
/-- The canonical NaN (R43). -/
def Fmt.nan (k : Fmt) : Nat := if k.inf then k.topExp + 2 ^ (k.f - 1) else 2 ^ (k.e + k.f) - 1
/-- The sign bit. -/
def Fmt.sign (k : Fmt) (s : Bool) : Nat := if s then 2 ^ (k.e + k.f) else 0
/-- Infinity of a sign; where the format has none, its canonical NaN. -/
def Fmt.infinity (k : Fmt) (s : Bool) : Nat := if k.inf then k.sign s + k.topExp else k.nan

/-- An exact value: (−1)^s × m × 2^e when finite. `more` says that the magnitude lies strictly between m × 2^e and
(m + 1) × 2^e (a quotient or a root). -/
inductive Num where
  | nan
  | inf (s : Bool)
  | fin (s : Bool) (m : Nat) (e : Int) (more : Bool)
  deriving DecidableEq, Repr

/-- The value of a bit pattern (R41, R42). -/
def unpack (k : Fmt) (x : Nat) : Num :=
  let s := decide (bitsN x (k.e + k.f) 1 = 1)
  let ex := bitsN x k.f k.e
  let fr := bitsN x 0 k.f
  if k.inf && decide (ex = 2 ^ k.e - 1) then (if fr = 0 then .inf s else .nan)
  else if !k.inf && decide (ex = 2 ^ k.e - 1 ∧ fr = 2 ^ k.f - 1) then .nan
  else if ex = 0 then .fin s fr (1 - (k.bias : Int) - k.f) false
  else .fin s (2 ^ k.f + fr) ((ex : Int) - k.bias - k.f) false

/-! ### Rounding (R46, R47, R49) -/

/-- Exceptions: invalid, divide-by-zero, overflow, underflow, inexact, from bit 0 (R49). -/
abbrev Exc := BitVec 5
abbrev excInvalid : Exc := 1#5
abbrev excDivZero : Exc := 2#5
abbrev excOverflow : Exc := 4#5
abbrev excUnderflow : Exc := 8#5
abbrev excInexact : Exc := 16#5

/-- Does a magnitude round away from zero? Mode 0 RNE, 1 RZ, 2 RD, 3 RU; `s` the sign, `odd` the last bit kept, `rem` of
`unit` the part cut off, `more` something below it. -/
def roundsUp (mode : Nat) (s odd : Bool) (rem unit : Nat) (more : Bool) : Bool :=
  match mode with
  | 0 => decide (unit < 2 * rem) || (decide (2 * rem = unit) && (more || odd))
  | 1 => false
  | 2 => s && (decide (rem ≠ 0) || more)
  | _ => !s && (decide (rem ≠ 0) || more)

/-- A magnitude m × 2^e as a multiple of 2^q, rounded; and whether that lost anything. -/
def quantise (mode : Nat) (s : Bool) (m : Nat) (e q : Int) (more : Bool) : Nat × Bool :=
  if q ≤ e then (m * 2 ^ (e - q).toNat, more)
  else
    let u := 2 ^ (q - e).toNat
    let k := m / u
    let r := m % u
    ((if roundsUp mode s (k % 2 == 1) r u more then k + 1 else k), decide (r ≠ 0) || more)

/-- Bits of a positive number. -/
def bitLen (m : Nat) : Nat := if m = 0 then 0 else Nat.log2 m + 1

/-- The overflow result of R47. -/
def overflowed (k : Fmt) (mode : Nat) (sat s : Bool) : Nat :=
  let away := match mode with
    | 0 => true
    | 1 => false
    | 2 => s
    | _ => !s
  if sat || !away then k.sign s + k.maxFin else k.infinity s

/-- A finite exact value rounded once to a format, with its exceptions (R46, R47, R49, log entry 68). A nonzero value that rounds to zero
keeps its sign: R46 gives none (log entry 132). -/
def roundFin (k : Fmt) (mode : Nat) (sat s : Bool) (m : Nat) (e : Int) (more : Bool) : Nat × Exc :=
  if m = 0 && !more then (k.sign s, 0)
  else
    let top := e + bitLen m                          -- the magnitude is below 2^top
    let low : Int := 1 - (k.bias : Int) - k.f        -- the exponent of the smallest subnormal
    let q := max (top - (k.f + 1)) low
    let r := quantise mode s m e q more
    let bits := (q + k.bias + k.f - 1).toNat * 2 ^ k.f + r.1
    if k.maxFin < bits then (overflowed k mode sat s, excOverflow ||| excInexact)
    else
      let unbounded := quantise mode s m e (top - (k.f + 1)) more
      let tiny := decide (top < 1 - (k.bias : Int) + 1) &&
        !(decide (top = 1 - (k.bias : Int)) && decide (unbounded.1 = 2 ^ (k.f + 1)))
      (k.sign s + bits,
        (if r.2 then excInexact else 0) ||| (if tiny && r.2 then excUnderflow else 0))

/-- A value rounded to a format in an arithmetic operation: a NaN gives the canonical NaN, an infinity stays. -/
def roundNum (k : Fmt) (mode : Nat) (sat : Bool) : Num → Nat × Exc
  | .nan => (k.nan, 0)
  | .inf s => (k.infinity s, 0)
  | .fin s m e more => roundFin k mode sat s m e more

/-! ### Exact arithmetic -/

/-- A signed integer times 2^e as a value; a zero takes the sign `z`. -/
def ofInt (z : Bool) (x : Int) (e : Int) : Num :=
  if x = 0 then .fin z 0 e false else .fin (decide (x < 0)) x.natAbs e false

/-- The signed integer of a finite value on the scale 2^e, e no greater than its own exponent. -/
def scaleTo (s : Bool) (m : Nat) (e0 e : Int) : Int :=
  let x : Int := (m * 2 ^ (e0 - e).toNat : Nat)
  if s then -x else x

/-- The exact sum of two finite values. A zero sum of opposite signs is +0, or −0 in RD (R46). -/
def addFin (mode : Nat) (s1 : Bool) (m1 : Nat) (e1 : Int) (s2 : Bool) (m2 : Nat) (e2 : Int) : Num :=
  let e := min e1 e2
  ofInt (if s1 = s2 then s1 else mode == 2) (scaleTo s1 m1 e1 e + scaleTo s2 m2 e2 e) e

/-- x + y with invalid (R49). -/
def addNum (mode : Nat) : Num → Num → Num × Exc
  | .nan, _ => (.nan, excInvalid)
  | _, .nan => (.nan, excInvalid)
  | .inf s1, .inf s2 => if s1 = s2 then (.inf s1, 0) else (.nan, excInvalid)
  | .inf s, .fin .. => (.inf s, 0)
  | .fin .., .inf s => (.inf s, 0)
  | .fin s1 m1 e1 _, .fin s2 m2 e2 _ => (addFin mode s1 m1 e1 s2 m2 e2, 0)

/-- x × y with invalid. -/
def mulNum : Num → Num → Num × Exc
  | .nan, _ => (.nan, excInvalid)
  | _, .nan => (.nan, excInvalid)
  | .inf s1, .inf s2 => (.inf (s1 != s2), 0)
  | .inf s1, .fin s2 m _ _ => if m = 0 then (.nan, excInvalid) else (.inf (s1 != s2), 0)
  | .fin s1 m _ _, .inf s2 => if m = 0 then (.nan, excInvalid) else (.inf (s1 != s2), 0)
  | .fin s1 m1 e1 _, .fin s2 m2 e2 _ => (.fin (s1 != s2) (m1 * m2) (e1 + e2) false, 0)

/-- x / y with invalid and divide-by-zero; enough bits are formed for a destination of 32 fraction bits. -/
def divNum : Num → Num → Num × Exc
  | .nan, _ => (.nan, excInvalid)
  | _, .nan => (.nan, excInvalid)
  | .inf _, .inf _ => (.nan, excInvalid)
  | .inf s1, .fin s2 .. => (.inf (s1 != s2), 0)
  | .fin s1 _ _ _, .inf s2 => (.fin (s1 != s2) 0 0 false, 0)
  | .fin s1 m1 e1 _, .fin s2 m2 e2 _ =>
    if m2 = 0 then (if m1 = 0 then (.nan, excInvalid) else (.inf (s1 != s2), excDivZero))
    else
      let j := bitLen m2 + 40
      (.fin (s1 != s2) (m1 * 2 ^ j / m2) (e1 - e2 - j) (decide (m1 * 2 ^ j % m2 ≠ 0)), 0)

/-- The integer square root, from bit `b` down. -/
def isqrtGo (n : Nat) : Nat → Nat → Nat
  | 0, r => r
  | b + 1, r => isqrtGo n b (if (r + 2 ^ b) * (r + 2 ^ b) ≤ n then r + 2 ^ b else r)
/-- The integer square root of a number below 2^128. -/
def isqrt (n : Nat) : Nat := isqrtGo n 64 0

/-- √x (R122). -/
def sqrtNum : Num → Num × Exc
  | .nan => (.nan, excInvalid)
  | .inf s => if s then (.nan, excInvalid) else (.inf false, 0)
  | .fin s m e _ =>
    if m = 0 then (.fin s 0 e false, 0)
    else if s then (.nan, excInvalid)
    else
      let j : Nat := if e % 2 = 0 then 64 else 65
      let n := m * 2 ^ j
      let r := isqrt n
      (.fin false r ((e - j) / 2) (decide (r * r ≠ n)), 0)

def Num.neg : Num → Num
  | .nan => .nan
  | .inf s => .inf (!s)
  | .fin s m e more => .fin (!s) m e more
def Num.isNan : Num → Bool
  | .nan => true
  | _ => false

/-! ### Operations on bit patterns (R46 to R51) -/

def fpAdd (k : Fmt) (mode : Nat) (sat : Bool) (x y : Nat) : Nat × Exc :=
  let r := addNum mode (unpack k x) (unpack k y)
  let o := roundNum k mode sat r.1
  (o.1, r.2 ||| o.2)
def fpSub (k : Fmt) (mode : Nat) (sat : Bool) (x y : Nat) : Nat × Exc :=
  let r := addNum mode (unpack k x) (unpack k y).neg
  let o := roundNum k mode sat r.1
  (o.1, r.2 ||| o.2)
def fpMul (k : Fmt) (mode : Nat) (sat : Bool) (x y : Nat) : Nat × Exc :=
  let r := mulNum (unpack k x) (unpack k y)
  let o := roundNum k mode sat r.1
  (o.1, r.2 ||| o.2)
def fpDiv (k : Fmt) (mode : Nat) (sat : Bool) (x y : Nat) : Nat × Exc :=
  let r := divNum (unpack k x) (unpack k y)
  let o := roundNum k mode sat r.1
  (o.1, r.2 ||| o.2)
def fpSqrt (k : Fmt) (mode : Nat) (sat : Bool) (x : Nat) : Nat × Exc :=
  let r := sqrtNum (unpack k x)
  let o := roundNum k mode sat r.1
  (o.1, r.2 ||| o.2)
/-- d + x × y, or d − x × y with `neg`, rounded once. 0 × ∞ raises invalid whatever d holds (R120). -/
def fpFma (k : Fmt) (mode : Nat) (sat neg : Bool) (d x y : Nat) : Nat × Exc :=
  let p := mulNum (unpack k x) (unpack k y)
  let r := addNum mode (unpack k d) (if neg then p.1.neg else p.1)
  let o := roundNum k mode sat r.1
  (o.1, p.2 ||| r.2 ||| o.2)

/-- A rank that orders every number, −0 below +0 (R51). -/
def fpRank (k : Fmt) (x : Nat) : Int :=
  let m : Int := (bitsN x 0 (k.e + k.f) : Nat)
  if bitsN x (k.e + k.f) 1 = 1 then -m - 1 else m
/-- Minimum and maximum (R51): a NaN loses to a number, two NaNs give the canonical NaN. -/
def fpMin (k : Fmt) (x y : Nat) : Nat :=
  match (unpack k x).isNan, (unpack k y).isNan with
  | true, true => k.nan
  | true, false => y
  | false, true => x
  | false, false => if fpRank k y < fpRank k x then y else x
def fpMax (k : Fmt) (x y : Nat) : Nat :=
  match (unpack k x).isNan, (unpack k y).isNan with
  | true, true => k.nan
  | true, false => y
  | false, true => x
  | false, false => if fpRank k x < fpRank k y then y else x
def fpAbs (k : Fmt) (x : Nat) : Nat := if (unpack k x).isNan then k.nan else bitsN x 0 (k.e + k.f)
def fpNeg (k : Fmt) (x : Nat) : Nat :=
  if (unpack k x).isNan then k.nan
  else if bitsN x (k.e + k.f) 1 = 1 then bitsN x 0 (k.e + k.f) else bitsN x 0 (k.e + k.f) + 2 ^ (k.e + k.f)

/-- The order in which ±0 are equal; meaningful for numbers only. -/
def fpOrd (k : Fmt) (x : Nat) : Int :=
  let m : Int := (bitsN x 0 (k.e + k.f) : Nat)
  if bitsN x (k.e + k.f) 1 = 1 then -m else m
def fpUn (k : Fmt) (x y : Nat) : Bool := (unpack k x).isNan || (unpack k y).isNan
def fpEq (k : Fmt) (x y : Nat) : Bool := !fpUn k x y && decide (fpOrd k x = fpOrd k y)
def fpLt (k : Fmt) (x y : Nat) : Bool := !fpUn k x y && decide (fpOrd k x < fpOrd k y)
def fpLe (k : Fmt) (x y : Nat) : Bool := !fpUn k x y && decide (fpOrd k x ≤ fpOrd k y)

/-! ### Conversions (R49, R52, R53) -/

/-- Between floating-point formats: a NaN raises nothing, and neither does an infinity unless the destination is F8A. -/
def fpCvt (src dst : Fmt) (mode : Nat) (sat : Bool) (x : Nat) : Nat × Exc :=
  match unpack src x with
  | .nan => (dst.nan, 0)
  | .inf s =>
    if dst.inf then (dst.infinity s, 0)
    else (if sat then dst.sign s + dst.maxFin else dst.nan, excInvalid)
  | .fin s m e more => roundFin dst mode sat s m e more

/-- A signed integer to floating point. -/
def intToFp (dst : Fmt) (mode : Nat) (x : Int) : Nat × Exc := roundNum dst mode false (ofInt false x 0)

/-- A value rounded to an integer from `lo` to `hi`, saturating; a NaN gives 0 (R49). -/
def numToInt (mode : Nat) (lo hi : Int) : Num → Int × Exc
  | .nan => (0, excInvalid)
  | .inf s => (if s then lo else hi, excInvalid)
  | .fin s m e more =>
    let r := quantise mode s m e 0 more
    let v : Int := if s then -(r.1 : Int) else r.1
    if v < lo then (lo, excInvalid)
    else if hi < v then (hi, excInvalid)
    else (v, if r.2 then excInexact else 0)

/-- Clamping to the range of a signed integer of `w` bits. -/
def clampS (w : Nat) (x : Int) : Int := max (-(2 ^ (w - 1) : Nat)) (min ((2 ^ (w - 1) : Nat) - 1) x)

end Sys2Proof.Machine
end

