-- ==== Sys2Proof/Machine/Ops.lean ====
section
/-! DEFINITION. The named operations over nodes and cells: register reads and writes (R17, R18, R20, R22, R24), the
issue of an instruction with its scoreboard (R26 to R29), its completion with the hardware loop (R134), taking a trap and
returning from one (R38, R131, R345, R348), and reports (R347). -/

namespace Sys2Proof.Machine

/-! ### Causes (R346) -/

/-- The 6-bit code of a cause. -/
def Cause.code : Cause → Nat
  | .none => 0x00 | .illegalOpcode => 0x01 | .illegalEncoding => 0x02 | .hintSequence => 0x03
  | .stallUndersized => 0x04 | .windowOverflow => 0x05 | .windowUnderflow => 0x06 | .loopNest => 0x07
  | .fetchFault => 0x08 | .misaligned => 0x09 | .addressSpace => 0x0A | .remoteOutsideDomain => 0x0B
  | .pageNotPresent => 0x0C | .pageProtection => 0x0D | .amoAlias => 0x0E | .divZero => 0x0F
  | .fpInvalid => 0x10 | .fpDivzero => 0x11 | .fpOverflow => 0x12 | .fpUnderflow => 0x13 | .fpInexact => 0x14
  | .vectorNoContext => 0x15 | .engineRole => 0x16 | .engineDescriptor => 0x17 | .slotNotOwned => 0x18
  | .tidInvalid => 0x19 | .eventChoiceInvalid => 0x1A | .eventNotParticipant => 0x1B | .eventSecondOffer => 0x1C
  | .eventLength => 0x1D | .causalityCycle => 0x1E | .instantOverrun => 0x1F | .privileged => 0x20
  | .software => 0x21 | .breakpoint => 0x22 | .watchpoint => 0x23 | .singleStep => 0x24 | .doubleTrap => 0x25
  | .poisonConsumed => 0x26 | .poisonFetch => 0x27 | .enginePoison => 0x28 | .correctedThreshold => 0x29
  | .tripleVoteDisagree => 0x2A | .twinMismatch => 0x2B | .cellSealed => 0x2C | .staleNodeDelivery => 0x2D
  | .spillAreaFault => 0x2E | .patchRange => 0x2F | .growLimit => 0x30 | .drainRequest => 0x31
  | .forcedSave => 0x32 | .translationWalkError => 0x33 | .hostAbort => 0x34 | .domainKill => 0x35
  | .linkPeerLost => 0x36 | .linkAuthFail => 0x37 | .linkRetryExhausted => 0x38 | .compressOverflow => 0x39
  | .remoteTimeout => 0x3A | .thermalDerate => 0x3B | .wearDerate => 0x3C | .wearDrain => 0x3D
  | .wearRetire => 0x3E | .sparePromoted => 0x3F

/-- The causes that R346 delivers held, DOUBLE_TRAP apart. -/
def Cause.isHeld : Cause → Bool
  | .pageNotPresent | .poisonFetch | .translationWalkError => true
  | _ => false

/-- TCAUSE: cause in [5:0], detail in [31:16] (R30). -/
def tcauseWord (c : Cause) (detail : BitVec 16) : Word := detail ++ BitVec.ofNat 16 c.code

/-! ### Places on the package (R11, R310, R347) -/

/-- The first physical cell number of a reeve cell (R349). -/
abbrev firstReeve : Nat := 416
/-- A reeve cell. -/
def isReeve (p : Nat) : Bool := decide (firstReeve ≤ p)
/-- The croft site of a compute cell, and its role: 0 haul, 1 mill, 2 thresh, 3 field. -/
abbrev siteOf (p : Nat) : Nat := p / 4
abbrev roleOf (p : Nat) : Nat := p % 4
/-- The die of a cell. -/
def dieOf (p : Nat) : Nat := if isReeve p then (p - firstReeve) / 4 else siteOf p / 26
/-- A NID (R11). -/
def nidOf (lcell slot : Nat) (gen : BitVec 16) : Word := gen ++ BitVec.ofNat 16 (lcell * 32 + slot)

/-! ### Cells and nodes in State -/

def State.cell (s : State) (p : Nat) : Cell := Tab.getD s.cells p {}
def State.setCell (s : State) (p : Nat) (c : Cell) : State := { s with cells := Tab.set s.cells p c }
def Cell.node? (c : Cell) (i : Nat) : Option Node := Tab.get? c.nodes i
def Cell.setNode (c : Cell) (i : Nat) (n : Node) : Cell := { c with nodes := Tab.set c.nodes i n }
def State.node? (s : State) (p i : Nat) : Option Node := (s.cell p).node? i
def State.setNode (s : State) (p i : Nat) (n : Node) : State := s.setCell p ((s.cell p).setNode i n)
def State.inst? (s : State) (k : Nat) : Option Inst := Tab.get? s.insts k
def State.setInst (s : State) (k : Nat) (i : Inst) : State := { s with insts := Tab.set s.insts k i }
def State.croft (s : State) (site : Nat) : Croft := Tab.getD s.crofts site {}
def State.setCroft (s : State) (site : Nat) (c : Croft) : State := { s with crofts := Tab.set s.crofts site c }

/-- The slot and the node that the current cell runs. -/
def State.run? (s : State) : Option (Nat × Node) :=
  match (s.cell s.cur).running with
  | none => none
  | some i =>
    match s.node? s.cur i with
    | none => none
    | some n => if n.stt = .running then some (i, n) else none

/-- The instance that occupies a cell. -/
def State.instOf (s : State) (p : Nat) : Option (Nat × Inst) :=
  match (s.cell p).inst with
  | none => none
  | some k => (s.inst? k).map (fun i => (k, i))

/-- The NID of a node slot of a cell. -/
def State.nid (s : State) (p i : Nat) : Word :=
  nidOf (s.cell p).lcell i (((s.node? p i).map (·.gen)).getD 0)

/-! ### Registers -/

/-- Frames of the region, F (R18). -/
def Node.frames (n : Node) : Nat := n.size / 16

/-- The storage of a register name; g0, p0 and k0 have none (R17, R18, R20, R24). -/
def Node.loc (n : Node) : RegName → Option Loc
  | .g r =>
    if r = 0 then none
    else if r.toNat < 16 then some (.g r.toNat)
    else if n.inTrap && decide (24 ≤ r.toNat) then some (.bank (r.toNat - 24))
    else some (.region (16 * n.cur + (r.toNat - 16)))
  | .a r => some (.a r.toNat)
  | .p r => if r = 0 then none else some (.p r.toNat)
  | .v r => some (.v r.toNat)
  | .k r => if r = 0 then none else some (.k r.toNat)

/-- The storage of several names. -/
def Node.locs (n : Node) (l : List RegName) : List Loc := l.filterMap n.loc

/-- A word of g storage. -/
def Node.cellAt (n : Node) : Loc → RegCell
  | .g i => Store.get {} n.g i
  | .region w => Store.get {} n.region w
  | .bank i => Store.get {} n.bank i
  | _ => {}

/-- g[r]: g0 reads zero, and so does a released register (R17, R22). -/
def Node.getG (n : Node) (r : GReg) : Word :=
  match n.loc (.g r) with
  | none => 0
  | some l => (n.cellAt l).val
/-- a[r]. -/
def Node.getA (n : Node) (r : AReg) : Addr := Store.get 0 n.a r.toNat
/-- p[r]: p0 reads 1. -/
def Node.getP (n : Node) (r : PReg) : Bool := if r = 0 then true else Store.get false n.p r.toNat
/-- v[r] of the bound context. -/
def Node.getV (n : Node) (r : VReg) : Vec :=
  match n.vec with
  | none => 0
  | some c => (Store.get {} c.v r.toNat).val
/-- k[r]: k0 reads all ones (R24). -/
def Node.getK (n : Node) (r : KReg) : BitVec 16 :=
  if r = 0 then 0xFFFF
  else match n.vec with
    | none => 0
    | some c => Store.get 0 c.k r.toNat
/-- A register pair {g[r+1], g[r]} (R69). -/
def Node.getPair (n : Node) (r : GReg) : Addr := n.getG (r + 1) ++ n.getG r

def RegVal.toWord : RegVal → Word | .word w => w | _ => 0
def RegVal.toAddr : RegVal → Addr | .addr a => a | _ => 0
def RegVal.toBit : RegVal → Bool | .bit b => b | _ => false
/-- A vector register after a masked write. -/
def RegVal.onVec (old : Vec) : RegVal → Vec
  | .vec v m => (old &&& ~~~m) ||| (v &&& m)
  | _ => old
/-- A lane mask after a masked write. -/
def RegVal.onLanes (old : BitVec 16) : RegVal → BitVec 16
  | .lanes k m => (old &&& ~~~m) ||| (k &&& m)
  | _ => old

/-- A register write lands: the register becomes live (R22, R23). -/
def Node.write (n : Node) (w : RegWrite) : Node :=
  match w.loc with
  | .g i => { n with g := Store.set {} n.g i { val := w.val.toWord } }
  | .region i => { n with region := Store.set {} n.region i { val := w.val.toWord } }
  | .bank i => { n with bank := Store.set {} n.bank i { val := w.val.toWord } }
  | .a i => { n with a := Store.set 0 n.a i w.val.toAddr }
  | .p i => { n with p := Store.set false n.p i w.val.toBit }
  | .v i =>
    match n.vec with
    | none => n
    | some c => { n with vec := some { c with v := Store.set {} c.v i { val := w.val.onVec (Store.get {} c.v i).val } } }
  | .k i =>
    match n.vec with
    | none => n
    | some c => { n with vec := some { c with k := Store.set 0 c.k i (w.val.onLanes (Store.get 0 c.k i)) } }

/-- A write to a register by name; one without storage is discarded. -/
def Node.writeReg (n : Node) (r : RegName) (v : RegVal) : Node :=
  match n.loc r with
  | none => n
  | some l => n.write ⟨l, v⟩

/-- A last use: the register reads zero and is not live (R22). -/
def Node.release (n : Node) : Loc → Node
  | .g i => { n with g := Store.set {} n.g i { val := 0, live := false } }
  | .region i => { n with region := Store.set {} n.region i { val := 0, live := false } }
  | .bank i => { n with bank := Store.set {} n.bank i { val := 0, live := false } }
  | .v i =>
    match n.vec with
    | none => n
    | some c => { n with vec := some { c with v := Store.set {} c.v i { val := 0, live := false } } }
  | _ => n

/-- The last-use sources of an instruction are released when it reads them; one that it also writes becomes live again when
its result lands (R22, log entry 23). -/
def Node.releaseAll (n : Node) (rel : List Loc) : Node := rel.foldl Node.release n

/-! ### Fixed latencies and the scoreboard (R26 to R29) -/

/-- A fixed-latency write waits in order of landing. Of two that land in one cycle the one issued earlier is made last and
stays (log entry 76). -/
def insertFixed (w : FixedWrite) : List FixedWrite → List FixedWrite
  | [] => [w]
  | x :: t => if w.land ≤ x.land then w :: x :: t else x :: insertFixed w t

/-- The writes of the list that land by cycle `c`, made in order; the node and the writes that remain. -/
def landGo (c : Nat) : List FixedWrite → Node → Node × List FixedWrite
  | [], n => (n, [])
  | w :: t, n => if w.land ≤ c then landGo c t (n.write w.write) else (n, w :: t)

/-- Every write that an instruction issuing at cycle `c` reads is made (R27). -/
def Node.landed (n : Node) (c : Nat) : Node :=
  match n.fixed with
  | [] => n
  | f => let r := landGo c f n; { r.1 with fixed := r.2 }

/-- Every pending fixed-latency write is made (R15). -/
def Node.flush (n : Node) : Node := { (n.fixed.foldl (fun m w => m.write w.write) n) with fixed := [] }

/-- The cycle by which every pending fixed-latency write has landed. -/
def Node.lastLand (n : Node) : Nat := n.fixed.foldl (fun m w => max m w.land) 0

/-- Some of these registers is pending from an interlocked instruction (R28). -/
def Node.owes (n : Node) (l : List Loc) : Bool := n.owed.any (fun o => o.dests.any (fun d => l.contains d))

/-- NCTL fields (R33). -/
def Node.chk (n : Node) : Bool := n.nctl.getLsbD 0
def Node.rndDefault (n : Node) : Nat := bitsN n.nctl.toNat 1 3
def Node.dzt (n : Node) : Bool := n.nctl.getLsbD 4
def Node.fpte (n : Node) : BitVec 5 := n.nctl.extractLsb' 5 5

/-- The number and the file of a register name in a STALL_UNDERSIZED detail (R29): number [20:16], file [22:21]. -/
def RegName.detail : RegName → BitVec 16
  | .g r => BitVec.ofNat 16 r.toNat
  | .v r => BitVec.ofNat 16 (r.toNat + 32)
  | .a r => BitVec.ofNat 16 (r.toNat + 64)
  | .p r => BitVec.ofNat 16 (r.toNat + 96)
  | .k r => BitVec.ofNat 16 (r.toNat + 96)

/-- Under NCTL.CHK, the first of these registers for which a fixed-latency result is pending after cycle `c` (R29,
log entry 21). -/
def Node.early (n : Node) (l : List RegName) : Option Trap :=
  if n.chk then
    (l.find? (fun r => match n.loc r with
      | none => false
      | some x => n.fixed.any (fun w => decide (w.write.loc = x)))).map
      (fun r => { cause := .stallUndersized, detail := r.detail })
  else none

/-! ### Hints (R80 to R83) -/

/-- The address of an unperformed instruction, or of the first hint of its run (R81). -/
def Node.firstWord (n : Node) : Word := n.hints.start.getD n.pc

/-- Rounding: the MOD hint's mode, or NCTL.RND (R46, R48): 0 RNE, 1 RZ, 2 RD, 3 RU. -/
def Node.rnd (n : Node) : Nat :=
  match n.hints.mod with
  | some (r, _) => if r.toNat = 0 then n.rndDefault else r.toNat - 1
  | none => n.rndDefault
/-- Saturation by a MOD hint (R47). -/
def Node.sat (n : Node) : Bool :=
  match n.hints.mod with
  | some (_, b) => b
  | none => false
/-- The 32-bit immediate: sign-extended, or the WIDE value (R82, R111). -/
def Node.imm (n : Node) (i : BitVec 13) : Word :=
  match n.hints.wide with
  | some hi => hi ++ i
  | none => i.signExtend 32

/-! ### Reports (R347, R349) -/

/-- The group of the instance on a cell; the reeve domain is no group of a launch (R347). -/
def State.groupOf (s : State) (p : Nat) : Option Nat :=
  match s.instOf p with
  | none => none
  | some (_, i) => if i.reeve then none else some i.group
/-- The cell belongs to the twin copy of its instance. -/
def State.isTwinCell (s : State) (p : Nat) : Bool :=
  match s.instOf p with
  | some (_, i) => !isReeve p && i.twin.contains (siteOf p)
  | none => false

/-- A report waits for its die's report unit. -/
def State.reportTo (s : State) (die : Nat) (r : Report) : State :=
  let g := Tab.getD s.pkg.rings die {}
  { s with pkg := { s.pkg with rings := Tab.set s.pkg.rings die { g with pending := g.pending ++ [r] } } }

/-- The launch of the instance on a cell; the reeve domain has none. -/
def State.launchOf (s : State) (p : Nat) : Option Nat :=
  match s.instOf p with
  | none => none
  | some (_, i) => if i.reeve then none else some i.launch

/-- The first cause routed to a reeve from a launch is kept for its completion record (R298). -/
def State.noteCause (s : State) (l : Option Nat) (c : Cause) (g : Option Nat) : State :=
  match l with
  | none => s
  | some l =>
    { s with launches := Tab.modify s.launches l (fun x => if x.fcause.isSome then x else { x with fcause := some (c, g) }) }

/-- A report about a cell goes to the cell's die. -/
def State.reportCell (s : State) (p : Nat) (c : Cause) (detail : BitVec 16) (taddr : Addr := 0) (nid : Word := 0) : State :=
  (s.reportTo (dieOf p)
    { cause := c, twin := s.isTwinCell p, pcell := p, nid := nid, tcause := tcauseWord c detail, taddr := taddr,
      group := s.groupOf p }).noteCause (s.launchOf p) c (s.groupOf p)

/-- A corrected soft error of a cell: SECNT rises, and CORRECTED_THRESHOLD is reported at each nonzero multiple of SETHR
(R350, R352). -/
def State.corrected (s : State) (p : Nat) : State :=
  let c := s.cell p
  let c := { c with wear := { c.wear with setot := min 0xFFFFFFFF (c.wear.setot + 1) } }
  if 0xFFFF ≤ c.secnt then s.setCell p c
  else if s.pkg.sethr ≠ 0 ∧ (c.secnt + 1) % s.pkg.sethr = 0 then
    (s.setCell p { c with secnt := c.secnt + 1, thresholds := c.thresholds + 1 }).reportCell p .correctedThreshold 0
  else s.setCell p { c with secnt := c.secnt + 1 }

/-! ### Stopping a node (R15) -/

/-- A node that leaves RUNNING: its fixed-latency writes are complete and its stall count has passed before the cell
issues again. -/
def State.stopNode (s : State) (p i : Nat) (n : Node) (st : NodeSt) : State :=
  let c := s.cell p
  let c := { c with cyc := max c.cyc (max n.issueAt n.lastLand),
                    running := if c.running = some i then none else c.running }
  s.setCell p (c.setNode i { n.flush with stt := st })

/-! ### Taking a trap, and returning from one -/

/-- R38: what a trap taken by the node's own handler does to the node. -/
def Node.enterTrap (n : Node) (t : Trap) (tip : Word) : Node :=
  { n with
    tcause := tcauseWord t.cause t.detail, tip := tip, taddr := t.taddr,
    tloopc := n.loopc, tloops := n.loops, tloope := n.loope, loopc := 0,
    inTrap := true, pc := n.tvec &&& 0xFFFFFFFC#32, hints := {} }

/-- R131: the return from a trap: the saved loop state comes back, a loop that TIP lies outside is cancelled, and
execution goes on at TIP. -/
def Node.returnTrap (n : Node) : Node :=
  let t := n.tip &&& 0xFFFFFFFC#32
  { n with
    loopc := if n.tloopc ≠ 0 ∧ (t < n.tloops ∨ n.tloope < t) then 0 else n.tloopc,
    loops := n.tloops, loope := n.tloope, inTrap := false, pc := t }

/-- A held delivery (R345): the node is TRAPPED at `tip` and a report goes to the die's reeve. -/
def State.trapHeld (s : State) (p i : Nat) (n : Node) (t : Trap) (c : Cause) (detail : BitVec 16) (tip : Word) : State :=
  let s := s.stopNode p i { n with pc := tip, hints := {}, heldFor := some t } .trapped
  (s.reportTo (dieOf p)
    { cause := c, held := true, twin := s.isTwinCell p, pcell := p, nid := s.nid p i, tcause := tcauseWord c detail,
      tip := tip, taddr := t.taddr, group := s.groupOf p }).noteCause (s.launchOf p) c (s.groupOf p)

/-- Taking a trap (R345 to R348, R208). Held causes keep their delivery. A cause for the node's own handler that arises in
trap mode, or in a node with NOTV, is held as DOUBLE_TRAP with that cause in detail [21:16]; `forbidden` marks an
instruction that trap mode does not allow, whose second cause is 0x25 with TADDR 0. Otherwise R38. -/
def State.takeTrap (s : State) (p i : Nat) (n : Node) (t : Trap) (tip : Word) (forbidden : Bool := false) : State :=
  if t.cause.isHeld then s.trapHeld p i n t t.cause t.detail tip
  else if forbidden then
    s.trapHeld p i n { cause := .doubleTrap } .doubleTrap (BitVec.ofNat 16 Cause.doubleTrap.code) tip
  else if n.inTrap || n.notv then s.trapHeld p i n t .doubleTrap (BitVec.ofNat 16 t.cause.code) tip
  else s.setNode p i (n.enterTrap t tip)

/-- The island of a croft site: of a die's 26 sites, the first 18 form six islands of three and the last eight two of four
(log entry 12). -/
def islandOf (site : Nat) : Nat :=
  let n := site % 26
  8 * (site / 26) + (if n < 18 then n / 3 else 6 + (n - 18) / 4)

/-- The clock of a cell runs: its island is neither stalled nor off (R369, R371). -/
def State.clockOn (s : State) (p : Nat) : Bool :=
  if isReeve p then true
  else
    let i := Tab.getD s.pkg.islands (islandOf (siteOf p)) {}
    !i.stalled && !i.off

/-! ### Completion (R134, R37) -/

/-- The word that executes next, and the loop state, when an instruction completes (R134): `xfer` is the target of a
transfer of control. -/
def Node.advance (n : Node) (xfer : Option Word) : Node :=
  match xfer with
  | some t => if n.loopc ≠ 0 ∧ (t < n.loops ∨ n.loope < t) then { n with pc := t, loopc := 0 } else { n with pc := t }
  | none =>
    if n.loopc ≠ 0 ∧ n.pc = n.loope then
      if n.loopc - 1 ≠ 0 then { n with pc := n.loops, loopc := n.loopc - 1 }
      else { n with pc := n.loope + 4, loopc := 0 }
    else { n with pc := n.pc + 4 }

/-- DBGC.SSTEP, outside trap mode (R36, R37). -/
def Node.singleStep (n : Node) : Bool := n.dbgc.getLsbD 10 && !n.inTrap

/-- The cycles in which an instruction issues: one, three under CRIT, one more for an engine command (R26, R83). -/
def Node.slots (n : Node) (extra : Nat) : Nat := 1 + (if n.hints.crit then 2 else 0) + extra

/-- An instruction that issued at cycle `c` completes: the next word, the earliest next issue, and a trap taken after
completion: a watchpoint's, or SOFTWARE (R196), or else SINGLE_STEP unless the instruction began in trap mode (R26, R37, R134,
log entries 70, 72, 98), by DBGC as it stood at issue (log entry 116). -/
def State.complete (s : State) (p i c st extra : Nat) (n : Node) (xfer : Option Word) (watch : Option Trap)
    (step : Bool) : State :=
  let next := c + n.slots extra
  let n' := { n.advance xfer with issueAt := next + st + n.hints.stall, hints := {}, bkSkip := none }
  let s := s.setCell p { s.cell p with cyc := next }
  match watch with
  | some t => s.takeTrap p i n' t n'.pc
  | none => if step then s.takeTrap p i n' { cause := .singleStep } n'.pc else s.setNode p i n'

/-- A breakpoint at `t` does not fire on the node's next instruction (R37). -/
def State.skipBreak (s : State) (p i : Nat) (t : Word) : State :=
  match s.node? p i with
  | none => s
  | some n => s.setNode p i { n with bkSkip := some t }

/-! ### Issue -/

/-- What an instruction asks of the scoreboard: the registers it reads and writes, its stall count, and a second issue
cycle. -/
structure Need where
  reads : List RegName := []
  writes : List RegName := []
  st : Nat := 0
  extra : Nat := 0

/-- The node as an instruction meets it: cell, slot, issue cycle, and the node with every due write landed. -/
structure Issue where
  p : Nat
  i : Nat
  c : Nat
  n : Node

/-- What the body of an instruction answers. -/
inductive Res where
  /-- the instruction is unperformed and traps; `flags` are set before the trap (R50) -/
  | trap (t : Trap) (flags : BitVec 5 := 0)
  /-- trap mode does not allow the instruction (R348) -/
  | forbidden
  /-- the cell holds, and the instruction is tried again in the next cycle -/
  | hold
  /-- performed: the rest of the state, the node, a transfer of control, a trap of a watchpoint -/
  | done (s : State) (n : Node) (xfer : Option Word := none) (watch : Option Trap := none)
  /-- performed, the node's own record and the cell's time included -/
  | left (s : State)

/-- The cell holds for a cycle (R28). -/
def State.holdCell (s : State) (x : Issue) : State :=
  (s.setCell x.p { s.cell x.p with cyc := x.c + 1 }).setNode x.p x.i x.n

/-- An instruction is unperformed and its trap is taken: TIP at it, or at the first hint of its run. -/
def State.trapUnperformed (s : State) (x : Issue) (t : Trap) (flags : BitVec 5) (forbidden : Bool) : State :=
  (s.setCell x.p { s.cell x.p with cyc := x.c + 1 }).takeTrap x.p x.i
    { x.n with flags := x.n.flags ||| flags, issueAt := x.c + 1 } t x.n.firstWord forbidden

/-- What becomes of a body's answer. Whether SINGLE_STEP follows is asked of DBGC as it stood at issue, so that a MOVSW that sets SSTEP
is not followed by it and one that clears SSTEP is: the model's choice (log entry 116). -/
def State.conclude (s : State) (x : Issue) (nd : Need) : Res → State
  | .trap t f => s.trapUnperformed x t f false
  | .forbidden => s.trapUnperformed x {cause := .doubleTrap} 0 true
  | .hold => s.holdCell x
  | .done s' n xfer watch => s'.complete x.p x.i x.c nd.st nd.extra n xfer watch x.n.singleStep
  | .left s' => s'

/-- The issue of an instruction of the running node of the current cell: it issues at the first cycle that R26 allows; the
checks `pre` of R67 come first; a pending interlocked register holds the cell (R28); under CHK an early register traps
(R29); then the body. -/
def issue (s : State) (nd : Need) (pre : Issue → Option Trap) (body : Issue → Res) : Host.Outcome State Fault Refusal :=
  match s.run? with
  | none => .fault .noRunningNode
  | some (i, n0) =>
    let c := max (s.cell s.cur).cyc n0.issueAt
    let x : Issue := { p := s.cur, i := i, c := c, n := n0.landed c }
    .next
      (match pre x with
       | some t => s.trapUnperformed x t 0 false
       | none =>
         if x.n.owes (x.n.locs nd.reads ++ x.n.locs nd.writes) then s.holdCell x
         else
           match x.n.early (nd.reads ++ nd.writes) with
           | some t => s.trapUnperformed x t 0 false
           | none => s.conclude x nd (body x))

/-- No check before the scoreboard. -/
def preNone (_ : Issue) : Option Trap := none
/-- Check 6 of R67: a bound vector context. -/
def preVector (x : Issue) : Option Trap := if x.n.vec.isNone then some { cause := .vectorNoContext } else none
/-- Check 7 of R67: the cell of the command's role, which a reeve cell never is. -/
def preRole (role : Nat) (x : Issue) : Option Trap :=
  if isReeve x.p || decide (roleOf x.p ≠ role) then some { cause := .engineRole } else none
/-- Check 5 of R67: a reeve node. -/
def preReeve (x : Issue) : Option Trap := if isReeve x.p then none else some { cause := .privileged }

end Sys2Proof.Machine
end

