-- ==== Sys2Proof/Machine/Flags.lean ====
section
/-! DEFINITION. Floating-point exceptions in a node: the sticky flags and the traps (R50), the vote of a CRIT follower
(R362), and the one shape of every instruction that computes registers from registers. -/

namespace Sys2Proof.Machine

/-- The cause of the enabled exception with the lowest flag bit (R50). -/
def excCause (e : Exc) : Cause :=
  if e.getLsbD 0 then .fpInvalid
  else if e.getLsbD 1 then .fpDivzero
  else if e.getLsbD 2 then .fpOverflow
  else if e.getLsbD 3 then .fpUnderflow
  else .fpInexact

/-- The trap of a raised set of exceptions under NCTL.FPTE: detail [4:0] holds the full set (R50). -/
def Node.fpTrap (n : Node) (e : Exc) : Option Trap :=
  if e &&& n.fpte = 0 then none else some { cause := excCause (e &&& n.fpte), detail := e.zeroExtend 16 }

/-- Sticky flags of NSTAT (R34, R50). -/
def Node.raise (n : Node) (e : Exc) : Node := { n with flags := n.flags ||| e }

/-! ### Triple issue (R362) -/

/-- One execution of a CRIT follower with the bits that a soft error flips. -/
def flip (m : Addr) : RegVal → RegVal
  | .word w => .word (w ^^^ m.truncate 32)
  | .addr a => .addr (a ^^^ m)
  | .bit b => .bit (b ^^ m.getLsbD 0)
  | v => v

/-- The vote of three results, values with their exception sets: the majority, and whether the three were equal; none when
all differ. -/
def vote (x y z : RegVal × Exc) : Option ((RegVal × Exc) × Bool) :=
  if x = y then some (x, decide (y = z))
  else if x = z then some (x, false)
  else if y = z then some (y, false)
  else none

/-- What the three executions of a CRIT follower show of a soft error: the exception sets are compared for FPS alone (R362). -/
def SoftError.seen (x : SoftError) (fps : Bool) : SoftError := if fps then x else { x with exc := (0, 0, 0) }

/-- The three results of a CRIT follower as a soft error leaves them, voted. -/
def SoftError.vote (x : SoftError) (v : RegVal) (e : Exc) : Option ((RegVal × Exc) × Bool) :=
  Machine.vote (flip x.val.1 v, e ^^^ x.exc.1) (flip x.val.2.1 v, e ^^^ x.exc.2.1) (flip x.val.2.2 v, e ^^^ x.exc.2.2)

/-- The soft error that meets the next CRIT follower of a cell: none that is listed changes nothing. -/
def State.softError (s : State) (p : Nat) : SoftError := (s.cell p).soft.headD {}

/-! ### Instructions from registers to a register (R105, R153) -/

/-- An instruction that reads registers, computes one value and writes one register: the registers read, those released
by last use, the destination, the latency (none: interlocked, R27), whether it needs a vector context, whether its flags
come with its result (R50), whether it is of FPS, and the value with the exceptions it raises, or a trap. -/
structure Simple where
  reads : List RegName
  rel : List RegName := []
  dest : RegName
  lat : Option Nat := some 1
  vec : Bool := false
  late : Bool := false
  fps : Bool := false
  st : Nat := 0
  f : Node → Except Trap (RegVal × Exc)

def Simple.need (x : Simple) : Need := { reads := x.reads, writes := [x.dest], st := x.st }

/-- An interlocked result is owed to the node (R28): it arrives by a step of its own. -/
def Node.owe (n : Node) (dests : List Loc) (form : OwedForm) (need : Nat) (flags : Exc := 0) (fp : Bool := false)
    (watch : Option Trap := none) (outvoted : Bool := false) : Node :=
  { n with
    owed := n.owed ++ [{ tok := n.tok, dests := dests, form := form, need := need, flags := flags, fp := fp, watch := watch,
                         outvoted := outvoted }],
    tok := n.tok + 1 }

/-- The node in the last of an instruction's executions: what lands before the third execution of a CRIT follower has landed
(R83). -/
def Node.atLast (n : Node) (c : Nat) : Node := if n.hints.crit then n.landed (c + 2) else n

/-- An instruction that waits for its result: an interlocked one, but for FSQRT and its like with FPTE nonzero, which hold the
cell for it, and a division into g0, for which nothing is pending (R28, R50). -/
def Simple.waits (x : Simple) (n : Node) : Bool :=
  x.lat.isNone && (if x.late then decide (n.fpte = 0) else (n.loc x.dest).isSome)

/-- The result goes on its way: at once for latency 1 (log entry 76), at its landing cycle for a longer one, as an owed result
for an interlocked instruction. FSQRT and its like with FPTE nonzero held the cell for the result (R50), which is then
written; that no cycle passes meanwhile, so that an older fixed-latency result for the same register still lands over it, is the
model's choice (log entry 99). -/
def Simple.deliver (x : Simple) (c : Nat) (n : Node) (v : RegVal) (e : Exc) (outvoted : Bool := false) : Node :=
  let c := if n.hints.crit then c + 2 else c
  match x.lat with
  | some l =>
    let n := n.raise e
    match n.loc x.dest with
    | none => n
    | some d => if l ≤ 1 then n.write ⟨d, v⟩ else { n with fixed := insertFixed ⟨c + l, ⟨d, v⟩⟩ n.fixed }
  | none =>
    if x.late && decide (n.fpte = 0) then
      n.owe (n.locs [x.dest]) (.value ((n.locs [x.dest]).map (fun d => ⟨d, v⟩))) 0 e true (outvoted := outvoted)
    else if x.late then (n.raise e).writeReg x.dest v
    else
      match n.loc x.dest with
      | none => n
      | some d => n.owe [d] (.value [⟨d, v⟩]) 0 (outvoted := outvoted)

/-- A write under a lane mask to a register that the instruction itself releases: the lanes not selected keep the contents that
the instruction read (R22, R153). -/
def Node.keepLanes (n : Node) (d : RegName) (rel : List RegName) (v : RegVal) : RegVal :=
  match d, v with
  | .v r, .vec w m => if rel.contains d then .vec (RegVal.onVec (n.getV r) (.vec w m)) (BitVec.allOnes 512) else v
  | _, _ => v

/-- The effect of a simple instruction on the node, once its value is known and voted: the last-use sources are released, after
the third execution under CRIT, and the result goes on its way (R22, R105). -/
def Simple.perform (x : Simple) (c : Nat) (n : Node) (v : RegVal) (e : Exc) (outvoted : Bool := false) : Node :=
  x.deliver c ((n.atLast c).releaseAll (n.locs x.rel)) (n.keepLanes x.dest x.rel v) e outvoted

/-- The soft error that a CRIT follower met is spent. -/
def State.spendSoft (s : State) (p : Nat) : State :=
  match (s.cell p).soft with
  | [] => s
  | _ :: t => s.setCell p { s.cell p with soft := t }

/-- A CRIT follower whose value and exceptions are known (R362): on a disagreement of all three executions it traps
unperformed, as it does where the voted set has an enabled exception (R50); one execution outvoted is a corrected error of
the cell, which an instruction that waits for its result counts when that arrives, and any other at once (log entry 77). -/
def Simple.voted (x : Simple) (s : State) (u : Issue) (v : RegVal) (e : Exc) : Res :=
  let r := ((s.softError u.p).seen x.fps).vote v e
  let s := s.spendSoft u.p
  match r with
  | none => .left ((s.corrected u.p).trapUnperformed u { cause := .tripleVoteDisagree } 0 false)
  | some ((w, f), same) =>
    match u.n.fpTrap f with
    | some t => .left ((if same then s else s.corrected u.p).trapUnperformed u t f false)
    | none =>
      if x.waits u.n then .done s (x.perform u.c u.n w f !same)
      else .done (if same then s else s.corrected u.p) (x.perform u.c u.n w f)

/-- The body of a simple instruction. -/
def Simple.body (x : Simple) (s : State) (u : Issue) : Res :=
  match x.f u.n with
  | .error t => .trap t
  | .ok (v, e) =>
    if u.n.hints.crit then x.voted s u v e
    else
      match u.n.fpTrap e with
      | some t => .trap t e
      | none => .done s (x.perform u.c u.n v e)

/-- A simple instruction, from issue to completion. -/
def simple (x : Simple) (s : State) : Host.Outcome State Fault Refusal :=
  issue s x.need (if x.vec then preVector else preNone) (x.body s)

end Sys2Proof.Machine
end

