-- ==== Sys2Proof/Machine/Memory.lean ====
section
/-! DEFINITION. Addresses, their checks and their homes (R137 to R139, R243 to R245, R311 to R314), accesses in flight
(R142, R246, R277), and what a home performs (R140, R141, R147 to R151, R247). -/

namespace Sys2Proof.Machine

/-! ### Extents -/

abbrev localSize : Nat := 0x18000
abbrev tier1Size : Nat := 96 * 2 ^ 30
abbrev tier2Size : Nat := 2 * 2 ^ 40

/-- Crofts of a domain; the reeve domain's 16 cells count as four (R11, log entry 7). -/
def Inst.crofts (i : Inst) : Nat := if i.reeve then 4 else i.image.w * i.image.h
/-- Bytes of the granary window (R243); the reeve domain has none. -/
def Inst.windowSize (i : Inst) : Nat := if i.reeve then 0 else 2 ^ 21 * (i.image.w * i.image.h)
/-- The physical cell of a logical cell, in the primary copy. -/
def Inst.pcell (i : Inst) (l : Nat) : Nat := if i.reeve then firstReeve + l else 4 * i.sites.getD (l / 4) 0 + l % 4
/-- The physical cell of a logical cell in the twin copy. -/
def Inst.twinCell (i : Inst) (l : Nat) : Nat := 4 * i.twin.getD (l / 4) 0 + l % 4

/-! ### The granary window (R212, R244) -/

/-- The storage that a window offset reaches now: the two ranges of a flipped shadow pair are exchanged (R212). -/
def Inst.mapWindow (i : Inst) (o : Nat) : Nat :=
  (i.flipped.foldl (fun acc j => match acc with
    | some _ => acc
    | none => match i.image.shadow[j]? with
      | none => none
      | some q =>
        if q.voff ≤ o ∧ o < q.voff + q.len then some (q.hoff + (o - q.voff))
        else if q.hoff ≤ o ∧ o < q.hoff + q.len then some (q.voff + (o - q.hoff))
        else none) none).getD o

/-- The bin of a window offset, as a physical bin number 4 × site + i (R244). -/
def Inst.binOf (i : Inst) (o : Nat) : Nat :=
  let b := o / 256 % (4 * i.crofts)
  4 * i.sites.getD (b / 4) 0 + b % 4

/-- The place of a window offset in its bin; granules of one bin follow one another (log entry 8). -/
def Inst.binKey (i : Inst) (o : Nat) : Nat :=
  keyBin (i.binOf o) (o / 256 / (4 * i.crofts) * 256 + o % 256)

/-- The place that a window offset reaches now. -/
def Inst.windowKey (i : Inst) (o : Nat) : Nat := i.binKey (i.mapWindow o)

/-! ### One access and its detail (R139) -/

/-- What an access is, for its checks. -/
structure Acc where
  size : Nat
  rd : Bool := false
  wr : Bool := false
  vec : Bool := false
  lane : Nat := 0
  second : Bool := false
  amo2 : Bool := false
  /-- the bytes that a plain store writes (R260) -/
  data : Option Nat := none
  deriving DecidableEq, Repr

def sizeCode (n : Nat) : Nat :=
  if n = 1 then 0 else if n = 2 then 1 else if n = 4 then 2 else if n = 8 then 3 else if n = 32 then 4 else 5

/-- TCAUSE detail of an access (R139). -/
def Acc.detail (k : Acc) : BitVec 16 :=
  BitVec.ofNat 16 ((if k.wr then 1 else 0) + (if k.rd then 2 else 0) + (if k.vec then 4 else 0) + 8 * k.lane
    + (if k.second then 256 else 0) + 512 * sizeCode k.size)

def Acc.trap (k : Acc) (c : Cause) (a : Addr) : Trap := { cause := c, detail := k.detail, taddr := a }

/-! ### Places -/

/-- Where an address that passed its checks lies. -/
structure Place where
  key : Nat
  home : Home
  win : Option (Nat × Nat) := none
  sysatom : Bool := false
  /-- 1 tier-1, 2 tier-2, 3 host page, 0 other -/
  tier : Nat := 0
  mirror : Option Nat := none
  /-- the access leaves the cell -/
  away : Bool := true
  fill : Option TlbEntry := none
  deriving DecidableEq, Repr

/-- The space of an address (R137). -/
def spaceOf (a : Addr) : Nat := bitsN a.toNat 60 4

/-- A range of local offsets meets the code region of a cell. -/
def Cell.meetsCode (c : Cell) (off n : Nat) : Bool := decide (off < c.codeOff + c.codeLen) && decide (c.codeOff < off + n)

/-- Byte `o` of a resident cell's local memory is that of its patched code (R346). -/
def Inst.codeByte (i : Inst) (o : Nat) : Byte :=
  BitVec.ofNat 8 ((i.image.code.getD ((o - i.image.codeOff) / 4) 0).toNat / 2 ^ (8 * ((o - i.image.codeOff) % 4)))

/-- A store of a reeve is the repair of R260: a node of the cell is held for a poisoned word, and what is written into the code
region is what placement wrote there (log entry 111). -/
def State.repairs (s : State) (q off : Nat) (k : Acc) : Bool :=
  let c := s.cell q
  c.nodes.any (fun n => decide (n.2.stt = .trapped) && decide (n.2.heldFor.map (·.cause) = some .poisonFetch)) &&
    (match k.data, s.instOf q with
     | some d, some (_, i) => (List.range k.size).all (fun j =>
         !c.meetsCode (off + j) 1 || decide (BitVec.ofNat 8 (d / 2 ^ (8 * j)) = i.codeByte (off + j)))
     | _, _ => false)

/-- A write that no check lets into the code region of cell `q` while an instance is resident there (R138, R260). -/
def State.codeWrite (s : State) (q off : Nat) (k : Acc) : Bool := (s.cell q).inst.isSome && (s.cell q).meetsCode off k.size

/-- Checks 1 to 6 of R138, in order, for an access by cell `p`. A PRIVILEGED of check 2 has R139's detail (log entry 97); a store
of a reeve into resident code fails check 6, but for a repair (R260, log entry 111). -/
def staticCheck (s : State) (p : Nat) (a : Addr) (k : Acc) : Except Trap Unit :=
  let x := a.toNat
  let sp := spaceOf a
  let low := x % 2 ^ 60
  let io := (s.instOf p).map (·.2)
  let crofts := (io.map Inst.crofts).getD 0
  let off := bitsN x 0 17
  let cell1 := bitsN x 17 11
  -- 1
  if !((sp == 0 && decide (low < 2 ^ 17)) || (sp == 1 && decide (low < 2 ^ 28)) || (sp == 2 && decide (low < 2 ^ 32))
       || (sp == 8 && decide (low < 2 ^ 48)) || sp == 15) then .error (k.trap .addressSpace a)
  -- 2
  else if sp == 15 && !isReeve p then .error (k.trap .privileged a)
  -- 3
  else if x % k.size ≠ 0 then .error (k.trap .misaligned a)
  -- 4
  else if (sp == 0 || sp == 1) && decide (localSize ≤ off) then .error (k.trap .addressSpace a)
  else if sp == 2 && decide ((io.map Inst.windowSize).getD 0 ≤ low) then .error (k.trap .addressSpace a)
  else if sp == 15 &&
      (let r := bitsN x 56 4
       let b := x % 2 ^ 56
       !((r == 0 && decide (b < tier1Size)) || (r == 1 && decide (b < tier2Size)) || r == 2
         || (r == 3 && decide (b < 432 * 2 ^ 17) && decide (off < localSize))
         || (r == 4 && decide (b < 416 * 2 ^ 19)))) then .error (k.trap .addressSpace a)
  -- 5
  else if sp == 1 && decide (4 * crofts ≤ cell1) then .error (k.trap .remoteOutsideDomain a)
  -- 6
  else if k.wr && (sp == 0 || sp == 1) &&
      (s.cell (if sp == 0 then p else (io.map (·.pcell cell1)).getD p)).meetsCode off k.size then .error (k.trap .pageProtection a)
  else if k.wr && sp == 15 && decide (bitsN x 56 4 = 3) &&
      (let q := x % 2 ^ 56 / 2 ^ 17
       s.codeWrite q off k && !s.repairs q off k) then .error (k.trap .pageProtection a)
  else .ok ()

/-! ### Translation (R312 to R314) -/

abbrev pteP (e : Nat) : Bool := bitsN e 0 1 == 1
abbrev pteL (e : Nat) : Bool := bitsN e 1 1 == 1
abbrev pteW (e : Nat) : Bool := bitsN e 2 1 == 1
abbrev pteTier (e : Nat) : Nat := bitsN e 3 2
abbrev pteSysatom (e : Nat) : Bool := bitsN e 5 1 == 1
abbrev pteNx (e : Nat) : Bool := bitsN e 6 1 == 1
abbrev pteAddr (e : Nat) : Nat := bitsN e 8 48 * 256

/-- An error that the code of a tier-1 block only detects waits in the block of a place (R350). -/
def State.blockFails (s : State) (key : Nat) : Bool :=
  s.flaws.any (fun x => decide (8 * x.1 / 64 = key / 64) && decide (x.2 ≠ 1) && decide (x.2 ≠ 0))

/-- A table word: none when it is poisoned, its block fails its code, or it lies outside tier-1 memory. -/
def tableWord (s : State) (a : Nat) : Option Nat :=
  if tier1Size < a + 8 then none
  else if poisonedAt s.poison (keyTier1 a) 8 || s.blockFails (keyTier1 a) then none
  else some (Memory.num s.mem (keyTier1 a) 8)

/-- log2 of the page size of a leaf at a level, and the table index of a virtual address at a level (R313). -/
def pageBits (level : Nat) : Nat := if level = 2 then 30 else if level = 3 then 21 else 16
def tableIndex (va level : Nat) : Nat :=
  if level = 1 then bitsN va 39 9 else if level = 2 then bitsN va 30 9 else if level = 3 then bitsN va 21 9
  else bitsN va 16 5

/-- The walk from entry `e` of the level above the first of `levels`. -/
def walkGo (s : State) (va : Nat) : List Nat → Nat → Except Cause (Nat × Nat)
  | [], e => .ok (4, e)
  | l :: t, e =>
    if !pteP e then .error .pageNotPresent
    else if decide (bitsN e 1 7 ≠ 0) || decide (bitsN e 56 8 ≠ 0)
        || decide (pteAddr e % (if l = 4 then 256 else 4096) ≠ 0) then .error .translationWalkError
    else match tableWord s (pteAddr e + 8 * tableIndex va l) with
      | none => .error .translationWalkError
      | some e' => if decide (l < 4) && pteL e' then .ok (l, e') else walkGo s va t e'

/-- The physical extent of a tier. -/
def tierSize (t : Nat) : Nat := if t = 0 then tier1Size else if t = 1 then tier2Size else 2 ^ 56

/-- The checks of a leaf (R312, R313); a frame outside its memory is an error too (log entry 9). -/
def leafCheck (level e : Nat) : Except Cause Unit :=
  if !pteP e then .error .pageNotPresent
  else if decide (bitsN e 7 1 ≠ 0) || decide (bitsN e 56 8 ≠ 0) || (decide (level = 4) && pteL e) || pteTier e == 3
      || (pteSysatom e && decide (pteTier e ≠ 2)) || decide (pteAddr e % 2 ^ pageBits level ≠ 0)
      || decide (tierSize (pteTier e) < pteAddr e + 2 ^ pageBits level) then .error .translationWalkError
  else .ok ()

/-- A walk (R313): level and leaf. -/
def walk (s : State) (root va : Nat) : Except Cause (Nat × Nat) :=
  match tableWord s (root + 8 * tableIndex va 1) with
  | none => .error .translationWalkError
  | some e =>
    match walkGo s va [2, 3, 4] e with
    | .error c => .error c
    | .ok (l, leaf) =>
      match leafCheck l leaf with
      | .error c => .error c
      | .ok _ => .ok (l, leaf)

/-- The table words that a walk from entry `e` reads. -/
def wordsGo (s : State) (va : Nat) : List Nat → Nat → List Nat
  | [], _ => []
  | l :: t, e =>
    if !pteP e || decide (bitsN e 1 7 ≠ 0) || decide (bitsN e 56 8 ≠ 0) || decide (pteAddr e % (if l = 4 then 256 else 4096) ≠ 0) then []
    else
      let a := pteAddr e + 8 * tableIndex va l
      a :: (match tableWord s a with
        | none => []
        | some e' => if decide (l < 4) && pteL e' then [] else wordsGo s va t e')
/-- The table words that a walk reads (R313). -/
def walkWords (s : State) (root va : Nat) : List Nat :=
  let a := root + 8 * tableIndex va 1
  a :: (match tableWord s a with
    | none => []
    | some e => wordsGo s va [2, 3, 4] e)

/-- The leaf for a virtual address at a station: cached, or walked for (R314). -/
def translate (s : State) (station root va : Nat) : Except Cause (TlbEntry × Bool) :=
  match (s.croft station).tlb.find? (fun t => decide (t.root = root) && decide (t.vpn = va / 2 ^ pageBits t.level)) with
  | some t => .ok (t, false)
  | none =>
    match walk s root va with
    | .error c => .error c
    | .ok (l, e) => .ok ({ root := root, vpn := va / 2 ^ pageBits l, level := l, leaf := BitVec.ofNat 64 e }, true)

/-- The TROOT of the instance on a cell; the reeve domain's is 0 (R292, log entry 7). -/
def State.troot (s : State) (p : Nat) : Nat :=
  match s.instOf p with
  | none => 0
  | some (_, i) => if i.reeve then 0 else ((Tab.get? s.launches i.launch).map (·.troot)).getD 0

/-- The physical place of a translated address. -/
def physKey (leaf level va : Nat) : Nat :=
  pteTier leaf * 2 ^ 56 + (pteAddr leaf + va % 2 ^ pageBits level)

/-- The home of a place in tier-1, tier-2 or host memory: one granule one home, host memory the bridge (R245). -/
def dramHome (key : Nat) : Home := if keyRegion key = 2 then .bridge else .chan (key / 256)

/-- Checks 7 and 8 and the place of an address that passed checks 1 to 6. -/
def placeOf (s : State) (p : Nat) (a : Addr) (k : Acc) : Except Trap Place :=
  let x := a.toNat
  let sp := spaceOf a
  let off := bitsN x 0 17
  if sp == 0 then .ok { key := keyLocal p off, home := .cell p, away := false }
  else if sp == 1 then
    let l := bitsN x 17 11
    match s.instOf p with
    | none => .ok { key := keyLocal p off, home := .cell p, away := false }
    | some (_, i) =>
      if l = (s.cell p).lcell then .ok { key := keyLocal p off, home := .cell p, away := false }
      else .ok { key := keyLocal (i.pcell l) off, home := .cell (i.pcell l),
                 mirror := if i.twin.isEmpty then none else some (keyLocal (i.twinCell l) off) }
  else if sp == 2 then
    let o := x % 2 ^ 60
    match s.instOf p with
    | none => .ok { key := keyBin 0 o, home := .bin 0 }
    | some (n, i) => .ok { key := i.windowKey o, home := .bin (i.binOf o), win := some (n, o) }
  else if sp == 8 then
    let va := x % 2 ^ 48
    match translate s (siteOf p) (s.troot p) va with
    | .error c => .error (k.trap c a)
    | .ok (t, fresh) =>
      let e := t.leaf.toNat
      if (k.wr && !pteW e) || (k.amo2 && pteTier e == 2) then .error (k.trap .pageProtection a)
      else
        let key := physKey e t.level va
        .ok { key := key, home := dramHome key, sysatom := pteSysatom e, tier := pteTier e + 1,
              fill := if fresh then some t else none }
  else
    let r := bitsN x 56 4
    let b := x % 2 ^ 56
    if r = 3 then .ok { key := 3 * 2 ^ 56 + b, home := .cell (b / 2 ^ 17), away := decide (b / 2 ^ 17 ≠ p) }
    else if r = 4 then .ok { key := 4 * 2 ^ 56 + b, home := .bin (b / 2 ^ 19) }
    else .ok { key := r * 2 ^ 56 + b, home := dramHome (r * 2 ^ 56 + b), tier := r + 1 }

/-- All the checks of R138: the place, or the first failing check's trap. -/
def checkAccess (s : State) (p : Nat) (a : Addr) (k : Acc) : Except Trap Place :=
  match staticCheck s p a k with
  | .error t => .error t
  | .ok _ => placeOf s p a k

/-- A walked leaf enters the station's cache of 256; the oldest leaves it (R314, log entry 10). -/
def State.fillTlb (s : State) (station : Nat) : Option TlbEntry → State
  | none => s
  | some t =>
    let c := s.croft station
    if c.tlb.contains t then s
    else s.setCroft station { c with tlb := (c.tlb ++ [t]).drop (c.tlb.length + 1 - 256) }

/-! ### Sending an access (R246, R277, R360) -/

/-- The budget that counts an access: 1 tier-1, 2 tier-2, 4 granary ALU (R277). -/
def budgetOf (pl : Place) (op : AccOp) : Nat :=
  if pl.tier = 1 then 1 else if pl.tier = 2 then 2
  else match pl.home, op with
    | .bin _, .amo .. => 4
    | .bin _, .dcas .. => 4
    | .bin _, .amov2 _ => 4
    | _, _ => 0

/-- A station's share of a budget: none when there is no limit (R277). -/
def State.share (s : State) (i : Inst) (kind : Nat) : Option Nat :=
  let b := ((Tab.get? s.launches i.launch).map (fun l => l.budgets.getD (kind - 1) 0)).getD 0
  if kind = 0 ∨ b = 0 then none else some (max 64 (b / max 1 i.crofts / 64 * 64))

/-- Is there room in this period at a station? -/
def State.budgetOpen (s : State) (site kind : Nat) (i : Inst) : Bool :=
  match s.share i kind with
  | none => true
  | some n => decide (Store.get 0 (s.croft site).spent kind < n)

/-- Bytes admitted at a station. -/
def State.spend (s : State) (site kind n : Nat) : State :=
  if kind = 0 then s
  else
    let c := s.croft site
    s.setCroft site { c with spent := Store.set 0 c.spent kind (Store.get 0 c.spent kind + n) }

/-- The budgets of an access's locations are open at its station. -/
def State.admits (s : State) (i? : Option Inst) (a : Access) : Bool :=
  match i? with
  | none => true
  | some i => s.budgetOpen a.site a.budget i && s.budgetOpen a.site a.budget2 i
/-- An admitted access counts against the budget of each of its locations. -/
def State.spendAccess (s : State) (a : Access) : State := (s.spend a.site a.budget a.size).spend a.site a.budget2 a.size

/-- An earlier request of a source waits at its station for a budget, and those after it wait with it (R277). -/
def State.queues (s : State) (src : Src) : Bool := s.net.any (fun b => decide (b.src = src) && !b.admitted)

/-- An access joins those in flight, admitted at its station or waiting there in order. -/
def State.inject (s : State) (i? : Option Inst) (a : Access) : State :=
  let ok := !s.queues a.src && s.admits i? a
  let s := if ok then s.spendAccess a else s
  { s with net := s.net ++ [{ a with admitted := ok }] }

/-- An access of cell `p` is sent. In twin mode one that leaves the cell waits for its like of the other copy (log entry 74). -/
def State.send (s : State) (p : Nat) (away : Bool) (a : Access) : State :=
  match s.instOf p with
  | none => s.inject none a
  | some (k, i) =>
    if away && !i.twin.isEmpty then
      s.setInst k { i with twinq := i.twinq ++ [{ second := s.isTwinCell p, lcell := (s.cell p).lcell, msg := .access a }] }
    else s.inject (some i) a

/-- The source of a node's accesses. -/
def srcOf (u : Issue) : Src := .node u.p u.i u.n.gen

/-- The sources of an access: two of one that both copies of a twin-mode group made (R360). -/
def Access.srcs (a : Access) : List Src := a.src :: a.src2.toList
/-- The homes of an access: those of its locations, and the cells of their places in the twin copy (R151, R360). -/
def Access.homes (a : Access) : List Home :=
  a.home :: (a.home2.toList ++ (a.mirror.toList ++ a.mirror2.toList).map (fun m => .cell (keyLow m / 2 ^ 17)))
/-- An access reaches a home. -/
def Access.reaches (a : Access) (h : Home) : Bool := a.homes.contains h

/-- The packets of the node that its station holds for the twin's (R360). -/
def State.heldPackets (s : State) (src : Src) : List TwinMsg :=
  match src with
  | .node p _ _ =>
    match s.instOf p with
    | none => []
    | some (_, i) => (i.twinq.map (·.msg)).filter (fun t => match t with
      | .access a => decide (a.src = src)
      | .tid q _ _ => decide (q = src)
      | .grow q _ _ _ => decide (q = src)
      | .offer .. => false)
  | _ => []

/-- Accesses of a node that are not yet performed, those held at its station for the twin and those that the other copy's node
made for both included (R261). -/
def State.inFlight (s : State) (src : Src) : Bool :=
  s.net.any (fun a => a.srcs.contains src) || !(s.heldPackets src).isEmpty

/-- Accesses of a source to one home that are not yet performed. -/
def State.inFlightTo (s : State) (src : Src) (h : Home) : Bool :=
  s.net.any (fun a => a.srcs.contains src && a.reaches h) ||
    (s.heldPackets src).any (fun t => match t with
      | .access a => a.reaches h
      | _ => false)

/-- An access that stays in the node's cell waits, and the cell with it, while the station holds for the twin an AMO2 of the node
with a word there: the two are performed in program order (R163, R249, R360, log entry 74). -/
def State.ownWaits (s : State) (u : Issue) (away : Bool) : Bool :=
  !away && (s.heldPackets (srcOf u)).any (fun t => match t with
    | .access a => a.reaches (.cell u.p)
    | _ => false)

/-! ### What a home performs -/

/-- The new value of an atomic (R148, R149), on numbers of `w` bits. -/
def amoNew (fn w old v e : Nat) : Nat :=
  match fn with
  | 0 => (old + v) % 2 ^ w
  | 1 => old &&& v
  | 2 => old ||| v
  | 3 => old ^^^ v
  | 4 => if sgn w v < sgn w old then v else old
  | 5 => if sgn w old < sgn w v then v else old
  | 6 => if v < old then v else old
  | 7 => if old < v then v else old
  | 8 => v
  | 9 => if old = e then v else old
  | _ => (fpAdd fp32 0 false old v).1

/-- The place of an access now. -/
def State.keyNow (s : State) (key : Nat) : Option (Nat × Nat) → Nat
  | none => key
  | some (k, o) =>
    match s.inst? k with
    | none => key
    | some i => i.windowKey o

/-- A home lies in the local memory of a sealed cell. -/
def State.sealedHome (s : State) : Home → Bool
  | .cell q => (s.cell q).isSealed
  | _ => false

/-- A part of a response reaches the result that waits for it; a node of another generation is gone. -/
def Node.receive (n : Node) (r : Ret) (x : Part) : Node :=
  { n with owed := n.owed.map (fun o => if o.tok = r.tok then { o with got := o.got ++ [{ x with n := r.part }] } else o) }

def State.respond (s : State) (rets : List Ret) (x : Nat → Part) : State :=
  rets.foldl (fun s r =>
    match s.node? r.pcell r.slot with
    | none => s
    | some n => if n.gen = r.gen then s.setNode r.pcell r.slot (n.receive r (x r.part)) else s) s

/-- A place of tier-2 memory beyond the capacity of its port (R327): port p serves the addresses from p × 2^38 on. -/
def State.absentAt (s : State) (key : Nat) : Bool :=
  decide (keyRegion key = 1) && decide (s.pkg.tier2.getD (keyLow key / 2 ^ 38) 0 ≤ keyLow key % 2 ^ 38)
/-- Poisoned, or absent. -/
def State.poisoned (s : State) (key n : Nat) : Bool := s.absentAt key || poisonedAt s.poison key n

/-- Bytes written at a home: a store of whole doublewords clears their poison (R141). -/
def State.writeHome (s : State) (key n data : Nat) : State :=
  { s with mem := Memory.setNum s.mem key n data, poison := cleanAt s.poison key n }

/-- The cell that owns the storage at a place, for its SECNT (R350): none for DRAM; a bin's number is that of the cell with
which it shares its corner of the croft, and the thresh cell owns the operand slots and the tiles (log entry 84). -/
def ownerOf (key : Nat) : Option Nat :=
  match keyRegion key with
  | 3 => some (keyLow key / 2 ^ 17)
  | 4 => some (keyLow key / 2 ^ 19)
  | 5 => some (4 * (keyLow key / 2 ^ 19) + 2)
  | 6 => some (4 * (keyLow key / 2 ^ 20) + 2)
  | _ => none

/-- The storage that R350 protects on the package itself. -/
def protectedKey (key : Nat) : Bool := decide (keyRegion key ≠ 1) && decide (keyRegion key ≠ 2)

/-- A doubleword is read: an error that its code corrects is corrected and counted, one that it only detects poisons the
doubleword, and in tier-1 DRAM all eight of its block (R350). -/
def State.meetFlaw (s : State) (d : Nat) : State :=
  let s' := { s with flaws := Store.set 0 s.flaws d 0 }
  if Store.get 0 s.flaws d = 1 then
    match ownerOf (8 * d) with
    | none => s'
    | some p => s'.corrected p
  else if Store.get 0 s.flaws d = 0 then s
  else if keyRegion (8 * d) = 0 then { s' with poison := poisonAt s'.poison (8 * d / 64 * 64) 64 }
  else { s' with poison := setInsert s'.poison d }

/-- The storage whose code a read of `n` bytes at a place checks: whole doublewords, or whole blocks of tier-1 DRAM (R350). -/
def codeUnit (key : Nat) : Nat := if keyRegion key = 0 then 64 else 8
/-- `n` bytes at a place are read. -/
def State.inspect (s : State) (key n : Nat) : State :=
  if protectedKey key then
    let u := codeUnit key
    (s.flaws.filter (fun x => decide (key / u * u < 8 * x.1 + 8) && decide (8 * x.1 < (key + n + u - 1) / u * u))).foldl
      (fun s x => s.meetFlaw x.1) s
  else s

/-- The storage that a walk for a virtual address reads is met (R350). -/
def State.meetWalk (s : State) (root va : Nat) : State :=
  if s.flaws.isEmpty then s else (walkWords s root va).foldl (fun s a => if tier1Size < a + 8 then s else s.inspect (keyTier1 a) 8) s
/-- The storage that the walk of an address of cell `p` reads, where its station has no translation of it. -/
def State.meetAddr (s : State) (p : Nat) (a : Addr) : State :=
  if s.flaws.isEmpty || spaceOf a != 8 then s
  else
    let va := a.toNat % 2 ^ 48
    if (s.croft (siteOf p)).tlb.any (fun t => decide (t.root = s.troot p) && decide (t.vpn = va / 2 ^ pageBits t.level)) then s
    else s.meetWalk (s.troot p) va

/-- A write of whole doublewords leaves no error in them. -/
def State.renew (s : State) (key n : Nat) : State :=
  { s with flaws := s.flaws.filter (fun x => !(decide (key ≤ 8 * x.1) && decide (8 * x.1 + 8 ≤ key + n))) }

/-- `n` bytes are written at a place (R142, R350): a doubleword that the write covers in part is read first, and no error is left in one
that it covers whole. -/
def State.meetWrite (s : State) (key n : Nat) : State :=
  if s.flaws.isEmpty then s
  else
    let part := (dwords key n).filter (fun d => !(decide (key ≤ 8 * d) && decide (8 * d + 8 ≤ key + n)))
    (part.foldl (fun s d => s.inspect (8 * d) 8) s).renew key n

/-- An access meets the storage at a place (R142, R350): a narrow store reads it first. -/
def State.meet (s : State) (op : AccOp) (key n : Nat) : State :=
  match op with
  | .store _ => if n < 8 then s.inspect key n else s.renew key n
  | _ => s.inspect key n

/-- A request on CXL.cache (R325). -/
def State.cacheReq (s : State) (kind : CacheKind) (key n : Nat) : State :=
  { s with pkg := { s.pkg with cacheReqs := s.pkg.cacheReqs ++ [{ kind := kind, addr := keyLow key, n := n }] } }

/-- A report about an access of a source: its cell, and its node where it is one. -/
def State.reportSrc (s : State) (src : Src) (c : Cause) (detail : BitVec 16) (va : Addr) : State :=
  match src with
  | .node p i gen => s.reportCell p c detail va (nidOf (s.cell p).lcell i gen)
  | .engine site e => s.reportCell (4 * site + e) c detail va
  | .host => s.reportTo 0 { cause := c, tcause := tcauseWord c detail, taddr := va }

/-- A store at its home (R141): discarded at a sealed cell, refused and reported when narrower than a poisoned
doubleword (log entry 63). -/
def State.storeHome (s : State) (src : Src) (home : Home) (key n data : Nat) (va : Addr) (detail : BitVec 16) : State :=
  if s.sealedHome home then
    match home with
    | .cell q => s.setCell q { s.cell q with discarded := (s.cell q).discarded + 1 }
    | _ => s
  else if s.absentAt key then s
  else if decide (n < 8) && poisonedAt s.poison key n then
    s.reportSrc src .poisonConsumed detail va
  else s.writeHome key n data

/-- The lowest poisoned doubleword of a range, as an offset from its start; 0 for a range inside a doubleword. -/
def firstPoison (p : List Nat) (key n : Nat) : Nat :=
  match (dwords key n).find? (fun d => p.contains d) with
  | none => 0
  | some d => 8 * d - key

/-- The trap of poison read by an access (R141); a vector load names the lowest of the poisoned doublewords (log entry 126). -/
def poisonTrap (s : State) (a : Access) (home : Home) (key : Nat) (va : Addr) (second : Bool) : Option Trap :=
  if s.sealedHome home || s.poisoned key a.size then
    some { cause := .poisonConsumed,
           detail := if second then a.detail ||| 256#16 else a.detail,
           taddr := va + BitVec.ofNat 64 (if a.size ≤ 8 then 0 else firstPoison s.poison key a.size) }
  else none

/-- A word written in place, and in the twin copy's cell where there is one. -/
def State.setWord (s : State) (key : Nat) (mirror : Option Nat) (v : Nat) : State :=
  let m := Memory.setNum s.mem key 4 v
  { s with mem := match mirror with
    | none => m
    | some k => Memory.setNum m k 4 v }

/-- An access to tier-2 memory that is not there is reported (R327). -/
def State.reportAbsent (s : State) (a : Access) (key key2 : Nat) : State :=
  if s.absentAt key || s.absentAt key2 then s.reportSrc a.src .translationWalkError a.detail a.va else s

/-- A read that an instruction makes at its home in the step in which it performs: its budget counts it (R277), absent tier-2 memory
is reported (R327), and the host bridge asks for a host page (R325). -/
def State.readHere (s : State) (a : Access) : State :=
  let key := s.keyNow a.key a.win
  let s := (s.spendAccess a).reportAbsent a key 0
  if a.home = .bridge then s.cacheReq .rdCurr key a.size else s

/-- The request with which the host bridge performs an access to a host page (R325). -/
def Access.request (a : Access) (key : Nat) : CacheKind :=
  match a.op with
  | .load => .rdCurr
  | .store _ => if a.size = 64 ∧ key % 64 = 0 then .itoMWr else .wrCur
  | _ => if a.sysatom then .dirtyEvict else .wrCur

/-- An atomic at the host bridge is a read and a write (R325). -/
def Access.splits (a : Access) : Bool :=
  decide (a.home = .bridge) && (match a.op with
    | .amo .. => true
    | _ => false)

/-- A store or an atomic whose tail flits are poisoned reaches one of its places: the place is poisoned, unless its cell is sealed
(R354, log entry 125). -/
def State.spoilAt (s : State) (a : Access) (home : Home) (key : Nat) : State :=
  if s.sealedHome home then
    match a.op with
    | .store d => s.storeHome a.src home key a.size d a.va a.detail
    | _ => s
  else { s with poison := poisonAt s.poison key a.size }

/-- Every place of such an access. -/
def State.spoil (s : State) (a : Access) (key key2 : Nat) : State :=
  let copy : Nat → Home × Nat := fun m => (.cell (keyLow m / 2 ^ 17), m)
  ((a.home, key) :: (a.home2.toList.map (fun h => (h, key2)) ++ (a.mirror.toList ++ a.mirror2.toList).map copy)).foldl
    (fun s x => s.spoilAt a x.1 x.2) s

/-- An access is performed at its home (R140, R141, R148, R151, R247). -/
def State.performOp (s : State) (a : Access) : State :=
  let key := s.keyNow a.key a.win
  let key2 := s.keyNow a.key2 a.win2
  let s := (s.meet a.op key a.size)
  let s := if a.home2.isSome then s.meet a.op key2 4 else s
  let s := if a.op = .load then s
    else
      let copies : List (Nat × Nat) := a.mirror.toList.map (fun m => (m, a.size)) ++ a.mirror2.toList.map (fun m => (m, 4))
      copies.foldl (fun s m => s.meet a.op m.1 m.2) s
  let old := (a.read.map (·.1)).getD (Memory.num s.mem key a.size)
  let bad := (a.read.map (·.2)).getD (poisonTrap s a a.home key a.va false)
  let s := s.reportAbsent a key key2
  let s := if a.home = .bridge then s.cacheReq (a.request key) key a.size else s
  if a.tail && decide (a.op ≠ .load) then s.spoil a key key2
  else match a.op with
  | .load => s.respond a.rets (fun _ => { n := 0, data := old, poison := bad })
  | .store d =>
    let s := s.storeHome a.src a.home key a.size d a.va a.detail
    match a.mirror with
    | none => s
    | some m => s.storeHome a.src (.cell (keyLow m / 2 ^ 17)) m a.size d a.va a.detail
  | .amo fn v e =>
    let new := amoNew fn (8 * a.size) old v e
    let wrote := !(fn == 9 && decide (old ≠ e))
    let s := if bad.isNone && wrote then
        (let s := { s with mem := Memory.setNum s.mem key a.size new }
         match a.mirror with
         | none => s
         | some m => { s with mem := Memory.setNum s.mem m a.size new })
      else s
    s.respond a.rets (fun _ => { n := 0, data := old, poison := bad, wrote := wrote })
  | .dcas v1 v2 e1 e2 =>
    let old2 := Memory.num s.mem key2 4
    let bad2 := poisonTrap s a (a.home2.getD a.home) key2 a.va2 true
    let ok := decide (old = e1) && decide (old2 = e2)
    let s := if bad.isNone && bad2.isNone && ok then (s.setWord key a.mirror v1).setWord key2 a.mirror2 v2 else s
    s.respond a.rets (fun part =>
      { n := 0, data := if part = 0 then old else old2, poison := if bad.isSome then bad else bad2, wrote := ok })
  | .amov2 v =>
    let old2 := Memory.num s.mem key2 4
    let bad2 := poisonTrap s a (a.home2.getD a.home) key2 a.va2 true
    let s := if bad.isNone && bad2.isNone then (s.setWord key2 a.mirror2 old).setWord key a.mirror v else s
    s.respond a.rets (fun _ => { n := 0, data := old2, poison := if bad.isSome then bad else bad2, wrote := true })

/-- The bridge has read the host's line of a place for an atomic and not yet written it: every device access to the line waits
(R150). -/
def State.lineBusy (s : State) (key : Nat) : Bool :=
  decide (keyRegion key = 2) && s.net.any (fun a => a.read.isSome && decide (a.key / 64 = key / 64))

/-- Access `i` may be performed: admitted, no earlier access of its source to a home of its own waits (R249), and no line of its
locations is held for another's atomic (R150). -/
def State.mayPerform (s : State) (i : Nat) : Bool :=
  match s.net[i]? with
  | none => false
  | some a =>
    a.admitted && !((s.net.take i).any (fun b => b.srcs.any a.srcs.contains && b.homes.any a.homes.contains)) &&
      (a.read.isSome || !(s.lineBusy a.key || (a.home2.isSome && s.lineBusy a.key2)))

/-- The host bridge reads for an atomic: RdOwn for a page with SYSATOM, whose line it then holds, else RdCurr (R325). No device
access to the line is performed until it has written (R150). -/
def State.bridgeRead (s : State) (i : Nat) (a : Access) : State :=
  let r := (Memory.num s.mem a.key a.size, poisonTrap s a a.home a.key a.va false)
  { s.cacheReq (if a.sysatom then .rdOwn else .rdCurr) a.key a.size with net := s.net.set i { a with read := some r } }

/-- Access `i` of those in flight is performed, if it may be; an atomic at the host bridge in two steps. -/
def State.performAccess (s : State) (i : Nat) : State :=
  match s.net[i]? with
  | none => s
  | some a =>
    if !s.mayPerform i then s
    else if a.splits && a.read.isNone then s.bridgeRead i a
    else { s with net := s.net.eraseIdx i }.performOp a

/-- The bridge holds the host's line of a place for a SYSATOM atomic: snoops of it, and with them the host's stores and atomics,
wait for the writeback (R325). -/
def State.lineHeld (s : State) (key : Nat) : Bool :=
  s.net.any (fun a => a.read.isSome && a.sysatom && decide (a.key / 64 = key / 64))

/-! ### Results that arrive (R28, R50, R141) -/

/-- The part numbered `n` of a response. -/
def Owed.partN (o : Owed) (n : Nat) : Nat := ((o.got.find? (fun x => x.n == n)).map (·.data)).getD 0

/-- The parts of a response set into lanes of `w` bits. -/
def lanesOf (w : Nat) (got : List Part) : Nat × Nat :=
  got.foldl (fun acc x => (acc.1 + x.data * 2 ^ (w * x.n), acc.2 + (2 ^ w - 1) * 2 ^ (w * x.n))) (0, 0)

/-- The register writes of a response. -/
def Owed.writes (o : Owed) : List RegWrite :=
  match o.form with
  | .value l => l
  | .load loc size signed =>
    [⟨loc, .word (if signed then BitVec.ofInt 32 (sgn (8 * size) (o.partN 0)) else BitVec.ofNat 32 (o.partN 0))⟩]
  | .pair lo hi => [⟨lo, .word (BitVec.ofNat 32 (o.partN 0))⟩, ⟨hi, .word (BitVec.ofNat 32 (o.partN 0 / 2 ^ 32))⟩]
  | .areg n => [⟨.a n, .addr (BitVec.ofNat 64 (o.partN 0))⟩]
  | .vec n half =>
    [⟨.v n, .vec (BitVec.ofNat 512 (o.partN 0)) (if half then BitVec.ofNat 512 (2 ^ 256 - 1) else BitVec.allOnes 512)⟩]
  | .gather n half =>
    let l := lanesOf (if half then 16 else 32) o.got
    [⟨.v n, .vec (BitVec.ofNat 512 l.1) (BitVec.ofNat 512 l.2)⟩]
  | .two l1 l2 => [⟨l1, .word (BitVec.ofNat 32 (o.partN 0))⟩, ⟨l2, .word (BitVec.ofNat 32 (o.partN 1))⟩]
  | .second loc => [⟨loc, .word (BitVec.ofNat 32 (o.partN 0))⟩]
  | .discard => []

/-- The trap of the lowest poisoned part. -/
def Owed.poison (o : Owed) : Option Trap :=
  (o.got.foldl (fun (best : Option (Nat × Trap)) x => match x.poison with
    | none => best
    | some t => match best with
      | none => some (x.n, t)
      | some (m, t') => if x.n < m then some (x.n, t) else some (m, t')) none).map (·.2)

/-- Result `i` of those owed to the node arrives, if it is complete: its registers are written and its flags set, or, if a
part is poisoned, the node has a trap to take at a boundary to come and no register is written. -/
def Node.arrive (n : Node) (i : Nat) : Node :=
  match n.owed[i]? with
  | none => n
  | some o =>
    if o.got.length < o.need then n
    else
      let n := { n with owed := n.owed.eraseIdx i }
      match o.poison with
      | some t => { n with pend := n.pend ++ [t] }
      | none =>
        let n := o.writes.foldl Node.write (n.raise o.flags)
        match o.watch with
        | some t => if o.got.any (·.wrote) then { n with pend := n.pend ++ [t] } else n
        | none => n

end Sys2Proof.Machine
end

