-- ==== Sys2Proof/Machine/Scalar.lean ====
section
/-! DEFINITION. The scalar instructions that compute one register from registers: INT, the immediate forms, comparisons,
BITS, LUT3, MULDIV, scalar floating point and address arithmetic (R105 to R126). -/

namespace Sys2Proof.Machine

/-! ### Operand shapes -/

/-- The last-use sources of the a and b fields (R22). -/
def rel2 (la lb : Bool) (a b : GReg) : List RegName := (if la then [.g a] else []) ++ (if lb then [.g b] else [])
def rel1 (la : Bool) (a : GReg) : List RegName := if la then [.g a] else []

/-- g[d] from g[a] and g[b]. -/
def intR (f : Word → Word → Word) (lat : Nat) (d a b : GReg) (la lb : Bool) (st : BitVec 2) (s : State) :=
  simple { reads := [.g a, .g b], rel := rel2 la lb a b, dest := .g d, lat := some lat, st := st.toNat,
           f := fun n => .ok (.word (f (n.getG a) (n.getG b)), 0) } s
/-- g[d] from g[d], g[a] and g[b]: the accumulate port (R21). -/
def accR (f : Word → Word → Word → Word) (d a b : GReg) (la lb : Bool) (st : Nat) (s : State) :=
  simple { reads := [.g a, .g b, .g d], rel := rel2 la lb a b, dest := .g d, st := st,
           f := fun n => .ok (.word (f (n.getG d) (n.getG a) (n.getG b)), 0) } s
/-- g[d] from g[a] and the immediate (R111). -/
def immI (f : Word → Word → Word) (lat : Nat) (d a : GReg) (la : Bool) (st : BitVec 2) (imm : BitVec 13) (s : State) :=
  simple { reads := [.g a], rel := rel1 la a, dest := .g d, lat := some lat, st := st.toNat,
           f := fun n => .ok (.word (f (n.getG a) (n.imm imm)), 0) } s
/-- g[d] from g[a]. -/
def oneR (f : Word → Word) (d a : GReg) (la : Bool) (st : BitVec 2) (s : State) :=
  simple { reads := [.g a], rel := rel1 la a, dest := .g d, st := st.toNat,
           f := fun n => .ok (.word (f (n.getG a)), 0) } s
/-- The predicate a comparison leaves: set, AND with old, OR with old (R112). -/
def combine (comb : BitVec 2) (old t : Bool) : Bool :=
  if comb = 0 then t else if comb = 1 then old && t else old || t
/-- p[p] from a condition on g[a] and g[b]. -/
def cmpR (f : Word → Word → Bool) (p : PReg) (comb : BitVec 2) (a b : GReg) (la lb : Bool) (st : BitVec 2) (s : State) :=
  simple { reads := [.g a, .g b] ++ (if comb = 0 then [] else [.p p]), rel := rel2 la lb a b, dest := .p p,
           st := st.toNat,
           f := fun n => .ok (.bit (combine comb (n.getP p) (f (n.getG a) (n.getG b))), 0) } s
/-- p[p] from a condition on g[a] and the immediate (R113). -/
def cmpI (f : Word → Word → Bool) (p : PReg) (a : GReg) (la : Bool) (st : BitVec 2) (imm : BitVec 13) (s : State) :=
  simple { reads := [.g a], rel := rel1 la a, dest := .p p, st := st.toNat,
           f := fun n => .ok (.bit (f (n.getG a) (n.imm imm)), 0) } s
/-- Division and remainder (R119): interlocked, DIV_ZERO under NCTL.DZT. -/
def divR (f : Word → Word → Word) (d a b : GReg) (la lb : Bool) (st : BitVec 2) (s : State) :=
  simple { reads := [.g a, .g b], rel := rel2 la lb a b, dest := .g d, lat := none, st := st.toNat,
           f := fun n => if n.getG b = 0 && n.dzt then .error { cause := .divZero }
                         else .ok (.word (f (n.getG a) (n.getG b)), 0) } s
/-- A word result of a floating-point operation with its exceptions. -/
def fpWord (r : Nat × Exc) : RegVal × Exc := (.word (BitVec.ofNat 32 r.1), r.2)
/-- A floating-point operation on g[a] and g[b] (R120): latency 4. -/
def fpR (f : Nat → Bool → Nat → Nat → Nat × Exc) (d a b : GReg) (la lb : Bool) (st : BitVec 2) (s : State) :=
  simple { reads := [.g a, .g b], rel := rel2 la lb a b, dest := .g d, lat := some 4, fps := true, st := st.toNat,
           f := fun n => .ok (fpWord (f n.rnd n.sat (n.getG a).toNat (n.getG b).toNat)) } s
/-- A floating-point operation on g[a]. -/
def fpOne (f : Nat → Bool → Word → RegVal × Exc) (lat : Option Nat) (late : Bool) (d a : GReg) (la : Bool)
    (st : BitVec 2) (s : State) :=
  simple { reads := [.g a], rel := rel1 la a, dest := .g d, lat := lat, late := late, fps := true, st := st.toNat,
           f := fun n => .ok (f n.rnd n.sat (n.getG a)) } s
/-- A floating-point comparison into a predicate (R124). -/
def fcmpR (f : Nat → Nat → Bool) (p : PReg) (a b : GReg) (la lb : Bool) (st : BitVec 2) (s : State) :=
  simple { reads := [.g a, .g b], rel := rel2 la lb a b, dest := .p p, lat := some 4, fps := true, st := st.toNat,
           f := fun n => .ok (.bit (f (n.getG a).toNat (n.getG b).toNat), 0) } s
/-- a[d] from a[a] and g[b] (R125). -/
def addrR (f : Addr → Word → Addr) (d a : AReg) (b : GReg) (lb : Bool) (st : BitVec 2) (s : State) :=
  simple { reads := [.a a, .g b], rel := rel1 lb b, dest := .a d, st := st.toNat,
           f := fun n => .ok (.addr (f (n.getA a) (n.getG b)), 0) } s
/-- g[d] from address registers (R125). -/
def addrG (reads : List RegName) (f : Node → Word) (d : GReg) (st : BitVec 2) (s : State) :=
  simple { reads := reads, dest := .g d, st := st.toNat, f := fun n => .ok (.word (f n), 0) } s

/-! ### The functions (R108 to R119) -/

/-- The signed saturation of R108. -/
def clampWord (v : Int) : Word := BitVec.ofInt 32 (clampS 32 v)
/-- The shift count of R109. -/
def shiftCount (y : Word) : Nat := y.toNat % 64
def opShl (x y : Word) : Word := if shiftCount y < 32 then x <<< shiftCount y else 0
def opShr (x y : Word) : Word := if shiftCount y < 32 then x >>> shiftCount y else 0
def opSha (x y : Word) : Word :=
  if shiftCount y < 32 then x.sshiftRight (shiftCount y) else if x.msb then 0xFFFFFFFF else 0
def opRotl (x y : Word) : Word := x.rotateLeft (shiftCount y % 32)
def opMins (x y : Word) : Word := if y.slt x then y else x
def opMaxs (x y : Word) : Word := if x.slt y then y else x
def opMinu (x y : Word) : Word := if y < x then y else x
def opMaxu (x y : Word) : Word := if x < y then y else x
def opClz (x : Word) : Word := BitVec.ofNat 32 (32 - bitLen x.toNat)
/-- Trailing zero bits of the low `k` bits of a number, `k` if there is no one among them. -/
def trailZeros : Nat → Nat → Nat
  | 0, _ => 0
  | k + 1, x => if x % 2 = 1 then 0 else trailZeros k (x / 2) + 1
def opCtz (x : Word) : Word := BitVec.ofNat 32 (trailZeros 32 x.toNat)
/-- One bits among the low `k` bits of a number. -/
def oneBits : Nat → Nat → Nat
  | 0, _ => 0
  | k + 1, x => x % 2 + oneBits k (x / 2)
def opPopc (x : Word) : Word := BitVec.ofNat 32 (oneBits 32 x.toNat)
/-- The low `k` bits of a number in reverse order. -/
def revBits : Nat → Nat → Nat
  | 0, _ => 0
  | k + 1, x => x % 2 * 2 ^ k + revBits k (x / 2)
def opBrev (x : Word) : Word := BitVec.ofNat 32 (revBits 32 x.toNat)
def opBswap (x : Word) : Word :=
  x.extractLsb' 0 8 ++ x.extractLsb' 8 8 ++ x.extractLsb' 16 8 ++ x.extractLsb' 24 8
/-- Position and length of a field (R115). -/
def fieldPos (y : Word) : Nat := bitsN y.toNat 0 5
def fieldLen (y : Word) : Nat := bitsN y.toNat 8 5 + 1
def opBfx (x y : Word) : Word := BitVec.ofNat 32 (bitsN x.toNat (fieldPos y) (fieldLen y))
def opBfxs (x y : Word) : Word :=
  BitVec.ofInt 32 (sgn (fieldLen y) ((x.signExtend 64).sshiftRight (fieldPos y)).toNat)
def opBfi (d x y : Word) : Word :=
  let m : Word := BitVec.ofNat 32 ((2 ^ fieldLen y - 1) * 2 ^ fieldPos y)
  (d &&& ~~~m) ||| ((x <<< fieldPos y) &&& m)
def opFshl (c : Nat) (x y : Word) : Word := if c = 0 then x else (x <<< c) ||| (y >>> (32 - c))
def opFshr (c : Nat) (x y : Word) : Word := if c = 0 then y else (y >>> c) ||| (x <<< (32 - c))
/-- The bits where three inputs read the three bits of `m` (first input highest). -/
def minterm {w : Nat} (x y z : BitVec w) (m : Nat) : BitVec w :=
  (if m.testBit 2 then x else ~~~x) &&& (if m.testBit 1 then y else ~~~y) &&& (if m.testBit 0 then z else ~~~z)
/-- Three-input logic by a truth table (R117). -/
def lutBits {w : Nat} (tbl : BitVec 8) (x y z : BitVec w) : BitVec w :=
  (List.range 8).foldl (fun acc m => if tbl.getLsbD m then acc ||| minterm x y z m else acc) 0
def opMulhs (x y : Word) : Word := (x.signExtend 64 * y.signExtend 64).extractLsb' 32 32
def opMulhu (x y : Word) : Word := (x.zeroExtend 64 * y.zeroExtend 64).extractLsb' 32 32
def opDivs (n m : Word) : Word := if m = 0 then 0xFFFFFFFF else BitVec.ofInt 32 (n.toInt.tdiv m.toInt)
def opDivu (n m : Word) : Word := if m = 0 then 0xFFFFFFFF else n.udiv m
def opRems (n m : Word) : Word := if m = 0 then n else BitVec.ofInt 32 (n.toInt.tmod m.toInt)
def opRemu (n m : Word) : Word := if m = 0 then n else n.umod m
/-- The conversion of FCVTFI (R123): toward zero, saturating. -/
def opFcvtfi (x : Word) : RegVal × Exc :=
  let r := numToInt 1 (-2147483648) 2147483647 (unpack fp32 x.toNat)
  (.word (BitVec.ofInt 32 r.1), r.2)

/-! ### The instructions -/

/-- ADD: R108, the sum modulo 2^32. -/
def execAdd (d a b : GReg) (la lb : Bool) (st : BitVec 2) (s : State) :
    Host.Outcome State Fault Refusal :=
  intR (fun x y => x + y) 1 d a b la lb st s

/-- SUB: R108, the difference modulo 2^32. -/
def execSub (d a b : GReg) (la lb : Bool) (st : BitVec 2) (s : State) :
    Host.Outcome State Fault Refusal :=
  intR (fun x y => x - y) 1 d a b la lb st s

/-- AND: R108, bitwise AND. -/
def execAnd (d a b : GReg) (la lb : Bool) (st : BitVec 2) (s : State) :
    Host.Outcome State Fault Refusal :=
  intR (fun x y => x &&& y) 1 d a b la lb st s

/-- ANDN: R108, x AND NOT y. -/
def execAndn (d a b : GReg) (la lb : Bool) (st : BitVec 2) (s : State) :
    Host.Outcome State Fault Refusal :=
  intR (fun x y => x &&& ~~~y) 1 d a b la lb st s

/-- OR: R108, bitwise OR. -/
def execOr (d a b : GReg) (la lb : Bool) (st : BitVec 2) (s : State) :
    Host.Outcome State Fault Refusal :=
  intR (fun x y => x ||| y) 1 d a b la lb st s

/-- ORN: R108, x OR NOT y. -/
def execOrn (d a b : GReg) (la lb : Bool) (st : BitVec 2) (s : State) :
    Host.Outcome State Fault Refusal :=
  intR (fun x y => x ||| ~~~y) 1 d a b la lb st s

/-- XOR: R108, bitwise exclusive or. -/
def execXor (d a b : GReg) (la lb : Bool) (st : BitVec 2) (s : State) :
    Host.Outcome State Fault Refusal :=
  intR (fun x y => x ^^^ y) 1 d a b la lb st s

/-- XNOR: R108, NOT of the exclusive or. -/
def execXnor (d a b : GReg) (la lb : Bool) (st : BitVec 2) (s : State) :
    Host.Outcome State Fault Refusal :=
  intR (fun x y => ~~~(x ^^^ y)) 1 d a b la lb st s

/-- SHL: R109, a shift by bits [5:0] of g[b]. -/
def execShl (d a b : GReg) (la lb : Bool) (st : BitVec 2) (s : State) :
    Host.Outcome State Fault Refusal :=
  intR opShl 1 d a b la lb st s

/-- SHR: R109, a shift by bits [5:0] of g[b]. -/
def execShr (d a b : GReg) (la lb : Bool) (st : BitVec 2) (s : State) :
    Host.Outcome State Fault Refusal :=
  intR opShr 1 d a b la lb st s

/-- SHA: R109, a shift by bits [5:0] of g[b]. -/
def execSha (d a b : GReg) (la lb : Bool) (st : BitVec 2) (s : State) :
    Host.Outcome State Fault Refusal :=
  intR opSha 1 d a b la lb st s

/-- ROTL: R109, a shift by bits [5:0] of g[b]. -/
def execRotl (d a b : GReg) (la lb : Bool) (st : BitVec 2) (s : State) :
    Host.Outcome State Fault Refusal :=
  intR opRotl 1 d a b la lb st s

/-- MINS: R108, the smaller, signed. -/
def execMins (d a b : GReg) (la lb : Bool) (st : BitVec 2) (s : State) :
    Host.Outcome State Fault Refusal :=
  intR opMins 1 d a b la lb st s

/-- MAXS: R108, the larger, signed. -/
def execMaxs (d a b : GReg) (la lb : Bool) (st : BitVec 2) (s : State) :
    Host.Outcome State Fault Refusal :=
  intR opMaxs 1 d a b la lb st s

/-- MINU: R108, the smaller, unsigned. -/
def execMinu (d a b : GReg) (la lb : Bool) (st : BitVec 2) (s : State) :
    Host.Outcome State Fault Refusal :=
  intR opMinu 1 d a b la lb st s

/-- MAXU: R108, the larger, unsigned. -/
def execMaxu (d a b : GReg) (la lb : Bool) (st : BitVec 2) (s : State) :
    Host.Outcome State Fault Refusal :=
  intR opMaxu 1 d a b la lb st s

/-- ADDS: R108, the signed sum clamped. -/
def execAdds (d a b : GReg) (la lb : Bool) (st : BitVec 2) (s : State) :
    Host.Outcome State Fault Refusal :=
  intR (fun x y => clampWord (x.toInt + y.toInt)) 1 d a b la lb st s

/-- SUBS: R108, the signed difference clamped. -/
def execSubs (d a b : GReg) (la lb : Bool) (st : BitVec 2) (s : State) :
    Host.Outcome State Fault Refusal :=
  intR (fun x y => clampWord (x.toInt - y.toInt)) 1 d a b la lb st s

/-- SEL: R110, both sources are read whatever the predicate. -/
def execSel (d : GReg) (p : PReg) (a b : GReg) (la lb : Bool) (st : BitVec 2) (s : State) :
    Host.Outcome State Fault Refusal :=
  simple { reads := [.g a, .g b, .p p], rel := rel2 la lb a b, dest := .g d, st := st.toNat,
           f := fun n => .ok (.word (if n.getP p then n.getG a else n.getG b), 0) } s

/-- ADDI: R111, the immediate form. -/
def execAddi (d a : GReg) (la : Bool) (st : BitVec 2) (imm : BitVec 13) (s : State) :
    Host.Outcome State Fault Refusal :=
  immI (fun x i => x + i) 1 d a la st imm s

/-- ANDI: R111, the immediate form. -/
def execAndi (d a : GReg) (la : Bool) (st : BitVec 2) (imm : BitVec 13) (s : State) :
    Host.Outcome State Fault Refusal :=
  immI (fun x i => x &&& i) 1 d a la st imm s

/-- ORI: R111, the immediate form. -/
def execOri (d a : GReg) (la : Bool) (st : BitVec 2) (imm : BitVec 13) (s : State) :
    Host.Outcome State Fault Refusal :=
  immI (fun x i => x ||| i) 1 d a la st imm s

/-- XORI: R111, the immediate form. -/
def execXori (d a : GReg) (la : Bool) (st : BitVec 2) (imm : BitVec 13) (s : State) :
    Host.Outcome State Fault Refusal :=
  immI (fun x i => x ^^^ i) 1 d a la st imm s

/-- MOVI: R111, the immediate itself. -/
def execMovi (d : GReg) (st : BitVec 2) (imm : BitVec 13) (s : State) :
    Host.Outcome State Fault Refusal :=
  simple { reads := [], dest := .g d, st := st.toNat, f := fun n => .ok (.word (n.imm imm), 0) } s

/-- MULI: R111, the low 32 bits of the product; latency 3. -/
def execMuli (d a : GReg) (la : Bool) (st : BitVec 2) (imm : BitVec 13) (s : State) :
    Host.Outcome State Fault Refusal :=
  immI (fun x i => x * i) 3 d a la st imm s

/-- CMPEQ: R112, condition EQ. -/
def execCmpeq (p : PReg) (comb : BitVec 2) (a b : GReg) (la lb : Bool) (st : BitVec 2) (s : State) :
    Host.Outcome State Fault Refusal :=
  cmpR (fun x y => x == y) p comb a b la lb st s

/-- CMPNE: R112, condition NE. -/
def execCmpne (p : PReg) (comb : BitVec 2) (a b : GReg) (la lb : Bool) (st : BitVec 2) (s : State) :
    Host.Outcome State Fault Refusal :=
  cmpR (fun x y => x != y) p comb a b la lb st s

/-- CMPLT: R112, condition LT. -/
def execCmplt (p : PReg) (comb : BitVec 2) (a b : GReg) (la lb : Bool) (st : BitVec 2) (s : State) :
    Host.Outcome State Fault Refusal :=
  cmpR (fun x y => x.slt y) p comb a b la lb st s

/-- CMPLE: R112, condition LE. -/
def execCmple (p : PReg) (comb : BitVec 2) (a b : GReg) (la lb : Bool) (st : BitVec 2) (s : State) :
    Host.Outcome State Fault Refusal :=
  cmpR (fun x y => x.sle y) p comb a b la lb st s

/-- CMPGT: R112, condition GT. -/
def execCmpgt (p : PReg) (comb : BitVec 2) (a b : GReg) (la lb : Bool) (st : BitVec 2) (s : State) :
    Host.Outcome State Fault Refusal :=
  cmpR (fun x y => y.slt x) p comb a b la lb st s

/-- CMPGE: R112, condition GE. -/
def execCmpge (p : PReg) (comb : BitVec 2) (a b : GReg) (la lb : Bool) (st : BitVec 2) (s : State) :
    Host.Outcome State Fault Refusal :=
  cmpR (fun x y => y.sle x) p comb a b la lb st s

/-- CMPLTU: R112, condition LTU. -/
def execCmpltu (p : PReg) (comb : BitVec 2) (a b : GReg) (la lb : Bool) (st : BitVec 2) (s : State) :
    Host.Outcome State Fault Refusal :=
  cmpR (fun x y => x.ult y) p comb a b la lb st s

/-- CMPLEU: R112, condition LEU. -/
def execCmpleu (p : PReg) (comb : BitVec 2) (a b : GReg) (la lb : Bool) (st : BitVec 2) (s : State) :
    Host.Outcome State Fault Refusal :=
  cmpR (fun x y => x.ule y) p comb a b la lb st s

/-- CMPGTU: R112, condition GTU. -/
def execCmpgtu (p : PReg) (comb : BitVec 2) (a b : GReg) (la lb : Bool) (st : BitVec 2) (s : State) :
    Host.Outcome State Fault Refusal :=
  cmpR (fun x y => y.ult x) p comb a b la lb st s

/-- CMPGEU: R112, condition GEU. -/
def execCmpgeu (p : PReg) (comb : BitVec 2) (a b : GReg) (la lb : Bool) (st : BitVec 2) (s : State) :
    Host.Outcome State Fault Refusal :=
  cmpR (fun x y => y.ule x) p comb a b la lb st s

/-- CMPBITANY: R112, condition BITANY. -/
def execCmpbitany (p : PReg) (comb : BitVec 2) (a b : GReg) (la lb : Bool) (st : BitVec 2) (s : State) :
    Host.Outcome State Fault Refusal :=
  cmpR (fun x y => (x &&& y) != 0) p comb a b la lb st s

/-- CMPBITNONE: R112, condition BITNONE. -/
def execCmpbitnone (p : PReg) (comb : BitVec 2) (a b : GReg) (la lb : Bool) (st : BitVec 2) (s : State) :
    Host.Outcome State Fault Refusal :=
  cmpR (fun x y => (x &&& y) == 0) p comb a b la lb st s

/-- CMPIEQ: R113, condition EQ. -/
def execCmpieq (p : PReg) (a : GReg) (la : Bool) (st : BitVec 2) (imm : BitVec 13) (s : State) :
    Host.Outcome State Fault Refusal :=
  cmpI (fun x y => x == y) p a la st imm s

/-- CMPINE: R113, condition NE. -/
def execCmpine (p : PReg) (a : GReg) (la : Bool) (st : BitVec 2) (imm : BitVec 13) (s : State) :
    Host.Outcome State Fault Refusal :=
  cmpI (fun x y => x != y) p a la st imm s

/-- CMPILT: R113, condition LT. -/
def execCmpilt (p : PReg) (a : GReg) (la : Bool) (st : BitVec 2) (imm : BitVec 13) (s : State) :
    Host.Outcome State Fault Refusal :=
  cmpI (fun x y => x.slt y) p a la st imm s

/-- CMPILTU: R113, condition LTU. -/
def execCmpiltu (p : PReg) (a : GReg) (la : Bool) (st : BitVec 2) (imm : BitVec 13) (s : State) :
    Host.Outcome State Fault Refusal :=
  cmpI (fun x y => x.ult y) p a la st imm s

/-- SHLI: R114, left by the count in the word. -/
def execShli (d a : GReg) (n : BitVec 5) (la : Bool) (st : BitVec 2) (s : State) :
    Host.Outcome State Fault Refusal :=
  oneR (fun x => x <<< n.toNat) d a la st s

/-- SHRI: R114, right, zero fill. -/
def execShri (d a : GReg) (n : BitVec 5) (la : Bool) (st : BitVec 2) (s : State) :
    Host.Outcome State Fault Refusal :=
  oneR (fun x => x >>> n.toNat) d a la st s

/-- SHAI: R114, right, sign fill. -/
def execShai (d a : GReg) (n : BitVec 5) (la : Bool) (st : BitVec 2) (s : State) :
    Host.Outcome State Fault Refusal :=
  oneR (fun x => x.sshiftRight n.toNat) d a la st s

/-- ROTLI: R114, rotated left. -/
def execRotli (d a : GReg) (n : BitVec 5) (la : Bool) (st : BitVec 2) (s : State) :
    Host.Outcome State Fault Refusal :=
  oneR (fun x => x.rotateLeft n.toNat) d a la st s

/-- CLZ: R114, leading zero bits. -/
def execClz (d a : GReg) (la : Bool) (st : BitVec 2) (s : State) :
    Host.Outcome State Fault Refusal :=
  oneR opClz d a la st s

/-- CTZ: R114, trailing zero bits. -/
def execCtz (d a : GReg) (la : Bool) (st : BitVec 2) (s : State) :
    Host.Outcome State Fault Refusal :=
  oneR opCtz d a la st s

/-- POPC: R114, one bits. -/
def execPopc (d a : GReg) (la : Bool) (st : BitVec 2) (s : State) :
    Host.Outcome State Fault Refusal :=
  oneR opPopc d a la st s

/-- BREV: R114, bits reversed. -/
def execBrev (d a : GReg) (la : Bool) (st : BitVec 2) (s : State) :
    Host.Outcome State Fault Refusal :=
  oneR opBrev d a la st s

/-- BSWAP: R114, bytes reversed. -/
def execBswap (d a : GReg) (la : Bool) (st : BitVec 2) (s : State) :
    Host.Outcome State Fault Refusal :=
  oneR opBswap d a la st s

/-- BFX: R115, a field, zero-extended. -/
def execBfx (d a b : GReg) (la lb : Bool) (st : BitVec 2) (s : State) :
    Host.Outcome State Fault Refusal :=
  intR opBfx 1 d a b la lb st s

/-- BFXS: R115, a field, sign-extended. -/
def execBfxs (d a b : GReg) (la lb : Bool) (st : BitVec 2) (s : State) :
    Host.Outcome State Fault Refusal :=
  intR opBfxs 1 d a b la lb st s

/-- BFI: R115, a field inserted into g[d]. -/
def execBfi (d a b : GReg) (la lb : Bool) (st : BitVec 2) (s : State) :
    Host.Outcome State Fault Refusal :=
  accR opBfi d a b la lb st.toNat s

/-- FSHL: R116, funnel shift left. -/
def execFshl (d a b : GReg) (la lb : Bool) (st : BitVec 2) (c : BitVec 5) (s : State) :
    Host.Outcome State Fault Refusal :=
  intR (opFshl c.toNat) 1 d a b la lb st s

/-- FSHR: R116, funnel shift right. -/
def execFshr (d a b : GReg) (la lb : Bool) (st : BitVec 2) (c : BitVec 5) (s : State) :
    Host.Outcome State Fault Refusal :=
  intR (opFshr c.toNat) 1 d a b la lb st s

/-- LUT3: R117, any function of three bits. -/
def execLut3 (d a b : GReg) (la lb : Bool) (tbl : BitVec 8) (s : State) :
    Host.Outcome State Fault Refusal :=
  accR (lutBits tbl) d a b la lb 0 s

/-- MUL: R118, low half of the product. -/
def execMul (d a b : GReg) (la lb : Bool) (st : BitVec 2) (s : State) :
    Host.Outcome State Fault Refusal :=
  intR (fun x y => x * y) 3 d a b la lb st s

/-- MULHS: R118, high half, signed. -/
def execMulhs (d a b : GReg) (la lb : Bool) (st : BitVec 2) (s : State) :
    Host.Outcome State Fault Refusal :=
  intR opMulhs 3 d a b la lb st s

/-- MULHU: R118, high half, unsigned. -/
def execMulhu (d a b : GReg) (la lb : Bool) (st : BitVec 2) (s : State) :
    Host.Outcome State Fault Refusal :=
  intR opMulhu 3 d a b la lb st s

/-- DIVS: R119. -/
def execDivs (d a b : GReg) (la lb : Bool) (st : BitVec 2) (s : State) :
    Host.Outcome State Fault Refusal :=
  divR opDivs d a b la lb st s

/-- DIVU: R119. -/
def execDivu (d a b : GReg) (la lb : Bool) (st : BitVec 2) (s : State) :
    Host.Outcome State Fault Refusal :=
  divR opDivu d a b la lb st s

/-- REMS: R119. -/
def execRems (d a b : GReg) (la lb : Bool) (st : BitVec 2) (s : State) :
    Host.Outcome State Fault Refusal :=
  divR opRems d a b la lb st s

/-- REMU: R119. -/
def execRemu (d a b : GReg) (la lb : Bool) (st : BitVec 2) (s : State) :
    Host.Outcome State Fault Refusal :=
  divR opRemu d a b la lb st s

/-- FADD: R120. -/
def execFadd (d a b : GReg) (la lb : Bool) (st : BitVec 2) (s : State) :
    Host.Outcome State Fault Refusal :=
  fpR (fpAdd fp32) d a b la lb st s

/-- FSUB: R120. -/
def execFsub (d a b : GReg) (la lb : Bool) (st : BitVec 2) (s : State) :
    Host.Outcome State Fault Refusal :=
  fpR (fpSub fp32) d a b la lb st s

/-- FMUL: R120. -/
def execFmul (d a b : GReg) (la lb : Bool) (st : BitVec 2) (s : State) :
    Host.Outcome State Fault Refusal :=
  fpR (fpMul fp32) d a b la lb st s

/-- FFMA: R120, g[d] + g[a] × g[b] rounded once. -/
def execFfma (d a b : GReg) (la lb : Bool) (st : BitVec 2) (s : State) :
    Host.Outcome State Fault Refusal :=
  simple { reads := [.g a, .g b, .g d], rel := rel2 la lb a b, dest := .g d, lat := some 4, fps := true, st := st.toNat,
           f := fun n => .ok (fpWord
             (fpFma fp32 n.rnd n.sat false (n.getG d).toNat (n.getG a).toNat (n.getG b).toNat)) } s

/-- FMIN: R121, R51. -/
def execFmin (d a b : GReg) (la lb : Bool) (st : BitVec 2) (s : State) :
    Host.Outcome State Fault Refusal :=
  fpR (fun _ _ x y => (fpMin fp32 x y, 0)) d a b la lb st s

/-- FMAX: R121, R51. -/
def execFmax (d a b : GReg) (la lb : Bool) (st : BitVec 2) (s : State) :
    Host.Outcome State Fault Refusal :=
  fpR (fun _ _ x y => (fpMax fp32 x y, 0)) d a b la lb st s

/-- FABS: R121. -/
def execFabs (d a : GReg) (la : Bool) (st : BitVec 2) (s : State) :
    Host.Outcome State Fault Refusal :=
  fpOne (fun _ _ x => fpWord (fpAbs fp32 x.toNat, 0)) (some 4) false d a la st s

/-- FNEG: R121. -/
def execFneg (d a : GReg) (la : Bool) (st : BitVec 2) (s : State) :
    Host.Outcome State Fault Refusal :=
  fpOne (fun _ _ x => fpWord (fpNeg fp32 x.toNat, 0)) (some 4) false d a la st s

/-- FCVTIF: R123, signed integer to FP32. -/
def execFcvtif (d a : GReg) (la : Bool) (st : BitVec 2) (s : State) :
    Host.Outcome State Fault Refusal :=
  fpOne (fun r _ x => fpWord (intToFp fp32 r x.toInt)) (some 4) false d a la st s

/-- FCVTFI: R123, FP32 to signed integer toward zero. -/
def execFcvtfi (d a : GReg) (la : Bool) (st : BitVec 2) (s : State) :
    Host.Outcome State Fault Refusal :=
  fpOne (fun _ _ x => opFcvtfi x) (some 4) false d a la st s

/-- FSQRT: R122, interlocked. -/
def execFsqrt (d a : GReg) (la : Bool) (st : BitVec 2) (s : State) :
    Host.Outcome State Fault Refusal :=
  fpOne (fun r t x => fpWord (fpSqrt fp32 r t x.toNat)) none true d a la st s

/-- FCMPEQ: R124, R51. -/
def execFcmpeq (p : PReg) (a b : GReg) (la lb : Bool) (st : BitVec 2) (s : State) :
    Host.Outcome State Fault Refusal :=
  fcmpR (fpEq fp32) p a b la lb st s

/-- FCMPNE: R124, R51. -/
def execFcmpne (p : PReg) (a b : GReg) (la lb : Bool) (st : BitVec 2) (s : State) :
    Host.Outcome State Fault Refusal :=
  fcmpR (fun x y => !fpEq fp32 x y) p a b la lb st s

/-- FCMPLT: R124, R51. -/
def execFcmplt (p : PReg) (a b : GReg) (la lb : Bool) (st : BitVec 2) (s : State) :
    Host.Outcome State Fault Refusal :=
  fcmpR (fpLt fp32) p a b la lb st s

/-- FCMPLE: R124, R51. -/
def execFcmple (p : PReg) (a b : GReg) (la lb : Bool) (st : BitVec 2) (s : State) :
    Host.Outcome State Fault Refusal :=
  fcmpR (fpLe fp32) p a b la lb st s

/-- FCMPUN: R124, R51. -/
def execFcmpun (p : PReg) (a b : GReg) (la lb : Bool) (st : BitVec 2) (s : State) :
    Host.Outcome State Fault Refusal :=
  fcmpR (fpUn fp32) p a b la lb st s

/-- ADDA: R125, sign-extended. -/
def execAdda (d a : AReg) (b : GReg) (lb : Bool) (st : BitVec 2) (s : State) :
    Host.Outcome State Fault Refusal :=
  addrR (fun x y => x + y.signExtend 64) d a b lb st s

/-- ADDAU: R125, zero-extended. -/
def execAddau (d a : AReg) (b : GReg) (lb : Bool) (st : BitVec 2) (s : State) :
    Host.Outcome State Fault Refusal :=
  addrR (fun x y => x + y.zeroExtend 64) d a b lb st s

/-- ADDAS: R125, sign-extended and shifted; the field is named t here, apart from the state. -/
def execAddas (d a : AReg) (b : GReg) (lb : Bool) (st : BitVec 2) (t : BitVec 3) (s : State) :
    Host.Outcome State Fault Refusal :=
  addrR (fun x y => x + (y.signExtend 64 <<< t.toNat)) d a b lb st s

/-- MOVGA: R125, {g[b], g[a]}. -/
def execMovga (d : AReg) (a b : GReg) (la lb : Bool) (st : BitVec 2) (s : State) :
    Host.Outcome State Fault Refusal :=
  simple { reads := [.g a, .g b], rel := rel2 la lb a b, dest := .a d, st := st.toNat,
           f := fun n => .ok (.addr (n.getG b ++ n.getG a), 0) } s

/-- MOVAG: R125, low word. -/
def execMovag (d : GReg) (a : AReg) (st : BitVec 2) (s : State) :
    Host.Outcome State Fault Refusal :=
  addrG [.a a] (fun n => (n.getA a).truncate 32) d st s

/-- MOVAGH: R125, high word. -/
def execMovagh (d : GReg) (a : AReg) (st : BitVec 2) (s : State) :
    Host.Outcome State Fault Refusal :=
  addrG [.a a] (fun n => (n.getA a).extractLsb' 32 32) d st s

/-- SUBA: R125, low word of the difference. -/
def execSuba (d : GReg) (a b : AReg) (st : BitVec 2) (s : State) :
    Host.Outcome State Fault Refusal :=
  addrG [.a a, .a b] (fun n => (n.getA a - n.getA b).truncate 32) d st s

/-- ADDAI: R126. -/
def execAddai (d a : AReg) (st : BitVec 2) (imm : BitVec 13) (s : State) :
    Host.Outcome State Fault Refusal :=
  simple { reads := [.a a], dest := .a d, st := st.toNat,
           f := fun n => .ok (.addr (n.getA a + (n.imm imm).signExtend 64), 0) } s

end Sys2Proof.Machine
end

