-- ==== Sys2Proof/Machine/Access.lean ====
section
/-! DEFINITION. The instructions that reach memory: loads and stores, address registers, FENCE, atomics, vector loads and
stores, gathers and scatters (R142 to R156). -/

namespace Sys2Proof.Machine

/-! ### Operand forms -/

/-- The effective address of formats M and VM (R73, R77, R137). -/
def effAddr (n : Node) (x : AReg) (off : BitVec 12) (unit : Nat) : Addr :=
  n.getA x + off.signExtend 64 * BitVec.ofNat 64 unit

/-- A watchpoint that an access touches (R36, R37): the lower-numbered one first. -/
def Node.watchAt (n : Node) (a : Addr) (k : Acc) (w : Nat) : Bool :=
  let kind := bitsN n.dbgc.toNat (6 + 2 * w) 2
  let space := if n.dbgc.getLsbD (11 + w) then 2 else 0
  n.dbgc.getLsbD (4 + w) && ((k.rd && kind % 2 == 1) || (k.wr && kind / 2 == 1)) && spaceOf a == space &&
    (dwords (bitsN a.toNat 0 32) k.size).contains ((Store.get 0 n.wpa w).toNat / 8)

/-- WATCHPOINT after an access, outside trap mode. -/
def Node.watch (n : Node) (a : Addr) (k : Acc) : Option Trap :=
  if !n.inTrap && (n.watchAt a k 0 || n.watchAt a k 1) then some (k.trap .watchpoint a) else none

/-- WATCHPOINT of an instruction that makes `cnt` accesses one after another: the first that touches one (R37). -/
def Node.watchRange (n : Node) (a : Addr) (k : Acc) (cnt : Nat) : Option Trap :=
  (List.range cnt).findSome? (fun j => n.watch (a + BitVec.ofNat 64 (j * k.size)) k)

/-- An access of a node that passed its checks, as it goes to its home. -/
def nodeAccess (u : Issue) (pl : Place) (op : AccOp) (k : Acc) (a : Addr) (rets : List Ret) : Access :=
  { src := srcOf u, home := pl.home, op := op, key := pl.key, size := k.size, va := a, detail := k.detail, win := pl.win,
    mirror := pl.mirror, rets := rets, sysatom := pl.sysatom, budget := budgetOf pl op, site := siteOf u.p }

/-- The address under which a node receives part `part` of the result it is about to be owed. -/
def retOf (u : Issue) (part : Nat) : Ret := { pcell := u.p, slot := u.i, gen := u.n.gen, tok := u.n.tok, part := part }

/-- One access sent. -/
def sendOne (s : State) (u : Issue) (pl : Place) (op : AccOp) (k : Acc) (a : Addr) (rets : List Ret) : State :=
  (s.fillTlb (siteOf u.p) pl.fill).send u.p pl.away (nodeAccess u pl op k a rets)

/-- A load of `size` bytes: the checks, its turn in the cell, the owed result, the access in flight (R142, R143). -/
def loadBody (s : State) (u : Issue) (a : Addr) (k : Acc) (dests : List Loc) (form : OwedForm) : Res :=
  match checkAccess s u.p a k with
  | .error t => .trap t
  | .ok pl =>
    if s.ownWaits u pl.away then .hold
    else .done (sendOne s u pl .load k a [retOf u 0]) (u.n.owe dests form 1) none (u.n.watch a k)

/-- A store: the checks, its turn in the cell, the access in flight, the release (R142, R143). -/
def storeBody (s : State) (u : Issue) (a : Addr) (k : Acc) (data : Nat) (rel : List RegName) : Res :=
  match checkAccess s u.p a { k with data := some data } with
  | .error t => .trap t
  | .ok pl =>
    if s.ownWaits u pl.away then .hold
    else .done (sendOne s u pl (.store data) k a []) (u.n.releaseAll (u.n.locs rel)) none (u.n.watch a k)

/-- A g register loaded (R143); g0 discards the value. -/
def loadG (size : Nat) (signed : Bool) (t : GReg) (x : AReg) (st : BitVec 2) (off : BitVec 12) (s : State) :=
  issue s { reads := [.a x], writes := [.g t], st := st.toNat } preNone fun u =>
    loadBody s u (effAddr u.n x off size) { size := size, rd := true } (u.n.locs [.g t])
      (match u.n.loc (.g t) with
       | none => .discard
       | some l => .load l size signed)

/-- A g register stored (R143). -/
def storeG (size : Nat) (t : GReg) (x : AReg) (lt : Bool) (st : BitVec 2) (off : BitVec 12) (s : State) :=
  issue s { reads := [.a x, .g t], st := st.toNat } preNone fun u =>
    storeBody s u (effAddr u.n x off size) { size := size, wr := true } ((u.n.getG t).toNat % 2 ^ (8 * size)) (rel1 lt t)

/-- The form of a result of one or two g registers. -/
def gForm (n : Node) (d : GReg) (dw : Bool) : OwedForm :=
  if dw then
    match n.loc (.g d), n.loc (.g (d + 1)) with
    | some l, some h => .pair l h
    | _, _ => .discard
  else
    match n.loc (.g d) with
    | some l => .load l 4 false
    | none => .discard

/-- The g registers of a word or a pair field. -/
def gNames (d : GReg) (dw : Bool) : List RegName := if dw then [.g d, .g (d + 1)] else [.g d]
def gValue (n : Node) (d : GReg) (dw : Bool) : Nat := if dw then (n.getPair d).toNat else (n.getG d).toNat

/-- An atomic (R148): function `fn`, `cas` when g[d] is read as the expected value. -/
def amoOp (fn : Nat) (cas : Bool) (d : GReg) (x : AReg) (b : GReg) (la lb dw : Bool) (s : State) :=
  issue s { reads := [.a x] ++ gNames b dw ++ (if cas then gNames d dw else []), writes := gNames d dw } preNone fun u =>
    let a := u.n.getA x
    let k : Acc := { size := if dw then 8 else 4, rd := true, wr := true }
    match checkAccess s u.p a k with
    | .error t => .trap t
    | .ok pl =>
      let op : AccOp := .amo fn (gValue u.n b dw) (if cas then gValue u.n d dw else 0)
      let dests := u.n.locs (gNames d dw)
      let rel := u.n.locs ((if lb then gNames b dw else []) ++ (if la then gNames d dw else []))
      let now := u.n.watch a { k with wr := !cas }
      let later := if cas && now.isNone then u.n.watch a { k with rd := false } else none
      let n := (u.n.releaseAll rel).owe dests (gForm u.n d dw) 1
        (watch := later.map (fun t => { t with detail := k.detail }))
      if s.ownWaits u pl.away then .hold
      else .done (sendOne s u pl op k a [retOf u 0]) n none (now.map (fun t => { t with detail := k.detail }))

/-- A two-location atomic (R151): the checks of the first address, then of the second, then AMO_ALIAS. That a DCAS which fails, like a
CAS which fails (R148), is no store to a watchpoint is the model's choice (log entry 115); so is that WATCHPOINT names the first word
where both touch one, and that AMO_ALIAS leaves SECOND 0 (log entry 127). -/
def amo2Op (dcas : Bool) (d : GReg) (x : AReg) (b : GReg) (la lb : Bool) (s : State) :=
  issue s { reads := [.a x, .a (x + 1)] ++ gNames b dcas ++ (if dcas then gNames d true else []),
            writes := gNames d dcas } preNone fun u =>
    let a1 := u.n.getA x
    let a2 := u.n.getA (x + 1)
    let k1 : Acc := { size := 4, rd := true, wr := true, amo2 := true }
    let k2 : Acc := { k1 with second := true }
    match checkAccess s u.p a1 k1 with
    | .error t => .trap t
    | .ok p1 =>
      match checkAccess s u.p a2 k2 with
      | .error t => .trap t
      | .ok p2 =>
        if a1 = a2 then .trap (k1.trap .amoAlias a1)
        else
          let op : AccOp :=
            if dcas then .dcas (u.n.getG b).toNat (u.n.getG (b + 1)).toNat (u.n.getG d).toNat (u.n.getG (d + 1)).toNat
            else .amov2 (u.n.getG b).toNat
          let dests := u.n.locs (gNames d dcas)
          let rel := u.n.locs ((if lb then gNames b dcas else []) ++ (if la then gNames d dcas else []))
          let form : OwedForm :=
            if dcas then
              match u.n.loc (.g d), u.n.loc (.g (d + 1)) with
              | some l, some h => .two l h
              | _, _ => .discard
            else match u.n.loc (.g d) with
              | some l => .second l
              | none => .discard
          let acc : Access := { nodeAccess u p1 op k1 a1 ((if dcas then [retOf u 0, retOf u 1] else [retOf u 0])) with
            home2 := some p2.home, key2 := p2.key, win2 := p2.win, va2 := a2, mirror2 := p2.mirror, budget2 := budgetOf p2 op }
          let s := (s.fillTlb (siteOf u.p) p1.fill).fillTlb (siteOf u.p) p2.fill
          let w : Acc := { k1 with wr := !dcas }
          let now := ((u.n.watch a1 w).map (fun t => { t with detail := k1.detail })).orElse
            (fun _ => (u.n.watch a2 w).map (fun t => { t with detail := k2.detail }))
          let w : Acc := { k1 with rd := false }
          let later := ((u.n.watch a1 w).map (fun t => { t with detail := k1.detail })).orElse
            (fun _ => (u.n.watch a2 w).map (fun t => { t with detail := k2.detail }))
          let n := (u.n.releaseAll rel).owe dests form (if dcas then 2 else 1)
            (watch := if dcas && now.isNone then later else none)
          if s.ownWaits u (p1.away || p2.away) then .hold else .done (s.send u.p (p1.away || p2.away) acc) n none now

/-! ### Vector accesses (R154 to R156) -/

def vecSize (half : Bool) : Nat := if half then 32 else 64

def vloadOp (half : Bool) (v : VReg) (x : AReg) (st : BitVec 2) (off : BitVec 12) (s : State) :=
  issue s { reads := [.a x] ++ (if half then [.v v] else []), writes := [.v v], st := st.toNat } preVector fun u =>
    loadBody s u (effAddr u.n x off 64) { size := vecSize half, rd := true, vec := true } [.v v.toNat] (.vec v.toNat half)

def vstoreOp (half : Bool) (v : VReg) (x : AReg) (lt : Bool) (st : BitVec 2) (off : BitVec 12) (s : State) :=
  issue s { reads := [.a x, .v v], st := st.toNat } preVector fun u =>
    storeBody s u (effAddr u.n x off 64) { size := vecSize half, wr := true, vec := true }
      ((u.n.getV v).toNat % 2 ^ (8 * vecSize half)) (if lt then [.v v] else [])

/-- Lane `i` of `w` bits of a vector. -/
def lane (w i : Nat) (v : Vec) : Nat := bitsN v.toNat (w * i) w

/-- The lanes that a mask selects, for lanes of `w` bits (R45). -/
def selLanes (w : Nat) (k : BitVec 16) : List Nat := (List.range (512 / w)).filter (fun i => k.getLsbD (i * w / 32))

/-- The address of a lane (R155). -/
def laneAddr (n : Node) (x : AReg) (vi : VReg) (sc : BitVec 2) (w i : Nat) : Addr :=
  n.getA x + BitVec.ofInt 64 (sgn w (lane w i (n.getV vi)) * 2 ^ sc.toNat)

/-- Every selected lane passes its checks, in ascending order: the places, or the first failing lane's trap. -/
def checkLanes (s : State) (p : Nat) (k : Acc) : List (Nat × Addr) → Except Trap (List (Nat × Addr × Place))
  | [] => .ok []
  | (i, a) :: t =>
    match checkAccess s p a { k with lane := i } with
    | .error e => .error e
    | .ok pl =>
      match checkLanes s p k t with
      | .error e => .error e
      | .ok l => .ok ((i, a, pl) :: l)

/-- The watchpoint of the lowest lane that touches it. -/
def watchLanes (n : Node) (k : Acc) (l : List (Nat × Addr × Place)) : Option Trap :=
  l.findSome? (fun e => n.watch e.2.1 { k with lane := e.1 })

def gatherOp (half : Bool) (v : VReg) (x : AReg) (vi : VReg) (km : KReg) (sc : BitVec 2) (s : State) :=
  issue s { reads := [.a x, .v vi, .k km, .v v], writes := [.v v] } preVector fun u =>
    let w := if half then 16 else 32
    let k : Acc := { size := w / 8, rd := true, vec := true }
    match checkLanes s u.p k ((selLanes w (u.n.getK km)).map (fun i => (i, laneAddr u.n x vi sc w i))) with
    | .error t => .trap t
    | .ok l =>
      let n := u.n.owe [.v v.toNat] (.gather v.toNat half) l.length
      if l.any (fun e => s.ownWaits u e.2.2.away) then .hold
      else .done (l.foldl (fun s e => sendOne s u e.2.2 .load { k with lane := e.1 } e.2.1 [retOf u e.1]) s) n none
        (watchLanes u.n k l)

def scatterOp (half : Bool) (v : VReg) (x : AReg) (vi : VReg) (km : KReg) (sc : BitVec 2) (s : State) :=
  issue s { reads := [.a x, .v vi, .k km, .v v] } preVector fun u =>
    let w := if half then 16 else 32
    let k : Acc := { size := w / 8, wr := true, vec := true }
    match checkLanes s u.p k ((selLanes w (u.n.getK km)).map (fun i => (i, laneAddr u.n x vi sc w i))) with
    | .error t => .trap t
    | .ok l =>
      if l.any (fun e => s.ownWaits u e.2.2.away) then .hold
      else .done (l.foldl (fun s e =>
          sendOne s u e.2.2 (.store (lane w e.1 (u.n.getV v))) { k with lane := e.1 } e.2.1 []) s) u.n none
        (watchLanes u.n k l)

/-! ### The instructions -/

/-- LDB: R143. -/
def execLdb (t : GReg) (x : AReg) (st : BitVec 2) (off : BitVec 12) (s : State) :
    Host.Outcome State Fault Refusal :=
  loadG 1 false t x st off s

/-- LDBS: R143. -/
def execLdbs (t : GReg) (x : AReg) (st : BitVec 2) (off : BitVec 12) (s : State) :
    Host.Outcome State Fault Refusal :=
  loadG 1 true t x st off s

/-- LDH: R143. -/
def execLdh (t : GReg) (x : AReg) (st : BitVec 2) (off : BitVec 12) (s : State) :
    Host.Outcome State Fault Refusal :=
  loadG 2 false t x st off s

/-- LDHS: R143. -/
def execLdhs (t : GReg) (x : AReg) (st : BitVec 2) (off : BitVec 12) (s : State) :
    Host.Outcome State Fault Refusal :=
  loadG 2 true t x st off s

/-- LDW: R143. -/
def execLdw (t : GReg) (x : AReg) (st : BitVec 2) (off : BitVec 12) (s : State) :
    Host.Outcome State Fault Refusal :=
  loadG 4 false t x st off s

/-- LDD: R143, a pair. -/
def execLdd (t : GReg) (x : AReg) (st : BitVec 2) (off : BitVec 12) (s : State) :
    Host.Outcome State Fault Refusal :=
  issue s { reads := [.a x], writes := [.g t, .g (t + 1)], st := st.toNat } preNone fun u =>
    loadBody s u (effAddr u.n x off 8) { size := 8, rd := true } (u.n.locs (gNames t true)) (gForm u.n t true)

/-- STB: R143. -/
def execStb (t : GReg) (x : AReg) (lt : Bool) (st : BitVec 2) (off : BitVec 12) (s : State) :
    Host.Outcome State Fault Refusal :=
  storeG 1 t x lt st off s

/-- STH: R143. -/
def execSth (t : GReg) (x : AReg) (lt : Bool) (st : BitVec 2) (off : BitVec 12) (s : State) :
    Host.Outcome State Fault Refusal :=
  storeG 2 t x lt st off s

/-- STW: R143. -/
def execStw (t : GReg) (x : AReg) (lt : Bool) (st : BitVec 2) (off : BitVec 12) (s : State) :
    Host.Outcome State Fault Refusal :=
  storeG 4 t x lt st off s

/-- STD: R143, a pair. -/
def execStd (t : GReg) (x : AReg) (lt : Bool) (st : BitVec 2) (off : BitVec 12) (s : State) :
    Host.Outcome State Fault Refusal :=
  issue s { reads := [.a x, .g t, .g (t + 1)], st := st.toNat } preNone fun u =>
    storeBody s u (effAddr u.n x off 8) { size := 8, wr := true } (u.n.getPair t).toNat (if lt then gNames t true else [])

/-- LDA: R145. -/
def execLda (t x : AReg) (st : BitVec 2) (off : BitVec 12) (s : State) :
    Host.Outcome State Fault Refusal :=
  issue s { reads := [.a x], writes := [.a t], st := st.toNat } preNone fun u =>
    loadBody s u (effAddr u.n x off 8) { size := 8, rd := true } [.a t.toNat] (.areg t.toNat)

/-- STA: R145. -/
def execSta (t x : AReg) (st : BitVec 2) (off : BitVec 12) (s : State) :
    Host.Outcome State Fault Refusal :=
  issue s { reads := [.a x, .a t], st := st.toNat } preNone fun u =>
    storeBody s u (effAddr u.n x off 8) { size := 8, wr := true } (u.n.getA t).toNat []

/-- AMOADD: R148. -/
def execAmoadd (d : GReg) (x : AReg) (b : GReg) (lb dw : Bool) (s : State) :
    Host.Outcome State Fault Refusal :=
  amoOp 0 false d x b false lb dw s

/-- AMOAND: R148. -/
def execAmoand (d : GReg) (x : AReg) (b : GReg) (lb dw : Bool) (s : State) :
    Host.Outcome State Fault Refusal :=
  amoOp 1 false d x b false lb dw s

/-- AMOOR: R148. -/
def execAmoor (d : GReg) (x : AReg) (b : GReg) (lb dw : Bool) (s : State) :
    Host.Outcome State Fault Refusal :=
  amoOp 2 false d x b false lb dw s

/-- AMOXOR: R148. -/
def execAmoxor (d : GReg) (x : AReg) (b : GReg) (lb dw : Bool) (s : State) :
    Host.Outcome State Fault Refusal :=
  amoOp 3 false d x b false lb dw s

/-- AMOMINS: R148. -/
def execAmomins (d : GReg) (x : AReg) (b : GReg) (lb dw : Bool) (s : State) :
    Host.Outcome State Fault Refusal :=
  amoOp 4 false d x b false lb dw s

/-- AMOMAXS: R148. -/
def execAmomaxs (d : GReg) (x : AReg) (b : GReg) (lb dw : Bool) (s : State) :
    Host.Outcome State Fault Refusal :=
  amoOp 5 false d x b false lb dw s

/-- AMOMINU: R148. -/
def execAmominu (d : GReg) (x : AReg) (b : GReg) (lb dw : Bool) (s : State) :
    Host.Outcome State Fault Refusal :=
  amoOp 6 false d x b false lb dw s

/-- AMOMAXU: R148. -/
def execAmomaxu (d : GReg) (x : AReg) (b : GReg) (lb dw : Bool) (s : State) :
    Host.Outcome State Fault Refusal :=
  amoOp 7 false d x b false lb dw s

/-- AMOSWAP: R148. -/
def execAmoswap (d : GReg) (x : AReg) (b : GReg) (lb dw : Bool) (s : State) :
    Host.Outcome State Fault Refusal :=
  amoOp 8 false d x b false lb dw s

/-- AMOCAS: R148. -/
def execAmocas (d : GReg) (x : AReg) (b : GReg) (la lb dw : Bool) (s : State) :
    Host.Outcome State Fault Refusal :=
  amoOp 9 true d x b la lb dw s

/-- AMOFADD: R149. -/
def execAmofadd (d : GReg) (x : AReg) (b : GReg) (lb : Bool) (s : State) :
    Host.Outcome State Fault Refusal :=
  amoOp 10 false d x b false lb false s

/-- DCAS: R151. -/
def execDcas (d : GReg) (x : AReg) (b : GReg) (la lb : Bool) (s : State) :
    Host.Outcome State Fault Refusal :=
  amo2Op true d x b la lb s

/-- AMOV2: R151. -/
def execAmov2 (d : GReg) (x : AReg) (b : GReg) (lb : Bool) (s : State) :
    Host.Outcome State Fault Refusal :=
  amo2Op false d x b false lb s

/-- FENCE: R146, the cell holds until every earlier access of the node is performed. -/
def execFence (st : BitVec 2) (s : State) :
    Host.Outcome State Fault Refusal :=
  issue s { st := st.toNat } preNone fun u => if s.inFlight (srcOf u) then .hold else .done s u.n

/-- VLD: R154. -/
def execVld (v : VReg) (x : AReg) (st : BitVec 2) (off : BitVec 12) (s : State) :
    Host.Outcome State Fault Refusal :=
  vloadOp false v x st off s

/-- VLDH: R154. -/
def execVldh (v : VReg) (x : AReg) (st : BitVec 2) (off : BitVec 12) (s : State) :
    Host.Outcome State Fault Refusal :=
  vloadOp true v x st off s

/-- VST: R154. -/
def execVst (v : VReg) (x : AReg) (lt : Bool) (st : BitVec 2) (off : BitVec 12) (s : State) :
    Host.Outcome State Fault Refusal :=
  vstoreOp false v x lt st off s

/-- VSTH: R154. -/
def execVsth (v : VReg) (x : AReg) (lt : Bool) (st : BitVec 2) (off : BitVec 12) (s : State) :
    Host.Outcome State Fault Refusal :=
  vstoreOp true v x lt st off s

/-- GATHW: R155, R156. -/
def execGathw (v : VReg) (x : AReg) (vi : VReg) (k : KReg) (sc : BitVec 2) (s : State) :
    Host.Outcome State Fault Refusal :=
  gatherOp false v x vi k sc s

/-- GATHH: R155, R156. -/
def execGathh (v : VReg) (x : AReg) (vi : VReg) (k : KReg) (sc : BitVec 2) (s : State) :
    Host.Outcome State Fault Refusal :=
  gatherOp true v x vi k sc s

/-- SCATW: R155, R156. -/
def execScatw (v : VReg) (x : AReg) (vi : VReg) (k : KReg) (sc : BitVec 2) (s : State) :
    Host.Outcome State Fault Refusal :=
  scatterOp false v x vi k sc s

/-- SCATH: R155, R156. -/
def execScath (v : VReg) (x : AReg) (vi : VReg) (k : KReg) (sc : BitVec 2) (s : State) :
    Host.Outcome State Fault Refusal :=
  scatterOp true v x vi k sc s

end Sys2Proof.Machine
end

