-- ==== Sys2Proof/Machine/Codec.lean ====
section
/-! DEFINITION. What an occurrence combines (R59, R226), and the gradient compression of the Fjargeton links (R338, R339):
functions from bytes to bytes. -/

namespace Sys2Proof.Machine

/-! ### Elements -/

/-- Bytes of an event element: 2 for BF16, 4 for INT32 and FP32 (R209). -/
def elemBytes (etype : Nat) : Nat := if etype = 0x12 then 2 else 4

/-- The elements of a string of bytes, `w` bytes each. -/
def elemsGo (w : Nat) : Nat → List Byte → List Nat
  | 0, _ => []
  | n + 1, l => leNat (l.take w) :: elemsGo w n (l.drop w)
def elems (w : Nat) (l : List Byte) : List Nat := elemsGo w (l.length / max 1 w) l
/-- The bytes of elements. -/
def unelems (w : Nat) (l : List Nat) : List Byte := l.flatMap (leBytes w)

/-- One step of a combination or of COPYOP, in the element's own format (R59, R189): 0 add, 1 min, 2 max, 3 and, 4 or,
5 xor. -/
def opElem (etype op x y : Nat) : Nat :=
  if op = 3 then x &&& y
  else if op = 4 then x ||| y
  else if op = 5 then x ^^^ y
  else if etype = 0x06 then
    (if op = 0 then (x + y) % 2 ^ 32
     else if op = 1 then (if sgn 32 y < sgn 32 x then y else x)
     else if sgn 32 x < sgn 32 y then y else x)
  else
    let k := if etype = 0x12 then bf16 else fp32
    if op = 0 then (fpAdd k 0 false x y).1 else if op = 1 then fpMin k x y else fpMax k x y

/-- Contributions combined in participant order (R59): a BF16 sum runs in FP32 and is rounded once. -/
def combineAll (etype op : Nat) (cs : List (List Byte)) : List Byte :=
  let w := elemBytes etype
  let wide : Bool := decide (etype = 0x12) && decide (op = 0)
  let cs := cs.map (fun c => (elems w c).map (fun x => if wide then (fpCvt bf16 fp32 0 false x).1 else x))
  match cs with
  | [] => []
  | c :: t =>
    let r := t.foldl (fun a b => List.zipWith (opElem (if wide then 0x10 else etype) op) a b) c
    unelems w (r.map (fun x => if wide then (fpCvt fp32 bf16 0 false x).1 else x))

/-! ### Compression (R338, R339) -/

/-- Q of a port's class: 127 for INT8, 7 for INT4. -/
def classQ (cls : Nat) : Nat := if cls = 3 then 7 else 127
/-- A message of this event is compressed under this class. -/
def compresses (cls kind etype : Nat) : Bool := decide (2 ≤ cls) && decide (kind = 2) && decide (etype ≠ 0x06)
/-- Bytes of a block of `b` elements on the wire. -/
def blockBytes (cls b : Nat) : Nat := 4 + (if cls = 3 then (b + 1) / 2 else b)
/-- The wire length of a message of `len` bytes (R338). -/
def wireLen (cls kind etype len : Nat) : Nat :=
  if compresses cls kind etype then
    let n := len / elemBytes etype
    n / 256 * blockBytes cls 256 + (if n % 256 = 0 then 0 else blockBytes cls (n % 256))
  else len

/-- Quantised values packed: a byte each, or two to a byte, the lower index in bits [3:0] (R39). -/
def packQ (cls : Nat) : List Int → List Byte
  | [] => []
  | [x] => [BitVec.ofNat 8 (unsgn (if cls = 3 then 4 else 8) x)]
  | x :: y :: t =>
    if cls = 3 then BitVec.ofNat 8 (unsgn 4 x + 16 * unsgn 4 y) :: packQ cls t
    else BitVec.ofNat 8 (unsgn 8 x) :: packQ cls (y :: t)
/-- Quantised values unpacked. -/
def unpackQ (cls b : Nat) (l : List Byte) : List Int :=
  if cls = 3 then (l.flatMap (fun x => [sgn 4 x.toNat, sgn 4 (x.toNat / 16)])).take b else (l.take b).map (fun x => sgn 8 x.toNat)

/-- An integer in FP32. -/
def intFp32 (x : Int) : Nat := (intToFp fp32 0 x).1

/-- One block: its bytes, its new residual, and whether its maximum was infinite or NaN. -/
def compressBlock (cls : Nat) (x res : List Nat) : List Byte × List Nat × Bool :=
  let q : Int := (classQ cls : Nat)
  let xe := List.zipWith (fun a b => (fpAdd fp32 0 false a b).1) x res
  let m := xe.foldl (fun a v => if (unpack fp32 v).isNan then fp32.nan
    else if (unpack fp32 a).isNan then a else fpMax fp32 a (fpAbs fp32 v)) 0
  if bitsN m 23 8 = 255 then
    (leBytes 4 fp32.nan ++ packQ cls (x.map (fun _ => 0)), x.map (fun _ => 0), true)
  else
    let sc := (fpDiv fp32 0 false m (intFp32 q)).1
    let qs := xe.map (fun v => if sc = 0 then (0 : Int)
      else (numToInt 0 (-q) q (unpack fp32 (fpDiv fp32 0 false v sc).1)).1)
    let ys := qs.map (fun v => (fpMul fp32 0 false (intFp32 v) sc).1)
    (leBytes 4 sc ++ packQ cls qs, List.zipWith (fun v y => (fpSub fp32 0 false v y).1) xe ys, false)

/-- The blocks of a message in order. -/
def compressGo (cls : Nat) : Nat → List Nat → List Nat → List Byte × List Nat × Nat
  | 0, _, _ => ([], [], 0)
  | n + 1, x, res =>
    if x.isEmpty then ([], [], 0)
    else
      let a := compressBlock cls (x.take 256) (res.take 256)
      let b := compressGo cls n (x.drop 256) (res.drop 256)
      (a.1 ++ b.1, a.2.1 ++ b.2.1, (if a.2.2 then 1 else 0) + b.2.2)

/-- A message compressed: its wire bytes, the residual after it, and how many blocks overflowed (log entry 59). -/
def compress (cls etype : Nat) (msg : List Byte) (res : List Nat) : List Byte × List Nat × Nat :=
  let x := (elems (elemBytes etype) msg).map (fun v => if etype = 0x12 then (fpCvt bf16 fp32 0 false v).1 else v)
  compressGo cls (x.length / 256 + 1) x (res ++ List.replicate (x.length - res.length) 0)

/-- The blocks of a received message in order. -/
def decompressGo (cls : Nat) : Nat → Nat → List Byte → List Nat
  | 0, _, _ => []
  | k + 1, n, l =>
    if n = 0 then []
    else
      let b := min 256 n
      let sc := leNat (l.take 4)
      ((unpackQ cls b (l.drop 4)).map (fun v => (fpMul fp32 0 false (intFp32 v) sc).1))
        ++ decompressGo cls k (n - b) (l.drop (blockBytes cls b))

/-- A message as the receiving engine forms it, `len` bytes of the event's element type (R339). -/
def decompress (cls etype len : Nat) (l : List Byte) : List Byte :=
  let n := len / elemBytes etype
  unelems (elemBytes etype) ((decompressGo cls (n / 256 + 1) n l).map
    (fun v => if etype = 0x12 then (fpCvt fp32 bf16 0 false v).1 else v))

end Sys2Proof.Machine
end

