-- ==== Sys2Proof/WellFormed.lean ====
section
/-! DEFINITION. Well-formed instructions: the conditions of check 4 of R67 that a constructor does not exclude by its
type: parity (R21), register pairs (R69) and the allowed values of a field (R75, R84, R89, R93 to R97). A step of another
agent has no encoding and is always well formed. -/

namespace Sys2Proof

/-- R21: two g fields read through the operand ports have opposite parity; g0 in either satisfies the rule. -/
def parityOk (a b : GReg) : Bool := a == 0#5 || b == 0#5 || a.toNat % 2 != b.toNat % 2

/-- R21 for two vector fields. -/
def vparityOk (a b : VReg) : Bool := a.toNat % 2 != b.toNat % 2

/-- R69: a pair field is even and nonzero. -/
def pairOk (r : GReg) : Bool := r.toNat % 2 == 0 && r != 0#5

/-- The well-formed instructions. -/
def Instr.wf : Instr → Bool
  | .add _ a b _ _ _ => parityOk a b
  | .sub _ a b _ _ _ => parityOk a b
  | .and _ a b _ _ _ => parityOk a b
  | .andn _ a b _ _ _ => parityOk a b
  | .or _ a b _ _ _ => parityOk a b
  | .orn _ a b _ _ _ => parityOk a b
  | .xor _ a b _ _ _ => parityOk a b
  | .xnor _ a b _ _ _ => parityOk a b
  | .shl _ a b _ _ _ => parityOk a b
  | .shr _ a b _ _ _ => parityOk a b
  | .sha _ a b _ _ _ => parityOk a b
  | .rotl _ a b _ _ _ => parityOk a b
  | .mins _ a b _ _ _ => parityOk a b
  | .maxs _ a b _ _ _ => parityOk a b
  | .minu _ a b _ _ _ => parityOk a b
  | .maxu _ a b _ _ _ => parityOk a b
  | .adds _ a b _ _ _ => parityOk a b
  | .subs _ a b _ _ _ => parityOk a b
  | .sel _ _ a b _ _ _ => parityOk a b
  | .addi _ _ _ _ _ => true
  | .andi _ _ _ _ _ => true
  | .ori _ _ _ _ _ => true
  | .xori _ _ _ _ _ => true
  | .movi _ _ _ => true
  | .muli _ _ _ _ _ => true
  | .cmpeq _ comb a b _ _ _ => comb != 3#2 && parityOk a b
  | .cmpne _ comb a b _ _ _ => comb != 3#2 && parityOk a b
  | .cmplt _ comb a b _ _ _ => comb != 3#2 && parityOk a b
  | .cmple _ comb a b _ _ _ => comb != 3#2 && parityOk a b
  | .cmpgt _ comb a b _ _ _ => comb != 3#2 && parityOk a b
  | .cmpge _ comb a b _ _ _ => comb != 3#2 && parityOk a b
  | .cmpltu _ comb a b _ _ _ => comb != 3#2 && parityOk a b
  | .cmpleu _ comb a b _ _ _ => comb != 3#2 && parityOk a b
  | .cmpgtu _ comb a b _ _ _ => comb != 3#2 && parityOk a b
  | .cmpgeu _ comb a b _ _ _ => comb != 3#2 && parityOk a b
  | .cmpbitany _ comb a b _ _ _ => comb != 3#2 && parityOk a b
  | .cmpbitnone _ comb a b _ _ _ => comb != 3#2 && parityOk a b
  | .cmpieq _ _ _ _ _ => true
  | .cmpine _ _ _ _ _ => true
  | .cmpilt _ _ _ _ _ => true
  | .cmpiltu _ _ _ _ _ => true
  | .shli _ _ _ _ _ => true
  | .shri _ _ _ _ _ => true
  | .shai _ _ _ _ _ => true
  | .rotli _ _ _ _ _ => true
  | .clz _ _ _ _ => true
  | .ctz _ _ _ _ => true
  | .popc _ _ _ _ => true
  | .brev _ _ _ _ => true
  | .bswap _ _ _ _ => true
  | .bfx _ a b _ _ _ => parityOk a b
  | .bfxs _ a b _ _ _ => parityOk a b
  | .bfi _ a b _ _ _ => parityOk a b
  | .fshl _ a b _ _ _ _ => parityOk a b
  | .fshr _ a b _ _ _ _ => parityOk a b
  | .lut3 _ a b _ _ _ => parityOk a b
  | .mul _ a b _ _ _ => parityOk a b
  | .mulhs _ a b _ _ _ => parityOk a b
  | .mulhu _ a b _ _ _ => parityOk a b
  | .divs _ a b _ _ _ => parityOk a b
  | .divu _ a b _ _ _ => parityOk a b
  | .rems _ a b _ _ _ => parityOk a b
  | .remu _ a b _ _ _ => parityOk a b
  | .fadd _ a b _ _ _ => parityOk a b
  | .fsub _ a b _ _ _ => parityOk a b
  | .fmul _ a b _ _ _ => parityOk a b
  | .ffma _ a b _ _ _ => parityOk a b
  | .fmin _ a b _ _ _ => parityOk a b
  | .fmax _ a b _ _ _ => parityOk a b
  | .fabs _ _ _ _ => true
  | .fneg _ _ _ _ => true
  | .fcvtif _ _ _ _ => true
  | .fcvtfi _ _ _ _ => true
  | .fsqrt _ _ _ _ => true
  | .fcmpeq _ a b _ _ _ => parityOk a b
  | .fcmpne _ a b _ _ _ => parityOk a b
  | .fcmplt _ a b _ _ _ => parityOk a b
  | .fcmple _ a b _ _ _ => parityOk a b
  | .fcmpun _ a b _ _ _ => parityOk a b
  | .adda _ _ _ _ _ => true
  | .addau _ _ _ _ _ => true
  | .addas _ _ _ _ _ _ => true
  | .movga _ a b _ _ _ => parityOk a b
  | .movag _ _ _ => true
  | .movagh _ _ _ => true
  | .suba _ _ _ _ => true
  | .addai _ _ _ _ => true
  | .br p n _ _ => !(p == 0#3 && n)
  | .call p n _ _ => !(p == 0#3 && n)
  | .jmpr _ _ _ => true
  | .callr _ _ _ => true
  | .ret _ => true
  | .rtt _ => true
  | .loop _ _ _ imm => imm != 0#13 && decide (imm.toNat < 4096)
  | .ldb _ _ _ _ => true
  | .ldbs _ _ _ _ => true
  | .ldh _ _ _ _ => true
  | .ldhs _ _ _ _ => true
  | .ldw _ _ _ _ => true
  | .ldd t _ _ _ => pairOk t
  | .stb _ _ _ _ _ => true
  | .sth _ _ _ _ _ => true
  | .stw _ _ _ _ _ => true
  | .std t _ _ _ _ => pairOk t
  | .lda _ _ _ _ => true
  | .sta _ _ _ _ => true
  | .amoadd d _ b _ dw => (!dw || (pairOk d && pairOk b))
  | .amoand d _ b _ dw => (!dw || (pairOk d && pairOk b))
  | .amoor d _ b _ dw => (!dw || (pairOk d && pairOk b))
  | .amoxor d _ b _ dw => (!dw || (pairOk d && pairOk b))
  | .amomins d _ b _ dw => (!dw || (pairOk d && pairOk b))
  | .amomaxs d _ b _ dw => (!dw || (pairOk d && pairOk b))
  | .amominu d _ b _ dw => (!dw || (pairOk d && pairOk b))
  | .amomaxu d _ b _ dw => (!dw || (pairOk d && pairOk b))
  | .amoswap d _ b _ dw => (!dw || (pairOk d && pairOk b))
  | .amocas d _ b _ _ dw => (!dw || (pairOk d && pairOk b))
  | .amofadd _ _ _ _ => true
  | .dcas d x b _ _ => (x.toNat % 2 == 0) && pairOk d && pairOk b
  | .amov2 _ x _ _ => (x.toNat % 2 == 0)
  | .fence _ => true
  | .movs _ _ _ => true
  | .movsw _ _ _ => true
  | .trap _ _ => true
  | .wspill _ => true
  | .wfill _ => true
  | .widx _ half f _ => decide (half.toNat ≤ 1) && decide (f.toNat ≤ 5)
  | .vld _ _ _ _ => true
  | .vldh _ _ _ _ => true
  | .vst _ _ _ _ _ => true
  | .vsth _ _ _ _ _ => true
  | .gathw _ _ _ _ _ => true
  | .scatw _ _ _ _ _ => true
  | .gathh _ _ _ _ _ => true
  | .scath _ _ _ _ _ => true
  | .vadd w _ va vb _ _ _ _ => w != 3#2 && vparityOk va vb
  | .vsub w _ va vb _ _ _ _ => w != 3#2 && vparityOk va vb
  | .vmul w _ va vb _ _ _ _ => w != 3#2 && vparityOk va vb
  | .vmulhs w _ va vb _ _ _ _ => w != 3#2 && vparityOk va vb
  | .vand w _ va vb _ _ _ _ => w != 3#2 && vparityOk va vb
  | .vor w _ va vb _ _ _ _ => w != 3#2 && vparityOk va vb
  | .vxor w _ va vb _ _ _ _ => w != 3#2 && vparityOk va vb
  | .vandn w _ va vb _ _ _ _ => w != 3#2 && vparityOk va vb
  | .vshl w _ va vb _ _ _ _ => w != 3#2 && vparityOk va vb
  | .vshr w _ va vb _ _ _ _ => w != 3#2 && vparityOk va vb
  | .vsha w _ va vb _ _ _ _ => w != 3#2 && vparityOk va vb
  | .vmins w _ va vb _ _ _ _ => w != 3#2 && vparityOk va vb
  | .vmaxs w _ va vb _ _ _ _ => w != 3#2 && vparityOk va vb
  | .vminu w _ va vb _ _ _ _ => w != 3#2 && vparityOk va vb
  | .vmaxu w _ va vb _ _ _ _ => w != 3#2 && vparityOk va vb
  | .vadds w _ va vb _ _ _ _ => w != 3#2 && vparityOk va vb
  | .vsubs w _ va vb _ _ _ _ => w != 3#2 && vparityOk va vb
  | .vabs w _ _ _ _ _ => w != 3#2
  | .vdot4 _ va vb _ _ _ _ => vparityOk va vb
  | .vfadd w _ va vb _ _ _ _ => w != 3#2 && vparityOk va vb
  | .vfsub w _ va vb _ _ _ _ => w != 3#2 && vparityOk va vb
  | .vfmul w _ va vb _ _ _ _ => w != 3#2 && vparityOk va vb
  | .vffma w _ va vb _ _ _ _ => w != 3#2 && vparityOk va vb
  | .vffms w _ va vb _ _ _ _ => w != 3#2 && vparityOk va vb
  | .vfmin w _ va vb _ _ _ _ => w != 3#2 && vparityOk va vb
  | .vfmax w _ va vb _ _ _ _ => w != 3#2 && vparityOk va vb
  | .vfabs w _ _ _ _ _ => w != 3#2
  | .vfneg w _ _ _ _ _ => w != 3#2
  | .vfdiv w _ va vb _ _ _ _ => w != 3#2 && vparityOk va vb
  | .vfsqrt _ _ _ _ _ => true
  | .vcvtf32f16 _ _ _ _ _ _ => true
  | .vcvtf16f32 _ _ _ _ _ _ => true
  | .vcvtf32bf _ _ _ _ _ _ => true
  | .vcvtbff32 _ _ _ _ _ _ => true
  | .vcvtf32f8a _ _ _ _ _ _ => true
  | .vcvtf8af32 _ _ _ _ _ _ => true
  | .vcvtf32f8b _ _ _ _ _ _ => true
  | .vcvtf8bf32 _ _ _ _ _ _ => true
  | .vcvtf32i32 _ _ _ _ _ => true
  | .vcvti32f32 _ _ _ _ _ => true
  | .vcvti32i16 _ _ _ _ _ _ => true
  | .vcvti32i8 _ _ _ _ _ _ => true
  | .vcvti8i32 _ _ _ _ _ _ => true
  | .vbcast _ _ => true
  | .vins _ _ n => decide (n.toNat ≤ 15)
  | .vext _ _ n => decide (n.toNat ≤ 15)
  | .vshuf _ _ => true
  | .vrot _ _ n => decide (n.toNat ≤ 15)
  | .vredadd _ _ => true
  | .vredfadd _ _ => true
  | .vredmax _ _ => true
  | .vredmin _ _ => true
  | .vscan _ _ => true
  | .vpopk _ kn => decide (kn.toNat ≤ 7)
  | .vmovk kn _ => decide (kn.toNat ≤ 7) && kn != 0#6
  | .vkmov _ kn => decide (kn.toNat ≤ 7)
  | .vcmpeq ty _ va vb _ _ _ _ => ty != 3#2 && vparityOk va vb
  | .vcmpne ty _ va vb _ _ _ _ => ty != 3#2 && vparityOk va vb
  | .vcmplt ty _ va vb _ _ _ _ => ty != 3#2 && vparityOk va vb
  | .vcmple ty _ va vb _ _ _ _ => ty != 3#2 && vparityOk va vb
  | .vcmpgt ty _ va vb _ _ _ _ => ty != 3#2 && vparityOk va vb
  | .vcmpge ty _ va vb _ _ _ _ => ty != 3#2 && vparityOk va vb
  | .vcmpun _ va vb _ _ _ _ => vparityOk va vb
  | .vlut3 _ va vb _ _ _ _ => vparityOk va vb
  | .offer _ _ _ _ => true
  | .evtest _ _ _ _ => true
  | .evwait _ _ _ _ => true
  | .pause _ _ => true
  | .dlr _ _ _ => true
  | .dlw _ _ _ _ => true
  | .retire _ => true
  | .mclaim _ _ _ _ => true
  | .mrel _ _ _ => true
  | .mma _ a b _ _ _ => parityOk a b
  | .mzero _ _ _ _ => true
  | .mdrain _ a b _ _ _ => parityOk a b
  | .copy _ _ => true
  | .copyg _ _ => true
  | .copyop _ _ => true
  | .conv _ _ => true
  | .planes _ _ => true
  | .sparsify _ _ => true
  | .scalec _ _ => true
  | .tidset _ _ _ _ => true
  | .tidget _ _ _ _ => true
  | .tidclr _ _ _ => true
  | .grow _ _ _ _ => true
  | .launch _ _ _ => true
  | .restart _ _ _ => true
  | .seal _ _ _ => true
  | .stall _ => true
  | .wide _ => true
  | .mod rnd _ => decide (rnd.toNat ≤ 4)
  | .crit => true
  | .pairLowRead _ _ _ => true
  | .nctlWrite _ _ => true
  | .wposWrite _ _ => true
  | .nstatAccess _ _ _ => true
  | .cmapWrite _ _ => true
  | .xinvhWrite _ _ => true
  | .rqbaseWrite _ _ => true
  | .rqtailWrite _ _ => true
  | .rqovfWrite _ _ => true
  | .cellstSeal _ _ => true
  | .cellstUnseal _ _ => true
  | .islstWrite _ _ => true
  | .alcmdCommit _ _ => true
  | .registerWrite _ _ _ => true
  | .wordNotAnInstruction _ => true
  | .nodeSelect => true
  | .valueArrival => true
  | .accessPerformed => true
  | .commandAcceptance => true
  | .commandExecution => true
  | .commandCompletion => true
  | .gangStart => true
  | .gangStepBegin => true
  | .fastCommit => true
  | .settlingRound => true
  | .instanceEnd => true
  | .nodeResume => true
  | .instantOverrun => true
  | .dispatch => true
  | .hostRequestLaunch => true
  | .drainRequest => true
  | .hostRequestRestore => true
  | .hostRequestDiscard => true
  | .drainLimitExpiry => true
  | .forceLimitExpiry => true
  | .cleanSave => true
  | .forcedSave => true
  | .forcedSaveTimeout => true
  | .pageServiceResume => true
  | .heldResume => true
  | .heldRetire => true
  | .invalidationComplete => true
  | .sofferWrite => true
  | .hostMemAccess => true
  | .reportWrite => true
  | .registerParityError => true
  | .sealForcelimExpiry => true
  | .patrolScrub => true
  | .twinHashCompare => true
  | .twinMatchTimeout => true
  | .remoteTimeout => true
  | .hostAbort => true
  | .sparePromoted => true
  | .wearMonitorRead => true
  | .budgetPeriod => true
  | .thermalDerate => true
  | .thermalCapRise => true
  | .thermalShutdown => true
  | .almanacCommit => true
  | .almanacCommitDone => true
  | .powerOn => true
  | .powerDownRequest => true
  | .dataFrame => true
  | .ackFrame => true
  | .nakFrame => true
  | .allowFrame => true
  | .keyxFrame => true
  | .frameSend => true
  | .retransmitTimeout => true
  | .linkPeerLost => true
  | .spdmRequest => true
  | .snoop => true
  | .powerLoss => true
  | .hostLinkUp => true
  | .portRetrained => true
  | .ackIntervalExpiry => true
  | .otherEthertypeFrame => true
  | .islandClockStallEnd => true

end Sys2Proof
end

