-- ==== Sys2Proof/Decode.lean ====
section
/-! DEFINITION. The decoder and the encoder. A word is cut into fields by its major opcode (R66, R70 to R80). The decoder
answers an instruction for every word that passes checks 3 and 4 of R67, the step WORD_NOT_AN_INSTRUCTION for a word that
fails check 3, and the reason and bit number of ILLEGAL_ENCODING (R68, R380) for a word that fails check 4. -/

namespace Sys2Proof

/-- Bits [lo+w-1:lo] of a word, as an unsigned value (R9). -/
def fld (n lo w : Nat) : Nat := n / 2 ^ lo % 2 ^ w

/-- The same field as a bit vector. -/
def bf (n lo w : Nat) : BitVec w := BitVec.ofNat w (n / 2 ^ lo)

/-- A one-bit field as a truth value. -/
def flag (n lo : Nat) : Bool := n / 2 ^ lo % 2 == 1

/-- ILLEGAL_ENCODING: the reason of R68 and the lowest bit number of the offending field. -/
structure EncodingError where
  reason : Nat
  bit : Nat
  deriving DecidableEq, Repr

/-- What the decoder answers: an instruction or the refusal of check 4. -/
abbrev Decoded := Except EncodingError Instr

/-- The single bits [lo+w-1:lo], for the payload of a hint (R381). -/
def bitsFrom (lo w : Nat) : List (Nat × Nat) := (List.range w).map fun i => (lo + i, 1)

/-- Check 4 of R67 on a word, in the order of R380: the fields that must be zero (in ascending order), the fields with a
value that is not allowed, the pair fields that are odd or zero, the parity of R21. -/
def form (n : Nat) (mbz : List (Nat × Nat)) (bad : List (Nat × Bool)) (pairs : List Nat)
    (par : Option (Nat × Nat × Nat)) (i : Instr) : Decoded :=
  match mbz.find? (fun f => fld n f.1 f.2 != 0) with
  | some f => .error { reason := 0, bit := f.1 }
  | none =>
    match bad.find? (fun b => b.2) with
    | some b => .error { reason := 2, bit := b.1 }
    | none =>
      match pairs.find? (fun p => fld n p 5 % 2 == 1 || fld n p 5 == 0) with
      | some p => .error { reason := 3, bit := p }
      | none =>
        match par with
        | none => .ok i
        | some (hi, lo, w) =>
          if fld n hi w % 2 == fld n lo w % 2 && (w == 4 || (fld n hi w != 0 && fld n lo w != 0)) then
            .error { reason := 1, bit := lo }
          else .ok i

/-- A word that fails check 3 of R67 (R86, R87). -/
def notInstr (n : Nat) : Decoded := .ok (.wordNotAnInstruction (BitVec.ofNat 32 n))

/-- Major 1. -/
def decodeInt (n : Nat) : Decoded :=
  match fld n 0 7 with
  | 0 => form n [] [] [] (some (16, 11, 5)) (.add (bf n 21 5) (bf n 16 5) (bf n 11 5) (flag n 10) (flag n 9) (bf n 7 2))
  | 1 => form n [] [] [] (some (16, 11, 5)) (.sub (bf n 21 5) (bf n 16 5) (bf n 11 5) (flag n 10) (flag n 9) (bf n 7 2))
  | 2 => form n [] [] [] (some (16, 11, 5)) (.and (bf n 21 5) (bf n 16 5) (bf n 11 5) (flag n 10) (flag n 9) (bf n 7 2))
  | 3 => form n [] [] [] (some (16, 11, 5)) (.andn (bf n 21 5) (bf n 16 5) (bf n 11 5) (flag n 10) (flag n 9) (bf n 7 2))
  | 4 => form n [] [] [] (some (16, 11, 5)) (.or (bf n 21 5) (bf n 16 5) (bf n 11 5) (flag n 10) (flag n 9) (bf n 7 2))
  | 5 => form n [] [] [] (some (16, 11, 5)) (.orn (bf n 21 5) (bf n 16 5) (bf n 11 5) (flag n 10) (flag n 9) (bf n 7 2))
  | 6 => form n [] [] [] (some (16, 11, 5)) (.xor (bf n 21 5) (bf n 16 5) (bf n 11 5) (flag n 10) (flag n 9) (bf n 7 2))
  | 7 => form n [] [] [] (some (16, 11, 5)) (.xnor (bf n 21 5) (bf n 16 5) (bf n 11 5) (flag n 10) (flag n 9) (bf n 7 2))
  | 8 => form n [] [] [] (some (16, 11, 5)) (.shl (bf n 21 5) (bf n 16 5) (bf n 11 5) (flag n 10) (flag n 9) (bf n 7 2))
  | 9 => form n [] [] [] (some (16, 11, 5)) (.shr (bf n 21 5) (bf n 16 5) (bf n 11 5) (flag n 10) (flag n 9) (bf n 7 2))
  | 10 => form n [] [] [] (some (16, 11, 5)) (.sha (bf n 21 5) (bf n 16 5) (bf n 11 5) (flag n 10) (flag n 9) (bf n 7 2))
  | 11 => form n [] [] [] (some (16, 11, 5)) (.rotl (bf n 21 5) (bf n 16 5) (bf n 11 5) (flag n 10) (flag n 9) (bf n 7 2))
  | 12 => form n [] [] [] (some (16, 11, 5)) (.mins (bf n 21 5) (bf n 16 5) (bf n 11 5) (flag n 10) (flag n 9) (bf n 7 2))
  | 13 => form n [] [] [] (some (16, 11, 5)) (.maxs (bf n 21 5) (bf n 16 5) (bf n 11 5) (flag n 10) (flag n 9) (bf n 7 2))
  | 14 => form n [] [] [] (some (16, 11, 5)) (.minu (bf n 21 5) (bf n 16 5) (bf n 11 5) (flag n 10) (flag n 9) (bf n 7 2))
  | 15 => form n [] [] [] (some (16, 11, 5)) (.maxu (bf n 21 5) (bf n 16 5) (bf n 11 5) (flag n 10) (flag n 9) (bf n 7 2))
  | 16 => form n [] [] [] (some (16, 11, 5)) (.adds (bf n 21 5) (bf n 16 5) (bf n 11 5) (flag n 10) (flag n 9) (bf n 7 2))
  | 17 => form n [] [] [] (some (16, 11, 5)) (.subs (bf n 21 5) (bf n 16 5) (bf n 11 5) (flag n 10) (flag n 9) (bf n 7 2))
  | _ =>
    if fld n 3 4 == 3 then form n [] [] [] (some (16, 11, 5)) (.sel (bf n 21 5) (bf n 0 3) (bf n 16 5) (bf n 11 5) (flag n 10) (flag n 9) (bf n 7 2)) else
    notInstr n

/-- Major 2. -/
def decodeAddi (n : Nat) : Decoded :=
  form n [] [] [] none (.addi (bf n 21 5) (bf n 16 5) (flag n 15) (bf n 13 2) (bf n 0 13))

/-- Major 3. -/
def decodeAndi (n : Nat) : Decoded :=
  form n [] [] [] none (.andi (bf n 21 5) (bf n 16 5) (flag n 15) (bf n 13 2) (bf n 0 13))

/-- Major 4. -/
def decodeOri (n : Nat) : Decoded :=
  form n [] [] [] none (.ori (bf n 21 5) (bf n 16 5) (flag n 15) (bf n 13 2) (bf n 0 13))

/-- Major 5. -/
def decodeXori (n : Nat) : Decoded :=
  form n [] [] [] none (.xori (bf n 21 5) (bf n 16 5) (flag n 15) (bf n 13 2) (bf n 0 13))

/-- Major 6. -/
def decodeMovi (n : Nat) : Decoded :=
  form n [(15, 1), (16, 5)] [] [] none (.movi (bf n 21 5) (bf n 13 2) (bf n 0 13))

/-- Major 7. -/
def decodeMuli (n : Nat) : Decoded :=
  form n [] [] [] none (.muli (bf n 21 5) (bf n 16 5) (flag n 15) (bf n 13 2) (bf n 0 13))

/-- Major 8. -/
def decodeCmp (n : Nat) : Decoded :=
  match fld n 0 7 with
  | 0 => form n [] [(21, fld n 21 2 == 3)] [] (some (16, 11, 5)) (.cmpeq (bf n 23 3) (bf n 21 2) (bf n 16 5) (bf n 11 5) (flag n 10) (flag n 9) (bf n 7 2))
  | 1 => form n [] [(21, fld n 21 2 == 3)] [] (some (16, 11, 5)) (.cmpne (bf n 23 3) (bf n 21 2) (bf n 16 5) (bf n 11 5) (flag n 10) (flag n 9) (bf n 7 2))
  | 2 => form n [] [(21, fld n 21 2 == 3)] [] (some (16, 11, 5)) (.cmplt (bf n 23 3) (bf n 21 2) (bf n 16 5) (bf n 11 5) (flag n 10) (flag n 9) (bf n 7 2))
  | 3 => form n [] [(21, fld n 21 2 == 3)] [] (some (16, 11, 5)) (.cmple (bf n 23 3) (bf n 21 2) (bf n 16 5) (bf n 11 5) (flag n 10) (flag n 9) (bf n 7 2))
  | 4 => form n [] [(21, fld n 21 2 == 3)] [] (some (16, 11, 5)) (.cmpgt (bf n 23 3) (bf n 21 2) (bf n 16 5) (bf n 11 5) (flag n 10) (flag n 9) (bf n 7 2))
  | 5 => form n [] [(21, fld n 21 2 == 3)] [] (some (16, 11, 5)) (.cmpge (bf n 23 3) (bf n 21 2) (bf n 16 5) (bf n 11 5) (flag n 10) (flag n 9) (bf n 7 2))
  | 6 => form n [] [(21, fld n 21 2 == 3)] [] (some (16, 11, 5)) (.cmpltu (bf n 23 3) (bf n 21 2) (bf n 16 5) (bf n 11 5) (flag n 10) (flag n 9) (bf n 7 2))
  | 7 => form n [] [(21, fld n 21 2 == 3)] [] (some (16, 11, 5)) (.cmpleu (bf n 23 3) (bf n 21 2) (bf n 16 5) (bf n 11 5) (flag n 10) (flag n 9) (bf n 7 2))
  | 8 => form n [] [(21, fld n 21 2 == 3)] [] (some (16, 11, 5)) (.cmpgtu (bf n 23 3) (bf n 21 2) (bf n 16 5) (bf n 11 5) (flag n 10) (flag n 9) (bf n 7 2))
  | 9 => form n [] [(21, fld n 21 2 == 3)] [] (some (16, 11, 5)) (.cmpgeu (bf n 23 3) (bf n 21 2) (bf n 16 5) (bf n 11 5) (flag n 10) (flag n 9) (bf n 7 2))
  | 10 => form n [] [(21, fld n 21 2 == 3)] [] (some (16, 11, 5)) (.cmpbitany (bf n 23 3) (bf n 21 2) (bf n 16 5) (bf n 11 5) (flag n 10) (flag n 9) (bf n 7 2))
  | 11 => form n [] [(21, fld n 21 2 == 3)] [] (some (16, 11, 5)) (.cmpbitnone (bf n 23 3) (bf n 21 2) (bf n 16 5) (bf n 11 5) (flag n 10) (flag n 9) (bf n 7 2))
  | _ => notInstr n

/-- Major 9. -/
def decodeCmpi (n : Nat) : Decoded :=
  match fld n 21 2 with
  | 0 => form n [] [] [] none (.cmpieq (bf n 23 3) (bf n 16 5) (flag n 15) (bf n 13 2) (bf n 0 13))
  | 1 => form n [] [] [] none (.cmpine (bf n 23 3) (bf n 16 5) (flag n 15) (bf n 13 2) (bf n 0 13))
  | 2 => form n [] [] [] none (.cmpilt (bf n 23 3) (bf n 16 5) (flag n 15) (bf n 13 2) (bf n 0 13))
  | _ => form n [] [] [] none (.cmpiltu (bf n 23 3) (bf n 16 5) (flag n 15) (bf n 13 2) (bf n 0 13))

/-- Major 10. -/
def decodeBits (n : Nat) : Decoded :=
  match fld n 0 7 with
  | 0 => form n [(9, 1)] [] [] none (.shli (bf n 21 5) (bf n 16 5) (bf n 11 5) (flag n 10) (bf n 7 2))
  | 1 => form n [(9, 1)] [] [] none (.shri (bf n 21 5) (bf n 16 5) (bf n 11 5) (flag n 10) (bf n 7 2))
  | 2 => form n [(9, 1)] [] [] none (.shai (bf n 21 5) (bf n 16 5) (bf n 11 5) (flag n 10) (bf n 7 2))
  | 3 => form n [(9, 1)] [] [] none (.rotli (bf n 21 5) (bf n 16 5) (bf n 11 5) (flag n 10) (bf n 7 2))
  | 4 => form n [(9, 1), (11, 5)] [] [] none (.clz (bf n 21 5) (bf n 16 5) (flag n 10) (bf n 7 2))
  | 5 => form n [(9, 1), (11, 5)] [] [] none (.ctz (bf n 21 5) (bf n 16 5) (flag n 10) (bf n 7 2))
  | 6 => form n [(9, 1), (11, 5)] [] [] none (.popc (bf n 21 5) (bf n 16 5) (flag n 10) (bf n 7 2))
  | 7 => form n [(9, 1), (11, 5)] [] [] none (.brev (bf n 21 5) (bf n 16 5) (flag n 10) (bf n 7 2))
  | 8 => form n [(9, 1), (11, 5)] [] [] none (.bswap (bf n 21 5) (bf n 16 5) (flag n 10) (bf n 7 2))
  | 9 => form n [] [] [] (some (16, 11, 5)) (.bfx (bf n 21 5) (bf n 16 5) (bf n 11 5) (flag n 10) (flag n 9) (bf n 7 2))
  | 10 => form n [] [] [] (some (16, 11, 5)) (.bfxs (bf n 21 5) (bf n 16 5) (bf n 11 5) (flag n 10) (flag n 9) (bf n 7 2))
  | 11 => form n [] [] [] (some (16, 11, 5)) (.bfi (bf n 21 5) (bf n 16 5) (bf n 11 5) (flag n 10) (flag n 9) (bf n 7 2))
  | _ =>
    if fld n 5 2 == 1 then form n [] [] [] (some (16, 11, 5)) (.fshl (bf n 21 5) (bf n 16 5) (bf n 11 5) (flag n 10) (flag n 9) (bf n 7 2) (bf n 0 5)) else
    if fld n 5 2 == 2 then form n [] [] [] (some (16, 11, 5)) (.fshr (bf n 21 5) (bf n 16 5) (bf n 11 5) (flag n 10) (flag n 9) (bf n 7 2) (bf n 0 5)) else
    notInstr n

/-- Major 11. -/
def decodeLut3 (n : Nat) : Decoded :=
  form n [(0, 1)] [] [] (some (16, 11, 5)) (.lut3 (bf n 21 5) (bf n 16 5) (bf n 11 5) (flag n 10) (flag n 9) (bf n 1 8))

/-- Major 12. -/
def decodeMuldiv (n : Nat) : Decoded :=
  match fld n 0 7 with
  | 0 => form n [] [] [] (some (16, 11, 5)) (.mul (bf n 21 5) (bf n 16 5) (bf n 11 5) (flag n 10) (flag n 9) (bf n 7 2))
  | 1 => form n [] [] [] (some (16, 11, 5)) (.mulhs (bf n 21 5) (bf n 16 5) (bf n 11 5) (flag n 10) (flag n 9) (bf n 7 2))
  | 2 => form n [] [] [] (some (16, 11, 5)) (.mulhu (bf n 21 5) (bf n 16 5) (bf n 11 5) (flag n 10) (flag n 9) (bf n 7 2))
  | 3 => form n [] [] [] (some (16, 11, 5)) (.divs (bf n 21 5) (bf n 16 5) (bf n 11 5) (flag n 10) (flag n 9) (bf n 7 2))
  | 4 => form n [] [] [] (some (16, 11, 5)) (.divu (bf n 21 5) (bf n 16 5) (bf n 11 5) (flag n 10) (flag n 9) (bf n 7 2))
  | 5 => form n [] [] [] (some (16, 11, 5)) (.rems (bf n 21 5) (bf n 16 5) (bf n 11 5) (flag n 10) (flag n 9) (bf n 7 2))
  | 6 => form n [] [] [] (some (16, 11, 5)) (.remu (bf n 21 5) (bf n 16 5) (bf n 11 5) (flag n 10) (flag n 9) (bf n 7 2))
  | _ => notInstr n

/-- Major 13. -/
def decodeFps (n : Nat) : Decoded :=
  match fld n 0 7 with
  | 0 => form n [] [] [] (some (16, 11, 5)) (.fadd (bf n 21 5) (bf n 16 5) (bf n 11 5) (flag n 10) (flag n 9) (bf n 7 2))
  | 1 => form n [] [] [] (some (16, 11, 5)) (.fsub (bf n 21 5) (bf n 16 5) (bf n 11 5) (flag n 10) (flag n 9) (bf n 7 2))
  | 2 => form n [] [] [] (some (16, 11, 5)) (.fmul (bf n 21 5) (bf n 16 5) (bf n 11 5) (flag n 10) (flag n 9) (bf n 7 2))
  | 3 => form n [] [] [] (some (16, 11, 5)) (.ffma (bf n 21 5) (bf n 16 5) (bf n 11 5) (flag n 10) (flag n 9) (bf n 7 2))
  | 4 => form n [] [] [] (some (16, 11, 5)) (.fmin (bf n 21 5) (bf n 16 5) (bf n 11 5) (flag n 10) (flag n 9) (bf n 7 2))
  | 5 => form n [] [] [] (some (16, 11, 5)) (.fmax (bf n 21 5) (bf n 16 5) (bf n 11 5) (flag n 10) (flag n 9) (bf n 7 2))
  | 6 => form n [(9, 1), (11, 5)] [] [] none (.fabs (bf n 21 5) (bf n 16 5) (flag n 10) (bf n 7 2))
  | 7 => form n [(9, 1), (11, 5)] [] [] none (.fneg (bf n 21 5) (bf n 16 5) (flag n 10) (bf n 7 2))
  | 8 => form n [(9, 1), (11, 5)] [] [] none (.fcvtif (bf n 21 5) (bf n 16 5) (flag n 10) (bf n 7 2))
  | 9 => form n [(9, 1), (11, 5)] [] [] none (.fcvtfi (bf n 21 5) (bf n 16 5) (flag n 10) (bf n 7 2))
  | 10 => form n [(9, 1), (11, 5)] [] [] none (.fsqrt (bf n 21 5) (bf n 16 5) (flag n 10) (bf n 7 2))
  | 16 => form n [(21, 2)] [] [] (some (16, 11, 5)) (.fcmpeq (bf n 23 3) (bf n 16 5) (bf n 11 5) (flag n 10) (flag n 9) (bf n 7 2))
  | 17 => form n [(21, 2)] [] [] (some (16, 11, 5)) (.fcmpne (bf n 23 3) (bf n 16 5) (bf n 11 5) (flag n 10) (flag n 9) (bf n 7 2))
  | 18 => form n [(21, 2)] [] [] (some (16, 11, 5)) (.fcmplt (bf n 23 3) (bf n 16 5) (bf n 11 5) (flag n 10) (flag n 9) (bf n 7 2))
  | 19 => form n [(21, 2)] [] [] (some (16, 11, 5)) (.fcmple (bf n 23 3) (bf n 16 5) (bf n 11 5) (flag n 10) (flag n 9) (bf n 7 2))
  | 20 => form n [(21, 2)] [] [] (some (16, 11, 5)) (.fcmpun (bf n 23 3) (bf n 16 5) (bf n 11 5) (flag n 10) (flag n 9) (bf n 7 2))
  | _ => notInstr n

/-- Major 14. -/
def decodeAddr (n : Nat) : Decoded :=
  match fld n 0 7 with
  | 0 => form n [(10, 1), (19, 2), (24, 2)] [] [] none (.adda (bf n 21 3) (bf n 16 3) (bf n 11 5) (flag n 9) (bf n 7 2))
  | 1 => form n [(10, 1), (19, 2), (24, 2)] [] [] none (.addau (bf n 21 3) (bf n 16 3) (bf n 11 5) (flag n 9) (bf n 7 2))
  | 3 => form n [(24, 2)] [] [] (some (16, 11, 5)) (.movga (bf n 21 3) (bf n 16 5) (bf n 11 5) (flag n 10) (flag n 9) (bf n 7 2))
  | 4 => form n [(9, 1), (10, 1), (11, 5), (19, 2)] [] [] none (.movag (bf n 21 5) (bf n 16 3) (bf n 7 2))
  | 5 => form n [(9, 1), (10, 1), (11, 5), (19, 2)] [] [] none (.movagh (bf n 21 5) (bf n 16 3) (bf n 7 2))
  | 6 => form n [(9, 1), (10, 1), (14, 2), (19, 2)] [] [] none (.suba (bf n 21 5) (bf n 16 3) (bf n 11 3) (bf n 7 2))
  | _ =>
    if fld n 3 4 == 2 then form n [(10, 1), (19, 2), (24, 2)] [] [] none (.addas (bf n 21 3) (bf n 16 3) (bf n 11 5) (flag n 9) (bf n 7 2) (bf n 0 3)) else
    notInstr n

/-- Major 15. -/
def decodeAddai (n : Nat) : Decoded :=
  form n [(15, 1), (19, 2), (24, 2)] [] [] none (.addai (bf n 21 3) (bf n 16 3) (bf n 13 2) (bf n 0 13))

/-- Major 16. Of the fields p and n, whose values together are disallowed, the bit reported is that of n, by the model's choice (log entry
133). -/
def decodeBr (n : Nat) : Decoded :=
  form n [] [(22, fld n 23 3 == 0 && fld n 22 1 == 1)] [] none (.br (bf n 23 3) (flag n 22) (bf n 20 2) (bf n 0 20))

/-- Major 17, with the same choice. -/
def decodeCall (n : Nat) : Decoded :=
  form n [] [(22, fld n 23 3 == 0 && fld n 22 1 == 1)] [] none (.call (bf n 23 3) (flag n 22) (bf n 20 2) (bf n 0 20))

/-- Major 18. -/
def decodeJx (n : Nat) : Decoded :=
  match fld n 0 7 with
  | 0 => form n [(9, 1), (11, 5), (21, 5)] [] [] none (.jmpr (bf n 16 5) (flag n 10) (bf n 7 2))
  | 1 => form n [(9, 1), (11, 5), (21, 5)] [] [] none (.callr (bf n 16 5) (flag n 10) (bf n 7 2))
  | 2 => form n [(9, 1), (10, 1), (11, 5), (16, 5), (21, 5)] [] [] none (.ret (bf n 7 2))
  | 3 => form n [(9, 1), (10, 1), (11, 5), (16, 5), (21, 5)] [] [] none (.rtt (bf n 7 2))
  | _ => notInstr n

/-- Major 19. -/
def decodeLoop (n : Nat) : Decoded :=
  form n [(21, 5)] [(0, fld n 0 13 == 0 || fld n 12 1 == 1)] [] none (.loop (bf n 16 5) (flag n 15) (bf n 13 2) (bf n 0 13))

/-- Major 20. -/
def decodeLd (n : Nat) : Decoded :=
  match fld n 12 3 with
  | 0 => form n [(17, 1)] [] [] none (.ldb (bf n 21 5) (bf n 18 3) (bf n 15 2) (bf n 0 12))
  | 1 => form n [(17, 1)] [] [] none (.ldbs (bf n 21 5) (bf n 18 3) (bf n 15 2) (bf n 0 12))
  | 2 => form n [(17, 1)] [] [] none (.ldh (bf n 21 5) (bf n 18 3) (bf n 15 2) (bf n 0 12))
  | 3 => form n [(17, 1)] [] [] none (.ldhs (bf n 21 5) (bf n 18 3) (bf n 15 2) (bf n 0 12))
  | 4 => form n [(17, 1)] [] [] none (.ldw (bf n 21 5) (bf n 18 3) (bf n 15 2) (bf n 0 12))
  | 5 => form n [(17, 1)] [] [21] none (.ldd (bf n 21 5) (bf n 18 3) (bf n 15 2) (bf n 0 12))
  | _ => form n [(17, 1)] [(12, true)] [] none (.wordNotAnInstruction (BitVec.ofNat 32 n))

/-- Major 21. -/
def decodeSt (n : Nat) : Decoded :=
  match fld n 12 3 with
  | 0 => form n [] [] [] none (.stb (bf n 21 5) (bf n 18 3) (flag n 17) (bf n 15 2) (bf n 0 12))
  | 2 => form n [] [] [] none (.sth (bf n 21 5) (bf n 18 3) (flag n 17) (bf n 15 2) (bf n 0 12))
  | 4 => form n [] [] [] none (.stw (bf n 21 5) (bf n 18 3) (flag n 17) (bf n 15 2) (bf n 0 12))
  | 5 => form n [] [] [21] none (.std (bf n 21 5) (bf n 18 3) (flag n 17) (bf n 15 2) (bf n 0 12))
  | _ => form n [] [(12, true)] [] none (.wordNotAnInstruction (BitVec.ofNat 32 n))

/-- Major 22. -/
def decodeLda (n : Nat) : Decoded :=
  match fld n 12 3 with
  | 5 => form n [(17, 1), (24, 2)] [] [] none (.lda (bf n 21 3) (bf n 18 3) (bf n 15 2) (bf n 0 12))
  | _ => form n [(17, 1), (24, 2)] [(12, true)] [] none (.wordNotAnInstruction (BitVec.ofNat 32 n))

/-- Major 23. -/
def decodeSta (n : Nat) : Decoded :=
  match fld n 12 3 with
  | 5 => form n [(17, 1), (24, 2)] [] [] none (.sta (bf n 21 3) (bf n 18 3) (bf n 15 2) (bf n 0 12))
  | _ => form n [(17, 1), (24, 2)] [(12, true)] [] none (.wordNotAnInstruction (BitVec.ofNat 32 n))

/-- Major 24. -/
def decodeAmo (n : Nat) : Decoded :=
  match fld n 0 7 with
  | 0 => form n [(7, 1), (10, 1), (16, 2)] [] (if flag n 8 then [11, 21] else []) none (.amoadd (bf n 21 5) (bf n 18 3) (bf n 11 5) (flag n 9) (flag n 8))
  | 1 => form n [(7, 1), (10, 1), (16, 2)] [] (if flag n 8 then [11, 21] else []) none (.amoand (bf n 21 5) (bf n 18 3) (bf n 11 5) (flag n 9) (flag n 8))
  | 2 => form n [(7, 1), (10, 1), (16, 2)] [] (if flag n 8 then [11, 21] else []) none (.amoor (bf n 21 5) (bf n 18 3) (bf n 11 5) (flag n 9) (flag n 8))
  | 3 => form n [(7, 1), (10, 1), (16, 2)] [] (if flag n 8 then [11, 21] else []) none (.amoxor (bf n 21 5) (bf n 18 3) (bf n 11 5) (flag n 9) (flag n 8))
  | 4 => form n [(7, 1), (10, 1), (16, 2)] [] (if flag n 8 then [11, 21] else []) none (.amomins (bf n 21 5) (bf n 18 3) (bf n 11 5) (flag n 9) (flag n 8))
  | 5 => form n [(7, 1), (10, 1), (16, 2)] [] (if flag n 8 then [11, 21] else []) none (.amomaxs (bf n 21 5) (bf n 18 3) (bf n 11 5) (flag n 9) (flag n 8))
  | 6 => form n [(7, 1), (10, 1), (16, 2)] [] (if flag n 8 then [11, 21] else []) none (.amominu (bf n 21 5) (bf n 18 3) (bf n 11 5) (flag n 9) (flag n 8))
  | 7 => form n [(7, 1), (10, 1), (16, 2)] [] (if flag n 8 then [11, 21] else []) none (.amomaxu (bf n 21 5) (bf n 18 3) (bf n 11 5) (flag n 9) (flag n 8))
  | 8 => form n [(7, 1), (10, 1), (16, 2)] [] (if flag n 8 then [11, 21] else []) none (.amoswap (bf n 21 5) (bf n 18 3) (bf n 11 5) (flag n 9) (flag n 8))
  | 9 => form n [(7, 1), (16, 2)] [] (if flag n 8 then [11, 21] else []) none (.amocas (bf n 21 5) (bf n 18 3) (bf n 11 5) (flag n 10) (flag n 9) (flag n 8))
  | 10 => form n [(7, 1), (10, 1), (16, 2)] [(8, fld n 8 1 == 1)] [] none (.amofadd (bf n 21 5) (bf n 18 3) (bf n 11 5) (flag n 9))
  | _ => notInstr n

/-- Major 25. -/
def decodeAmo2 (n : Nat) : Decoded :=
  match fld n 0 7 with
  | 0 => form n [(7, 1), (16, 2)] [(8, fld n 8 1 == 1), (18, fld n 18 1 == 1)] [11, 21] none (.dcas (bf n 21 5) (bf n 18 3) (bf n 11 5) (flag n 10) (flag n 9))
  | 1 => form n [(7, 1), (10, 1), (16, 2)] [(8, fld n 8 1 == 1), (18, fld n 18 1 == 1)] [] none (.amov2 (bf n 21 5) (bf n 18 3) (bf n 11 5) (flag n 9))
  | _ => notInstr n

/-- Major 26. -/
def decodeSys (n : Nat) : Decoded :=
  match fld n 0 7 with
  | 0 => form n [(9, 1), (10, 1), (11, 5), (16, 5), (21, 5)] [] [] none (.fence (bf n 7 2))
  | 1 => form n [(9, 1), (10, 1)] [] [] none (.movs (bf n 21 5) (bf n 11 10) (bf n 7 2))
  | 2 => form n [(9, 1), (10, 1)] [] [] none (.movsw (bf n 21 5) (bf n 11 10) (bf n 7 2))
  | 3 => form n [(9, 1), (10, 1), (21, 5)] [] [] none (.trap (bf n 11 10) (bf n 7 2))
  | 4 => form n [(9, 1), (10, 1), (11, 5), (16, 5), (21, 5)] [] [] none (.wspill (bf n 7 2))
  | 5 => form n [(9, 1), (10, 1), (11, 5), (16, 5), (21, 5)] [] [] none (.wfill (bf n 7 2))
  | 6 => form n [(9, 1), (10, 1)] [(11, 5 < fld n 11 5), (16, 1 < fld n 16 5)] [] none (.widx (bf n 21 5) (bf n 16 5) (bf n 11 5) (bf n 7 2))
  | _ => notInstr n

/-- Major 27. -/
def decodeVld (n : Nat) : Decoded :=
  match fld n 12 3 with
  | 0 => form n [(17, 1), (21, 1)] [] [] none (.vld (bf n 22 4) (bf n 18 3) (bf n 15 2) (bf n 0 12))
  | 1 => form n [(17, 1), (21, 1)] [] [] none (.vldh (bf n 22 4) (bf n 18 3) (bf n 15 2) (bf n 0 12))
  | _ => form n [(17, 1), (21, 1)] [(12, true)] [] none (.wordNotAnInstruction (BitVec.ofNat 32 n))

/-- Major 28. -/
def decodeVst (n : Nat) : Decoded :=
  match fld n 12 3 with
  | 0 => form n [(21, 1)] [] [] none (.vst (bf n 22 4) (bf n 18 3) (flag n 17) (bf n 15 2) (bf n 0 12))
  | 1 => form n [(21, 1)] [] [] none (.vsth (bf n 22 4) (bf n 18 3) (flag n 17) (bf n 15 2) (bf n 0 12))
  | _ => form n [(21, 1)] [(12, true)] [] none (.wordNotAnInstruction (BitVec.ofNat 32 n))

/-- Major 29. -/
def decodeVgs (n : Nat) : Decoded :=
  match fld n 0 7 with
  | 0 => form n [(7, 3)] [] [] none (.gathw (bf n 22 4) (bf n 19 3) (bf n 15 4) (bf n 12 3) (bf n 10 2))
  | 1 => form n [(7, 3)] [] [] none (.scatw (bf n 22 4) (bf n 19 3) (bf n 15 4) (bf n 12 3) (bf n 10 2))
  | 2 => form n [(7, 3)] [] [] none (.gathh (bf n 22 4) (bf n 19 3) (bf n 15 4) (bf n 12 3) (bf n 10 2))
  | 3 => form n [(7, 3)] [] [] none (.scath (bf n 22 4) (bf n 19 3) (bf n 15 4) (bf n 12 3) (bf n 10 2))
  | _ => notInstr n

/-- Major 30. -/
def decodeVint (n : Nat) : Decoded :=
  match fld n 0 7 with
  | 18 => form n [] [] [] (some (18, 14, 4)) (.vdot4 (bf n 22 4) (bf n 18 4) (bf n 14 4) (bf n 11 3) (flag n 10) (flag n 9) (bf n 7 2))
  | _ =>
    if fld n 5 2 == 3 then notInstr n else
    match fld n 0 5 with
    | 0 => form n [] [] [] (some (18, 14, 4)) (.vadd (bf n 5 2) (bf n 22 4) (bf n 18 4) (bf n 14 4) (bf n 11 3) (flag n 10) (flag n 9) (bf n 7 2))
    | 1 => form n [] [] [] (some (18, 14, 4)) (.vsub (bf n 5 2) (bf n 22 4) (bf n 18 4) (bf n 14 4) (bf n 11 3) (flag n 10) (flag n 9) (bf n 7 2))
    | 2 => form n [] [] [] (some (18, 14, 4)) (.vmul (bf n 5 2) (bf n 22 4) (bf n 18 4) (bf n 14 4) (bf n 11 3) (flag n 10) (flag n 9) (bf n 7 2))
    | 3 => form n [] [] [] (some (18, 14, 4)) (.vmulhs (bf n 5 2) (bf n 22 4) (bf n 18 4) (bf n 14 4) (bf n 11 3) (flag n 10) (flag n 9) (bf n 7 2))
    | 4 => form n [] [] [] (some (18, 14, 4)) (.vand (bf n 5 2) (bf n 22 4) (bf n 18 4) (bf n 14 4) (bf n 11 3) (flag n 10) (flag n 9) (bf n 7 2))
    | 5 => form n [] [] [] (some (18, 14, 4)) (.vor (bf n 5 2) (bf n 22 4) (bf n 18 4) (bf n 14 4) (bf n 11 3) (flag n 10) (flag n 9) (bf n 7 2))
    | 6 => form n [] [] [] (some (18, 14, 4)) (.vxor (bf n 5 2) (bf n 22 4) (bf n 18 4) (bf n 14 4) (bf n 11 3) (flag n 10) (flag n 9) (bf n 7 2))
    | 7 => form n [] [] [] (some (18, 14, 4)) (.vandn (bf n 5 2) (bf n 22 4) (bf n 18 4) (bf n 14 4) (bf n 11 3) (flag n 10) (flag n 9) (bf n 7 2))
    | 8 => form n [] [] [] (some (18, 14, 4)) (.vshl (bf n 5 2) (bf n 22 4) (bf n 18 4) (bf n 14 4) (bf n 11 3) (flag n 10) (flag n 9) (bf n 7 2))
    | 9 => form n [] [] [] (some (18, 14, 4)) (.vshr (bf n 5 2) (bf n 22 4) (bf n 18 4) (bf n 14 4) (bf n 11 3) (flag n 10) (flag n 9) (bf n 7 2))
    | 10 => form n [] [] [] (some (18, 14, 4)) (.vsha (bf n 5 2) (bf n 22 4) (bf n 18 4) (bf n 14 4) (bf n 11 3) (flag n 10) (flag n 9) (bf n 7 2))
    | 11 => form n [] [] [] (some (18, 14, 4)) (.vmins (bf n 5 2) (bf n 22 4) (bf n 18 4) (bf n 14 4) (bf n 11 3) (flag n 10) (flag n 9) (bf n 7 2))
    | 12 => form n [] [] [] (some (18, 14, 4)) (.vmaxs (bf n 5 2) (bf n 22 4) (bf n 18 4) (bf n 14 4) (bf n 11 3) (flag n 10) (flag n 9) (bf n 7 2))
    | 13 => form n [] [] [] (some (18, 14, 4)) (.vminu (bf n 5 2) (bf n 22 4) (bf n 18 4) (bf n 14 4) (bf n 11 3) (flag n 10) (flag n 9) (bf n 7 2))
    | 14 => form n [] [] [] (some (18, 14, 4)) (.vmaxu (bf n 5 2) (bf n 22 4) (bf n 18 4) (bf n 14 4) (bf n 11 3) (flag n 10) (flag n 9) (bf n 7 2))
    | 15 => form n [] [] [] (some (18, 14, 4)) (.vadds (bf n 5 2) (bf n 22 4) (bf n 18 4) (bf n 14 4) (bf n 11 3) (flag n 10) (flag n 9) (bf n 7 2))
    | 16 => form n [] [] [] (some (18, 14, 4)) (.vsubs (bf n 5 2) (bf n 22 4) (bf n 18 4) (bf n 14 4) (bf n 11 3) (flag n 10) (flag n 9) (bf n 7 2))
    | 17 => form n [(9, 1), (14, 4)] [] [] none (.vabs (bf n 5 2) (bf n 22 4) (bf n 18 4) (bf n 11 3) (flag n 10) (bf n 7 2))
    | _ => notInstr n

/-- Major 31. -/
def decodeVfp (n : Nat) : Decoded :=
  match fld n 0 7 with
  | 10 => form n [(9, 1), (14, 4)] [] [] none (.vfsqrt (bf n 22 4) (bf n 18 4) (bf n 11 3) (flag n 10) (bf n 7 2))
  | _ =>
    if fld n 5 2 == 3 then notInstr n else
    match fld n 0 5 with
    | 0 => form n [] [] [] (some (18, 14, 4)) (.vfadd (bf n 5 2) (bf n 22 4) (bf n 18 4) (bf n 14 4) (bf n 11 3) (flag n 10) (flag n 9) (bf n 7 2))
    | 1 => form n [] [] [] (some (18, 14, 4)) (.vfsub (bf n 5 2) (bf n 22 4) (bf n 18 4) (bf n 14 4) (bf n 11 3) (flag n 10) (flag n 9) (bf n 7 2))
    | 2 => form n [] [] [] (some (18, 14, 4)) (.vfmul (bf n 5 2) (bf n 22 4) (bf n 18 4) (bf n 14 4) (bf n 11 3) (flag n 10) (flag n 9) (bf n 7 2))
    | 3 => form n [] [] [] (some (18, 14, 4)) (.vffma (bf n 5 2) (bf n 22 4) (bf n 18 4) (bf n 14 4) (bf n 11 3) (flag n 10) (flag n 9) (bf n 7 2))
    | 4 => form n [] [] [] (some (18, 14, 4)) (.vffms (bf n 5 2) (bf n 22 4) (bf n 18 4) (bf n 14 4) (bf n 11 3) (flag n 10) (flag n 9) (bf n 7 2))
    | 5 => form n [] [] [] (some (18, 14, 4)) (.vfmin (bf n 5 2) (bf n 22 4) (bf n 18 4) (bf n 14 4) (bf n 11 3) (flag n 10) (flag n 9) (bf n 7 2))
    | 6 => form n [] [] [] (some (18, 14, 4)) (.vfmax (bf n 5 2) (bf n 22 4) (bf n 18 4) (bf n 14 4) (bf n 11 3) (flag n 10) (flag n 9) (bf n 7 2))
    | 7 => form n [(9, 1), (14, 4)] [] [] none (.vfabs (bf n 5 2) (bf n 22 4) (bf n 18 4) (bf n 11 3) (flag n 10) (bf n 7 2))
    | 8 => form n [(9, 1), (14, 4)] [] [] none (.vfneg (bf n 5 2) (bf n 22 4) (bf n 18 4) (bf n 11 3) (flag n 10) (bf n 7 2))
    | 9 => form n [] [] [] (some (18, 14, 4)) (.vfdiv (bf n 5 2) (bf n 22 4) (bf n 18 4) (bf n 14 4) (bf n 11 3) (flag n 10) (flag n 9) (bf n 7 2))
    | _ => notInstr n

/-- Major 32. -/
def decodeVcvt (n : Nat) : Decoded :=
  match fld n 0 7 with
  | 8 => form n [(9, 1), (14, 4)] [] [] none (.vcvtf32i32 (bf n 22 4) (bf n 18 4) (bf n 11 3) (flag n 10) (bf n 7 2))
  | 9 => form n [(9, 1), (14, 4)] [] [] none (.vcvti32f32 (bf n 22 4) (bf n 18 4) (bf n 11 3) (flag n 10) (bf n 7 2))
  | _ =>
    match fld n 0 6 with
    | 8 | 9 => notInstr n
    | 0 => form n [(9, 1), (14, 4)] [] [] none (.vcvtf32f16 (flag n 6) (bf n 22 4) (bf n 18 4) (bf n 11 3) (flag n 10) (bf n 7 2))
    | 1 => form n [(9, 1), (14, 4)] [] [] none (.vcvtf16f32 (flag n 6) (bf n 22 4) (bf n 18 4) (bf n 11 3) (flag n 10) (bf n 7 2))
    | 2 => form n [(9, 1), (14, 4)] [] [] none (.vcvtf32bf (flag n 6) (bf n 22 4) (bf n 18 4) (bf n 11 3) (flag n 10) (bf n 7 2))
    | 3 => form n [(9, 1), (14, 4)] [] [] none (.vcvtbff32 (flag n 6) (bf n 22 4) (bf n 18 4) (bf n 11 3) (flag n 10) (bf n 7 2))
    | 4 => form n [(9, 1), (14, 4)] [] [] none (.vcvtf32f8a (flag n 6) (bf n 22 4) (bf n 18 4) (bf n 11 3) (flag n 10) (bf n 7 2))
    | 5 => form n [(9, 1), (14, 4)] [] [] none (.vcvtf8af32 (flag n 6) (bf n 22 4) (bf n 18 4) (bf n 11 3) (flag n 10) (bf n 7 2))
    | 6 => form n [(9, 1), (14, 4)] [] [] none (.vcvtf32f8b (flag n 6) (bf n 22 4) (bf n 18 4) (bf n 11 3) (flag n 10) (bf n 7 2))
    | 7 => form n [(9, 1), (14, 4)] [] [] none (.vcvtf8bf32 (flag n 6) (bf n 22 4) (bf n 18 4) (bf n 11 3) (flag n 10) (bf n 7 2))
    | 10 => form n [(9, 1), (14, 4)] [] [] none (.vcvti32i16 (flag n 6) (bf n 22 4) (bf n 18 4) (bf n 11 3) (flag n 10) (bf n 7 2))
    | 11 => form n [(9, 1), (14, 4)] [] [] none (.vcvti32i8 (flag n 6) (bf n 22 4) (bf n 18 4) (bf n 11 3) (flag n 10) (bf n 7 2))
    | 12 => form n [(9, 1), (14, 4)] [] [] none (.vcvti8i32 (flag n 6) (bf n 22 4) (bf n 18 4) (bf n 11 3) (flag n 10) (bf n 7 2))
    | _ => notInstr n

/-- Major 33. -/
def decodeVperm (n : Nat) : Decoded :=
  match fld n 0 7 with
  | 0 => form n [(7, 6), (13, 4)] [] [] none (.vbcast (bf n 22 4) (bf n 17 5))
  | 1 => form n [(13, 4)] [(7, 15 < fld n 7 6)] [] none (.vins (bf n 22 4) (bf n 17 5) (bf n 7 6))
  | 2 => form n [(22, 4)] [(7, 15 < fld n 7 6)] [] none (.vext (bf n 17 5) (bf n 13 4) (bf n 7 6))
  | 3 => form n [(7, 6), (17, 5)] [] [] none (.vshuf (bf n 22 4) (bf n 13 4))
  | 4 => form n [(17, 5)] [(7, 15 < fld n 7 6)] [] none (.vrot (bf n 22 4) (bf n 13 4) (bf n 7 6))
  | 5 => form n [(7, 6), (22, 4)] [] [] none (.vredadd (bf n 17 5) (bf n 13 4))
  | 6 => form n [(7, 6), (22, 4)] [] [] none (.vredfadd (bf n 17 5) (bf n 13 4))
  | 7 => form n [(7, 6), (22, 4)] [] [] none (.vredmax (bf n 17 5) (bf n 13 4))
  | 8 => form n [(7, 6), (22, 4)] [] [] none (.vredmin (bf n 17 5) (bf n 13 4))
  | 9 => form n [(7, 6), (17, 5)] [] [] none (.vscan (bf n 22 4) (bf n 13 4))
  | 10 => form n [(13, 4), (22, 4)] [(7, 7 < fld n 7 6)] [] none (.vpopk (bf n 17 5) (bf n 7 6))
  | 11 => form n [(13, 4), (22, 4)] [(7, 7 < fld n 7 6 || fld n 7 6 == 0)] [] none (.vmovk (bf n 7 6) (bf n 17 5))
  | 12 => form n [(13, 4), (22, 4)] [(7, 7 < fld n 7 6)] [] none (.vkmov (bf n 17 5) (bf n 7 6))
  | _ => notInstr n

/-- Major 34. -/
def decodeVcmp (n : Nat) : Decoded :=
  match fld n 0 7 with
  | 70 => form n [(25, 1)] [] [] (some (18, 14, 4)) (.vcmpun (bf n 22 3) (bf n 18 4) (bf n 14 4) (bf n 11 3) (flag n 10) (flag n 9) (bf n 7 2))
  | _ =>
    if fld n 5 2 == 3 then notInstr n else
    match fld n 0 5 with
    | 0 => form n [(25, 1)] [] [] (some (18, 14, 4)) (.vcmpeq (bf n 5 2) (bf n 22 3) (bf n 18 4) (bf n 14 4) (bf n 11 3) (flag n 10) (flag n 9) (bf n 7 2))
    | 1 => form n [(25, 1)] [] [] (some (18, 14, 4)) (.vcmpne (bf n 5 2) (bf n 22 3) (bf n 18 4) (bf n 14 4) (bf n 11 3) (flag n 10) (flag n 9) (bf n 7 2))
    | 2 => form n [(25, 1)] [] [] (some (18, 14, 4)) (.vcmplt (bf n 5 2) (bf n 22 3) (bf n 18 4) (bf n 14 4) (bf n 11 3) (flag n 10) (flag n 9) (bf n 7 2))
    | 3 => form n [(25, 1)] [] [] (some (18, 14, 4)) (.vcmple (bf n 5 2) (bf n 22 3) (bf n 18 4) (bf n 14 4) (bf n 11 3) (flag n 10) (flag n 9) (bf n 7 2))
    | 4 => form n [(25, 1)] [] [] (some (18, 14, 4)) (.vcmpgt (bf n 5 2) (bf n 22 3) (bf n 18 4) (bf n 14 4) (bf n 11 3) (flag n 10) (flag n 9) (bf n 7 2))
    | 5 => form n [(25, 1)] [] [] (some (18, 14, 4)) (.vcmpge (bf n 5 2) (bf n 22 3) (bf n 18 4) (bf n 14 4) (bf n 11 3) (flag n 10) (flag n 9) (bf n 7 2))
    | _ => notInstr n

/-- Major 35. -/
def decodeVlut3 (n : Nat) : Decoded :=
  form n [(0, 1)] [] [] (some (18, 14, 4)) (.vlut3 (bf n 22 4) (bf n 18 4) (bf n 14 4) (bf n 11 3) (flag n 10) (flag n 9) (bf n 1 8))

/-- Major 37. -/
def decodeEvt (n : Nat) : Decoded :=
  match fld n 0 7 with
  | 0 => form n [(9, 1), (10, 1), (12, 4), (19, 2)] [] [] none (.offer (bf n 21 5) (bf n 16 3) (flag n 11) (bf n 7 2))
  | 1 => form n [(9, 1), (11, 5)] [] [] none (.evtest (bf n 21 5) (bf n 16 5) (flag n 10) (bf n 7 2))
  | 2 => form n [(9, 1), (11, 5)] [] [] none (.evwait (bf n 21 5) (bf n 16 5) (flag n 10) (bf n 7 2))
  | 3 => form n [(9, 1), (10, 1), (16, 5), (21, 5)] [] [] none (.pause (bf n 11 5) (bf n 7 2))
  | 4 => form n [(9, 1), (10, 1), (14, 2), (16, 5)] [] [] none (.dlr (bf n 21 5) (bf n 11 3) (bf n 7 2))
  | 5 => form n [(9, 1), (14, 2), (21, 5)] [] [] none (.dlw (bf n 11 3) (bf n 16 5) (flag n 10) (bf n 7 2))
  | 6 => form n [(9, 1), (10, 1), (11, 5), (16, 5), (21, 5)] [] [] none (.retire (bf n 7 2))
  | _ => notInstr n

/-- Major 38. -/
def decodeMtx (n : Nat) : Decoded :=
  match fld n 0 7 with
  | 0 => form n [(9, 1), (11, 5)] [] [] none (.mclaim (bf n 21 5) (bf n 16 5) (flag n 10) (bf n 7 2))
  | 1 => form n [(9, 1), (11, 5), (21, 5)] [] [] none (.mrel (bf n 16 5) (flag n 10) (bf n 7 2))
  | 2 => form n [] [] [] (some (16, 11, 5)) (.mma (bf n 21 5) (bf n 16 5) (bf n 11 5) (flag n 10) (flag n 9) (bf n 7 2))
  | 3 => form n [(9, 1), (11, 5)] [] [] none (.mzero (bf n 21 5) (bf n 16 5) (flag n 10) (bf n 7 2))
  | 4 => form n [] [] [] (some (16, 11, 5)) (.mdrain (bf n 21 5) (bf n 16 5) (bf n 11 5) (flag n 10) (flag n 9) (bf n 7 2))
  | _ => notInstr n

/-- Major 39. -/
def decodeCpy (n : Nat) : Decoded :=
  match fld n 0 7 with
  | 0 => form n [(9, 1), (10, 1), (11, 5), (19, 2), (21, 5)] [] [] none (.copy (bf n 16 3) (bf n 7 2))
  | 1 => form n [(9, 1), (10, 1), (11, 5), (19, 2), (21, 5)] [] [] none (.copyg (bf n 16 3) (bf n 7 2))
  | 2 => form n [(9, 1), (10, 1), (11, 5), (19, 2), (21, 5)] [] [] none (.copyop (bf n 16 3) (bf n 7 2))
  | _ => notInstr n

/-- Major 40. -/
def decodeCnv (n : Nat) : Decoded :=
  match fld n 0 7 with
  | 0 => form n [(9, 1), (10, 1), (11, 5), (19, 2), (21, 5)] [] [] none (.conv (bf n 16 3) (bf n 7 2))
  | 1 => form n [(9, 1), (10, 1), (11, 5), (19, 2), (21, 5)] [] [] none (.planes (bf n 16 3) (bf n 7 2))
  | 2 => form n [(9, 1), (10, 1), (11, 5), (19, 2), (21, 5)] [] [] none (.sparsify (bf n 16 3) (bf n 7 2))
  | 3 => form n [(9, 1), (10, 1), (11, 5), (19, 2), (21, 5)] [] [] none (.scalec (bf n 16 3) (bf n 7 2))
  | _ => notInstr n

/-- Major 41. -/
def decodeTid (n : Nat) : Decoded :=
  match fld n 0 7 with
  | 0 => form n [(9, 1), (14, 2), (21, 5)] [] [] none (.tidset (bf n 16 5) (bf n 11 3) (flag n 10) (bf n 7 2))
  | 1 => form n [(9, 1), (14, 2), (21, 5)] [] [] none (.tidget (bf n 16 5) (bf n 11 3) (flag n 10) (bf n 7 2))
  | 2 => form n [(9, 1), (11, 5), (21, 5)] [] [] none (.tidclr (bf n 16 5) (flag n 10) (bf n 7 2))
  | _ => notInstr n

/-- Major 42. -/
def decodeDisp (n : Nat) : Decoded :=
  match fld n 0 7 with
  | 0 => form n [(9, 1), (11, 5)] [] [] none (.grow (bf n 21 5) (bf n 16 5) (flag n 10) (bf n 7 2))
  | 1 => form n [(9, 1), (10, 1), (11, 5), (19, 2)] [] [] none (.launch (bf n 21 5) (bf n 16 3) (bf n 7 2))
  | 2 => form n [(9, 1), (10, 1), (11, 5), (19, 2)] [] [] none (.restart (bf n 21 5) (bf n 16 3) (bf n 7 2))
  | 3 => form n [(9, 1), (11, 5), (21, 5)] [] [] none (.seal (bf n 16 5) (flag n 10) (bf n 7 2))
  | _ => notInstr n

/-- Major 63. -/
def decodeHint (n : Nat) : Decoded :=
  match fld n 24 2 with
  | 0 => form n (bitsFrom 8 16) [] [] none (.stall (bf n 0 8))
  | 1 => form n (bitsFrom 19 5) [] [] none (.wide (bf n 0 19))
  | 2 => form n (bitsFrom 4 20) [(0, 4 < fld n 0 3)] [] none (.mod (bf n 0 3) (flag n 3))
  | _ => form n (bitsFrom 0 24) [] [] none (.crit)

/-- The decoder on the 32-bit value of a word: by the major opcode (R66, R86). -/
def decodeNat (n : Nat) : Decoded :=
  match fld n 26 6 with
  | 1 => decodeInt n
  | 2 => decodeAddi n
  | 3 => decodeAndi n
  | 4 => decodeOri n
  | 5 => decodeXori n
  | 6 => decodeMovi n
  | 7 => decodeMuli n
  | 8 => decodeCmp n
  | 9 => decodeCmpi n
  | 10 => decodeBits n
  | 11 => decodeLut3 n
  | 12 => decodeMuldiv n
  | 13 => decodeFps n
  | 14 => decodeAddr n
  | 15 => decodeAddai n
  | 16 => decodeBr n
  | 17 => decodeCall n
  | 18 => decodeJx n
  | 19 => decodeLoop n
  | 20 => decodeLd n
  | 21 => decodeSt n
  | 22 => decodeLda n
  | 23 => decodeSta n
  | 24 => decodeAmo n
  | 25 => decodeAmo2 n
  | 26 => decodeSys n
  | 27 => decodeVld n
  | 28 => decodeVst n
  | 29 => decodeVgs n
  | 30 => decodeVint n
  | 31 => decodeVfp n
  | 32 => decodeVcvt n
  | 33 => decodeVperm n
  | 34 => decodeVcmp n
  | 35 => decodeVlut3 n
  | 37 => decodeEvt n
  | 38 => decodeMtx n
  | 39 => decodeCpy n
  | 40 => decodeCnv n
  | 41 => decodeTid n
  | 42 => decodeDisp n
  | 63 => decodeHint n
  | _ => notInstr n

/-- The decoder. -/
def decode (w : Word) : Decoded := decodeNat w.toNat

/-- The word that four bytes of code hold, little-endian (R4, R66). -/
def wordOfBytes (b0 b1 b2 b3 : Byte) : Word := b3 ++ b2 ++ b1 ++ b0

/-- The decoder on bytes: the instruction of the first four bytes and the bytes after it; nothing where fewer than four
bytes stand. -/
def decodeBytes : List Byte → Option (Decoded × List Byte)
  | b0 :: b1 :: b2 :: b3 :: rest => some (decode (wordOfBytes b0 b1 b2 b3), rest)
  | _ => none

/-- The instruction the decoder reads from a word numbered as the table numbers it: one 32-bit word, laid out as the
hardware stores it (R66). -/
def decodeTableWord (nbits w : Nat) : Option Instr :=
  if nbits == 0 then none else
  let b := fun i => BitVec.ofNat 8 (w % 2 ^ nbits / 2 ^ (8 * i))
  match decodeBytes [b 0, b 1, b 2, b 3] with
  | some (.ok i, _) => some i
  | _ => none

/-- The fields d [25:21], a [20:16], b [15:11], la [10:10], lb [9:9], st [8:7], over the constant bits of the form. -/
def enc1 (base : Nat) (d a b : GReg) (la lb : Bool) (st : BitVec 2) : Option Nat :=
  some (base + d.toNat * 2 ^ 21 + a.toNat * 2 ^ 16 + b.toNat * 2 ^ 11 + la.toNat * 2 ^ 10 + lb.toNat * 2 ^ 9 + st.toNat * 2 ^ 7)

/-- The fields d [25:21], a [20:16], b [15:11], la [10:10], lb [9:9], st [8:7], p [2:0], over the constant bits of the form. -/
def enc2 (base : Nat) (d : GReg) (p : PReg) (a b : GReg) (la lb : Bool) (st : BitVec 2) : Option Nat :=
  some (base + d.toNat * 2 ^ 21 + p.toNat + a.toNat * 2 ^ 16 + b.toNat * 2 ^ 11 + la.toNat * 2 ^ 10 + lb.toNat * 2 ^ 9 + st.toNat * 2 ^ 7)

/-- The fields d [25:21], a [20:16], la [15:15], st [14:13], imm [12:0], over the constant bits of the form. -/
def enc3 (base : Nat) (d a : GReg) (la : Bool) (st : BitVec 2) (imm : BitVec 13) : Option Nat :=
  some (base + d.toNat * 2 ^ 21 + a.toNat * 2 ^ 16 + la.toNat * 2 ^ 15 + st.toNat * 2 ^ 13 + imm.toNat)

/-- The fields d [25:21], st [14:13], imm [12:0], over the constant bits of the form. -/
def enc4 (base : Nat) (d : GReg) (st : BitVec 2) (imm : BitVec 13) : Option Nat :=
  some (base + d.toNat * 2 ^ 21 + st.toNat * 2 ^ 13 + imm.toNat)

/-- The fields p [25:23], comb [22:21], a [20:16], b [15:11], la [10:10], lb [9:9], st [8:7], over the constant bits of the form. -/
def enc5 (base : Nat) (p : PReg) (comb : BitVec 2) (a b : GReg) (la lb : Bool) (st : BitVec 2) : Option Nat :=
  some (base + p.toNat * 2 ^ 23 + comb.toNat * 2 ^ 21 + a.toNat * 2 ^ 16 + b.toNat * 2 ^ 11 + la.toNat * 2 ^ 10 + lb.toNat * 2 ^ 9 + st.toNat * 2 ^ 7)

/-- The fields p [25:23], a [20:16], la [15:15], st [14:13], imm [12:0], over the constant bits of the form. -/
def enc6 (base : Nat) (p : PReg) (a : GReg) (la : Bool) (st : BitVec 2) (imm : BitVec 13) : Option Nat :=
  some (base + p.toNat * 2 ^ 23 + a.toNat * 2 ^ 16 + la.toNat * 2 ^ 15 + st.toNat * 2 ^ 13 + imm.toNat)

/-- The fields d [25:21], a [20:16], n [15:11], la [10:10], st [8:7], over the constant bits of the form. -/
def enc7 (base : Nat) (d a : GReg) (n : BitVec 5) (la : Bool) (st : BitVec 2) : Option Nat :=
  some (base + d.toNat * 2 ^ 21 + a.toNat * 2 ^ 16 + n.toNat * 2 ^ 11 + la.toNat * 2 ^ 10 + st.toNat * 2 ^ 7)

/-- The fields d [25:21], a [20:16], la [10:10], st [8:7], over the constant bits of the form. -/
def enc8 (base : Nat) (d a : GReg) (la : Bool) (st : BitVec 2) : Option Nat :=
  some (base + d.toNat * 2 ^ 21 + a.toNat * 2 ^ 16 + la.toNat * 2 ^ 10 + st.toNat * 2 ^ 7)

/-- The fields d [25:21], a [20:16], b [15:11], la [10:10], lb [9:9], st [8:7], c [4:0], over the constant bits of the form. -/
def enc9 (base : Nat) (d a b : GReg) (la lb : Bool) (st : BitVec 2) (c : BitVec 5) : Option Nat :=
  some (base + d.toNat * 2 ^ 21 + a.toNat * 2 ^ 16 + b.toNat * 2 ^ 11 + la.toNat * 2 ^ 10 + lb.toNat * 2 ^ 9 + st.toNat * 2 ^ 7 + c.toNat)

/-- The fields d [25:21], a [20:16], b [15:11], la [10:10], lb [9:9], tbl [8:1], over the constant bits of the form. -/
def enc10 (base : Nat) (d a b : GReg) (la lb : Bool) (tbl : BitVec 8) : Option Nat :=
  some (base + d.toNat * 2 ^ 21 + a.toNat * 2 ^ 16 + b.toNat * 2 ^ 11 + la.toNat * 2 ^ 10 + lb.toNat * 2 ^ 9 + tbl.toNat * 2 ^ 1)

/-- The fields p [25:23], a [20:16], b [15:11], la [10:10], lb [9:9], st [8:7], over the constant bits of the form. -/
def enc11 (base : Nat) (p : PReg) (a b : GReg) (la lb : Bool) (st : BitVec 2) : Option Nat :=
  some (base + p.toNat * 2 ^ 23 + a.toNat * 2 ^ 16 + b.toNat * 2 ^ 11 + la.toNat * 2 ^ 10 + lb.toNat * 2 ^ 9 + st.toNat * 2 ^ 7)

/-- The fields d [23:21], a [18:16], b [15:11], lb [9:9], st [8:7], over the constant bits of the form. -/
def enc12 (base : Nat) (d a : AReg) (b : GReg) (lb : Bool) (st : BitVec 2) : Option Nat :=
  some (base + d.toNat * 2 ^ 21 + a.toNat * 2 ^ 16 + b.toNat * 2 ^ 11 + lb.toNat * 2 ^ 9 + st.toNat * 2 ^ 7)

/-- The fields d [23:21], a [18:16], b [15:11], lb [9:9], st [8:7], s [2:0], over the constant bits of the form. -/
def enc13 (base : Nat) (d a : AReg) (b : GReg) (lb : Bool) (st : BitVec 2) (s : BitVec 3) : Option Nat :=
  some (base + d.toNat * 2 ^ 21 + a.toNat * 2 ^ 16 + b.toNat * 2 ^ 11 + lb.toNat * 2 ^ 9 + st.toNat * 2 ^ 7 + s.toNat)

/-- The fields d [23:21], a [20:16], b [15:11], la [10:10], lb [9:9], st [8:7], over the constant bits of the form. -/
def enc14 (base : Nat) (d : AReg) (a b : GReg) (la lb : Bool) (st : BitVec 2) : Option Nat :=
  some (base + d.toNat * 2 ^ 21 + a.toNat * 2 ^ 16 + b.toNat * 2 ^ 11 + la.toNat * 2 ^ 10 + lb.toNat * 2 ^ 9 + st.toNat * 2 ^ 7)

/-- The fields d [25:21], a [18:16], st [8:7], over the constant bits of the form. -/
def enc15 (base : Nat) (d : GReg) (a : AReg) (st : BitVec 2) : Option Nat :=
  some (base + d.toNat * 2 ^ 21 + a.toNat * 2 ^ 16 + st.toNat * 2 ^ 7)

/-- The fields d [25:21], a [18:16], b [13:11], st [8:7], over the constant bits of the form. -/
def enc16 (base : Nat) (d : GReg) (a b : AReg) (st : BitVec 2) : Option Nat :=
  some (base + d.toNat * 2 ^ 21 + a.toNat * 2 ^ 16 + b.toNat * 2 ^ 11 + st.toNat * 2 ^ 7)

/-- The fields d [23:21], a [18:16], st [14:13], imm [12:0], over the constant bits of the form. -/
def enc17 (base : Nat) (d a : AReg) (st : BitVec 2) (imm : BitVec 13) : Option Nat :=
  some (base + d.toNat * 2 ^ 21 + a.toNat * 2 ^ 16 + st.toNat * 2 ^ 13 + imm.toNat)

/-- The fields p [25:23], n [22:22], st [21:20], off [19:0], over the constant bits of the form. -/
def enc18 (base : Nat) (p : PReg) (n : Bool) (st : BitVec 2) (off : BitVec 20) : Option Nat :=
  some (base + p.toNat * 2 ^ 23 + n.toNat * 2 ^ 22 + st.toNat * 2 ^ 20 + off.toNat)

/-- The fields a [20:16], la [10:10], st [8:7], over the constant bits of the form. -/
def enc19 (base : Nat) (a : GReg) (la : Bool) (st : BitVec 2) : Option Nat :=
  some (base + a.toNat * 2 ^ 16 + la.toNat * 2 ^ 10 + st.toNat * 2 ^ 7)

/-- The fields st [8:7], over the constant bits of the form. -/
def enc20 (base : Nat) (st : BitVec 2) : Option Nat :=
  some (base + st.toNat * 2 ^ 7)

/-- The fields a [20:16], la [15:15], st [14:13], imm [12:0], over the constant bits of the form. -/
def enc21 (base : Nat) (a : GReg) (la : Bool) (st : BitVec 2) (imm : BitVec 13) : Option Nat :=
  some (base + a.toNat * 2 ^ 16 + la.toNat * 2 ^ 15 + st.toNat * 2 ^ 13 + imm.toNat)

/-- The fields t [25:21], x [20:18], st [16:15], off [11:0], over the constant bits of the form. -/
def enc22 (base : Nat) (t : GReg) (x : AReg) (st : BitVec 2) (off : BitVec 12) : Option Nat :=
  some (base + t.toNat * 2 ^ 21 + x.toNat * 2 ^ 18 + st.toNat * 2 ^ 15 + off.toNat)

/-- The fields t [25:21], x [20:18], lt [17:17], st [16:15], off [11:0], over the constant bits of the form. -/
def enc23 (base : Nat) (t : GReg) (x : AReg) (lt : Bool) (st : BitVec 2) (off : BitVec 12) : Option Nat :=
  some (base + t.toNat * 2 ^ 21 + x.toNat * 2 ^ 18 + lt.toNat * 2 ^ 17 + st.toNat * 2 ^ 15 + off.toNat)

/-- The fields t [23:21], x [20:18], st [16:15], off [11:0], over the constant bits of the form. -/
def enc24 (base : Nat) (t x : AReg) (st : BitVec 2) (off : BitVec 12) : Option Nat :=
  some (base + t.toNat * 2 ^ 21 + x.toNat * 2 ^ 18 + st.toNat * 2 ^ 15 + off.toNat)

/-- The fields d [25:21], x [20:18], b [15:11], lb [9:9], dw [8:8], over the constant bits of the form. -/
def enc25 (base : Nat) (d : GReg) (x : AReg) (b : GReg) (lb dw : Bool) : Option Nat :=
  some (base + d.toNat * 2 ^ 21 + x.toNat * 2 ^ 18 + b.toNat * 2 ^ 11 + lb.toNat * 2 ^ 9 + dw.toNat * 2 ^ 8)

/-- The fields d [25:21], x [20:18], b [15:11], la [10:10], lb [9:9], dw [8:8], over the constant bits of the form. -/
def enc26 (base : Nat) (d : GReg) (x : AReg) (b : GReg) (la lb dw : Bool) : Option Nat :=
  some (base + d.toNat * 2 ^ 21 + x.toNat * 2 ^ 18 + b.toNat * 2 ^ 11 + la.toNat * 2 ^ 10 + lb.toNat * 2 ^ 9 + dw.toNat * 2 ^ 8)

/-- The fields d [25:21], x [20:18], b [15:11], lb [9:9], over the constant bits of the form. -/
def enc27 (base : Nat) (d : GReg) (x : AReg) (b : GReg) (lb : Bool) : Option Nat :=
  some (base + d.toNat * 2 ^ 21 + x.toNat * 2 ^ 18 + b.toNat * 2 ^ 11 + lb.toNat * 2 ^ 9)

/-- The fields d [25:21], x [20:18], b [15:11], la [10:10], lb [9:9], over the constant bits of the form. -/
def enc28 (base : Nat) (d : GReg) (x : AReg) (b : GReg) (la lb : Bool) : Option Nat :=
  some (base + d.toNat * 2 ^ 21 + x.toNat * 2 ^ 18 + b.toNat * 2 ^ 11 + la.toNat * 2 ^ 10 + lb.toNat * 2 ^ 9)

/-- The fields d [25:21], idx [20:11], st [8:7], over the constant bits of the form. -/
def enc29 (base : Nat) (d : GReg) (idx : BitVec 10) (st : BitVec 2) : Option Nat :=
  some (base + d.toNat * 2 ^ 21 + idx.toNat * 2 ^ 11 + st.toNat * 2 ^ 7)

/-- The fields code [20:11], st [8:7], over the constant bits of the form. -/
def enc30 (base : Nat) (code : BitVec 10) (st : BitVec 2) : Option Nat :=
  some (base + code.toNat * 2 ^ 11 + st.toNat * 2 ^ 7)

/-- The fields d [25:21], half [20:16], f [15:11], st [8:7], over the constant bits of the form. -/
def enc31 (base : Nat) (d : GReg) (half f : BitVec 5) (st : BitVec 2) : Option Nat :=
  some (base + d.toNat * 2 ^ 21 + half.toNat * 2 ^ 16 + f.toNat * 2 ^ 11 + st.toNat * 2 ^ 7)

/-- The fields v [25:22], x [20:18], st [16:15], off [11:0], over the constant bits of the form. -/
def enc32 (base : Nat) (v : VReg) (x : AReg) (st : BitVec 2) (off : BitVec 12) : Option Nat :=
  some (base + v.toNat * 2 ^ 22 + x.toNat * 2 ^ 18 + st.toNat * 2 ^ 15 + off.toNat)

/-- The fields v [25:22], x [20:18], lt [17:17], st [16:15], off [11:0], over the constant bits of the form. -/
def enc33 (base : Nat) (v : VReg) (x : AReg) (lt : Bool) (st : BitVec 2) (off : BitVec 12) : Option Nat :=
  some (base + v.toNat * 2 ^ 22 + x.toNat * 2 ^ 18 + lt.toNat * 2 ^ 17 + st.toNat * 2 ^ 15 + off.toNat)

/-- The fields v [25:22], x [21:19], vi [18:15], k [14:12], sc [11:10], over the constant bits of the form. -/
def enc34 (base : Nat) (v : VReg) (x : AReg) (vi : VReg) (k : KReg) (sc : BitVec 2) : Option Nat :=
  some (base + v.toNat * 2 ^ 22 + x.toNat * 2 ^ 19 + vi.toNat * 2 ^ 15 + k.toNat * 2 ^ 12 + sc.toNat * 2 ^ 10)

/-- The fields vd [25:22], va [21:18], vb [17:14], k [13:11], la [10:10], lb [9:9], st [8:7], w [6:5], over the constant bits of the form. -/
def enc35 (base : Nat) (w : BitVec 2) (vd va vb : VReg) (k : KReg) (la lb : Bool) (st : BitVec 2) : Option Nat :=
  some (base + w.toNat * 2 ^ 5 + vd.toNat * 2 ^ 22 + va.toNat * 2 ^ 18 + vb.toNat * 2 ^ 14 + k.toNat * 2 ^ 11 + la.toNat * 2 ^ 10 + lb.toNat * 2 ^ 9 + st.toNat * 2 ^ 7)

/-- The fields vd [25:22], va [21:18], k [13:11], la [10:10], st [8:7], w [6:5], over the constant bits of the form. -/
def enc36 (base : Nat) (w : BitVec 2) (vd va : VReg) (k : KReg) (la : Bool) (st : BitVec 2) : Option Nat :=
  some (base + w.toNat * 2 ^ 5 + vd.toNat * 2 ^ 22 + va.toNat * 2 ^ 18 + k.toNat * 2 ^ 11 + la.toNat * 2 ^ 10 + st.toNat * 2 ^ 7)

/-- The fields vd [25:22], va [21:18], vb [17:14], k [13:11], la [10:10], lb [9:9], st [8:7], over the constant bits of the form. -/
def enc37 (base : Nat) (vd va vb : VReg) (k : KReg) (la lb : Bool) (st : BitVec 2) : Option Nat :=
  some (base + vd.toNat * 2 ^ 22 + va.toNat * 2 ^ 18 + vb.toNat * 2 ^ 14 + k.toNat * 2 ^ 11 + la.toNat * 2 ^ 10 + lb.toNat * 2 ^ 9 + st.toNat * 2 ^ 7)

/-- The fields vd [25:22], va [21:18], k [13:11], la [10:10], st [8:7], over the constant bits of the form. -/
def enc38 (base : Nat) (vd va : VReg) (k : KReg) (la : Bool) (st : BitVec 2) : Option Nat :=
  some (base + vd.toNat * 2 ^ 22 + va.toNat * 2 ^ 18 + k.toNat * 2 ^ 11 + la.toNat * 2 ^ 10 + st.toNat * 2 ^ 7)

/-- The fields vd [25:22], va [21:18], k [13:11], la [10:10], st [8:7], hi [6:6], over the constant bits of the form. -/
def enc39 (base : Nat) (hi : Bool) (vd va : VReg) (k : KReg) (la : Bool) (st : BitVec 2) : Option Nat :=
  some (base + hi.toNat * 2 ^ 6 + vd.toNat * 2 ^ 22 + va.toNat * 2 ^ 18 + k.toNat * 2 ^ 11 + la.toNat * 2 ^ 10 + st.toNat * 2 ^ 7)

/-- The fields v [25:22], g [21:17], over the constant bits of the form. -/
def enc40 (base : Nat) (v : VReg) (g : GReg) : Option Nat :=
  some (base + v.toNat * 2 ^ 22 + g.toNat * 2 ^ 17)

/-- The fields v [25:22], g [21:17], n [12:7], over the constant bits of the form. -/
def enc41 (base : Nat) (v : VReg) (g : GReg) (n : BitVec 6) : Option Nat :=
  some (base + v.toNat * 2 ^ 22 + g.toNat * 2 ^ 17 + n.toNat * 2 ^ 7)

/-- The fields g [21:17], vb [16:13], n [12:7], over the constant bits of the form. -/
def enc42 (base : Nat) (g : GReg) (vb : VReg) (n : BitVec 6) : Option Nat :=
  some (base + g.toNat * 2 ^ 17 + vb.toNat * 2 ^ 13 + n.toNat * 2 ^ 7)

/-- The fields v [25:22], vb [16:13], over the constant bits of the form. -/
def enc43 (base : Nat) (v vb : VReg) : Option Nat :=
  some (base + v.toNat * 2 ^ 22 + vb.toNat * 2 ^ 13)

/-- The fields v [25:22], vb [16:13], n [12:7], over the constant bits of the form. -/
def enc44 (base : Nat) (v vb : VReg) (n : BitVec 6) : Option Nat :=
  some (base + v.toNat * 2 ^ 22 + vb.toNat * 2 ^ 13 + n.toNat * 2 ^ 7)

/-- The fields g [21:17], vb [16:13], over the constant bits of the form. -/
def enc45 (base : Nat) (g : GReg) (vb : VReg) : Option Nat :=
  some (base + g.toNat * 2 ^ 17 + vb.toNat * 2 ^ 13)

/-- The fields g [21:17], kn [12:7], over the constant bits of the form. -/
def enc46 (base : Nat) (g : GReg) (kn : BitVec 6) : Option Nat :=
  some (base + g.toNat * 2 ^ 17 + kn.toNat * 2 ^ 7)

/-- The fields g [21:17], kn [12:7], over the constant bits of the form. -/
def enc47 (base : Nat) (kn : BitVec 6) (g : GReg) : Option Nat :=
  some (base + kn.toNat * 2 ^ 7 + g.toNat * 2 ^ 17)

/-- The fields kd [24:22], va [21:18], vb [17:14], k [13:11], la [10:10], lb [9:9], st [8:7], ty [6:5], over the constant bits of the form. -/
def enc48 (base : Nat) (ty : BitVec 2) (kd : KReg) (va vb : VReg) (k : KReg) (la lb : Bool) (st : BitVec 2) : Option Nat :=
  some (base + ty.toNat * 2 ^ 5 + kd.toNat * 2 ^ 22 + va.toNat * 2 ^ 18 + vb.toNat * 2 ^ 14 + k.toNat * 2 ^ 11 + la.toNat * 2 ^ 10 + lb.toNat * 2 ^ 9 + st.toNat * 2 ^ 7)

/-- The fields kd [24:22], va [21:18], vb [17:14], k [13:11], la [10:10], lb [9:9], st [8:7], over the constant bits of the form. -/
def enc49 (base : Nat) (kd : KReg) (va vb : VReg) (k : KReg) (la lb : Bool) (st : BitVec 2) : Option Nat :=
  some (base + kd.toNat * 2 ^ 22 + va.toNat * 2 ^ 18 + vb.toNat * 2 ^ 14 + k.toNat * 2 ^ 11 + la.toNat * 2 ^ 10 + lb.toNat * 2 ^ 9 + st.toNat * 2 ^ 7)

/-- The fields vd [25:22], va [21:18], vb [17:14], k [13:11], la [10:10], lb [9:9], tbl [8:1], over the constant bits of the form. -/
def enc50 (base : Nat) (vd va vb : VReg) (k : KReg) (la lb : Bool) (tbl : BitVec 8) : Option Nat :=
  some (base + vd.toNat * 2 ^ 22 + va.toNat * 2 ^ 18 + vb.toNat * 2 ^ 14 + k.toNat * 2 ^ 11 + la.toNat * 2 ^ 10 + lb.toNat * 2 ^ 9 + tbl.toNat * 2 ^ 1)

/-- The fields d [25:21], a [18:16], persist [11:11], st [8:7], over the constant bits of the form. -/
def enc51 (base : Nat) (d : GReg) (a : AReg) (persist : Bool) (st : BitVec 2) : Option Nat :=
  some (base + d.toNat * 2 ^ 21 + a.toNat * 2 ^ 16 + persist.toNat * 2 ^ 11 + st.toNat * 2 ^ 7)

/-- The fields n [15:11], st [8:7], over the constant bits of the form. -/
def enc52 (base : Nat) (n : BitVec 5) (st : BitVec 2) : Option Nat :=
  some (base + n.toNat * 2 ^ 11 + st.toNat * 2 ^ 7)

/-- The fields d [25:21], n [13:11], st [8:7], over the constant bits of the form. -/
def enc53 (base : Nat) (d : GReg) (n : BitVec 3) (st : BitVec 2) : Option Nat :=
  some (base + d.toNat * 2 ^ 21 + n.toNat * 2 ^ 11 + st.toNat * 2 ^ 7)

/-- The fields a [20:16], n [13:11], la [10:10], st [8:7], over the constant bits of the form. -/
def enc54 (base : Nat) (n : BitVec 3) (a : GReg) (la : Bool) (st : BitVec 2) : Option Nat :=
  some (base + n.toNat * 2 ^ 11 + a.toNat * 2 ^ 16 + la.toNat * 2 ^ 10 + st.toNat * 2 ^ 7)

/-- The fields a [18:16], st [8:7], over the constant bits of the form. -/
def enc55 (base : Nat) (a : AReg) (st : BitVec 2) : Option Nat :=
  some (base + a.toNat * 2 ^ 16 + st.toNat * 2 ^ 7)

/-- The fields a [20:16], b [13:11], la [10:10], st [8:7], over the constant bits of the form. -/
def enc56 (base : Nat) (a : GReg) (b : AReg) (la : Bool) (st : BitVec 2) : Option Nat :=
  some (base + a.toNat * 2 ^ 16 + b.toNat * 2 ^ 11 + la.toNat * 2 ^ 10 + st.toNat * 2 ^ 7)

/-- The fields n [7:0], over the constant bits of the form. -/
def enc57 (base : Nat) (n : BitVec 8) : Option Nat :=
  some (base + n.toNat)

/-- The fields hi [18:0], over the constant bits of the form. -/
def enc58 (base : Nat) (hi : BitVec 19) : Option Nat :=
  some (base + hi.toNat)

/-- The fields sat [3:3], rnd [2:0], over the constant bits of the form. -/
def enc59 (base : Nat) (rnd : BitVec 3) (sat : Bool) : Option Nat :=
  some (base + rnd.toNat + sat.toNat * 2 ^ 3)

/-- No field. -/
def enc60 (base : Nat) : Option Nat :=
  some (base)

/-- The word of an instruction, as a number, written from the formats R70 to R80 and the tables R86 to R99; nothing for
a step of another agent, for a register move that the table lists a second time, or for a word that is no instruction. -/
def encodeNat : Instr → Option Nat
  | .add d a b la lb st => enc1 0x04000000 d a b la lb st
  | .sub d a b la lb st => enc1 0x04000001 d a b la lb st
  | .and d a b la lb st => enc1 0x04000002 d a b la lb st
  | .andn d a b la lb st => enc1 0x04000003 d a b la lb st
  | .or d a b la lb st => enc1 0x04000004 d a b la lb st
  | .orn d a b la lb st => enc1 0x04000005 d a b la lb st
  | .xor d a b la lb st => enc1 0x04000006 d a b la lb st
  | .xnor d a b la lb st => enc1 0x04000007 d a b la lb st
  | .shl d a b la lb st => enc1 0x04000008 d a b la lb st
  | .shr d a b la lb st => enc1 0x04000009 d a b la lb st
  | .sha d a b la lb st => enc1 0x0400000A d a b la lb st
  | .rotl d a b la lb st => enc1 0x0400000B d a b la lb st
  | .mins d a b la lb st => enc1 0x0400000C d a b la lb st
  | .maxs d a b la lb st => enc1 0x0400000D d a b la lb st
  | .minu d a b la lb st => enc1 0x0400000E d a b la lb st
  | .maxu d a b la lb st => enc1 0x0400000F d a b la lb st
  | .adds d a b la lb st => enc1 0x04000010 d a b la lb st
  | .subs d a b la lb st => enc1 0x04000011 d a b la lb st
  | .sel d p a b la lb st => enc2 0x04000018 d p a b la lb st
  | .addi d a la st imm => enc3 0x08000000 d a la st imm
  | .andi d a la st imm => enc3 0x0C000000 d a la st imm
  | .ori d a la st imm => enc3 0x10000000 d a la st imm
  | .xori d a la st imm => enc3 0x14000000 d a la st imm
  | .movi d st imm => enc4 0x18000000 d st imm
  | .muli d a la st imm => enc3 0x1C000000 d a la st imm
  | .cmpeq p comb a b la lb st => enc5 0x20000000 p comb a b la lb st
  | .cmpne p comb a b la lb st => enc5 0x20000001 p comb a b la lb st
  | .cmplt p comb a b la lb st => enc5 0x20000002 p comb a b la lb st
  | .cmple p comb a b la lb st => enc5 0x20000003 p comb a b la lb st
  | .cmpgt p comb a b la lb st => enc5 0x20000004 p comb a b la lb st
  | .cmpge p comb a b la lb st => enc5 0x20000005 p comb a b la lb st
  | .cmpltu p comb a b la lb st => enc5 0x20000006 p comb a b la lb st
  | .cmpleu p comb a b la lb st => enc5 0x20000007 p comb a b la lb st
  | .cmpgtu p comb a b la lb st => enc5 0x20000008 p comb a b la lb st
  | .cmpgeu p comb a b la lb st => enc5 0x20000009 p comb a b la lb st
  | .cmpbitany p comb a b la lb st => enc5 0x2000000A p comb a b la lb st
  | .cmpbitnone p comb a b la lb st => enc5 0x2000000B p comb a b la lb st
  | .cmpieq p a la st imm => enc6 0x24000000 p a la st imm
  | .cmpine p a la st imm => enc6 0x24200000 p a la st imm
  | .cmpilt p a la st imm => enc6 0x24400000 p a la st imm
  | .cmpiltu p a la st imm => enc6 0x24600000 p a la st imm
  | .shli d a n la st => enc7 0x28000000 d a n la st
  | .shri d a n la st => enc7 0x28000001 d a n la st
  | .shai d a n la st => enc7 0x28000002 d a n la st
  | .rotli d a n la st => enc7 0x28000003 d a n la st
  | .clz d a la st => enc8 0x28000004 d a la st
  | .ctz d a la st => enc8 0x28000005 d a la st
  | .popc d a la st => enc8 0x28000006 d a la st
  | .brev d a la st => enc8 0x28000007 d a la st
  | .bswap d a la st => enc8 0x28000008 d a la st
  | .bfx d a b la lb st => enc1 0x28000009 d a b la lb st
  | .bfxs d a b la lb st => enc1 0x2800000A d a b la lb st
  | .bfi d a b la lb st => enc1 0x2800000B d a b la lb st
  | .fshl d a b la lb st c => enc9 0x28000020 d a b la lb st c
  | .fshr d a b la lb st c => enc9 0x28000040 d a b la lb st c
  | .lut3 d a b la lb tbl => enc10 0x2C000000 d a b la lb tbl
  | .mul d a b la lb st => enc1 0x30000000 d a b la lb st
  | .mulhs d a b la lb st => enc1 0x30000001 d a b la lb st
  | .mulhu d a b la lb st => enc1 0x30000002 d a b la lb st
  | .divs d a b la lb st => enc1 0x30000003 d a b la lb st
  | .divu d a b la lb st => enc1 0x30000004 d a b la lb st
  | .rems d a b la lb st => enc1 0x30000005 d a b la lb st
  | .remu d a b la lb st => enc1 0x30000006 d a b la lb st
  | .fadd d a b la lb st => enc1 0x34000000 d a b la lb st
  | .fsub d a b la lb st => enc1 0x34000001 d a b la lb st
  | .fmul d a b la lb st => enc1 0x34000002 d a b la lb st
  | .ffma d a b la lb st => enc1 0x34000003 d a b la lb st
  | .fmin d a b la lb st => enc1 0x34000004 d a b la lb st
  | .fmax d a b la lb st => enc1 0x34000005 d a b la lb st
  | .fabs d a la st => enc8 0x34000006 d a la st
  | .fneg d a la st => enc8 0x34000007 d a la st
  | .fcvtif d a la st => enc8 0x34000008 d a la st
  | .fcvtfi d a la st => enc8 0x34000009 d a la st
  | .fsqrt d a la st => enc8 0x3400000A d a la st
  | .fcmpeq p a b la lb st => enc11 0x34000010 p a b la lb st
  | .fcmpne p a b la lb st => enc11 0x34000011 p a b la lb st
  | .fcmplt p a b la lb st => enc11 0x34000012 p a b la lb st
  | .fcmple p a b la lb st => enc11 0x34000013 p a b la lb st
  | .fcmpun p a b la lb st => enc11 0x34000014 p a b la lb st
  | .adda d a b lb st => enc12 0x38000000 d a b lb st
  | .addau d a b lb st => enc12 0x38000001 d a b lb st
  | .addas d a b lb st s => enc13 0x38000010 d a b lb st s
  | .movga d a b la lb st => enc14 0x38000003 d a b la lb st
  | .movag d a st => enc15 0x38000004 d a st
  | .movagh d a st => enc15 0x38000005 d a st
  | .suba d a b st => enc16 0x38000006 d a b st
  | .addai d a st imm => enc17 0x3C000000 d a st imm
  | .br p n st off => enc18 0x40000000 p n st off
  | .call p n st off => enc18 0x44000000 p n st off
  | .jmpr a la st => enc19 0x48000000 a la st
  | .callr a la st => enc19 0x48000001 a la st
  | .ret st => enc20 0x48000002 st
  | .rtt st => enc20 0x48000003 st
  | .loop a la st imm => enc21 0x4C000000 a la st imm
  | .ldb t x st off => enc22 0x50000000 t x st off
  | .ldbs t x st off => enc22 0x50001000 t x st off
  | .ldh t x st off => enc22 0x50002000 t x st off
  | .ldhs t x st off => enc22 0x50003000 t x st off
  | .ldw t x st off => enc22 0x50004000 t x st off
  | .ldd t x st off => enc22 0x50005000 t x st off
  | .stb t x lt st off => enc23 0x54000000 t x lt st off
  | .sth t x lt st off => enc23 0x54002000 t x lt st off
  | .stw t x lt st off => enc23 0x54004000 t x lt st off
  | .std t x lt st off => enc23 0x54005000 t x lt st off
  | .lda t x st off => enc24 0x58005000 t x st off
  | .sta t x st off => enc24 0x5C005000 t x st off
  | .amoadd d x b lb dw => enc25 0x60000000 d x b lb dw
  | .amoand d x b lb dw => enc25 0x60000001 d x b lb dw
  | .amoor d x b lb dw => enc25 0x60000002 d x b lb dw
  | .amoxor d x b lb dw => enc25 0x60000003 d x b lb dw
  | .amomins d x b lb dw => enc25 0x60000004 d x b lb dw
  | .amomaxs d x b lb dw => enc25 0x60000005 d x b lb dw
  | .amominu d x b lb dw => enc25 0x60000006 d x b lb dw
  | .amomaxu d x b lb dw => enc25 0x60000007 d x b lb dw
  | .amoswap d x b lb dw => enc25 0x60000008 d x b lb dw
  | .amocas d x b la lb dw => enc26 0x60000009 d x b la lb dw
  | .amofadd d x b lb => enc27 0x6000000A d x b lb
  | .dcas d x b la lb => enc28 0x64000000 d x b la lb
  | .amov2 d x b lb => enc27 0x64000001 d x b lb
  | .fence st => enc20 0x68000000 st
  | .movs d idx st => enc29 0x68000001 d idx st
  | .movsw d idx st => enc29 0x68000002 d idx st
  | .trap code st => enc30 0x68000003 code st
  | .wspill st => enc20 0x68000004 st
  | .wfill st => enc20 0x68000005 st
  | .widx d half f st => enc31 0x68000006 d half f st
  | .vld v x st off => enc32 0x6C000000 v x st off
  | .vldh v x st off => enc32 0x6C001000 v x st off
  | .vst v x lt st off => enc33 0x70000000 v x lt st off
  | .vsth v x lt st off => enc33 0x70001000 v x lt st off
  | .gathw v x vi k sc => enc34 0x74000000 v x vi k sc
  | .scatw v x vi k sc => enc34 0x74000001 v x vi k sc
  | .gathh v x vi k sc => enc34 0x74000002 v x vi k sc
  | .scath v x vi k sc => enc34 0x74000003 v x vi k sc
  | .vadd w vd va vb k la lb st => enc35 0x78000000 w vd va vb k la lb st
  | .vsub w vd va vb k la lb st => enc35 0x78000001 w vd va vb k la lb st
  | .vmul w vd va vb k la lb st => enc35 0x78000002 w vd va vb k la lb st
  | .vmulhs w vd va vb k la lb st => enc35 0x78000003 w vd va vb k la lb st
  | .vand w vd va vb k la lb st => enc35 0x78000004 w vd va vb k la lb st
  | .vor w vd va vb k la lb st => enc35 0x78000005 w vd va vb k la lb st
  | .vxor w vd va vb k la lb st => enc35 0x78000006 w vd va vb k la lb st
  | .vandn w vd va vb k la lb st => enc35 0x78000007 w vd va vb k la lb st
  | .vshl w vd va vb k la lb st => enc35 0x78000008 w vd va vb k la lb st
  | .vshr w vd va vb k la lb st => enc35 0x78000009 w vd va vb k la lb st
  | .vsha w vd va vb k la lb st => enc35 0x7800000A w vd va vb k la lb st
  | .vmins w vd va vb k la lb st => enc35 0x7800000B w vd va vb k la lb st
  | .vmaxs w vd va vb k la lb st => enc35 0x7800000C w vd va vb k la lb st
  | .vminu w vd va vb k la lb st => enc35 0x7800000D w vd va vb k la lb st
  | .vmaxu w vd va vb k la lb st => enc35 0x7800000E w vd va vb k la lb st
  | .vadds w vd va vb k la lb st => enc35 0x7800000F w vd va vb k la lb st
  | .vsubs w vd va vb k la lb st => enc35 0x78000010 w vd va vb k la lb st
  | .vabs w vd va k la st => enc36 0x78000011 w vd va k la st
  | .vdot4 vd va vb k la lb st => enc37 0x78000012 vd va vb k la lb st
  | .vfadd w vd va vb k la lb st => enc35 0x7C000000 w vd va vb k la lb st
  | .vfsub w vd va vb k la lb st => enc35 0x7C000001 w vd va vb k la lb st
  | .vfmul w vd va vb k la lb st => enc35 0x7C000002 w vd va vb k la lb st
  | .vffma w vd va vb k la lb st => enc35 0x7C000003 w vd va vb k la lb st
  | .vffms w vd va vb k la lb st => enc35 0x7C000004 w vd va vb k la lb st
  | .vfmin w vd va vb k la lb st => enc35 0x7C000005 w vd va vb k la lb st
  | .vfmax w vd va vb k la lb st => enc35 0x7C000006 w vd va vb k la lb st
  | .vfabs w vd va k la st => enc36 0x7C000007 w vd va k la st
  | .vfneg w vd va k la st => enc36 0x7C000008 w vd va k la st
  | .vfdiv w vd va vb k la lb st => enc35 0x7C000009 w vd va vb k la lb st
  | .vfsqrt vd va k la st => enc38 0x7C00000A vd va k la st
  | .vcvtf32f16 hi vd va k la st => enc39 0x80000000 hi vd va k la st
  | .vcvtf16f32 hi vd va k la st => enc39 0x80000001 hi vd va k la st
  | .vcvtf32bf hi vd va k la st => enc39 0x80000002 hi vd va k la st
  | .vcvtbff32 hi vd va k la st => enc39 0x80000003 hi vd va k la st
  | .vcvtf32f8a hi vd va k la st => enc39 0x80000004 hi vd va k la st
  | .vcvtf8af32 hi vd va k la st => enc39 0x80000005 hi vd va k la st
  | .vcvtf32f8b hi vd va k la st => enc39 0x80000006 hi vd va k la st
  | .vcvtf8bf32 hi vd va k la st => enc39 0x80000007 hi vd va k la st
  | .vcvtf32i32 vd va k la st => enc38 0x80000008 vd va k la st
  | .vcvti32f32 vd va k la st => enc38 0x80000009 vd va k la st
  | .vcvti32i16 hi vd va k la st => enc39 0x8000000A hi vd va k la st
  | .vcvti32i8 hi vd va k la st => enc39 0x8000000B hi vd va k la st
  | .vcvti8i32 hi vd va k la st => enc39 0x8000000C hi vd va k la st
  | .vbcast v g => enc40 0x84000000 v g
  | .vins v g n => enc41 0x84000001 v g n
  | .vext g vb n => enc42 0x84000002 g vb n
  | .vshuf v vb => enc43 0x84000003 v vb
  | .vrot v vb n => enc44 0x84000004 v vb n
  | .vredadd g vb => enc45 0x84000005 g vb
  | .vredfadd g vb => enc45 0x84000006 g vb
  | .vredmax g vb => enc45 0x84000007 g vb
  | .vredmin g vb => enc45 0x84000008 g vb
  | .vscan v vb => enc43 0x84000009 v vb
  | .vpopk g kn => enc46 0x8400000A g kn
  | .vmovk kn g => enc47 0x8400000B kn g
  | .vkmov g kn => enc46 0x8400000C g kn
  | .vcmpeq ty kd va vb k la lb st => enc48 0x88000000 ty kd va vb k la lb st
  | .vcmpne ty kd va vb k la lb st => enc48 0x88000001 ty kd va vb k la lb st
  | .vcmplt ty kd va vb k la lb st => enc48 0x88000002 ty kd va vb k la lb st
  | .vcmple ty kd va vb k la lb st => enc48 0x88000003 ty kd va vb k la lb st
  | .vcmpgt ty kd va vb k la lb st => enc48 0x88000004 ty kd va vb k la lb st
  | .vcmpge ty kd va vb k la lb st => enc48 0x88000005 ty kd va vb k la lb st
  | .vcmpun kd va vb k la lb st => enc49 0x88000046 kd va vb k la lb st
  | .vlut3 vd va vb k la lb tbl => enc50 0x8C000000 vd va vb k la lb tbl
  | .offer d a persist st => enc51 0x94000000 d a persist st
  | .evtest d a la st => enc8 0x94000001 d a la st
  | .evwait d a la st => enc8 0x94000002 d a la st
  | .pause n st => enc52 0x94000003 n st
  | .dlr d n st => enc53 0x94000004 d n st
  | .dlw n a la st => enc54 0x94000005 n a la st
  | .retire st => enc20 0x94000006 st
  | .mclaim d a la st => enc8 0x98000000 d a la st
  | .mrel a la st => enc19 0x98000001 a la st
  | .mma d a b la lb st => enc1 0x98000002 d a b la lb st
  | .mzero d a la st => enc8 0x98000003 d a la st
  | .mdrain d a b la lb st => enc1 0x98000004 d a b la lb st
  | .copy a st => enc55 0x9C000000 a st
  | .copyg a st => enc55 0x9C000001 a st
  | .copyop a st => enc55 0x9C000002 a st
  | .conv a st => enc55 0xA0000000 a st
  | .planes a st => enc55 0xA0000001 a st
  | .sparsify a st => enc55 0xA0000002 a st
  | .scalec a st => enc55 0xA0000003 a st
  | .tidset a b la st => enc56 0xA4000000 a b la st
  | .tidget a b la st => enc56 0xA4000001 a b la st
  | .tidclr a la st => enc19 0xA4000002 a la st
  | .grow d a la st => enc8 0xA8000000 d a la st
  | .launch d a st => enc15 0xA8000001 d a st
  | .restart d a st => enc15 0xA8000002 d a st
  | .seal a la st => enc19 0xA8000003 a la st
  | .stall n => enc57 0xFC000000 n
  | .wide hi => enc58 0xFD000000 hi
  | .mod rnd sat => enc59 0xFE000000 rnd sat
  | .crit => enc60 0xFF000000
  | .pairLowRead _ _ _ => none
  | .nctlWrite _ _ => none
  | .wposWrite _ _ => none
  | .nstatAccess _ _ _ => none
  | .cmapWrite _ _ => none
  | .xinvhWrite _ _ => none
  | .rqbaseWrite _ _ => none
  | .rqtailWrite _ _ => none
  | .rqovfWrite _ _ => none
  | .cellstSeal _ _ => none
  | .cellstUnseal _ _ => none
  | .islstWrite _ _ => none
  | .alcmdCommit _ _ => none
  | .registerWrite _ _ _ => none
  | .wordNotAnInstruction _ => none
  | .nodeSelect => none
  | .valueArrival => none
  | .accessPerformed => none
  | .commandAcceptance => none
  | .commandExecution => none
  | .commandCompletion => none
  | .gangStart => none
  | .gangStepBegin => none
  | .fastCommit => none
  | .settlingRound => none
  | .instanceEnd => none
  | .nodeResume => none
  | .instantOverrun => none
  | .dispatch => none
  | .hostRequestLaunch => none
  | .drainRequest => none
  | .hostRequestRestore => none
  | .hostRequestDiscard => none
  | .drainLimitExpiry => none
  | .forceLimitExpiry => none
  | .cleanSave => none
  | .forcedSave => none
  | .forcedSaveTimeout => none
  | .pageServiceResume => none
  | .heldResume => none
  | .heldRetire => none
  | .invalidationComplete => none
  | .sofferWrite => none
  | .hostMemAccess => none
  | .reportWrite => none
  | .registerParityError => none
  | .sealForcelimExpiry => none
  | .patrolScrub => none
  | .twinHashCompare => none
  | .twinMatchTimeout => none
  | .remoteTimeout => none
  | .hostAbort => none
  | .sparePromoted => none
  | .wearMonitorRead => none
  | .budgetPeriod => none
  | .thermalDerate => none
  | .thermalCapRise => none
  | .thermalShutdown => none
  | .almanacCommit => none
  | .almanacCommitDone => none
  | .powerOn => none
  | .powerDownRequest => none
  | .dataFrame => none
  | .ackFrame => none
  | .nakFrame => none
  | .allowFrame => none
  | .keyxFrame => none
  | .frameSend => none
  | .retransmitTimeout => none
  | .linkPeerLost => none
  | .spdmRequest => none
  | .snoop => none
  | .powerLoss => none
  | .hostLinkUp => none
  | .portRetrained => none
  | .ackIntervalExpiry => none
  | .otherEthertypeFrame => none
  | .islandClockStallEnd => none

/-- The encoder. -/
def encode (i : Instr) : Option Word := (encodeNat i).map (BitVec.ofNat 32)

end Sys2Proof
end

