-- ==== Sys2Proof/Machine/Fetch.lean ====
section
/-! DEFINITION. Fetching (R66, R132): the word at the program counter, the checks of R67 on a run of hints and its follower
(R81, R381), breakpoints (R37), and what a node takes at an instruction boundary (R141, R239). -/

namespace Sys2Proof.Machine

/-- The word at a local offset of a cell. -/
def State.wordAt (s : State) (p : Nat) (pc : Word) : Word := BitVec.ofNat 32 (Memory.num s.mem (keyLocal p pc.toNat) 4)
/-- The word's doubleword is poisoned. -/
def State.wordPoisoned (s : State) (p : Nat) (pc : Word) : Bool := poisonedAt s.poison (keyLocal p pc.toNat) 4
/-- An address lies in the code region of a cell. -/
def Cell.inCode (c : Cell) (pc : Word) : Bool := decide (c.codeOff ≤ pc.toNat) && decide (pc.toNat < c.codeOff + c.codeLen)

/-- A word is a hint; its kind (R80). -/
def isHint (w : Word) : Bool := decide (fld w.toNat 26 6 = 63)
def hintKind (w : Word) : Nat := fld w.toNat 24 2

/-- The hint words from `pc`, and the follower's address; none where a run ends without a follower (R81). -/
def scanRun (s : State) (p : Nat) (c : Cell) (n : Node) : Nat → Word → List (Word × Word) × Option Word
  | 0, _ => ([], none)
  | f + 1, pc =>
    if !c.inCode pc then ([], none)
    else
      let w := s.wordAt p pc
      if isHint w then
        if n.loopc ≠ 0 ∧ pc = n.loope then ([(pc, w)], none)
        else let r := scanRun s p c n f (pc + 4); ((pc, w) :: r.1, r.2)
      else ([], some pc)

/-- The first kind that a run repeats, in ascending order of addresses (log entry 78). -/
def firstRepeat : List Nat → List Nat → Option Nat
  | [], _ => none
  | k :: t, seen => if seen.contains k then some k else firstRepeat t (k :: seen)

/-- A hint of a kind allows a follower of this major (R82). -/
def followerOk (kind major : Nat) : Bool :=
  if kind = 1 then [2, 3, 4, 5, 6, 7, 9, 15].contains major
  else if kind = 3 then decide (1 ≤ major ∧ major ≤ 15)
  else true

/-- HINT_SEQUENCE (R68): the kind in [17:16], and bits [18] and [19]. -/
def hintTrap (kind : Nat) (follower none_ : Bool) : Trap :=
  { cause := .hintSequence, detail := BitVec.ofNat 16 (kind + (if follower then 4 else 0) + (if none_ then 8 else 0)) }

/-- Check 2 of R67 on a run (R381). -/
def checkRun (s : State) (p : Nat) (run : List (Word × Word)) (fol : Option Word) : Option Trap :=
  let kinds := run.map (fun x => hintKind x.2)
  match firstRepeat kinds [] with
  | some k => some (hintTrap k false false)
  | none =>
    match fol with
    | none => some (hintTrap (kinds.getLastD 0) false true)
    | some f => (kinds.find? (fun k => !followerOk k (fld (s.wordAt p f).toNat 26 6))).map (fun k => hintTrap k true false)

/-- The instruction at the node's program counter, or the trap of checks 1 to 4 (R67, R381). A follower that fails check 3
comes as WORD_NOT_AN_INSTRUCTION, whose meaning traps. -/
def fetchRun (s : State) (p : Nat) (n : Node) : Except Trap Instr :=
  let c := s.cell p
  if !c.inCode n.pc then .error { cause := .fetchFault, taddr := n.pc.zeroExtend 64 }
  else
    let r := scanRun s p c n (c.codeLen / 4 + 1) n.pc
    let addrs := r.1.map (·.1) ++ r.2.toList
    match addrs.find? (s.wordPoisoned p) with
    | some a => .error { cause := .poisonFetch, taddr := a.zeroExtend 64 }
    | none =>
      let seq := if r.1.isEmpty then none else checkRun s p r.1 r.2
      match seq with
      | some t => .error t
      | none =>
        let words := addrs.map (s.wordAt p)
        let follower := decode (words.getLastD 0)
        match follower with
        | .ok (.wordNotAnInstruction w) => .ok (.wordNotAnInstruction w)
        | _ =>
          match words.findSome? (fun w => match decode w with
              | .error e => some e
              | .ok _ => none) with
          | some e => .error { cause := .illegalEncoding, detail := BitVec.ofNat 16 (e.reason + e.bit * 16) }
          | none =>
            match decode (words.headD 0) with
            | .ok i => .ok i
            | .error e => .error { cause := .illegalEncoding, detail := BitVec.ofNat 16 (e.reason + e.bit * 16) }

/-- The instruction at the program counter when the node stands inside a run whose checks are made. -/
def fetchNext (s : State) (p : Nat) (n : Node) : Except Trap Instr :=
  match decode (s.wordAt p n.pc) with
  | .ok i => .ok i
  | .error _ => fetchRun s p n

/-- An enabled breakpoint on the instruction that starts at the program counter: on any word of its run, or on the word
itself (R37, R81, log entry 69). -/
def breaks (s : State) (p : Nat) (n : Node) : Bool :=
  let c := s.cell p
  let run := (scanRun s p c n (c.codeLen / 4 + 1) n.pc).1.map (·.1)
  let words := if run.isEmpty then [n.pc] else run
  !n.inTrap && (List.range 4).any (fun j => n.dbgc.getLsbD j && words.contains (Store.get 0 n.bka j) && decide (n.bkSkip ≠ some n.pc))

/-- What a node takes at an instruction boundary: the first trap of the responses that have arrived (R141), a debug trap only
outside trap mode (R37), then INSTANT_OVERRUN (R239). A debug trap that is due while the node is in its handler stays due, and is taken
after RTT, the model's choice (log entry 48). -/
def Node.boundary (n : Node) : Option (Trap × Node) :=
  match n.pend.find? (fun t => !(n.inTrap && (t.cause == .watchpoint || t.cause == .singleStep))) with
  | some t => some (t, { n with pend := n.pend.erase t })
  | none => if n.overrun then some ({ cause := .instantOverrun }, { n with overrun := false }) else none

/-- The cell of an engine holds at the second issue cycle of a command until it is accepted (R175). -/
def State.awaits (s : State) (p : Nat) : Bool :=
  !isReeve p && (Tab.getD (s.croft (siteOf p)).eng (roleOf p) {}).atIssue.isSome

/-- A cell whose instance has stopped, for a forced save or at the end of an instant whose next has not begun, issues no further
instruction (R233, R242, R302, R355). -/
def State.frozen (s : State) (p : Nat) : Bool :=
  match s.instOf p with
  | none => false
  | some (_, i) => decide (i.phase = .forced ∨ i.phase = .between)

/-- What the node whose turn it is does: a trap taken or a cycle held, or an instruction to execute. -/
inductive Turn where
  | idle
  | trap (s : State)
  | instr (i : Instr)

/-- The turn of the running node of the current cell. The follower of a run that holds for a result is not yet performed, so a
boundary lies before it too, with TIP at the first hint (R141). -/
def turn (s : State) : Turn :=
  match s.run? with
  | none => .idle
  | some (i, n0) =>
    if !s.clockOn s.cur then .idle
    else
      let p := s.cur
      let c := max (s.cell p).cyc n0.issueAt
      let x : Issue := { p := p, i := i, c := c, n := n0.landed c }
      if s.awaits p then .trap (s.holdCell x)
      else if n0.hints.start.isNone && s.frozen p then .idle
      else match n0.boundary with
      | some (t, n1) => .trap (s.trapUnperformed { x with n := n1.landed c } t 0 false)
      | none =>
        match n0.hints.start with
        | some _ =>
          match fetchNext s p n0 with
          | .ok w => .instr w
          | .error t => .trap (s.trapUnperformed x t 0 false)
        | none =>
          if breaks s p n0 then .trap (s.trapUnperformed x { cause := .breakpoint } 0 false)
          else match fetchRun s p n0 with
            | .ok w => .instr w
            | .error t => .trap (s.trapUnperformed x t 0 false)

end Sys2Proof.Machine
end

