-- ==== Sys2Proof/Machine/Digest.lean ====
section
/-! DEFINITION. SHA-256 (FIPS 180-4), HMAC (RFC 2104) and HKDF (RFC 5869) over it: the digests of R304, R305, R308, R373,
R376 to R378. The constants are not listed: they are computed as the standard defines them, from the roots of the first primes. -/

namespace Sys2Proof.Machine

/-! ### The constants -/

/-- The whole part of the `k`-th root of `x`, found from bit `b` - 1 downward on top of `r`. -/
def rootFrom (k x : Nat) : Nat → Nat → Nat
  | 0, r => r
  | b + 1, r => rootFrom k x b (if (r + 2 ^ b) ^ k ≤ x then r + 2 ^ b else r)

/-- The first 32 bits of the fractional part of the `k`-th root of `x`, where the root lies below 2^8. -/
def rootBits (k x : Nat) : Word := BitVec.ofNat 32 (rootFrom k (x * 2 ^ (32 * k)) 40 0)

/-- The primes up to 311: the first 64. -/
def smallPrimes : List Nat := (List.range 312).filter (fun n => decide (2 ≤ n) && ([2, 3, 5, 7, 11, 13, 17].all (fun d => n == d || n % d != 0)))

/-- One constant a round, from the cube roots; and the initial hash value, from the square roots of the first eight. -/
def roundConstants : List Word := smallPrimes.map (rootBits 3)
def initialHash : List Word := (smallPrimes.take 8).map (rootBits 2)

/-! ### Blocks -/

/-- Three rotations of a word to the right, exclusive-or'd; in the schedule the third is a shift. -/
def mixRotations (i j k : Nat) (x : Word) : Word := x.rotateRight i ^^^ x.rotateRight j ^^^ x.rotateRight k
def mixShift (i j k : Nat) (x : Word) : Word := x.rotateRight i ^^^ x.rotateRight j ^^^ x >>> k

/-- The schedule word sixteen places after the first of a window of sixteen. -/
def nextWord (win : List Word) : Word :=
  win.headD 0 + mixShift 7 18 3 (win.getD 1 0) + win.getD 9 0 + mixShift 17 19 10 (win.getD 14 0)

/-- The two sums of a round: over its second four variables with a constant and a schedule word, and over its first three. -/
def sumLate (v : List Word) (k w : Word) : Word :=
  let e := v.getD 4 0
  v.getD 7 0 + mixRotations 6 11 25 e + (v.getD 6 0 ^^^ e &&& (v.getD 5 0 ^^^ v.getD 6 0)) + k + w
def sumEarly (v : List Word) : Word :=
  let a := v.getD 0 0
  let b := v.getD 1 0
  let c := v.getD 2 0
  mixRotations 2 13 22 a + (a &&& b ||| c &&& (a ||| b))

/-- The rounds of one block, a constant each: the window of the schedule slides by a word. -/
def blockRounds : List Word → List Word → List Word → List Word
  | [], _, v => v
  | k :: ks, win, v =>
    let late := sumLate v k (win.headD 0)
    blockRounds ks (win.drop 1 ++ [nextWord win])
      ((late + sumEarly v) :: v.take 3 ++ (v.getD 3 0 + late) :: (v.drop 4).take 3)

/-- Big-endian words of bytes, and bytes of words. -/
def beWord (l : List Byte) : Word := BitVec.ofNat 32 (leNat (l.take 4).reverse)
def beBytes (w : Word) : List Byte := (leBytes 4 w.toNat).reverse

/-- The hash value after `n` blocks of 64 bytes. -/
def hashBlocks : Nat → List Word → List Byte → List Word
  | 0, h, _ => h
  | n + 1, h, l =>
    hashBlocks n (List.zipWith (· + ·) h (blockRounds roundConstants ((List.range 16).map (fun i => beWord (l.drop (4 * i)))) h)) (l.drop 64)

/-- SHA-256. -/
def sha256 (m : List Byte) : List Byte :=
  let padded := m ++ 0x80 :: List.replicate ((119 - m.length % 64) % 64) 0 ++ (leBytes 8 (8 * m.length)).reverse
  (hashBlocks (padded.length / 64) initialHash padded).flatMap beBytes

/-- HMAC-SHA-256. -/
def hmac (key msg : List Byte) : List Byte :=
  let k := if 64 < key.length then sha256 key else key
  let k := k ++ List.replicate (64 - k.length) 0
  sha256 (k.map (· ^^^ 0x5C) ++ sha256 (k.map (· ^^^ 0x36) ++ msg))

/-- HKDF-SHA-256 expanded to `n` bytes, at most 64. -/
def hkdf (salt input info : List Byte) (n : Nat) : List Byte :=
  let prk := hmac salt input
  let t1 := hmac prk (info ++ [1])
  (t1 ++ hmac prk (t1 ++ info ++ [2])).take n

end Sys2Proof.Machine
end

