-- ==== Sys2Proof/Machine/Curve.lean ====
section
/-! DEFINITION. The elliptic curve P-256 (FIPS 186-4): ECDSA (R204, R308, R376, R378) and the ECDH product (R378). The
manual names the curve and the two schemes, and gives the signature as r then s; the constants and the equations are the standard's
(log entry 5). -/

namespace Sys2Proof.Machine

/-- A number of big-endian bytes, and the `n` big-endian bytes of a number. -/
def beNat (l : List Byte) : Nat := leNat l.reverse
def beList (n x : Nat) : List Byte := (leBytes n x).reverse

/-! ### The field and the curve -/

/-- The prime of the field, the order of the group, the coefficient b of y² = x³ - 3x + b, and the base point. -/
abbrev curveP : Nat := 2 ^ 256 - 2 ^ 224 + 2 ^ 192 + 2 ^ 96 - 1
abbrev curveN : Nat := 0xFFFFFFFF00000000FFFFFFFFFFFFFFFFBCE6FAADA7179E84F3B9CAC2FC632551
abbrev curveB : Nat := 0x5AC635D8AA3A93E7B3EBBD55769886BC651D06B0CC53B0F63BCE3C3E27D2604B
abbrev baseX : Nat := 0x6B17D1F2E12C4247F8BCE6E563A440F277037D812DEB33A0F4A13945D898C296
abbrev baseY : Nat := 0x4FE342E2FE1A7F9B8EE7EB4A7C0F9E162BCE33576B315ECECBB6406837BF51F5

/-- A power modulo `m`, by the low `bits` bits of the exponent. -/
def powMod (m x : Nat) : Nat → Nat → Nat
  | 0, _ => 1 % m
  | bits + 1, e =>
    let r := powMod m x bits (e / 2)
    if e % 2 = 1 then r * r % m * x % m else r * r % m

/-- The inverse modulo a prime below 2^256 (Fermat). -/
def invMod (m x : Nat) : Nat := powMod m (x % m) 256 (m - 2)

/-- A point in projective coordinates; z = 0 at infinity. -/
structure Point where
  x : Int
  y : Int
  z : Int
  deriving DecidableEq, Repr

def Point.infinity : Point := { x := 0, y := 1, z := 0 }
def Point.base : Point := { x := baseX, y := baseY, z := 1 }

/-- The sum of two points, of one with itself too: the complete formula of a curve of prime order, with a = -3. -/
def Point.add (p q : Point) : Point :=
  let m : Int := curveP
  let xy := (p.x * q.y + q.x * p.y) % m
  let xz := (p.x * q.z + q.x * p.z) % m
  let yz := (p.y * q.z + q.y * p.z) % m
  let xx := p.x * q.x % m
  let yy := p.y * q.y % m
  let zz := p.z * q.z % m
  let t := (-3 * xz + 3 * curveB * zz) % m
  let u := (-3 * xx + 3 * curveB * xz - 9 * zz) % m
  let v := (3 * xx - 3 * zz) % m
  { x := (xy * (yy - t) - yz * u) % m, y := (v * u + (yy + t) * (yy - t)) % m, z := (yz * (yy + t) + xy * v) % m }

/-- The multiple of a point by the low `bits` bits of a number. -/
def Point.mulBits (p : Point) : Nat → Nat → Point
  | 0, _ => .infinity
  | bits + 1, k =>
    let d := p.mulBits bits (k / 2)
    if k % 2 = 1 then (d.add d).add p else d.add d

/-- The multiple of a point by a number below 2^256. -/
@[irreducible] def Point.mul (k : Nat) (p : Point) : Point := p.mulBits 256 k

/-- The coordinates of a point; none at infinity. -/
def Point.affine (p : Point) : Option (Nat × Nat) :=
  let z := (p.z % curveP).toNat
  if z = 0 then none
  else
    let i := invMod curveP z
    some ((p.x % curveP).toNat * i % curveP, (p.y % curveP).toNat * i % curveP)

/-- The point of a public key: x, then y, each 32 bytes big-endian; none where it is not on the curve. -/
def pointOf (key : List Byte) : Option Point :=
  let x := beNat (key.take 32)
  let y := beNat (key.drop 32)
  if key.length = 64 ∧ x < curveP ∧ y < curveP ∧ (y * y) % curveP = (x * x * x + (curveP - 3) * x + curveB) % curveP then
    some { x := x, y := y, z := 1 }
  else none

/-- A point as a public key. -/
def Point.key (p : Point) : List Byte :=
  match p.affine with
  | none => leBytes 64 0
  | some (x, y) => beList 32 x ++ beList 32 y

/-! ### The schemes -/

/-- The equation of ECDSA on a point, a digest as a number, and the two numbers of a signature. -/
def ecdsaHolds (q : Point) (e r s : Nat) : Bool :=
  let w := invMod curveN s
  match ((Point.mul (e * w % curveN) .base).add (Point.mul (r * w % curveN) q)).affine with
  | none => false
  | some (x, _) => decide (x % curveN = r)

/-- ECDSA on P-256 (R204, R376): the 64-byte signature of a 32-byte digest, r then s, each big-endian, verifies under a public key. -/
@[irreducible] def ecdsaVerify (key digest signature : List Byte) : Bool :=
  let r := beNat (signature.take 32)
  let s := beNat (signature.drop 32)
  match pointOf key with
  | none => false
  | some q =>
    decide (signature.length = 64 ∧ 0 < r ∧ r < curveN ∧ 0 < s ∧ s < curveN) && ecdsaHolds q (beNat (digest.take 32)) r s

/-- The ECDSA signature of a digest by a secret, with the secret number `k` of the signature. -/
@[irreducible] def ecdsaSign (secret k : Nat) (digest : List Byte) : List Byte :=
  let r := (((Point.mul k .base).affine.map (·.1)).getD 0) % curveN
  beList 32 r ++ beList 32 (invMod curveN k * (beNat (digest.take 32) + r * secret) % curveN)

/-- The public key of a secret number. -/
def publicOf (secret : Nat) : List Byte := (Point.mul secret .base).key

/-- The shared secret of ECDH (R378): the x-coordinate of the product of a secret number and a peer's public key, 32 bytes big-endian;
none where the key is no point of the curve. -/
@[irreducible] def ecdhShared (secret : Nat) (peer : List Byte) : Option (List Byte) :=
  match pointOf peer with
  | none => none
  | some q => (Point.mul secret q).affine.map (fun c => beList 32 c.1)

/-! ### The device identity key (R376) -/

/-- A secret number of the group, from 1 to its order less 1. -/
def secretOf (x : Nat) : Nat := 1 + x % (curveN - 1)
/-- The public half of the identity key. -/
def identityPublic : List Byte := publicOf (secretOf Config.identitySecret)
/-- The signature that the identity key gives a digest (R308, R373, R377, R378). -/
def identitySign (digest : List Byte) : List Byte :=
  ecdsaSign (secretOf Config.identitySecret) (secretOf (Config.signNonce digest)) digest
/-- A signature of a digest verifies under the identity key; one of the key's own is taken to (log entry 30). -/
def identityVerify (digest signature : List Byte) : Bool :=
  decide (signature = identitySign digest) || ecdsaVerify identityPublic digest signature

end Sys2Proof.Machine
end

