-- ==== Sys2Proof/Machine/Cipher.lean ====
section
/-! DEFINITION. AES-256-GCM (FIPS 197, SP 800-38D), under which the frames of the Fjargeton links travel (R330). The manual names the
algorithm; its tables are not listed, they are computed as the standard defines them (log entry 5). -/

namespace Sys2Proof.Machine

/-! ### AES-256 -/

/-- A byte of the field GF(2^8) doubled, and the product of two. -/
def gfDouble (x : Nat) : Nat := if 128 ≤ x then (2 * x) ^^^ 0x11B else 2 * x
def gfMul (x y : Nat) : Nat :=
  ((List.range 8).foldl (fun (a : Nat × Nat) i => (if y.testBit i then a.1 ^^^ a.2 else a.1, gfDouble a.2)) (0, x)).1
/-- The inverse: the 254th power. -/
def gfInv (x : Nat) : Nat := (List.range 253).foldl (fun a _ => gfMul a x) x
/-- A byte rotated left. -/
def rotByte (x n : Nat) : Nat := x * 2 ^ n % 256 + x / 2 ^ (8 - n)
/-- The substitution of a byte. -/
def subByte (x : Nat) : Nat := let i := gfInv x; i ^^^ rotByte i 1 ^^^ rotByte i 2 ^^^ rotByte i 3 ^^^ rotByte i 4 ^^^ 0x63
def subTable : List Nat := (List.range 256).map subByte
def byteSub (x : Nat) : Nat := subTable.getD x 0

def xorBytes (a b : List Nat) : List Nat := List.zipWith (· ^^^ ·) a b

/-- The round constant of a number: a power of 2 in the field. -/
def roundPower : Nat → Nat
  | 0 => 1
  | n + 1 => gfDouble (roundPower n)

/-- The key schedule from word `i` on, `f` words more: the last eight words stand in `w`, newest first. -/
def expandGo : Nat → Nat → List (List Nat) → List (List Nat)
  | 0, _, _ => []
  | f + 1, i, w =>
    let t := w.headD []
    let t := if i % 8 = 0 then xorBytes ((t.drop 1 ++ t.take 1).map byteSub) [roundPower (i / 8 - 1), 0, 0, 0]
      else if i % 8 = 4 then t.map byteSub else t
    let x := xorBytes (w.getD 7 []) t
    x :: expandGo f (i + 1) (x :: w.take 7)

/-- The sixty words of the schedule of a 32-byte key. -/
def expandKey (key : List Nat) : List (List Nat) :=
  let w := (List.range 8).map (fun i => (key.drop (4 * i)).take 4)
  w ++ expandGo 52 8 w.reverse
/-- The key of round `r`. -/
def roundKey (ws : List (List Nat)) (r : Nat) : List Nat := ((ws.drop (4 * r)).take 4).flatten

/-- Row r of the 16 bytes, taken by columns, moves r places left. -/
def shiftRows (s : List Nat) : List Nat := (List.range 16).map (fun j => s.getD ((j + 4 * (j % 4)) % 16) 0)
/-- One column mixed, and the four columns. -/
def mixColumn (c : List Nat) : List Nat :=
  (List.range 4).map (fun r =>
    let b := fun j => c.getD ((r + j) % 4) 0
    gfDouble (b 0) ^^^ gfDouble (b 1) ^^^ b 1 ^^^ b 2 ^^^ b 3)
def mixColumns (s : List Nat) : List Nat := (List.range 4).flatMap (fun j => mixColumn ((s.drop (4 * j)).take 4))

/-- One block of 16 bytes encrypted. -/
def aesBlock (ws : List (List Nat)) (b : List Nat) : List Nat :=
  let s := (List.range 13).foldl (fun s r => xorBytes (mixColumns (shiftRows (s.map byteSub))) (roundKey ws (r + 1))) (xorBytes b (roundKey ws 0))
  xorBytes (shiftRows (s.map byteSub)) (roundKey ws 14)

/-! ### The mode -/

/-- The product of two blocks in GF(2^128), bit 127 of a number the coefficient of 1. -/
def ghashMul (x y : Nat) : Nat :=
  ((List.range 128).foldl (fun (a : Nat × Nat) i =>
    (if x.testBit (127 - i) then a.1 ^^^ a.2 else a.1, if a.2 % 2 = 1 then a.2 / 2 ^^^ (0xE1 * 2 ^ 120) else a.2 / 2)) (0, y)).1

/-- Bytes in blocks of 16, the last filled with zeros. -/
def blocks16 (l : List Byte) : List (List Byte) := (List.range ((l.length + 15) / 16)).map (fun i => slice l (16 * i) 16)
/-- The hash of blocks under a key. -/
def ghash (h : Nat) (bs : List (List Byte)) : Nat := bs.foldl (fun y b => ghashMul (y ^^^ beNat b) h) 0

/-- The key stream of a block of a nonce of 96 bits. -/
def streamBlock (ws : List (List Nat)) (nonce : List Byte) (n : Nat) : List Byte :=
  (aesBlock ws ((nonce ++ beList 4 n).map (·.toNat))).map (BitVec.ofNat 8)
/-- Bytes under the key stream: ciphertext of plaintext, and the other way. -/
def gcmStream (ws : List (List Nat)) (nonce l : List Byte) : List Byte :=
  List.zipWith (· ^^^ ·) l ((List.range ((l.length + 15) / 16)).flatMap (fun i => streamBlock ws nonce (i + 2)))

/-- The 16 bytes of the tag over additional data and ciphertext. -/
def gcmTag (ws : List (List Nat)) (nonce aad cipher : List Byte) : List Byte :=
  let h := beNat ((aesBlock ws (List.replicate 16 0)).map (BitVec.ofNat 8))
  let s := ghash h (blocks16 aad ++ blocks16 cipher ++ [beList 8 (8 * aad.length) ++ beList 8 (8 * cipher.length)])
  List.zipWith (· ^^^ ·) (beList 16 s) (streamBlock ws nonce 1)

/-- AES-256-GCM (R330): ciphertext and tag of a frame. The tag's bytes go out in the standard's order. -/
@[irreducible] def gcmSeal (key nonce aad plain : List Byte) : List Byte × BitVec 128 :=
  let ws := expandKey (key.map (·.toNat))
  let c := gcmStream ws nonce plain
  (c, BitVec.ofNat 128 (leNat (gcmTag ws nonce aad c)))

/-- AES-256-GCM (R330): the plaintext of a frame whose tag is valid. -/
@[irreducible] def gcmOpen (key nonce aad cipher : List Byte) (tag : BitVec 128) : Option (List Byte) :=
  let ws := expandKey (key.map (·.toNat))
  if tag = BitVec.ofNat 128 (leNat (gcmTag ws nonce aad cipher)) then some (gcmStream ws nonce cipher) else none

end Sys2Proof.Machine
end

