-- ==== Sys2Proof/Machine/Wire.lean ====
section
/-! DEFINITION. Frames of the Fjargeton links as they leave a port (R329, R330). -/

namespace Sys2Proof.Machine

/-- Bytes 0 to 15 of a frame's MAC client data (R329): VER is 1. -/
def frameHead (type : Nat) (first last : Bool) (chan seq moff plen : Nat) : List Byte :=
  leBytes 1 (1 + 16 * type) ++ leBytes 1 ((if first then 1 else 0) + (if last then 2 else 0)) ++ leBytes 2 chan
    ++ leBytes 6 seq ++ leBytes 4 moff ++ leBytes 2 plen

/-- The nonce of a frame (R330): the salt, then SEQ of a DATA frame or bit 63 above the count of control frames. -/
def nonce (salt : List Byte) (type seq ctl : Nat) : List Byte :=
  salt ++ leBytes 8 (if type = 0 then seq else 2 ^ 63 + ctl % 2 ^ 63)

/-- The MAC header of the frames of a port: destination, source, and EtherType 0x88B5 (R328). -/
def Port.macHeader (q : Port) (received : Bool) : List Byte :=
  (if received then q.mac ++ q.peerMac else q.peerMac ++ q.mac) ++ [0x88, 0xB5]

/-- A frame leaves a port, encrypted and authenticated under its current key (R330). -/
def Port.emit (q : Port) (type : Nat) (first last : Bool) (chan seq moff : Nat) (payload : List Byte) : Port :=
  let h := frameHead type first last chan seq moff payload.length
  let c := gcmSeal q.txKey (nonce q.txSalt type seq q.ctl) (q.macHeader false ++ h) payload
  { q with wire := q.wire ++ [q.macHeader false ++ h ++ c.1 ++ leBytes 16 c.2.toNat], ctl := if type = 0 then q.ctl else q.ctl + 1 }

/-- An ACK or a NAK (R332), and an ALLOW with its 8 bytes of GRANT (R333). -/
def Port.ack (q : Port) (seq : Nat) : Port := { q.emit 1 false false 0 seq 0 [] with sinceAck := 0 }
def Port.nak (q : Port) (seq : Nat) : Port := q.emit 2 false false 0 seq 0 []
def Port.allow (q : Port) (chan grant : Nat) : Port := q.emit 3 false false chan 0 0 (leBytes 8 grant)

/-- A received frame opened under the current key; none where its tag fails (R330). -/
def Port.open_ (q : Port) (type : Nat) (first last : Bool) (chan seq ctl moff : Nat) (cipher : List Byte) (tag : BitVec 128) :
    Option (List Byte) :=
  gcmOpen q.rxKey (nonce q.rxSalt type seq ctl)
    (q.macHeader true ++ frameHead type first last chan seq moff cipher.length) cipher tag

/-! ### The hash of twin mode (R360) -/

/-- One bit of the shift register of CRC-64 under the ECMA-182 polynomial. -/
def crcShift (c : BitVec 64) : BitVec 64 := if c.getLsbD 63 then (c <<< 1) ^^^ 0x42F0E1EBA9EA3693#64 else c <<< 1
/-- One byte into the register, most significant bit first (log entry 15). -/
def crcByte (c : BitVec 64) (b : Byte) : BitVec 64 :=
  let x := c ^^^ (b.zeroExtend 64 <<< 56)
  crcShift (crcShift (crcShift (crcShift (crcShift (crcShift (crcShift (crcShift x)))))))
/-- CRC-64 with initial value and final XOR all ones. -/
def crc64 (l : List Byte) : BitVec 64 := ~~~(l.foldl crcByte (BitVec.allOnes 64))

/-- The hash of a packet: class, logical destination, address, size and data bytes, little-endian. -/
def Packet.hash (p : Packet) : BitVec 64 :=
  crc64 (leBytes 1 p.cls ++ leBytes 4 p.dest ++ leBytes 8 p.addr ++ leBytes 4 p.size ++ p.data)

end Sys2Proof.Machine
end

