-- ==== Sys2Proof/Machine/Sheaf.lean ====
section
/-! DEFINITION. The Sheaf (R223 to R241): which events occur, what an occurrence delivers, settling rounds, the end and the
beginning of an instant, and the watchdog. -/

namespace Sys2Proof.Machine

/-! ### Nodes and events of an instance -/

def State.instD (s : State) (k : Nat) : Inst := (s.inst? k).getD {}
/-- An instance changed where it stands. -/
def State.onInst (s : State) (k : Nat) (f : Inst → Inst) : State :=
  match s.inst? k with
  | none => s
  | some i => s.setInst k (f i)

/-- The cell and slot of the node of an ordinal. -/
def Inst.place (i : Inst) (o : Nat) : Option (Nat × Nat) := (i.image.nodes[o]?).map (fun e => (i.pcell e.lcell, e.slot))
/-- The cells and slots of the node of an ordinal in every copy of the instance. -/
def Inst.copies (i : Inst) (o : Nat) : List (Nat × Nat) :=
  match i.image.nodes[o]? with
  | none => []
  | some e => (i.pcell e.lcell, e.slot) :: (if i.twin.isEmpty then [] else [(i.twinCell e.lcell, e.slot)])
/-- The same, each with the generation that a delivery to it names (R11, R240). -/
def Inst.named (i : Inst) (o : Nat) : List ((Nat × Nat) × Option (BitVec 16)) :=
  (i.copies o).zip [i.gens[o]?, i.gens[i.image.nodes.length + o]?]
/-- Ordinals of an instance. -/
def Inst.ords (i : Inst) : List Nat := List.range i.image.nodes.length
/-- Event numbers of an instance. -/
def Inst.evs (i : Inst) : List Nat := List.range i.image.events.length

/-- The node of an ordinal, in the primary copy. -/
def State.ord (s : State) (i : Inst) (o : Nat) : Option Node :=
  match i.place o with
  | none => none
  | some (p, sl) => s.node? p sl
/-- The node of an ordinal changed in every copy. -/
def State.onOrd (s : State) (i : Inst) (o : Nat) (f : Node → Node) : State :=
  (i.copies o).foldl (fun s q => match s.node? q.1 q.2 with
    | none => s
    | some n => s.setNode q.1 q.2 (f n)) s
/-- A delivery reaches the node it names: the slot holds the generation of the NID (R240). -/
def State.reaches (s : State) (x : (Nat × Nat) × Option (BitVec 16)) : Bool :=
  decide ((s.node? x.1.1 x.1.2).map (·.gen) = x.2)
/-- A delivery to a slot of another generation is counted at a reeve and does nothing else (R240). -/
def State.stale (s : State) (x : (Nat × Nat) × Option (BitVec 16)) : State :=
  let nid := nidOf (s.cell x.1.1).lcell x.1.2 (x.2.getD 0)
  s.reportCell x.1.1 .staleNodeDelivery (nid.truncate 16) 0 nid
/-- A delivery to the node of an ordinal changes it in every copy that it reaches (R240). -/
def State.onNamed (s : State) (i : Inst) (o : Nat) (f : State → Nat × Nat → Node → Node) : State :=
  (i.named o).foldl (fun s x =>
    if s.reaches x then
      match s.node? x.1.1 x.1.2 with
      | none => s
      | some n => s.setNode x.1.1 x.1.2 (f s x.1 n)
    else s.stale x) s
/-- Every node of every copy. -/
def State.nodesOf (s : State) (i : Inst) : List ((Nat × Nat) × Node) :=
  (i.ords.flatMap i.copies).filterMap (fun q => (s.node? q.1 q.2).map (fun n => (q, n)))

/-- The status of an event in the current instant (R224). -/
def Inst.status (i : Inst) (e : Nat) : EvSt := (Store.get {} i.ev e).st
def Inst.permanent (i : Inst) (e : Nat) : EvSt := (Store.get {} i.ev e).perm
def EvSt.code : EvSt → Nat
  | .unknown => 0
  | .present => 1
  | .absent => 2
  | .faulted => 3
/-- An unknown status becomes known. -/
def Inst.mark (i : Inst) (e : Nat) (st : EvSt) : Inst :=
  if i.status e = .unknown then { i with ev := Store.set {} i.ev e { Store.get {} i.ev e with st := st } } else i
/-- A permanent status; faulted takes precedence (R229). -/
def Inst.markPerm (i : Inst) (e : Nat) (st : EvSt) : Inst :=
  let v := Store.get {} i.ev e
  if v.perm = .faulted then i else { i with ev := Store.set {} i.ev e { v with perm := st } }

def Inst.event (i : Inst) (e : Nat) : EventEntry := i.image.events.getD e { kind := 0 }
/-- Required participants (R225). -/
def EventEntry.required (v : EventEntry) : List Participant := v.parts.filter (fun p => !p.obs)
/-- The list entry of a node (R209). -/
def EventEntry.nodePart (v : EventEntry) (o : Nat) : Option Participant :=
  v.parts.find? (fun p => decide (p.pkind = 0) && decide (p.id = o))

/-- The croft site of an engine participant (R209), in a copy of the domain. -/
def Inst.engineSite (i : Inst) (p : Participant) (second : Bool := false) : Nat :=
  (if second then i.twin else i.sites).getD p.id 0
/-- The bin that homes the resolution state of an event, as a physical bin number 4 × site + i (R244). -/
def Inst.eventBin (i : Inst) (e : Nat) : Nat :=
  let b := e % (4 * i.crofts)
  4 * i.sites.getD (b / 4) 0 + b % 4
def State.engine (s : State) (site eng : Nat) : Engine := Tab.getD (s.croft site).eng eng {}
def State.setEngine (s : State) (site eng : Nat) (e : Engine) : State :=
  s.setCroft site { s.croft site with eng := Tab.set (s.croft site).eng eng e }
def State.slot (s : State) (n : Nat) : HostSlot := Tab.getD s.host n {}
def State.setSlot (s : State) (n : Nat) (h : HostSlot) : State := { s with host := Tab.set s.host n h }
def State.port (s : State) (n : Nat) : Port := Tab.getD s.ports n {}
def State.setPort (s : State) (n : Nat) (p : Port) : State := { s with ports := Tab.set s.ports n p }

/-! ### Offers that stand -/

/-- In twin mode an offer waits until its like of the other copy is there (R360). -/
def Inst.offerPending (i : Inst) (o : Nat) : Bool :=
  match i.image.nodes[o]? with
  | none => false
  | some e => i.twinq.any (fun t => match t.msg with
    | .offer l sl _ => decide (l = e.lcell) && decide (sl = e.slot)
    | _ => false)

/-- The events of the offer that a node has made in this instant. -/
def State.madeBy (s : State) (i : Inst) (o : Nat) : Option (List Nat) :=
  if i.offerPending o then none
  else match s.ord i o with
    | none => none
    | some n => n.made

/-- An offer of a node that is unresolved. -/
def State.openOffer (s : State) (i : Inst) (o : Nat) : Option Offer :=
  if i.offerPending o then none
  else match s.ord i o with
    | none => none
    | some n => if n.settled.isNone then n.offer else none

/-- An unresolved offer of a node names event `e`. -/
def State.standsAt (s : State) (i : Inst) (e o : Nat) : Bool :=
  match s.openOffer i o with
  | none => false
  | some f => f.entries.any (fun x => decide (x.ev = e))

/-- The firmware's side of the events of the host-port slots (R321), where no reeve node offers them itself and R229 has made none of
them absent: it takes a request when it holds none of that slot, and offers an answer or a completion record while it holds one (log
entry 11). -/
def State.firmwareReady (s : State) (e : Nat) : Bool :=
  let h := s.slot (e / 3)
  if e % 3 = 0 then h.request.isNone else if e % 3 = 1 then !h.answers.isEmpty else !h.completions.isEmpty

/-- An event of the reeve domain that carries the host's requests, answers and completion records. -/
def Inst.hostEvent (i : Inst) (e : Nat) : Bool := i.reeve && decide (e < 192)

/-- A node participant's side of an event is its own: not the firmware's as a whole (R321, log entry 11). -/
def State.nodeSide (s : State) (i : Inst) (e o : Nat) : Bool := !i.hostEvent e || s.standsAt i e o

/-- The offer of a link engine for an event (R333, R336). -/
def State.portOffers (s : State) (k : Nat) (v : EventEntry) (e : Nat) (p : Participant) : Bool :=
  let q := s.port p.id
  q.up && decide (q.bound = some k) &&
    (if p.role = 2 then decide (Store.get 0 q.begun e + wireLen q.cls v.kind v.etype v.len ≤ Store.get 0 q.grant e)
     else q.inbox.any (fun m => decide (m.chan = e)))

/-- A required participant has offered event `e` of instance `k` in this instant, alone when `single`. -/
def State.offers (s : State) (k : Nat) (i : Inst) (e : Nat) (single : Bool) (p : Participant) : Bool :=
  match p.pkind with
  | 0 =>
    if !s.nodeSide i e p.id then s.firmwareReady e
    else match s.madeBy i p.id with
      | none => false
      | some l => if single then decide (l = [e]) else l.contains e
  | 4 => s.portOffers k (i.event e) e p
  | 5 => decide ((s.slot p.id).offered = some e)
  | n =>
    let stands : Bool → Bool := fun second => (s.engine (i.engineSite p second) (n - 1)).standing.any (fun x => decide (x.ev = e))
    stands false && (i.twin.isEmpty || stands true)

/-- The required participants that have not offered. -/
def State.missing (s : State) (k : Nat) (i : Inst) (e : Nat) : List Participant :=
  (i.event e).required.filter (fun p => !s.offers k i e false p)

/-- Some participant is missing, and each one that is is asynchronous. -/
def State.missesAsync (s : State) (k : Nat) (i : Inst) (e : Nat) : Bool :=
  let m := s.missing k i e
  !m.isEmpty && m.all (fun p => decide (p.pkind ≠ 0))

/-! ### Bytes at their homes -/

/-- Bytes with the mark of those that come from poisoned storage. -/
abbrev Marked := List (Byte × Bool)

def Marked.bytes (m : Marked) : List Byte := m.map (·.1)
def Marked.bad (m : Marked) : Bool := m.any (·.2)

/-- `n` bytes at a place. -/
def State.readKey (s : State) (key n : Nat) : Marked :=
  (List.range n).map (fun j => (Memory.get s.mem (key + j), s.poison.contains ((key + j) / 8)))

/-- Bytes written at a place: whole doublewords become clean, and those that a marked byte reaches poisoned (R141, R226); the storage is
met (R350). -/
def State.writeKey (s : State) (key : Nat) (m : Marked) : State :=
  let s := s.meetWrite key m.length
  let bad := ((List.range m.length).filter (fun j => (m.getD j (0, false)).2)).map (fun j => (key + j) / 8)
  { s with mem := Memory.setBytes s.mem key m.bytes, poison := bad.foldl setInsert (cleanAt s.poison key m.length) }

/-! ### Choice records -/

/-- Header bytes 4 to 15 of the choice record of a resolved offer, in every copy (R164, R168). -/
def State.writeRecord (s : State) (i : Inst) (o : Nat) (rec_ index st dlen : Nat) (taint : Bool) : State :=
  (i.named o).foldl (fun s q =>
    if s.reaches q then
      s.writeKey (keyLocal q.1.1 (rec_ + 4))
        ((leBytes 4 (index + st * 256 + (if taint then 65536 else 0)) ++ leBytes 4 dlen ++ leBytes 4 i.instant).map (fun b => (b, false)))
    else s) s

/-- An offer resolves without an event that commits: faulted on an entry, or absent (R168, R169). -/
def State.settle (s : State) (i : Inst) (o : Nat) (f : Offer) (index st : Nat) (on : Option Nat) : State :=
  (s.writeRecord i o f.recAddr index st 0 false).onNamed i o (fun _ _ n =>
    { n with settled := some on, delay := 0,
             resolved := some (BitVec.ofNat 32 (if st = 1 then index else if st = 3 then 256 + index else 255)) })

/-! ### Early absence, faults and what they resolve (R229, R169) -/

/-- Node ordinal `o`, required for `e`, makes it absent in this instant. -/
def State.makesAbsent (s : State) (i : Inst) (e o : Nat) : Bool :=
  match s.ord i o with
  | none => false
  | some n =>
    (match s.madeBy i o with
     | some l => !l.contains e || (match n.settled with
        | some (some e') => decide (e' ≠ e)
        | _ => false)
     | none => decide (n.stt = .paused ∨ n.stt = .sleeping ∨ n.stt = .retired))

/-- A participant that faults an event: a node of a sealed cell, an engine whose role cell is sealed, a port that is down
(R229, R334, log entry 29). The firmware's ports come up after the reeve domain, and are bound to it then (log entry 44): until then they
are no fault. -/
def State.makesFaulted (s : State) (k : Nat) (i : Inst) (p : Participant) : Bool :=
  match p.pkind with
  | 0 => match s.ord i p.id with
    | none => false
    | some n => decide (n.stt = .sealed)
  | 4 => if i.reeve then !(s.port p.id).up && decide ((s.port p.id).bound = some k)
    else !(s.port p.id).up || decide ((s.port p.id).bound ≠ some k)
  | 5 => false
  | n => (s.cell (4 * i.engineSite p + (n - 1))).isSealed

/-- A required participant is a RETIRED node: the event is absent from then on, whatever the node had offered (R173, R224). -/
def State.gone (s : State) (i : Inst) (p : Participant) : Bool :=
  decide (p.pkind = 0) && (match s.ord i p.id with
    | none => false
    | some n => decide (n.stt = .retired))

/-- Statuses that R229 and R224 give event `e` now. -/
def State.refreshEvent (s : State) (k : Nat) (i : Inst) (e : Nat) : Inst :=
  let req := (i.event e).required
  if req.any (s.makesFaulted k i) then (i.mark e .faulted).markPerm e .faulted
  else if req.any (s.gone i) then (i.mark e .absent).markPerm e .absent
  else if req.any (fun p => decide (p.pkind = 0) && s.makesAbsent i e p.id) then i.mark e .absent
  else i

/-- The first entry of an offer that has a property. -/
def Offer.index (f : Offer) (q : Nat → Bool) : Option Nat := f.entries.findIdx? (fun x => q x.ev)

/-- The offer of a node resolves, if R169 says so. -/
def State.resolveOffer (s : State) (i : Inst) (o : Nat) : State :=
  match s.openOffer i o with
  | none => s
  | some f =>
    match f.index (fun e => decide (i.status e = .faulted)) with
    | some x => s.settle i o f x 3 none
    | none =>
      if f.entries.all (fun x => if f.persist then decide (i.permanent x.ev = .absent) else decide (i.status x.ev = .absent))
      then s.settle i o f 255 2 none
      else s

/-- The stagger delay of a cell for a step (R234, R276). -/
def stagger (lcell step : Nat) : Nat := lcell / 4 * step
def Inst.stepOf (i : Inst) (v : EventEntry) : Nat := if v.estep = 255 then i.image.step else v.estep

/-- The wait of a node resolves once the status is known (R171). -/
def State.resolveWait (s : State) (i : Inst) (x : (Nat × Nat) × Option (BitVec 16)) : State :=
  let q := x.1
  match s.node? q.1 q.2 with
  | none => s
  | some n =>
    match n.stt, n.wait, n.resolved with
    | .waiting, some w, none =>
      if i.status w.ev = .unknown then s
      else if !s.reaches x then s.stale x
      else s.setNode q.1 q.2 { n with
        resolved := some (BitVec.ofNat 32 (i.status w.ev).code),
        delay := if i.status w.ev = .present
          then (s.cell q.1).cyc + stagger (s.cell q.1).lcell (i.stepOf (i.event w.ev)) else 0 }
    | _, _, _ => s

/-- A host-port slot whose event is faulted (R320, log entry 47). -/
def State.faultSlot (s : State) (i : Inst) (n : Nat) : State :=
  let h := s.slot n
  { s.setSlot n { h with offered := none, fault := true, inst := BitVec.ofNat 32 i.instant } with
    pkg := { s.pkg with msix := s.pkg.msix ++ (if h.ien then [n] else []) } }

/-- Offers of asynchronous participants on a faulted event resolve faulted (R273, R320). -/
def State.dropFaulted (s : State) (i : Inst) (e : Nat) : State :=
  if i.permanent e ≠ .faulted then s
  else (i.event e).required.foldl (fun s p =>
    match p.pkind with
    | 0 => s
    | 4 => s
    | 5 => if (s.slot p.id).offered = some e then s.faultSlot i p.id else s
    | n =>
      ([false] ++ (if i.twin.isEmpty then [] else [true])).foldl (fun s second =>
        let g := s.engine (i.engineSite p second) (n - 1)
        s.setEngine (i.engineSite p second) (n - 1) { g with standing := g.standing.filter (fun x => decide (x.ev ≠ e)) }) s) s

/-- R229 and R169 applied to the whole instance: statuses, then offers and waits that they resolve. A persisting offer on an event that
a seal or a failing port faults while k + 1 waits to begin resolves at once (log entry 106). -/
def State.refresh (s : State) (k : Nat) : State :=
  match s.inst? k with
  | none => s
  | some i =>
    let i := i.evs.foldl (fun i e => s.refreshEvent k i e) i
    let s := s.setInst k i
    let s := i.evs.foldl (fun s e => s.dropFaulted i e) s
    let s := i.ords.foldl (fun s o => s.resolveOffer i o) s
    (i.ords.flatMap i.named).foldl (fun s q => s.resolveWait i q) s

/-! ### Data that an occurrence moves (R226, R227, R234) -/

/-- The place of a byte of the granary window now. -/
def Inst.hidden (i : Inst) (e o : Nat) : Nat :=
  match (i.image.shadow.filter (fun q => decide (q.event = e))).find? (fun q => decide (q.voff ≤ o ∧ o < q.voff + q.len)) with
  | none => o
  | some q => q.hoff + (o - q.voff)

/-- The byte at address `a` as its home gives it to cell `p`: poison where a check fails, at another cell that is sealed, and where no
memory is (R141, R179, R327, R354). -/
def State.readAddr (s : State) (p a : Nat) : Byte × Bool :=
  match checkAccess s p (BitVec.ofNat 64 a) { size := 1, rd := true } with
  | .error _ => (0, true)
  | .ok pl =>
    if (pl.away && s.sealedHome pl.home) || s.absentAt pl.key then (0, true)
    else
      let k := s.keyNow pl.key pl.win
      (Memory.get s.mem k, s.poison.contains (k / 8))

/-- The lengths in which `n` bytes from `a` are accessed: each part ends at a 64-byte boundary or at the end (R188). -/
def partsGo (a : Nat) : Nat → Nat → List (Nat × Nat)
  | 0, _ => []
  | f + 1, n => if n = 0 then [] else let k := min n (64 - a % 64); (a, k) :: partsGo (a + k) f (n - k)
def parts (a n : Nat) : List (Nat × Nat) := partsGo a (n / 64 + 2) n

/-- An access of an engine: its address, length and kind; `alu` marks a combination at a bin, element by element of `unit` bytes
(R277). -/
structure Touch where
  addr : Nat
  n : Nat
  wr : Bool := false
  alu : Bool := false
  unit : Nat := 64

/-- The requests of an access. -/
def Touch.split (x : Touch) : List Touch :=
  if x.alu then (List.range (x.n / max 1 x.unit)).map (fun j => { x with addr := x.addr + j * x.unit, n := x.unit })
  else (parts x.addr x.n).map (fun y => { x with addr := y.1, n := y.2 })

/-- An access meets its storage (R350), or becomes requests at the host bridge (R325), part by part; with `own` only what does not
leave the cell. -/
def State.meetParts (s : State) (p : Nat) (x : Touch) (own : Bool := false) : State :=
  (parts x.addr x.n).foldl (fun s y => match checkAccess s p (BitVec.ofNat 64 y.1) { size := 1, rd := true } with
    | .error _ => s
    | .ok pl =>
      let key := s.keyNow pl.key pl.win
      if own && pl.away then s
      else if pl.home = .bridge then
        s.cacheReq (if !x.wr then .rdCurr else if y.2 = 64 then .itoMWr else .wrCur) key y.2
      else if x.wr && !x.alu && decide (8 ≤ y.2) then s.renew key y.2
      else s.inspect key y.2) s

/-- The tier-2 memory that is absent at some address of a contribution is reported, once (R327). -/
def State.reportAbsentRange (s : State) (p a n : Nat) : State :=
  let k : Acc := { size := 1, rd := true }
  match (List.range n).find? (fun j => match checkAccess s p (BitVec.ofNat 64 (a + j)) k with
      | .error _ => false
      | .ok pl => s.absentAt (s.keyNow pl.key pl.win)) with
  | none => s
  | some j => s.reportCell p .translationWalkError k.detail (BitVec.ofNat 64 (a + j))

/-- The oldest standing offer of an engine for an event, in a copy of the domain (R273). -/
def State.standingOf (s : State) (i : Inst) (e : Nat) (p : Participant) (second : Bool) : Option Standing :=
  (s.engine (i.engineSite p second) (p.pkind - 1)).standing.find? (fun x => decide (x.ev = e))

/-- The contribution of a participant (R227, R234 step 1, R274, R320, R336), in a copy of the domain. -/
def State.contribution (s : State) (i : Inst) (e : Nat) (p : Participant) (second : Bool := false) : Marked :=
  let v := i.event e
  match p.pkind with
  | 0 =>
    if !s.nodeSide i e p.id then
      let h := s.slot (e / 3)
      (slice ((if e % 3 = 1 then h.answers.head? else h.completions.head?).getD []) 0 v.len).map (fun b => (b, false))
    else match (i.copies p.id)[if second then 1 else 0]?, s.openOffer i p.id with
      | some (c, _), some f =>
        let cbuf := ((f.entries.find? (fun x => decide (x.ev = e))).map (·.cbuf)).getD 0
        if v.gran then (List.range v.len).map (fun j =>
            let k := i.windowKey (cbuf + j)
            (Memory.get s.mem k, s.poison.contains (k / 8)))
        else s.readKey (keyLocal c cbuf) v.len
      | _, _ => []
  | 4 =>
    let q := s.port p.id
    match q.inbox.find? (fun m => decide (m.chan = e)) with
    | none => []
    | some m =>
      (if compresses q.cls v.kind v.etype then decompress q.cls v.etype v.len m.bytes else slice m.bytes 0 v.len).map
        (fun b => (b, false))
  | 5 => (List.range v.len).map (fun j => (Store.get 0 (s.slot p.id).window j, false))
  | n =>
    match s.standingOf i e p second with
    | none => []
    | some x => (List.range v.len).map (fun j =>
        if x.publish then
          let k := i.windowKey (i.hidden e (x.addr.toNat % 2 ^ 60 + j))
          (Memory.get s.mem k, s.poison.contains (k / 8))
        else s.readAddr (4 * i.engineSite p second + (n - 1)) (x.addr.toNat + j))

/-- Tier-2 memory that is absent under the contribution of an engine is reported (R327). -/
def State.reportContribution (s : State) (i : Inst) (e : Nat) (p : Participant) : State :=
  if p.pkind = 1 ∨ p.pkind = 2 ∨ p.pkind = 3 then
    match s.standingOf i e p false with
    | none => s
    | some x =>
      if x.publish then s else s.reportAbsentRange (4 * i.engineSite p + (p.pkind - 1)) x.addr.toNat (i.event e).len
  else s

/-- Bytes of the granary window are met. -/
def State.meetWindow (s : State) (f : Nat → Nat) (n : Nat) : State :=
  if s.flaws.isEmpty then s else (List.range n).foldl (fun s j => s.inspect (f j) 1) s

/-- The storage from which a participant contributes is read, in each copy of the domain, and a host page by requests at the bridge
(R325, R350). -/
def State.meetContribution (s : State) (i : Inst) (e : Nat) (p : Participant) : State :=
  let v := i.event e
  let seconds : List Bool := if i.twin.isEmpty then [false] else [false, true]
  match p.pkind with
  | 0 =>
    if !s.nodeSide i e p.id then s
    else match s.openOffer i p.id with
      | none => s
      | some f =>
        let cbuf := ((f.entries.find? (fun x => decide (x.ev = e))).map (·.cbuf)).getD 0
        if v.gran then s.meetWindow (fun j => i.windowKey (cbuf + j)) v.len
        else (i.copies p.id).foldl (fun s c => s.inspect (keyLocal c.1 cbuf) v.len) s
  | 4 => s
  | 5 => s
  | n => seconds.foldl (fun s second => match s.standingOf i e p second with
    | none => s
    | some x =>
      if x.publish then (if second then s else s.meetWindow (fun j => i.windowKey (i.hidden e (x.addr.toNat % 2 ^ 60 + j))) v.len)
      else s.meetParts (4 * i.engineSite p second + (n - 1)) { addr := x.addr.toNat, n := v.len } second) s

/-- The bridge holds the line under an address of cell `p` for an atomic that it has not written yet (R150). -/
def State.lineWaits (s : State) (p a : Nat) : Bool :=
  match checkAccess s p (BitVec.ofNat 64 a) { size := 1, rd := true } with
  | .error _ => false
  | .ok pl => s.lineBusy pl.key

/-- The participants that contribute to an event, in participant index order. -/
def EventEntry.givers (v : EventEntry) : List Participant := v.required.filter (fun p => decide (p.role = 1 ∨ p.role = 3))

/-- A contribution to event `e` lies in a line that the bridge holds for an atomic: the commit, which reads it, waits (R150). -/
def State.contributionWaits (s : State) (i : Inst) (e : Nat) : Bool :=
  (i.event e).givers.any (fun p => decide (p.pkind = 1 ∨ p.pkind = 2 ∨ p.pkind = 3) &&
    (if i.twin.isEmpty then [false] else [false, true]).any (fun second => match s.standingOf i e p second with
      | none => false
      | some x => !x.publish &&
        (parts x.addr.toNat (i.event e).len).any (fun y => s.lineWaits (4 * i.engineSite p second + (p.pkind - 1)) y.1)))
/-- In twin mode, the logical cell of the first contributor whose two copies do not contribute alike (R261, R360). -/
def State.twinDiffers (s : State) (i : Inst) (e : Nat) : Option Nat :=
  if i.twin.isEmpty then none
  else ((i.event e).givers.find? (fun p => decide (p.pkind ≤ 3) &&
      decide (s.contribution i e p false ≠ s.contribution i e p true))).map (fun p =>
    if p.pkind = 0 then ((i.image.nodes[p.id]?).map (·.lcell)).getD 0 else 4 * p.id + (p.pkind - 1))

/-- The stations that count the operand bytes of a combination, one for each contribution: the croft of a node or an engine,
and for a port or a host the croft that homes the event (R244, R277, log entry 82). -/
def Inst.combineSites (i : Inst) (e : Nat) : List Nat :=
  if (i.event e).kind ≠ 2 ∨ i.reeve then []
  else (i.event e).givers.map (fun p =>
    if p.pkind = 0 then ((i.place p.id).map (fun q => siteOf q.1)).getD 0
    else if p.pkind ≤ 3 then i.engineSite p
    else i.eventBin e / 4)
/-- The stations admit the contributions one by one while the granary-ALU budget of each is open: the state, and how many (R277,
log entry 113). -/
def State.admitSites (i : Inst) (n : Nat) : List Nat → State → State × Nat
  | [], s => (s, 0)
  | site :: t, s =>
    if s.budgetOpen site 4 i then let r := State.admitSites i n t (s.spend site 4 n); (r.1, r.2 + 1) else (s, 0)
/-- The contributions to event `e` that the stations have not yet admitted. -/
def Inst.combineLeft (i : Inst) (e : Nat) : List Nat := (i.combineSites e).drop (Store.get 0 i.paid e)
/-- The stations admit what they can of the contributions to event `e` of instance `k`. -/
def State.admitCombine (s : State) (k e : Nat) : State :=
  match s.inst? k with
  | none => s
  | some i =>
    let r := State.admitSites i (i.event e).len (i.combineLeft e) s
    if r.2 = 0 then s else r.1.onInst k (fun i => { i with paid := Store.set 0 i.paid e (Store.get 0 i.paid e + r.2) })
/-- Every contribution to the event is admitted. -/
def State.combinePaid (s : State) (k e : Nat) : Bool := ((s.inst? k).map (fun i => (i.combineLeft e).isEmpty)).getD true
/-- Event `e` of instance `k` may commit now: every contribution is admitted at its station (R277) and none waits for an atomic of
the bridge (R150). -/
def State.commits (s : State) (k e : Nat) : Bool := s.combinePaid k e && !s.contributionWaits (s.instD k) e
/-- The next contribution waits for its station's budget. -/
def State.combineShut (s : State) (i : Inst) (e : Nat) : Bool :=
  match i.combineLeft e with
  | [] => false
  | site :: _ => !s.budgetOpen site 4 i

/-- What the receivers get (R226). -/
def State.result (s : State) (i : Inst) (e : Nat) : Marked :=
  let v := i.event e
  let cs := v.givers.map (s.contribution i e)
  if v.kind = 1 then cs.headD []
  else if v.kind = 2 then
    let bad := match cs with
      | [] => []
      | c :: t => t.foldl (fun a b => List.zipWith (· || ·) a (b.map (·.2))) (c.map (·.2))
    List.zip (combineAll v.etype v.eop (cs.map Marked.bytes)) bad
  else if v.kind = 3 then cs.flatten
  else []

/-- Granary results go to the hidden halves of the event's pairs, each filled before the next; then the pairs flip (R227,
R235). -/
def State.writeShadow (s : State) (k : Nat) (i : Inst) (v : EventEntry) (m : Marked) : State :=
  let pairs := (List.range v.shcount).map (· + v.shfirst)
  let s := (pairs.foldl (fun (acc : State × Nat) j => match i.image.shadow[j]? with
    | none => acc
    | some q => ((List.range (min q.len (m.length - acc.2))).foldl (fun s t =>
        s.writeKey (i.windowKey (q.hoff + t)) [m.getD (acc.2 + t) (0, false)]) acc.1, acc.2 + q.len)) (s, 0)).1
  s.onInst k (fun i => { i with flipped := pairs.foldl (fun f j => if f.contains j then setErase f j else setInsert f j) i.flipped })

/-- A whole doubleword written byte by byte is clean, and no error is left in it: the pairs' poison is made afresh (R141, R227, R350). -/
def State.cleanShadow (s : State) (i : Inst) (v : EventEntry) (len : Nat) : State :=
  let pairs := (List.range v.shcount).map (· + v.shfirst)
  (pairs.foldl (fun (acc : State × Nat) j => match i.image.shadow[j]? with
    | none => acc
    | some q => ((List.range (min q.len (len - acc.2) / 8)).foldl (fun s t =>
        let k := i.windowKey (q.hoff + 8 * t)
        { s.renew k 8 with poison := setErase s.poison (k / 8) }) acc.1, acc.2 + q.len)) (s, 0)).1

/-- The die whose reeves hear of port `n` (log entry 86). -/
def portDie (n : Nat) : Nat := n / 3

/-- A message of event `e` enters the staging of port `n`, compressed where the class says so: the channel's residual is kept, and an
overflow reported for each block of which the maximum is infinite or NaN (R333, R336, R338 to R340, log entry 65). -/
def State.sendMessage (s : State) (i : Inst) (e : Nat) (bytes : List Byte) (n : Nat) : State :=
  let q := s.port n
  let v := i.event e
  let q := { q with begun := Store.set 0 q.begun e (Store.get 0 q.begun e + wireLen q.cls v.kind v.etype v.len) }
  if compresses q.cls v.kind v.etype then
    let r := compress q.cls v.etype bytes ((Tab.getD q.residual e []).map (·.toNat))
    let s := s.setPort n { q with
      outbox := q.outbox ++ [{ chan := e, bytes := r.1 }], residual := Tab.set q.residual e (r.2.1.map (BitVec.ofNat 32 ·)) }
    (List.range r.2.2).foldl (fun s _ =>
      (s.reportTo (portDie n) { cause := .compressOverflow, tcause := tcauseWord .compressOverflow (BitVec.ofNat 16 e),
                                group := some i.group }).noteCause (some i.launch) .compressOverflow (some i.group)) s
  else s.setPort n { q with outbox := q.outbox ++ [{ chan := e, bytes := bytes }] }

/-- A receiver gets the result (R234 step 3): an inline buffer, a link engine's staging, a host window, the firmware. -/
def State.deliver (s : State) (i : Inst) (e : Nat) (m : Marked) (p : Participant) : State :=
  let v := i.event e
  match p.pkind with
  | 0 =>
    if !s.nodeSide i e p.id then s.setSlot (e / 3) { s.slot (e / 3) with request := some m.bytes }
    else if v.gran then s
    else match s.openOffer i p.id with
      | none => s
      | some f =>
        let rbuf := ((f.entries.find? (fun x => decide (x.ev = e))).map (·.rbuf)).getD 0
        (i.named p.id).foldl (fun s q => if s.reaches q then s.writeKey (keyLocal q.1.1 rbuf) m else s) s
  | 4 => s.sendMessage i e m.bytes p.id
  | 5 =>
    let h := s.slot p.id
    s.setSlot p.id { h with
      window := (List.range m.length).foldl (fun w j => Store.set 0 w j (m.getD j (0, false)).1) h.window,
      dlen := m.length, taint := m.bad }
  | _ => s

/-- The first message of a channel leaves the list. -/
def dropChan (c : Nat) : List LinkMsg → List LinkMsg
  | [] => []
  | m :: t => if m.chan = c then t else m :: dropChan c t
/-- The first standing offer of an event leaves the list. -/
def dropStanding (e : Nat) : List Standing → List Standing
  | [] => []
  | x :: t => if x.ev = e then t else x :: dropStanding e t

/-- The offer of a participant is used up, and the participant goes on (R234 steps 4 and 5, R273, R320, R333). A delivery to
a slot of another generation writes nothing and is reported, whatever that slot's node is about (R240). -/
def State.consume (s : State) (i : Inst) (e dlen : Nat) (taint : Bool) (p : Participant) : State :=
  let v := i.event e
  match p.pkind with
  | 0 =>
    if !s.nodeSide i e p.id then
      let h := s.slot (e / 3)
      s.setSlot (e / 3)
        (if e % 3 = 1 then { h with answers := h.answers.drop 1 }
         else if e % 3 = 2 then { h with completions := h.completions.drop 1 } else h)
    else match s.openOffer i p.id with
      | some f =>
        let x := (f.index (fun a => decide (a = e))).getD 0
        let got : Bool := decide (2 ≤ p.role)
        (s.writeRecord i p.id f.recAddr x 1 (if got then dlen else 0) (got && taint)).onNamed i p.id (fun s q n =>
          { n with
            settled := some (some e), resolved := some (BitVec.ofNat 32 x),
            delay := (s.cell q.1).cyc + stagger (s.cell q.1).lcell (i.stepOf v) })
      | none => (i.named p.id).foldl (fun s q => if s.reaches q then s else s.stale q) s
  | 4 =>
    let q := s.port p.id
    if p.role = 2 then s
    else
      let w := wireLen q.cls v.kind v.etype v.len
      let g := Store.get 0 q.granted e + w
      s.setPort p.id ({ q with inbox := dropChan e q.inbox, granted := Store.set 0 q.granted e g }.allow e g)
  | 5 =>
    let h := s.slot p.id
    { s.setSlot p.id { h with offered := none, done := true, inst := BitVec.ofNat 32 i.instant } with
      pkg := { s.pkg with msix := s.pkg.msix ++ (if h.ien then [p.id] else []) } }
  | n =>
    ([false] ++ (if i.twin.isEmpty then [] else [true])).foldl (fun s second =>
      let g := s.engine (i.engineSite p second) (n - 1)
      s.setEngine (i.engineSite p second) (n - 1) { g with standing := dropStanding e g.standing }) s

/-- The engines of an instance take no further command: what is queued completes unexecuted (R355, R354 step 4). -/
def State.quitEngines (s : State) (i : Inst) : State :=
  (i.sites ++ i.twin).foldl (fun s site => (List.range 3).foldl (fun s e => s.setEngine site e { s.engine site e with dead := true }) s) s

/-- The firmware as a whole takes part in an event of a host-port slot, and no reeve node does. -/
def State.firmwareSide (s : State) (i : Inst) (e : Nat) : Bool :=
  i.hostEvent e && (i.event e).required.all (fun p => decide (p.pkind ≠ 0) || !s.standsAt i e p.id)

/-- An event commits (R234): contributions read and combined, results written and pairs flipped, records written, nodes
resolved. One of a host-port slot in which no node takes part keeps no status in the reeve domain's instant (log
entry 11). The whole release is one step (R254, log entry 129). -/
def State.commit (s : State) (k e : Nat) : State :=
  match s.inst? k with
  | none => s
  | some i =>
    let v := i.event e
    let firm := s.firmwareSide i e
    let s := v.givers.foldl (fun s p => s.meetContribution i e p) s
    let m := s.result i e
    let s := v.givers.foldl (fun s p => s.reportContribution i e p) (s.onInst k (fun i => { i with paid := Store.set 0 i.paid e 0 }))
    let recv := v.required.filter (fun p => decide (p.role = 2 ∨ p.role = 3))
    let s := recv.foldl (fun s p => s.deliver i e m p) s
    let s := if v.gran then ((s.cleanShadow i v m.length).writeShadow k i v m) else s
    let s := v.required.foldl (fun s p => s.consume i e m.length m.bad p) s
    let s := if firm then s else s.onInst k (fun i => i.mark e .present)
    s.refresh k

/-- Event `e` may commit by fast commit (R228). -/
def State.fastReady (s : State) (k e : Nat) : Bool :=
  match s.inst? k with
  | none => false
  | some i =>
    (decide (i.phase = .running) || s.firmwareSide i e) && decide (e < i.image.events.length) && decide (i.status e = .unknown) &&
      !(i.event e).required.isEmpty && (i.event e).required.all (s.offers k i e true)

/-! ### The end and the beginning of an instant (R223, R233) -/

/-- Step 2 of R233, and the delay registers of step 1. An offer that a node made again after the watchdog withdrew it, on an event
already present, and that nothing resolves, goes into k + 1 like a persisting one: the manual says nothing of it (R239, log entry
128). -/
def Node.nextInstant (n : Node) : Node :=
  let n := { n with dComm := n.dWritten.foldl (fun c d => Store.set 0 c d (Store.get 0 n.dPend d)) n.dComm, dWritten := [] }
  let free := { n with made := none, settled := none }
  match n.stt with
  | .paused => if n.pauseN = 0 then { free with stt := .ready, begun := false } else { free with stt := .sleeping, sleep := n.pauseN }
  | .sleeping => if n.sleep ≤ 1 then { free with stt := .ready, begun := false, sleep := 0 } else { free with sleep := n.sleep - 1 }
  | .offering =>
    match n.offer with
    | none => free
    | some f => { n with made := some (f.entries.map (·.ev)), settled := none, begun := false }
  | _ => free

/-- A node whose EVWAIT or OFFER is withdrawn unperformed traps, and its handler runs as READY (R232, R233, R239). -/
def State.withdraw (s : State) (q : Nat × Nat) (t : Trap) (drop : Bool) : State :=
  match s.node? q.1 q.2 with
  | none => s
  | some n =>
    s.takeTrap q.1 q.2 { n with
      stt := .ready, offer := none, wait := none, resolved := none,
      made := if drop then none else n.made, settled := if drop then none else n.settled } t n.firstWord

def causalityTrap (e : Nat) : Trap := { cause := .causalityCycle, detail := BitVec.ofNat 16 e }

/-- The offers of asynchronous participants that stand: event, kind and identifier of the participant. -/
def State.standingAsync (s : State) (k : Nat) (i : Inst) : List (Nat × Nat × Nat) :=
  i.evs.flatMap (fun e => ((i.event e).required.filter (fun p => decide (p.pkind ≠ 0) && s.offers k i e false p)).map
    (fun p => (e, p.pkind, p.id)))

/-- The nodes with a persisting offer that nothing has resolved yet, and their offers. -/
def State.persisting (s : State) (i : Inst) : List (Nat × Offer) :=
  i.ords.filterMap (fun o => match s.ord i o with
    | none => none
    | some n => if n.stt = .offering ∧ n.resolved = none then n.offer.map (fun f => (o, f)) else none)

/-- Instant k + 1 begins, if step 4 of R233 lets it begin now. An instant that waits for an asynchronous participant begins when
one makes an offer; the offers that stood at the end of instant k do not begin it (R286, log entry 83). Where no asynchronous
participant is left to wait for, it waits for a node whose persisting offer is resolved to resume (log entry 106). -/
def State.tryBegin (s : State) (k : Nat) : State :=
  match s.inst? k with
  | none => s
  | some i =>
    let ns := (s.nodesOf i).map (·.2)
    if i.phase ≠ .between || i.stop || i.forcing || ns.all (fun n => decide (n.stt = .retired ∨ n.stt = .sealed)) then s
    else if ns.any (fun n => decide (n.stt = .ready ∨ n.stt = .sleeping)) then
      (s.setInst k { i with phase := .running }).refresh k
    else
      let evs := (s.persisting i).flatMap (fun x => x.2.entries.map (·.ev))
      let asy := evs.flatMap (fun e => ((i.event e).required.filter (fun p => decide (p.pkind ≠ 0))).map (fun p => (e, p)))
      if asy.isEmpty then
        if ns.any (fun n => n.resolved.isSome) then s
        else
          let s := s.setInst k { i with phase := .running }
          let s := (s.persisting i).foldl (fun s x => (i.copies x.1).foldl (fun s q =>
            s.withdraw q (causalityTrap ((x.2.entries.map (·.ev)).headD 0)) true) s) s
          s.refresh k
      else if asy.any (fun x => s.offers k i x.1 false x.2 && !i.stood.contains (x.1, x.2.pkind, x.2.id)) then (s.setInst k { i with phase := .running }).refresh k
      else s

/-- The instant ends (R233). -/
def State.endInstant (s : State) (k : Nat) : State :=
  match s.inst? k with
  | none => s
  | some i =>
    let s := i.ords.foldl (fun s o => s.onOrd i o Node.nextInstant) s
    let s := if i.restart then s.quitEngines i else s
    let ev := i.ev.map (fun x => (x.1, { x.2 with st := x.2.perm }))
    (s.setInst k { i with phase := .between, instant := i.instant + 1, ev := ev.filter (fun x => decide (x.2 ≠ {})),
                          stood := s.standingAsync k i, paid := [] }).tryBegin k

/-! ### Settling (R230, R231) -/

/-- The domain is quiescent. -/
def State.quiescent (s : State) (i : Inst) : Bool :=
  i.twinq.isEmpty && (s.nodesOf i).all (fun x => x.2.resolved.isNone &&
    (match x.2.stt with
     | .paused | .sleeping | .retired | .sealed | .offering | .waiting | .trapped => true
     | _ => false))

/-- Event `e` in a settling round: commit, or loss to an offer that is resolved already. -/
def State.settleEvent (s : State) (k e : Nat) : State :=
  match s.inst? k with
  | none => s
  | some i =>
    if i.status e ≠ .unknown then s
    else if (i.event e).required.any (fun p => decide (p.pkind = 0) && s.nodeSide i e p.id &&
        (match s.ord i p.id with
         | none => true
         | some n => n.settled.isSome)) then (s.setInst k (i.mark e .absent)).refresh k
    else s.commit k e

/-- An unresolved offer with an observer entry on a present event resolves present on it, without data (R230). -/
def State.observe (s : State) (k o : Nat) : State :=
  match s.inst? k with
  | none => s
  | some i =>
    match s.openOffer i o with
    | none => s
    | some f =>
      match f.entries.findIdx? (fun x => decide (i.status x.ev = .present) &&
          (((i.event x.ev).nodePart o).map (·.obs)).getD false) with
      | none => s
      | some x => s.settle i o f x 1 (some ((f.entries.map (·.ev)).getD x 0))

/-- A held offer (R231). -/
def State.heldOffer (s : State) (k : Nat) (i : Inst) (o : Nat) : Bool :=
  match s.openOffer i o with
  | none => false
  | some f =>
    match f.entries with
    | [x] => decide (i.status x.ev = .unknown) && s.missesAsync k i x.ev
    | _ => false

/-- Resolution is stalled (R231, R232). -/
def State.stalled (s : State) (k : Nat) : State :=
  match s.inst? k with
  | none => s
  | some i =>
    if (s.nodesOf i).any (fun x => decide (x.2.stt = .trapped)) || i.ords.any (s.heldOffer k i) then s
    else
      let i' := (i.evs.filter (fun e => !s.firmwareSide i e && decide (i.status e = .unknown) && s.missesAsync k i e)).foldl
        (fun i e => i.mark e .absent) i
      let s' := (s.setInst k i').refresh k
      if (s'.nodesOf i').any (fun x => x.2.resolved.isSome) then s'
      else
        let waiting := (s'.nodesOf i').filter (fun x => decide (x.2.stt = .waiting))
        if waiting.isEmpty then s'.endInstant k
        else waiting.foldl (fun s x => s.withdraw x.1 (causalityTrap ((x.2.wait.map (·.ev)).getD 0)) false) s'

/-- C of R230: the unknown events whose required participants have all offered, in the rotation of the instant. -/
def State.offered (s : State) (k : Nat) (i : Inst) : List Nat :=
  let n := i.image.events.length
  ((List.range n).map (fun j => (i.instant + j) % n)).filter
    (fun e => !s.firmwareSide i e && decide (i.status e = .unknown) && (s.missing k i e).isEmpty)

/-- A settling round at quiescence (R230); a round that changes nothing leaves resolution stalled (R231). -/
def State.settlingRound (s : State) (k : Nat) : State :=
  match s.inst? k with
  | none => s
  | some i =>
    let s1 := (s.offered k i).foldl (fun s e => s.settleEvent k e) s
    let s2 := (i.ords.foldl (fun s o => s.observe k o) s1).refresh k
    if s2 = s then s.stalled k else s2

/-! ### The watchdog (R239) -/

/-- INSTANT_OVERRUN is delivered: to every node that runs or may, and where there is none to every node that waits, holds a held
offer or a persisting one, which counts then as having made no offer in the instant (log entry 28). -/
def State.overrun (s : State) (k : Nat) : State :=
  match s.inst? k with
  | none => s
  | some i =>
    let t : Trap := { cause := .instantOverrun }
    let run := (s.nodesOf i).filter (fun x => decide (x.2.stt = .running ∨ x.2.stt = .ready) || x.2.resolved.isSome)
    if !run.isEmpty then run.foldl (fun s x => s.setNode x.1.1 x.1.2 { x.2 with overrun := true }) s
    else
      let held := i.ords.filter (fun o => ((s.openOffer i o).map (·.persist)).getD false || s.heldOffer k i o)
      let s := ((s.nodesOf i).filter (fun x => decide (x.2.stt = .waiting))).foldl (fun s x => s.withdraw x.1 t true) s
      (held.foldl (fun s o => (i.copies o).foldl (fun s q => s.withdraw q t true) s) s).refresh k

/-! ### Resuming and selecting a node (R14, R168, R171) -/

/-- A resolved offer or wait reaches g[d]: the instruction completes, and the node competes as READY. The stall count of an
OFFER runs from here (R168); that of an EVWAIT ran when the node stopped (R15). -/
def State.resumeNode (s : State) (q : Nat × Nat) : State :=
  match s.node? q.1 q.2 with
  | none => s
  | some n =>
    match n.resolved with
    | none => s
    | some w =>
      let d := (n.offer.map (fun f => (f.d, f.st + n.hints.stall, ([] : List Loc)))).getD
        ((n.wait.map (fun x => (x.d, 0, x.rel))).getD (0, 0, []))
      let n1 := ((n.releaseAll d.2.2).writeReg (.g d.1) (.word w)).advance none
      let n2 := { n1 with
        bkSkip := none, stt := .ready, offer := none, wait := none, resolved := none, begun := true, hints := {},
        issueAt := max (max (s.cell q.1).cyc n.issueAt) n.delay + d.2.1,
        pend := if n.singleStep && n.pend.isEmpty then [{ cause := .singleStep }] else n.pend }
      s.setNode q.1 q.2 n2

/-- The slot that a cell selects: the highest priority present, and within it the first READY slot at or after the
priority's pointer, counting upward modulo 20 (R14). -/
def Cell.choose (c : Cell) : Option Nat :=
  let ready := (c.nodes.filter (fun x => decide (x.2.stt = .ready))).map (fun x => (x.1, x.2.prio))
  match (ready.map (·.2)).max? with
  | none => none
  | some top =>
    let at_ := Store.get 0 c.rr top
    ((List.range 20).map (fun j => (at_ + j) % 20)).find? (fun i => ready.contains (i, top))

/-- The cell selects a node (R14). -/
def State.selectNode (s : State) (p : Nat) : State :=
  let c := s.cell p
  if c.running.isSome || c.isSealed || s.frozen p then s
  else match c.choose with
    | none => s
    | some i =>
      match c.node? i with
      | none => s
      | some n =>
        s.setCell p ({ c with running := some i, rr := Store.set 0 c.rr n.prio ((i + 1) % 20) }.setNode i
          { n with stt := .running, begun := true })

end Sys2Proof.Machine
end

