-- ==== Sys2Proof/Machine/Tensor.lean ====
section
/-! DEFINITION. Tensors as engines read them: TID entries and their validity (R62 to R64), elements of every format and
their conversion (R39 to R41, R52, R53), nested planes (R54, R55), structured sparsity (R60, R61), the scales of SCALEC
(R193), and the pairings of formats (R57, R182, R192). -/

namespace Sys2Proof.Machine

/-! ### TID entries -/

/-- An entry of the TID table (R62). -/
structure Tid where
  fmt : Nat
  planes : Nat
  sparse : Nat
  smode : Nat
  sat : Bool
  mbz : Nat
  rows : Nat
  cols : Nat
  stride : Nat
  base : Nat
  sbase : Nat
  deriving DecidableEq, Repr

def Tid.of (e : BitVec 256) : Tid :=
  let x := e.toNat
  { fmt := bitsN x 0 8, planes := bitsN x 8 4, sparse := bitsN x 12 4, smode := bitsN x 16 2, sat := e.getLsbD 18,
    mbz := bitsN x 19 13, rows := bitsN x 32 32, cols := bitsN x 64 32, stride := bitsN x 96 32, base := bitsN x 128 64,
    sbase := bitsN x 192 64 }

/-- Bits of an element in memory by format code; of one plane for NB; 0 for a code that R62 does not list. -/
def fmtBits (c : Nat) : Nat :=
  match c with
  | 0x01 => 4
  | 0x02 => 6
  | 0x03 => 8
  | 0x04 => 8
  | 0x05 => 16
  | 0x06 => 32
  | 0x10 => 32
  | 0x11 => 16
  | 0x12 => 16
  | 0x13 => 8
  | 0x14 => 8
  | 0x18 => 40
  | 0x20 => 1
  | _ => 0

/-- The floating-point format of a code. -/
def fltOf (c : Nat) : Option Fmt :=
  match c with
  | 0x10 => some fp32
  | 0x11 => some fp16
  | 0x12 => some bf16
  | 0x13 => some f8a
  | 0x14 => some f8b
  | 0x18 => some fa40
  | _ => none

/-- The formats of sparse operands (R60). -/
def sparseFmt (c : Nat) : Bool := [0x12, 0x11, 0x13, 0x14, 0x03, 0x01].contains c
/-- Value slots of a sparse group. -/
def Tid.slots (t : Tid) : Nat := 8 * t.sparse
/-- Bytes of a sparse group. -/
def Tid.groupLen (t : Tid) : Nat := 4 + t.slots * fmtBits t.fmt / 8
/-- The packed length of one row, of one plane for NB (R63). -/
def Tid.rowLen (t : Tid) : Nat := if t.sparse ≠ 0 then t.cols / 32 * t.groupLen else t.cols * fmtBits t.fmt / 8
/-- The alignment of BASE and STRIDE (R63). -/
def Tid.align (t : Tid) : Nat :=
  if t.sparse ≠ 0 then 4 else if t.fmt = 0x18 ∨ fmtBits t.fmt < 8 then 1 else fmtBits t.fmt / 8
/-- The multiple that COLS is of (R63). -/
def colsUnit (c : Nat) : Nat := if c = 0x01 then 2 else if c = 0x02 then 4 else if c = 0x20 then 8 else 1

/-- R63. -/
def Tid.valid (t : Tid) : Bool :=
  decide (fmtBits t.fmt ≠ 0) && decide (t.mbz = 0)
    && decide (1 ≤ t.rows ∧ t.rows ≤ 2 ^ 24) && decide (1 ≤ t.cols ∧ t.cols ≤ 2 ^ 24)
    && (if t.fmt = 0x20 then decide (2 ≤ t.planes ∧ t.planes ≤ 8) else decide (t.planes = 0))
    && decide (t.sparse ≤ 2) && (decide (t.sparse = 0) || (sparseFmt t.fmt && decide (t.cols % 32 = 0)))
    && decide (t.cols % colsUnit t.fmt = 0) && decide (t.rowLen ≤ t.stride)
    && decide (t.base % t.align = 0) && decide (t.stride % t.align = 0)
    && (decide (t.smode = 0) || decide (t.sbase % 4 = 0))

/-- The address of the scale of an element (R64). -/
def Tid.scaleAddr (t : Tid) (r c : Nat) : Nat :=
  t.sbase + 4 * (if t.smode = 1 then r else if t.smode = 2 then c else r * ((t.cols + 127) / 128) + c / 128)

/-! ### Elements -/

/-- Element `c`, `w` bits wide, of the bytes of a row (R39, R40). -/
def elemOf (w : Nat) (l : List Byte) (c : Nat) : Nat := leNat (slice l (w * c / 8) (w / 8 + 2)) / 2 ^ (w * c % 8) % 2 ^ w
/-- The bytes of its row that an element touches: the first, and how many. -/
def spanOf (w c : Nat) : Nat × Nat := (w * c / 8, (w * c + w - 1) / 8 + 1 - w * c / 8)
/-- A row of elements packed. -/
def packRow (w : Nat) (l : List Nat) : List Byte :=
  leBytes ((w * l.length + 7) / 8) (l.foldr (fun x acc => x + 2 ^ w * acc) 0)

/-- The exact value of an element. -/
def elemNum (fmt x : Nat) : Num :=
  match fltOf fmt with
  | some k => unpack k x
  | none => if fmt = 0x04 then ofInt false x 0 else ofInt false (sgn (fmtBits fmt) x) 0

/-- A value rounded once to an element (R46, R47, R49, R52, R192): an integer always saturates, and takes 0 for a NaN. -/
def toElem (fmt mode : Nat) (sat : Bool) (v : Num) : Nat :=
  match fltOf fmt with
  | some k =>
    match v with
    | .nan => k.nan
    | .inf s => if k.inf then k.infinity s else if sat then k.sign s + k.maxFin else k.nan
    | .fin s m e more => (roundFin k mode sat s m e more).1
  | none =>
    let w := fmtBits fmt
    if fmt = 0x04 then unsgn 8 (numToInt mode 0 255 v).1
    else unsgn w (numToInt mode (-(2 ^ (w - 1) : Nat)) ((2 ^ (w - 1) : Nat) - 1) v).1

/-- The exact product of a value and an FP32 scale (R53); a zero product has the sign that the two signs give, an integer 0 counting as
+0 (log entry 96). -/
def scaleNum (v : Num) (sc : Nat) : Num := (mulNum v (unpack fp32 sc)).1

/-! ### Nested planes (R54, R55) -/

/-- The value of a nested element from the first `k` planes of an INT8 pattern. -/
def nested (k q : Nat) : Int :=
  sgn k (q / 2 ^ (8 - k)) * 2 ^ (8 - k) + (if k < 8 then 2 ^ (7 - k) else 0)
/-- Plane `j` of a row of INT8 elements. -/
def planeRow (j : Nat) (l : List Nat) : List Byte := packRow 1 (l.map (fun q => bitsN q (7 - j) 1))

/-! ### Structured sparsity (R60, R61) -/

/-- The order of magnitudes of R61: a NaN above infinity above every number. -/
def magRank (fmt x : Nat) : Nat :=
  match fltOf fmt with
  | some k =>
    match unpack k x with
    | .nan => 2 ^ 32 + 1
    | .inf _ => 2 ^ 32
    | .fin .. => bitsN x 0 (k.e + k.f)
  | none => (sgn (fmtBits fmt) x).natAbs

/-- The indices that a group of 32 keeps: `n` of largest magnitude, the lower index among equals. -/
def keeps (fmt n : Nat) (l : List Nat) : List Nat :=
  let rk := l.map (magRank fmt)
  (List.range 32).filter (fun i =>
    decide (((List.range 32).filter (fun j => decide (rk.getD i 0 < rk.getD j 0)
      || (decide (rk.getD j 0 = rk.getD i 0) && decide (j < i)))).length < n))

/-- A group of 32 elements made sparse: the mask, then the values kept. -/
def sparseGroup (t : Tid) (l : List Nat) : List Byte :=
  let kp := keeps t.fmt t.slots l
  leBytes 4 ((kp.map (fun i => 2 ^ i)).foldl (· + ·) 0) ++ packRow (fmtBits t.fmt) (kp.map (fun i => l.getD i 0))

/-- A row of elements made sparse. -/
def sparseRow (t : Tid) : Nat → List Nat → List Byte
  | 0, _ => []
  | g + 1, l => sparseGroup t (l.take 32) ++ sparseRow t g (l.drop 32)

/-- The set bits of a mask that take a slot: the first `n`, ascending. -/
def maskBits (n mask : Nat) : List Nat := ((List.range 32).filter (fun i => decide (bitsN mask i 1 = 1))).take n

/-! ### Scales that SCALEC computes (R193) -/

/-- Q of the destination format. -/
def scaleQ (fmt : Nat) : Int := if fmt = 0x03 then 127 else if fmt = 0x01 then 7 else if fmt = 0x13 then 448 else 57344

/-- The scale of a group of source elements. -/
def groupScale (src dst rnd : Nat) (l : List Nat) : Nat :=
  match fltOf src with
  | none => 0
  | some k =>
    let m := l.foldl (fun a x => if (unpack k a).isNan || (unpack k x).isNan then k.nan else fpMax k a (fpAbs k x)) 0
    (roundNum fp32 rnd false (divNum (unpack k m) (ofInt false (scaleQ dst) 0)).1).1

/-- An element quantised with a scale. -/
def quantElem (src dst rnd sc x : Nat) : Nat :=
  if bitsN sc 0 31 = 0 then 0 else toElem dst rnd true (divNum (elemNum src x) (unpack fp32 sc)).1

/-! ### Pairings -/

/-- The fault of an MMA's formats and shapes: the bit of g[b] that R182 names, tested in its order. -/
def mmaFault (a b : Tid) : Option Nat :=
  let m := a.rows
  let k := a.cols
  let n := b.cols
  let planes := if a.fmt = 0x20 then 8 else 1
  if !([0x12, 0x11, 0x13, 0x14, 0x03, 0x01, 0x20].contains a.fmt) then some 0
  else if 128 < m ∨ (a.fmt = 0x01 ∧ k % 2 ≠ 0) ∨ (a.fmt = 0x20 ∧ k % 8 ≠ 0) ∨ (a.sparse ≠ 0 ∧ k % 32 ≠ 0)
      ∨ 32768 < planes * m * a.rowLen then some 0
  else if !(if a.fmt = 0x13 ∨ a.fmt = 0x14 then decide (b.fmt = 0x13 ∨ b.fmt = 0x14)
      else if a.fmt = 0x20 then decide (b.fmt = 0x03) else decide (b.fmt = a.fmt)) then some 8
  else if b.rows ≠ k ∨ 128 < n ∨ b.sparse ≠ 0 ∨ 32768 < k * b.rowLen then some 8
  else none

/-- The formats that a drain writes (R57): `itype` reads the tile as INT32. -/
def drainOk (itype : Bool) (t : Tid) : Bool :=
  if itype then [0x06, 0x03, 0x10, 0x11, 0x12].contains t.fmt
  else [0x10, 0x11, 0x12, 0x13, 0x14].contains t.fmt || (decide (t.fmt = 0x18) && decide (t.smode = 0))

/-- A tile element drained (R57): a bit copy where the format is the tile's own and there is no scale. -/
def drainElem (itype : Bool) (t : Tid) (x : Nat) (sc : Option Nat) : Nat :=
  let x := if itype then x % 2 ^ 32 else x % 2 ^ 40
  let own := if itype then 0x06 else 0x18
  match sc with
  | none => if t.fmt = own then x else toElem t.fmt 0 t.sat (elemNum own x)
  | some sc => toElem t.fmt 0 t.sat (scaleNum (elemNum own x) sc)

/-- The four conversion forms. -/
inductive CnvForm where
  | conv | planes | sparsify | scalec
  deriving DecidableEq, Repr

/-- The format pairs of R192. -/
def cnvPair (f : CnvForm) (a b : Tid) : Bool :=
  decide (a.sparse = 0) && decide (a.fmt ≠ 0x20) &&
    (match f with
     | .conv => decide (b.sparse = 0) && decide (b.fmt ≠ 0x20)
     | .planes => decide (a.fmt = 0x03) && decide (b.fmt = 0x20)
     | .sparsify => sparseFmt a.fmt && decide (b.fmt = a.fmt) && decide (b.sparse ≠ 0)
     | .scalec => [0x10, 0x11, 0x12].contains a.fmt && [0x03, 0x01, 0x13, 0x14].contains b.fmt && decide (b.sparse = 0)
        && decide (b.smode ≠ 0))

end Sys2Proof.Machine
end

