-- ==== Sys2Proof/Machine/Croft.lean ====
section
/-! DEFINITION. What a croft keeps for its engines (R263 to R265): claims of operand slots, order slots and their counts,
the queues, the acceptance of a command and its completion (R175, R177, R178, R181). -/

namespace Sys2Proof.Machine

/-! ### Operand slots -/

/-- The first destination byte that a slot designation names (R190). -/
def CpyDesc.slotNo (d : CpyDesc) : Nat := bitsN d.dst.toNat 0 4
def CpyDesc.slotOff (d : CpyDesc) : Nat := bitsN d.dst.toNat 16 15
/-- The crofts, by domain index, that a slot designation selects (R190): none outside a domain of `w` by `h`. -/
def CpyDesc.targets (d : CpyDesc) (w h : Nat) : Option (List Nat) :=
  let x := bitsN d.dst.toNat 8 4
  let y := bitsN d.dst.toNat 12 4
  let sel := if d.mcast = 0 then [(x, y)]
    else ((List.range 32).filter (fun b => d.mcast.getLsbD b)).map (fun b => (x + b % 8, y + b / 8))
  if sel.all (fun c => decide (c.1 < w) && decide (c.2 < h)) then some (sel.map (fun c => c.1 + w * c.2)) else none

/-- A command of the croft at `site` names operand slot `sl` of the croft at `c` (R264). -/
def Cmd.names (i : Inst) (site : Nat) (cmd : Cmd) (c sl : Nat) : Bool :=
  let copies : CpyDesc → Bool := fun d =>
    d.dkind && decide (d.slotNo = sl) &&
      (((d.targets i.image.w i.image.h).getD []).any (fun x => decide (i.sites.getD x 0 = c) || decide (i.twin[x]? = some c)))
  let conv : CnvDesc → Bool := fun d => d.dslot && decide (d.slot = sl) && decide (site = c)
  match cmd.op with
  | .mma a b .. => decide (site = c) && (decide (a = sl) || decide (b = sl))
  | .copy d => copies d
  | .copyg d => copies d
  | .copyop d => copies d
  | .conv d => conv d
  | .planes d => conv d
  | .sparsify d => conv d
  | .scalec d => conv d
  | _ => false

/-- Every croft site of an instance, of both copies. -/
def Inst.allSites (i : Inst) : List Nat := i.sites ++ i.twin

/-- The accepted commands of a croft that are not complete. -/
def Croft.commands (c : Croft) : List Cmd := c.eng.flatMap (fun e => e.2.queue)

/-- Some accepted incomplete command names operand slot `sl` of the croft at `c`. -/
def State.slotNamed (s : State) (i : Inst) (c sl : Nat) : Bool :=
  i.allSites.any (fun site => (s.croft site).commands.any (fun cmd => cmd.names i site c sl))

def Croft.claim (c : Croft) (sl : Nat) : Claim := Store.get .free c.claims sl
def State.setClaim (s : State) (site sl : Nat) (v : Claim) : State :=
  s.setCroft site { s.croft site with claims := Store.set .free (s.croft site).claims sl v }

/-- A slot that its holder gives up: RELEASING while a command names it, else FREE (R264). -/
def State.releaseClaim (s : State) (i : Inst) (site sl : Nat) : State :=
  s.setClaim site sl (if s.slotNamed i site sl then .releasing else .free)

/-- Every slot of the croft that `who` holds is given up (R181, R264). -/
def State.releaseClaims (s : State) (i : Inst) (site : Nat) (who : Word → Bool) : State :=
  (s.croft site).claims.foldl (fun s x => match x.2 with
    | .held nid => if who nid then s.releaseClaim i site x.1 else s
    | _ => s) s

/-- RELEASING slots that no command names any more become FREE (R264). -/
def State.freeClaims (s : State) (i : Inst) : State :=
  i.allSites.foldl (fun s site => (s.croft site).claims.foldl (fun s x => match x.2 with
    | .releasing => if s.slotNamed i site x.1 then s else s.setClaim site x.1 .free
    | _ => s) s) s

/-! ### Order slots (R177, R265) -/

abbrev countKey (slot eng : Nat) : Nat := 3 * slot + eng
/-- An order slot is set: accepted and completed counts are equal for the three engines. -/
def Croft.isSet (c : Croft) (slot : Nat) : Bool :=
  (List.range 3).all (fun e => decide (Store.get 0 c.acc (countKey slot e) = Store.get 0 c.done (countKey slot e)))
/-- The snapshot of the slots of a wait mask. -/
def Croft.snapshot (c : Croft) (wait : BitVec 8) : List Snap :=
  ((List.range 8).filter (fun b => wait.getLsbD b)).flatMap (fun b =>
    (List.range 3).map (fun e => { slot := b, eng := e, count := Store.get 0 c.acc (countKey b e) }))
/-- The WAIT of a command is met. -/
def Cmd.waitMet (m : Cmd) (c : Croft) : Bool := m.snap.all (fun x => decide (x.count ≤ Store.get 0 c.done (countKey x.slot x.eng)))

/-- A gang step. -/
def Cmd.isGang (m : Cmd) : Bool :=
  match m.op with
  | .mma _ _ _ _ _ g => g
  | _ => false

/-- The TID entries that a command names: the one or two that it captures (R65). -/
def Cmd.tids (m : Cmd) : List Nat :=
  match m.op with
  | .mma _ _ _ a b _ => [a, b]
  | .mdrain _ _ n _ => [n]
  | .conv d => [d.stid, d.dtid]
  | .planes d => [d.stid, d.dtid]
  | .sparsify d => [d.stid, d.dtid]
  | .scalec d => [d.stid, d.dtid]
  | _ => []
/-- Entry `j` of those, as the table of the instance holds it. -/
def Cmd.capture (m : Cmd) (i : Inst) (j : Nat) : BitVec 256 :=
  match m.tids[j]? with
  | none => 0
  | some n => Store.get 0 i.tids n

/-- SAT and NROWS of a conversion as the captured entries have them (R65, R191): DTID's SAT joins the descriptor's, and NROWS of 0
stands for the rows from ROW0 on. -/
def CnvDesc.captured (d : CnvDesc) (t1 t2 : BitVec 256) : CnvDesc :=
  { d with sat := d.sat || (Tid.of t2).sat, nrows := if d.nrows = 0 then (Tid.of t1).rows - d.row0 else d.nrows }
/-- A command with its captured entries. -/
def Cmd.captured (m : Cmd) (t1 t2 : BitVec 256) : Cmd :=
  { m with
    tid1 := t1, tid2 := t2,
    op := match m.op with
      | .conv d => .conv (d.captured t1 t2)
      | .planes d => .planes (d.captured t1 t2)
      | .sparsify d => .sparsify (d.captured t1 t2)
      | .scalec d => .scalec (d.captured t1 t2)
      | x => x }

/-- A command enters its engine's queue: its TID entries are captured, its snapshot is taken and its count raised (R65, R175,
R177, R268). -/
def State.accept (s : State) (site eng : Nat) (m : Cmd) : State :=
  let c := s.croft site
  let m := { m.captured (m.capture (s.instD m.inst) 0) (m.capture (s.instD m.inst) 1) with
    snap := c.snapshot m.wait, gang := if m.isGang then some c.gangAcc else none }
  let e := Tab.getD c.eng eng {}
  s.setCroft site { c with
    acc := if m.seten then Store.set 0 c.acc (countKey m.oslot eng) (Store.get 0 c.acc (countKey m.oslot eng) + 1) else c.acc,
    gangAcc := if m.isGang then c.gangAcc + 1 else c.gangAcc,
    eng := Tab.set c.eng eng { e with atIssue := none, queue := e.queue ++ [m] } }

/-- Is the queue of 16 full (R175)? -/
def Engine.full (e : Engine) : Bool := decide (16 ≤ e.queue.length)

/-- The destination whose first byte a standing offer contributes (R274). -/
def Cmd.dest (m : Cmd) : Addr × Bool :=
  let base : BitVec 256 → Addr := fun t => t.extractLsb' 128 64
  match m.op with
  | .mdrain _ _ _ p => (base m.tid1, p)
  | .copy d => (d.dst, d.publish)
  | .copyg d => (d.dst, d.publish)
  | .copyop d => (d.dst, d.publish)
  | .conv d => (base m.tid2, d.publish)
  | .planes d => (base m.tid2, d.publish)
  | .sparsify d => (base m.tid2, d.publish)
  | .scalec d => (base m.tid2, d.publish)
  | _ => (0, false)

/-- The command at the head of an engine completes: its count, its offer, the slots it named (R178, R264, R273). -/
def State.completeCmd (s : State) (site eng : Nat) : State :=
  let c := s.croft site
  let e := Tab.getD c.eng eng {}
  match e.queue with
  | [] => s
  | m :: t =>
    let i := s.instD m.inst
    let offer := match m.event with
      | none => []
      | some ev => if i.permanent ev = .faulted then [] else [{ ev := ev, addr := m.dest.1, publish := m.dest.2 }]
    let s := s.setCroft site { c with
      done := if m.seten then Store.set 0 c.done (countKey m.oslot eng) (Store.get 0 c.done (countKey m.oslot eng) + 1) else c.done,
      eng := Tab.set c.eng eng { e with
        queue := t, begun := false, prog := 0, faulted := false, gangAt := none, heldFor := none,
        noFrame := false, row := none, operands := none, paid := 0,
        standing := e.standing ++ offer } }
    (s.freeClaims i).tryBegin m.inst

end Sys2Proof.Machine
end

