-- ==== Sys2Proof/Machine/Contain.lean ====
section
/-! DEFINITION. Containment (R345 to R366): reports and their rings, seals and what follows them, kills, held nodes, twin
mode, silent parties, and the completion record of a launch (R298). -/

namespace Sys2Proof.Machine

/-! ### Launches and their completion records (R298) -/

def State.launch? (s : State) (l : Nat) : Option Launch := Tab.get? s.launches l
def State.onLaunch (s : State) (l : Nat) (f : Launch → Launch) : State := { s with launches := Tab.modify s.launches l f }

/-- The 64 bytes of a completion record. -/
def Launch.record (x : Launch) (status : Nat) : List Byte :=
  let g := match x.fcause with
    | some (_, some g) => g
    | _ => 2 ^ 64 - 1
  leBytes 8 x.tag.toNat ++ leBytes 8 status ++ leBytes 8 x.gdone ++ leBytes 8 x.count ++ leBytes 8 (x.wear / 1000)
    ++ leBytes 8 ((x.fcause.map (fun c => c.1.code)).getD 0) ++ leBytes 8 g ++ leBytes 8 0

/-- The completion record goes to the firmware's list for the slot (R321). A launch that is over is held no longer; a
drained one stays with its save set. -/
def State.sendCompletion (s : State) (l status : Nat) : State :=
  match s.launch? l with
  | none => s
  | some x =>
    if x.completed then s
    else
      let h := s.slot x.cslot
      let s := s.setSlot x.cslot { h with completions := h.completions ++ [x.record status] }
      if status = 1 ∨ status = 2 then s.onLaunch l (fun x => { x with completed := true, phase := .ended })
      else { s with launches := Tab.erase s.launches l }

/-! ### The end of an instance's occupation -/

/-- A cell is released: its slots pass to IDLE, their generations stay (R12, R13), and the round-robin pointers go back to 0 (log entry
95). -/
def Cell.released (c : Cell) (l : Option Nat) : Cell :=
  { c with
    inst := none, running := none, rr := [], codeTag := l,
    nodes := c.nodes.map (fun x => (x.1, { gen := x.2.gen })) }

/-- The physical cells of an instance, in both copies. -/
def Inst.cells (i : Inst) : List Nat :=
  if i.reeve then (List.range 16).map (· + firstReeve) else i.allSites.flatMap (fun x => (List.range 4).map (fun r => 4 * x + r))

/-- The crofts, window and cells of an instance are released; its ports are bound no longer, and what the peer had granted ends with
the binding, unless a save keeps it (R335, R337). -/
def State.releaseInst (s : State) (k : Nat) (keep : Bool := false) : State :=
  match s.inst? k with
  | none => s
  | some i =>
    let s := i.cells.foldl (fun s p => s.setCell p ((s.cell p).released (some i.launch))) s
    let s := i.allSites.foldl (fun s site =>
      let c := s.croft site
      s.setCroft site { c with eng := [], claims := [], acc := [], done := [], gangAcc := 0, lastTag := some i.launch }) s
    { s with insts := Tab.erase s.insts k,
             ports := s.ports.map (fun x => (x.1, if x.2.bound = some k then { x.2 with bound := none, grant := if keep then x.2.grant else [] } else x.2)) }

/-- The group of an instance is placed again before any group not yet dispatched (R355, R360). -/
def State.placeAgain (s : State) (i : Inst) : State := s.onLaunch i.launch (fun x => { x with again := setInsert x.again i.group })

/-- A kill (R360): every cell and engine of the instance stops at once, packets not yet injected are discarded, and
DOMAIN_KILL is reported (log entry 39). -/
def State.kill (s : State) (k : Nat) : State :=
  match s.inst? k with
  | none => s
  | some i =>
    let mine : Access → Bool := fun a => match a.src with
      | .node p _ _ => i.cells.contains p
      | .engine site _ => i.allSites.contains site
      | .host => false
    let s := { s.releaseInst k with net := s.net.filter (fun a => a.admitted || !mine a) }
    let g := if i.reeve then none else some i.group
    (s.reportTo (dieOf (i.cells.headD 0)) { cause := .domainKill, tcause := tcauseWord .domainKill 0, group := g }).noteCause
      (if i.reeve then none else some i.launch) .domainKill g

/-- A kill after which the group is placed again; under a drain it counts for the launch's completion record (R298). -/
def State.killAgain (s : State) (k : Nat) : State :=
  match s.inst? k with
  | none => s
  | some i =>
    ((s.kill k).placeAgain i).onLaunch i.launch (fun x => { x with killed := x.killed || decide (x.phase ≠ .dispatching) })

/-- A saved instance keeps the binding of port `n` (R337). -/
def Saved.keeps (v : Saved) (n : Nat) : Bool := (Tab.get? v.ports n).isSome

/-- The port bindings that a launch's saved instances kept end with it, and with them what the peers had granted (R333, R337). -/
def State.unkeep (s : State) (x : Launch) : State :=
  { s with ports := s.ports.map (fun q => (q.1, if x.saved.any (fun v => v.keeps q.1) then { q.2 with grant := [] } else q.2)) }

/-- Every instance of a launch is killed and the launch completes with status 3 (R298). -/
def State.failLaunch (s : State) (l : Nat) : State :=
  let s := match s.launch? l with
    | none => s
    | some x => s.unkeep x
  let mine := (s.insts.filter (fun x => !x.2.reeve && decide (x.2.launch = l))).map (·.1)
  ((mine.foldl (fun s k => s.kill k) s).onLaunch l (fun x => { x with failed := true })).sendCompletion l 3

/-! ### Sealing (R353 to R358) -/

/-- Step 1 of R354 on a node. -/
def Node.sealed (n : Node) : Node :=
  { n with stt := .sealed, fixed := [], owed := [], pend := [], hints := {}, offer := none, wait := none, resolved := none,
           heldFor := none, overrun := false }

/-- An entry of the Almanac's history (R373): seconds, cell or site, cause, state before and after. -/
def State.history (s : State) (place : Nat) (c : Cause) (before after : Nat) : State :=
  let e := leBytes 8 (s.pkg.micros / 1000000) ++ leBytes 2 place ++ leBytes 1 c.code ++ leBytes 1 before ++ leBytes 1 after ++ leBytes 3 0
  { s with pkg := { s.pkg with history := (s.pkg.history ++ [e]).drop (s.pkg.history.length + 1 - 8192) } }

/-- An access of a node of cell `p` that its station has admitted and that leaves the cell: a packet (R249). -/
def Access.packetOf (a : Access) (p : Nat) : Bool :=
  a.admitted && (match a.src with
    | .node q _ _ => decide (q = p)
    | _ => false) && a.homes.any (fun h => decide (h ≠ .cell p))

/-- The last packet of the cell is completed with poisoned tail flits (R354 step 2). -/
def markTail (p : Nat) : List Access → List Access
  | [] => []
  | a :: t => if a.packetOf p && !(t.any (·.packetOf p)) then { a with tail := true } :: t else a :: markTail p t

/-- Steps 1 to 5 of R354 on the cell, its engine and its croft. -/
def State.sealSteps (s : State) (p : Nat) (parity : Bool) : State :=
  let c := s.cell p
  let s := s.setCell p { c with
    isSealed := true, regErr := parity, running := none, sealsOn := c.sealsOn + 1,
    wear := { c.wear with seals := min 255 (c.wear.seals + 1) },
    nodes := c.nodes.map (fun x => (x.1, if x.2.stt = .idle then x.2 else x.2.sealed)) }
  let s := { s with net := s.net.filter (fun a => a.admitted || (match a.src with
    | .node q _ _ => decide (q ≠ p)
    | _ => true)) }
  let s := if Config.partlyInjected p c.sealsOn then { s with net := markTail p s.net } else s
  if isReeve p then s
  else
    let site := siteOf p
    let e := s.engine site (roleOf p)
    let s := if roleOf p < 3 then s.setEngine site (roleOf p) { e with atIssue := none, dead := true } else s
    match s.instOf p with
    | none => s
    | some (_, i) => if roleOf p = 2 then s.releaseClaims i site (fun _ => true) else s

/-- What the fault policy and twin mode make of a seal (R355, R356, R303). -/
def State.afterSeal (s : State) (k : Nat) : State :=
  match s.inst? k with
  | none => s
  | some i =>
    if i.reeve then s
    else if !i.twin.isEmpty then s.killAgain k
    else
      match s.launch? i.launch with
      | none => s
      | some x =>
        if x.notify then s.tryBegin k
        else if x.forcelim = 0 ∨ i.forcing ∨ (i.stop ∧ !i.restart ∧ i.phase = .between) then s.killAgain k
        else
          let s := s.setInst k { i with stop := true, restart := true }
          if i.phase = .between then s.quitEngines i else s

/-! ### Nodes in their slots, and reeve nodes that another cell carries (R13, R220, R366) -/

/-- Where a node's region begins: the slots of its cell in ascending order from word 0. -/
def Image.baseOf (i : Image) (e : NodeEntry) : Nat :=
  ((i.nodes.filter (fun m => decide (m.lcell = e.lcell) && decide (m.slot < e.slot))).map (·.stack)).foldl (· + ·) 0

/-- Step 5 of R220 on one node. TVEC does not store bits [1:0] (R30). -/
def Image.node (i : Image) (ordinal : Nat) (e : NodeEntry) (gen : BitVec 16) : Node :=
  { stt := .ready, gen := gen, ordinal := ordinal, prio := e.prio, notv := e.notv, base := i.baseOf e, size := e.stack,
    vec := if e.vec then some {} else none, param := BitVec.ofNat 32 i.param, tvec := BitVec.ofNat 32 e.tvec &&& 0xFFFFFFFC#32,
    wstk := BitVec.ofNat 32 e.wstk, wlim := BitVec.ofNat 32 e.wlim, pc := BitVec.ofNat 32 e.entry }

/-- The generation that a slot of a cell takes next (R13). -/
def State.nextGen (s : State) (p i : Nat) : BitVec 16 := (((s.node? p i).map (·.gen)).getD 0) + 1

/-- The slot above those in use of logical cell `lc`, where the cell has room for a node's region and context. -/
def Image.roomAt (i : Image) (e : NodeEntry) (lc : Nat) : Option Nat :=
  let l := i.nodes.filter (fun m => decide (m.lcell = lc))
  let sl := l.foldl (fun b m => max b (m.slot + 1)) 0
  if sl ≤ 19 ∧ (l.map (·.stack)).foldl (· + ·) e.stack ≤ 1024 ∧ (e.vec = false ∨ (l.filter (·.vec)).length < 4) then some sl else none

/-- The node of an ordinal moves from a sealed reeve cell to another of its die, and starts afresh there (log entry 91). -/
def State.carryNode (s : State) (k p o : Nat) : State :=
  match s.inst? k with
  | none => s
  | some i =>
    match i.image.nodes[o]? with
    | none => s
    | some e =>
      if i.pcell e.lcell ≠ p then s
      else
        let die := (List.range 4).map (· + 4 * (e.lcell / 4))
        match die.findSome? (fun lc => if (s.cell (i.pcell lc)).isSealed then none else (i.image.roomAt e lc).map (fun sl => (lc, sl))) with
        | none => s
        | some (lc, sl) =>
          let e := { e with lcell := lc, slot := sl }
          let g := s.nextGen (i.pcell lc) sl
          let img := { i.image with nodes := i.image.nodes.set o e }
          (s.setInst k { i with image := img, gens := i.gens.set o g }).setNode (i.pcell lc) sl (img.node o e g)

/-- The nodes of a sealed reeve cell are carried by the other three of its die (R366). -/
def State.carry (s : State) (k p : Nat) : State :=
  match s.inst? k with
  | none => s
  | some i => i.ords.foldl (fun s o => s.carryNode k p o) s

/-- A cell is sealed (R354): CELL_SEALED is reported when the steps are done. A sealed cell stays as it is (R201,
log entry 24). -/
def State.sealCell (s : State) (p : Nat) (parity : Bool) : State :=
  if (s.cell p).isSealed then s
  else
    let k := (s.cell p).inst
    let before := (s.cell p).wear.state
    let s := s.sealSteps p parity
    let s := match k with
      | none => s
      | some k => s.refresh k
    let s := (s.reportCell p .cellSealed (BitVec.ofNat 16 p)).history p .cellSealed before before
    match k with
    | none => s
    | some k => if isReeve p then (s.carry k p).tryBegin k else s.afterSeal k

/-- A cell is unsealed when no instance occupies its croft (R358); REGERR goes on to say what the last seal followed (R349). -/
def State.unsealCell (s : State) (p : Nat) : State :=
  let c := s.cell p
  if c.inst.isSome || (List.range 4).any (fun r => (s.cell (4 * siteOf p + r)).inst.isSome) then s
  else
    let s := s.setCell p { c with isSealed := false }
    if roleOf p < 3 then s.setEngine (siteOf p) (roleOf p) { s.engine (siteOf p) (roleOf p) with dead := false } else s

/-- REGISTER_PARITY_ERROR: R352. -/
def execRegisterParityError (s : State) : Host.Outcome State Fault Refusal := .next (s.sealCell s.par.pcell true)

/-- SEAL_FORCELIM_EXPIRY: R355, an instant not ended FORCELIM after a seal. -/
def execSealForcelimExpiry (s : State) : Host.Outcome State Fault Refusal :=
  .next (match s.inst? s.par.inst with
    | none => s
    | some i => if i.restart && decide (i.phase = .running) then s.killAgain s.par.inst else s)

/-! ### Corrected errors and the patrol scrub (R350, R352) -/

def correctN (p : Nat) : Nat → State → State
  | 0, s => s
  | n + 1, s => correctN p n (s.corrected p)

/-- The scrub reads every word of the cell's storage that holds an error (R350). -/
def State.scrub (s : State) (p : Nat) : State :=
  (s.flaws.filter (fun x => decide (ownerOf (8 * x.1) = some p))).foldl (fun s x => s.meetFlaw x.1) s

/-- PATROL_SCRUB: R350, the words of the cell's storage that hold errors are met, and `n` more are corrected. -/
def execPatrolScrub (s : State) : Host.Outcome State Fault Refusal := .next (correctN s.par.pcell s.par.n (s.scrub s.par.pcell))

/-! ### Reports (R347, R349) -/

/-- The 32 bytes of a report. -/
def Report.bytes (r : Report) : List Byte :=
  leBytes 1 r.cause.code ++ leBytes 1 ((if r.held then 1 else 0) + (if r.twin then 2 else 0)) ++ leBytes 2 r.pcell
    ++ leBytes 4 r.nid.toNat ++ leBytes 4 r.tcause.toNat ++ leBytes 4 r.tip.toNat ++ leBytes 8 r.taddr.toNat
    ++ leBytes 8 (r.group.getD (2 ^ 64 - 1))

def State.ring (s : State) (die : Nat) : Ring := Tab.getD s.pkg.rings die {}
def State.setRing (s : State) (die : Nat) (g : Ring) : State :=
  { s with pkg := { s.pkg with rings := Tab.set s.pkg.rings die g } }

/-- The ring is full (R349). -/
def Ring.full (g : Ring) : Bool := decide ((g.head + 65536 - g.tail) % 65536 = 256)

/-- The first report that no held node waits with leaves the list. -/
def dropReport : List Report → Option (Report × List Report)
  | [] => none
  | r :: t => if r.held then (dropReport t).map (fun x => (x.1, r :: x.2)) else some (r, t)

/-- The default policy's own action on a report that reaches the firmware: the second CORRECTED_THRESHOLD of a cell between
two Almanac commits seals it (R352, R353, log entry 73). -/
def State.reportAction (s : State) (r : Report) : State :=
  if r.cause = .correctedThreshold ∧ 2 ≤ (s.cell r.pcell).thresholds then s.sealCell r.pcell false else s

/-- REPORT_WRITE: R349, the next report of a die is written, or, while the ring is full, dropped and counted. -/
def execReportWrite (s : State) : Host.Outcome State Fault Refusal :=
  let die := s.par.die
  let g := s.ring die
  if (List.range 4).all (fun j => (s.cell (firstReeve + 4 * die + j)).isSealed) then .next s
  else if g.full then
    match dropReport g.pending with
    | none => .next s
    | some (r, t) =>
      .next (s.setRing die { g with pending := t, ovf := min 0xFFFF (g.ovf + 1), first := if g.ovf = 0 then r.cause.code else g.first })
  else
    match g.pending with
    | [] => .next s
    | r :: t =>
      let s := s.writeKey (keyLocal (firstReeve + 4 * die) (g.base + 32 * (g.head % 256))) (r.bytes.map (fun b => (b, false)))
      .next ((s.setRing die { g with pending := t, head := (g.head + 1) % 65536 }).reportAction r)

/-! ### Held nodes (R315, R345, R346) -/

/-- The report of a held node waits while its die's ring is full, and the node stays TRAPPED (R349, R367). -/
def State.reportWaits (s : State) (p i : Nat) : Bool :=
  (s.ring (dieOf p)).pending.any (fun r => r.held && decide (r.pcell = p) && decide (r.nid = s.nid p i))

/-- The page at which a node or an engine is held is there now (R315, R346). -/
def State.pageThere (s : State) (p : Nat) (a : Addr) : Bool :=
  match translate s (siteOf p) (s.troot p) (a.toNat % 2 ^ 48) with
  | .error .pageNotPresent => false
  | _ => true

/-- A held node becomes READY to run on at TIP (log entry 87). -/
def Node.unheld (n : Node) : Node := { n with stt := .ready, heldFor := none }

/-- The two code words of a doubleword of the code region, from the launch's patched copy (R346). -/
def Inst.codeDword (i : Inst) (off : Nat) : List Byte :=
  let w := (off - i.image.codeOff) / 4
  leBytes 4 (i.image.code.getD w 0).toNat ++ leBytes 4 (i.image.code.getD (w + 1) 0).toNat

/-- HELD_RESUME: R345, R346. A poisoned word is rewritten from the launch copy and the node resumes; a walk error, and a page
for which no frame is found (R315), become PAGE_PROTECTION at the node's own handler; a DOUBLE_TRAP has no cause that could
be dealt with, and no policy resumes it (log entry 25). -/
def execHeldResume (s : State) : Host.Outcome State Fault Refusal :=
  let p := s.par.pcell
  let i := s.par.slot
  match s.node? p i with
  | none => .next s
  | some n =>
    match n.stt, n.heldFor with
    | .trapped, some t =>
      if s.reportWaits p i then .next s
      else if t.cause = .poisonFetch then
        let off := t.taddr.toNat / 8 * 8
        let x : Inst := ((s.instOf p).map (·.2)).getD {}
        .next ((s.setNode p i n.unheld).writeKey (keyLocal p off) ((x.codeDword off).map (fun b => (b, false))))
      else if t.cause = .pageNotPresent ∨ t.cause = .translationWalkError then
        .next (s.takeTrap p i n.unheld { t with cause := .pageProtection } n.pc)
      else .next s
    | _, _ => .next s

/-- HELD_RETIRE: R346, R173 without the FENCE. -/
def execHeldRetire (s : State) : Host.Outcome State Fault Refusal :=
  let p := s.par.pcell
  let i := s.par.slot
  match s.node? p i with
  | none => .next s
  | some n =>
    if n.stt ≠ .trapped ∨ s.reportWaits p i then .next s
    else
      let s := s.setNode p i { n with stt := .retired, heldFor := none }
      match s.instOf p with
      | none => .next s
      | some (k, x) =>
        let s := if isReeve p then s else s.releaseClaims x (siteOf p) (fun w => decide (w = s.nid p i))
        .next (s.refresh k)

/-- The engines that answer to engine `eng` of a site: in twin mode the one of each copy (R360). -/
def State.enginePair (s : State) (site eng : Nat) : List Nat :=
  match s.instOf (4 * site + eng) with
  | none => [site]
  | some (_, i) =>
    if i.twin.isEmpty then [site]
    else
      let x := (i.sites.findIdx? (· == site)).getD ((i.twin.findIdx? (· == site)).getD 0)
      [i.sites.getD x site, i.twin.getD x site]

/-- PAGE_SERVICE_RESUME: R315, the reeve writes the entry and resumes the node, or the engine, at the access, once the page is
there (R346); for an engine an entry without P says that no frame can be had, and the access fails under R179. -/
def execPageServiceResume (s : State) : Host.Outcome State Fault Refusal :=
  let w := s.par
  let s := if w.entry + 8 ≤ tier1Size then s.writeKey (keyTier1 (w.entry / 8 * 8)) ((leBytes 8 w.value.toNat).map (fun b => (b, false))) else s
  if w.engine then
    let e := s.engine w.unit w.slot
    .next (match e.heldFor with
      | none => s
      | some t =>
        if w.value.getLsbD 0 && !s.pageThere (4 * w.unit + w.slot) t.taddr then s
        else (s.enginePair w.unit w.slot).foldl (fun s site =>
          s.setEngine site w.slot { s.engine site w.slot with heldFor := none, noFrame := !w.value.getLsbD 0 }) s)
  else
    match s.node? w.unit w.slot with
    | none => .next s
    | some n =>
      match n.stt, n.heldFor with
      | .trapped, some t =>
        .next (if t.cause = .pageNotPresent && s.pageThere w.unit t.taddr && !s.reportWaits w.unit w.slot
          then s.setNode w.unit w.slot n.unheld else s)
      | _, _ => .next s

/-! ### Twin mode (R360) -/

/-- The cell from which an access comes. -/
def Src.cell : Src → Nat
  | .node p _ _ => p
  | .engine site eng => 4 * site + eng
  | .host => 0

/-- The first packet of a logical cell in a copy. -/
def Inst.packet (i : Inst) (second : Bool) (l : Nat) : Option TwinMsg :=
  (i.twinq.find? (fun t => t.second == second && decide (t.lcell = l))).map (·.msg)
/-- That packet leaves the queue. -/
def dropPacket (second : Bool) (l : Nat) : List TwinPacket → List TwinPacket
  | [] => []
  | t :: r => if t.second = second ∧ t.lcell = l then r else t :: dropPacket second l r

/-- The logical destination of an address: the cell that space 0x1 names, else no cell (R137). -/
def packetDest (a : Addr) : Nat := if spaceOf a = 1 then bitsN a.toNat 17 11 else 0xFFFF

/-- The class and the data bytes of an access (log entry 15). -/
def AccOp.packet (op : AccOp) (n : Nat) : Nat × List Byte :=
  match op with
  | .load => (0, [])
  | .store d => (1, leBytes n d)
  | .amo fn v e => (16 + fn, leBytes 8 v ++ leBytes 8 e)
  | .dcas v1 v2 e1 e2 => (2, leBytes 4 v1 ++ leBytes 4 v2 ++ leBytes 4 e1 ++ leBytes 4 e2)
  | .amov2 v => (3, leBytes 4 v)

/-- A packet as the stations compare it. -/
def TwinMsg.packet : TwinMsg → Packet
  | .access a =>
    { cls := (a.op.packet a.size).1, dest := packetDest a.va, addr := a.va.toNat, size := a.size,
      data := (a.op.packet a.size).2 ++ leBytes 8 a.va2.toNat }
  | .offer l i f =>
    { cls := 4, dest := 32 * l + i, addr := f.recAddr, size := f.entries.length,
      data := leBytes 1 (if f.persist then 1 else 0) ++ f.entries.flatMap (fun x =>
        leBytes 2 x.ev ++ leBytes 1 x.role ++ leBytes 4 x.cbuf ++ leBytes 4 x.rbuf ++ leBytes 4 x.len) }
  | .tid _ n (.value v) => { cls := 5, dest := n, addr := 0, size := 32, data := leBytes 32 v.toNat }
  | .tid _ n (.read a) => { cls := 14, dest := n, addr := a.va.toNat, size := 32, data := [] }
  | .grow _ nid count v => { cls := 15, dest := nid.toNat, addr := count, size := 4, data := leBytes 4 v }

/-- Two packets have one hash (R360). -/
def TwinMsg.same (x y : TwinMsg) : Bool := decide (x.packet.hash = y.packet.hash)

def State.twinMismatch (s : State) (k : Nat) (l : Nat) (detail : BitVec 16) : State :=
  match s.inst? k with
  | none => s
  | some i => (s.reportCell (i.pcell l) .twinMismatch detail).killAgain k

/-- The generations agree: the node that an access names is still there. -/
def State.onSrc (s : State) (src : Src) (f : Node → Node) : State :=
  match src with
  | .node p i gen =>
    match s.node? p i with
    | none => s
    | some n => if n.gen = gen then s.setNode p i (f n) else s
  | _ => s

/-- An entry of the TID table of an instance becomes `v` (R194). -/
def State.writeTid (s : State) (k n : Nat) (v : BitVec 256) : State :=
  s.onInst k (fun i => { i with tids := Store.set 0 i.tids n v })

/-- A write of a TID entry is performed, in twin mode once for both copies (R194, R261): an image that is still to be read is read at
its home, and, poisoned, gives each node its trap to take. -/
def State.performTid (s : State) (k n : Nat) (srcs : List Src) : TidImage → State
  | .value v => s.writeTid k n v
  | .read a =>
    let key := s.keyNow a.key a.win
    let s := (s.inspect key 32).readHere a
    match poisonTrap s a a.home key a.va false with
    | some t => srcs.foldl (fun s src => s.onSrc src (fun m => { m with pend := m.pend ++ [t] })) s
    | none => s.writeTid k n (BitVec.ofNat 256 (Memory.num s.mem key 32))

/-- A GROW is performed at the dispatch record of its launch (R199): its key with the count as it stood, or none where the count
would pass 2^40. -/
def Launch.grow (x : Launch) (g : Nat) (nid : BitVec 16) (count v : Nat) : Option Launch :=
  if x.grows.any (fun k => decide (k.group = g) && decide (k.nid = nid) && decide (k.count = count)) then some x
  else if 2 ^ 40 < x.count + v then none
  else some { x with count := x.count + v, grows := x.grows ++ [{ group := g, nid := nid, count := count, old := x.count }] }

/-- A GROW that both copies of a twin-mode group made is performed once; past the limit each node has its trap to take before the
GROW that holds its cell (R199, R361, log entry 112). -/
def State.performGrow (s : State) (i : Inst) (srcs : List Src) (nid : BitVec 16) (count v : Nat) : State :=
  match s.launch? i.launch with
  | none => s
  | some x =>
    match x.grow i.group nid count v with
    | some x => s.onLaunch i.launch (fun _ => x)
    | none => srcs.foldl (fun s src => s.onSrc src (fun m => { m with pend := m.pend ++ [{ cause := .growLimit }] })) s

/-- A packet that both copies sent and that is performed at once may go on: its budget is open in this period, no earlier request of its
node waits for one (R277, R360), and no atomic holds its line (R150). -/
def State.tidOpen (s : State) (i : Inst) : TwinMsg → Bool
  | .tid q _ (.read a) => !s.queues q && s.admits (some i) a && !s.lineBusy (s.keyNow a.key a.win)
  | _ => true

/-- The standing offers of engine `eng` of croft `x` of a domain in its two copies: offers that stand in both and differ, and
whether one copy has offered more than the other (R360). -/
def State.twinOffers (s : State) (i : Inst) (x eng : Nat) : Bool × Bool :=
  let a := (s.engine (i.sites.getD x 0) eng).standing
  let b := (s.engine (i.twin.getD x 0) eng).standing
  ((a.zip b).any (fun y => decide (y.1 ≠ y.2)), decide (a.length ≠ b.length))

/-- A matched access as it is injected: it answers both copies, and a word in the node's own cell has its like in the other copy's
cell (R151, R360). -/
def Access.matched (a b : Access) : Access :=
  let own : Home → Bool := fun h => decide (h = .cell a.src.cell)
  { a with rets := a.rets ++ b.rets, src2 := some b.src, mirror := if own a.home then some b.key else a.mirror,
           mirror2 := if a.home2.any own then some b.key2 else a.mirror2 }

/-- TWIN_HASH_COMPARE: R360, the packets of the two copies of logical cell `lcell` meet, or with `engine` the offers of its
engine. A matched access is injected once and answers both copies; a matched offer counts as one. -/
def execTwinHashCompare (s : State) : Host.Outcome State Fault Refusal :=
  let k := s.par.inst
  let l := s.par.lcell
  match s.inst? k with
  | none => .next s
  | some i =>
    if s.par.engine then .next (if !i.twin.isEmpty && (s.twinOffers i (l / 4) (l % 4)).1 then s.twinMismatch k l 0 else s)
    else match i.packet false l, i.packet true l with
    | some x, some y =>
      if !x.same y then .next (s.twinMismatch k l 0)
      else if !s.tidOpen i x then .next s
      else
        let i := { i with twinq := dropPacket true l (dropPacket false l i.twinq) }
        let s := s.setInst k i
        match x, y with
        | .access a, .access b => .next (s.inject (some i) (a.matched b))
        | .tid a n image, .tid b _ _ => .next (s.performTid k n [a, b] image)
        | .grow a nid count v, .grow b _ _ _ => .next (s.performGrow i [a, b] nid count v)
        | _, _ => .next (s.refresh k)
    | _, _ => .next s

/-- TWIN_MATCH_TIMEOUT: R360, a packet of one copy, or an offer of its engine, stays without its like. -/
def execTwinMatchTimeout (s : State) : Host.Outcome State Fault Refusal :=
  match s.inst? s.par.inst with
  | none => .next s
  | some i =>
    let l := s.par.lcell
    if s.par.engine then
      .next (if !i.twin.isEmpty && ((s.twinOffers i (l / 4) (l % 4)).2 ||
          decide ((s.engine (i.sites.getD (l / 4) 0) (l % 4)).queue.length ≠ (s.engine (i.twin.getD (l / 4) 0) (l % 4)).queue.length))
        then s.twinMismatch s.par.inst l 1 else s)
    else match i.packet false l, i.packet true l with
    | some _, none => .next (s.twinMismatch s.par.inst l 1)
    | none, some _ => .next (s.twinMismatch s.par.inst l 1)
    | _, _ => .next s

/-! ### Silent parties (R364, R365) -/

/-- The site of a home: that of a cell, of a bin, or of a channel of tier-1 memory, and 0x7F where the request leaves by CXL
(R364, log entry 26). -/
def Home.site : Home → Nat
  | .cell q => if isReeve q then 0x7F else siteOf q
  | .bin b => b / 4
  | .chan g => if keyRegion (256 * g) = 0 then (Config.channelSite g).toNat % 104 else 0x7F
  | .bridge => 0x7F

/-- The home of an access that stays silent, and the address and detail of its location there: with `second` those of the second
word of an AMO2 (R139, R151). -/
def Access.silent (a : Access) (second : Bool) : Home × Addr × BitVec 16 :=
  match second, a.home2 with
  | true, some h => (h, a.va2, a.detail ||| 256#16)
  | _, _ => (a.home, a.va, a.detail)

/-- The poison that answers an access for which no response comes. -/
def timeoutPart (a : Access) (second : Bool) (part : Nat) : Part :=
  { n := part, data := 0, poison := some { cause := .poisonConsumed, detail := (a.silent second).2.2, taddr := (a.silent second).2.1 } }

/-- The launches that use a home which a seal cannot stop: those of the domains whose window the bin holds part of, and those
with an access on its way to the bin or the channel (R364, log entry 89). -/
def State.usersOf (s : State) (h : Home) : List Nat :=
  let wide : Tab Inst := match h with
    | .bin b => s.insts.filter (fun x => !x.2.reeve && x.2.allSites.contains (b / 4))
    | _ => []
  (wide.map (·.2.launch) ++ (s.net.filter (fun a => a.reaches h)).filterMap (fun a => s.launchOf a.src.cell)).eraseDups

/-- What follows a request for which no response came (R364): the report, the seal of every cell of the site named, and, for a
home that a seal cannot stop, the failure of the launches `users`. A request that leaves by CXL is only reported. -/
def State.silence (s : State) (p : Nat) (h : Home) (va : Addr) (users : List Nat) : State :=
  let site := h.site
  let s := s.reportCell p .remoteTimeout (BitVec.ofNat 16 site) va
  if site = 0x7F then s
  else
    let s := (List.range 4).foldl (fun s r => s.sealCell (4 * site + r) false) s
    match h with
    | .cell _ => s
    | _ => users.foldl (fun s l => s.failLaunch l) s

/-- A request of a node that stays without a response (R364), with `second` from the home of the second word of an AMO2: it is answered
with poison, or dropped. -/
def State.requestLost (s : State) (j : Nat) (second : Bool) : State :=
  match s.net[j]? with
  | none => s
  | some a =>
    if !a.admitted then s
    else
      let x := a.silent second
      let users := ((s.launchOf a.src.cell).toList ++ s.usersOf x.1).eraseDups
      (({ s with net := s.net.eraseIdx j }).respond a.rets (timeoutPart a second)).silence a.src.cell x.1 x.2.1 users

/-- HOST_ABORT: R365; the reeve domain survives (log entry 124). -/
def execHostAbort (s : State) : Host.Outcome State Fault Refusal :=
  let s := s.reportTo 0 { cause := .hostAbort, tcause := tcauseWord .hostAbort 0 }
  let s := (s.insts.filter (fun x => !x.2.reeve)).foldl (fun s x => s.kill x.1) s
  let s := s.launches.foldl (fun s x => s.unkeep x.2) s
  .next { s with launches := [], host := [], pkg := { s.pkg with linkUp := false, spdm := [] } }

end Sys2Proof.Machine
end

