-- ==== Sys2Proof/Machine/Control.lean ====
section
/-! DEFINITION. Control transfers, frames and the hardware loop (R19, R127 to R135, R383), and the hints (R80 to R83). -/

namespace Sys2Proof.Machine

/-- ILLEGAL_ENCODING with a reason and a bit number (R68). -/
def illegalEnc (reason bit : Nat) : Trap := { cause := .illegalEncoding, detail := BitVec.ofNat 16 (reason + bit * 16) }

/-- A frame push (R19): the callee's frame becomes current. -/
def Node.push (n : Node) : Node := { n with cur := (n.cur + 1) % n.frames, res := n.res + 1 }
/-- A frame pop (R19). -/
def Node.pop (n : Node) : Node := { n with cur := (n.cur + n.frames - 1) % n.frames, res := n.res - 1 }
/-- The word of the region that holds g31 of the current frame (R17). -/
def Node.linkWord (n : Node) : Nat := 16 * n.cur + 15

/-- Some interlocked or fixed-latency result is still owed to frame `f` (R383). -/
def Node.frameOwed (n : Node) (f : Nat) : Bool :=
  let inside : Loc → Bool := fun l => match l with
    | .region w => decide (16 * f ≤ w ∧ w < 16 * f + 16)
    | _ => false
  n.owed.any (fun o => o.dests.any inside) || n.fixed.any (fun w => inside w.write.loc)

/-- A call to `t` by the node, its released registers released in the caller's frame (R128, R129). The call writes g31 of the
frame it pushes: a result that is pending there holds the cell (R28), and an early one traps under CHK (R29), after trap mode and
WINDOW_OVERFLOW are looked at (log entry 79). -/
def callTo (s : State) (u : Issue) (rel : List RegName) (t : Word) : Res :=
  if u.n.inTrap then .forbidden
  else if u.n.res = u.n.frames then .trap { cause := .windowOverflow }
  else if u.n.push.owes (u.n.push.locs [.g 31]) then .hold
  else
    match u.n.push.early [.g 31] with
    | some e => .trap e
    | none =>
      let n := (u.n.releaseAll (u.n.locs rel)).push
      .done s (n.writeReg (.g 31) (.word (u.n.pc + 4))) (some t)

/-- The target of a format B word (R75). -/
def branchTarget (pc : Word) (off : BitVec 20) : Word := pc + (off.signExtend 32 <<< 2)

/-- BR: R127. -/
def execBr (p : PReg) (n : Bool) (st : BitVec 2) (off : BitVec 20) (s : State) : Host.Outcome State Fault Refusal :=
  issue s { reads := [.p p], st := st.toNat } preNone fun u =>
    .done s u.n (if u.n.getP p ^^ n then some (branchTarget u.n.pc off) else none)

/-- CALL: R128. -/
def execCall (p : PReg) (n : Bool) (st : BitVec 2) (off : BitVec 20) (s : State) : Host.Outcome State Fault Refusal :=
  issue s { reads := [.p p], st := st.toNat } preNone fun u =>
    if u.n.getP p ^^ n then callTo s u [] (branchTarget u.n.pc off) else .done s u.n

/-- JMPR: R129. -/
def execJmpr (a : GReg) (la : Bool) (st : BitVec 2) (s : State) : Host.Outcome State Fault Refusal :=
  issue s { reads := [.g a], st := st.toNat } preNone fun u =>
    .done s (u.n.releaseAll (u.n.locs (if la then [.g a] else []))) (some (u.n.getG a &&& 0xFFFFFFFC#32))

/-- CALLR: R129. -/
def execCallr (a : GReg) (la : Bool) (st : BitVec 2) (s : State) : Host.Outcome State Fault Refusal :=
  issue s { reads := [.g a], st := st.toNat } preNone fun u =>
    callTo s u (if la then [.g a] else []) (u.n.getG a &&& 0xFFFFFFFC#32)

/-- RET: R130, R383. That it holds for a result owed to the frame before its WINDOW_UNDERFLOW is the model's choice (log entry 114). -/
def execRet (st : BitVec 2) (s : State) : Host.Outcome State Fault Refusal :=
  issue s { st := st.toNat } preNone fun u =>
    if u.n.inTrap then .forbidden
    else if u.n.frameOwed u.n.cur then .hold
    else if u.n.res = 1 then .trap { cause := .windowUnderflow }
    else .done s u.n.pop (some ((u.n.cellAt (.region u.n.linkWord)).val &&& 0xFFFFFFFC#32))

/-- RTT: R131. -/
def execRtt (st : BitVec 2) (s : State) : Host.Outcome State Fault Refusal :=
  issue s { st := st.toNat } (fun u => if u.n.inTrap then none else some (illegalEnc 2 0)) fun u =>
    let t := u.n.tip &&& 0xFFFFFFFC#32
    .left ((s.complete u.p u.i u.c st.toNat 0 u.n.returnTrap (some t) none false).skipBreak u.p u.i t)

/-- LOOP: R133. The count is read at issue (R105), so an early count traps before LOOP_NEST is looked at (log entry 80). -/
def execLoop (a : GReg) (la : Bool) (st : BitVec 2) (imm : BitVec 13) (s : State) : Host.Outcome State Fault Refusal :=
  issue s { reads := [.g a], st := st.toNat } preNone fun u =>
    if u.n.loopc ≠ 0 then .trap { cause := .loopNest }
    else
      let count := u.n.getG a
      let last := u.n.pc + (imm.zeroExtend 32 <<< 2)
      let n := { u.n.releaseAll (u.n.locs (if la then [.g a] else [])) with
        loops := u.n.pc + 4, loope := last, loopc := count }
      .done s n (if count = 0 then some (last + 4) else none)

/-! ### Hints

A hint issues in its own cycle (R26). It waits in the node for the follower of its run; a run is checked with its follower
when its first word is fetched (Machine/Fetch.lean). -/

/-- A hint word issues: the node remembers it, and where its run began. -/
def hintWord (f : Hints → Hints) (s : State) : Host.Outcome State Fault Refusal :=
  match s.run? with
  | none => .fault .noRunningNode
  | some (i, n0) =>
    let c := max (s.cell s.cur).cyc n0.issueAt
    let n := n0.landed c
    .next ((s.setCell s.cur { s.cell s.cur with cyc := c + 1 }).setNode s.cur i
      { n with hints := { f n.hints with start := some n.firstWord }, pc := n.pc + 4, issueAt := c + 1 })

/-- STALL: R82. -/
def execStall (n : BitVec 8) (s : State) : Host.Outcome State Fault Refusal :=
  hintWord (fun h => { h with stall := n.toNat }) s
/-- WIDE: R82. -/
def execWide (hi : BitVec 19) (s : State) : Host.Outcome State Fault Refusal :=
  hintWord (fun h => { h with wide := some hi }) s
/-- MOD: R82. -/
def execMod (rnd : BitVec 3) (sat : Bool) (s : State) : Host.Outcome State Fault Refusal :=
  hintWord (fun h => { h with mod := some (rnd, sat) }) s
/-- CRIT: R82, R83. -/
def execCrit (s : State) : Host.Outcome State Fault Refusal := hintWord (fun h => { h with crit := true }) s

end Sys2Proof.Machine
end

