-- ==== Sys2Proof/Machine/Agents.lean ====
section
/-! DEFINITION. Steps of the cell, the homes and the Sheaf as the table of operations and events lists them: each reads its
parameters from `State.par` and leaves the state as it is where what it names is not there or not due (log entry 13). -/

namespace Sys2Proof.Machine

/-- NODE_SELECT: R14, cell `pcell` selects a READY node. -/
def execNodeSelect (s : State) : Host.Outcome State Fault Refusal := .next (s.selectNode s.par.pcell)

/-- Result `i` of those owed to a node arrives; the vote of a CRIT follower that outvoted one execution counts the corrected
error then (R28, R362). -/
def State.arriveAt (s : State) (p sl i : Nat) : State :=
  match s.node? p sl with
  | none => s
  | some n =>
    let s' := s.setNode p sl (n.arrive i)
    if ((n.owed[i]?).map (·.outvoted)).getD false then s'.corrected p else s'

/-- VALUE_ARRIVAL: R28, R141, result `i` of those owed to the node arrives. -/
def execValueArrival (s : State) : Host.Outcome State Fault Refusal :=
  .next (s.arriveAt s.par.pcell s.par.slot s.par.i)

/-- ACCESS_PERFORMED: R247, access `i` of those in flight is performed at its home. -/
def execAccessPerformed (s : State) : Host.Outcome State Fault Refusal := .next (s.performAccess s.par.i)

/-- The logical cell of a contribution to one of these events that the two copies of a twin-mode group do not make alike. -/
def State.differing (s : State) (k : Nat) (evs : List Nat) : Option Nat :=
  match s.inst? k with
  | none => none
  | some i => evs.findSome? (s.twinDiffers i)

/-- Event `e` commits by fast commit once its contributions, alike in both copies of a twin-mode group (R360), are admitted at their
stations (R277) and no atomic holds a line of them (R150). -/
def State.commitStep (s : State) (k e : Nat) : State :=
  match s.differing k [e] with
  | some l => s.twinMismatch k l 0
  | none =>
    let s := s.admitCombine k e
    if s.commits k e then s.commit k e else s

/-- FAST_COMMIT: R228; for an instance whose next instant waits to begin, the offer that lets it begin (R233). -/
def execFastCommit (s : State) : Host.Outcome State Fault Refusal :=
  .next (if s.fastReady s.par.inst s.par.ev then s.commitStep s.par.inst s.par.ev else s.tryBegin s.par.inst)

/-- A settling round is due: the instant is open and the domain quiescent. -/
def State.settleDue (s : State) (k : Nat) : Bool :=
  match s.inst? k with
  | none => false
  | some i => decide (i.phase = .running) && s.quiescent i

/-- A settling round, once the contributions to its events, alike in both copies of a twin-mode group (R360), are admitted at their
stations (R277) and no atomic holds a line of them (R150). -/
def State.settleStep (s : State) (k : Nat) : State :=
  let evs := s.offered k (s.instD k)
  match s.differing k evs with
  | some l => s.twinMismatch k l 0
  | none =>
    let s := evs.foldl (fun s e => s.admitCombine k e) s
    if evs.all (s.commits k) then s.settlingRound k else s

/-- SETTLING_ROUND: R230 to R233. -/
def execSettlingRound (s : State) : Host.Outcome State Fault Refusal :=
  .next (if s.settleDue s.par.inst then s.settleStep s.par.inst else s)

/-- The cycle before which a resolved node does not resume has come, or its cell has nothing to run (R234) or runs nothing (R241):
a stopped domain's releases are completed. -/
def State.resumeDue (s : State) (p i : Nat) : Bool :=
  match s.node? p i with
  | none => false
  | some n => n.resolved.isSome && (decide (n.delay ≤ (s.cell p).cyc) || (s.cell p).running.isNone || s.frozen p)

/-- The instance on a cell begins its next instant, if it may (R233). -/
def State.wake (s : State) (p : Nat) : State :=
  match (s.cell p).inst with
  | none => s
  | some k => s.tryBegin k

/-- NODE_RESUME: R234, the node competes as READY with its result written, which lets an instant that waits begin (R233, log entry
106). -/
def execNodeResume (s : State) : Host.Outcome State Fault Refusal :=
  .next (if s.resumeDue s.par.pcell s.par.slot then (s.resumeNode (s.par.pcell, s.par.slot)).wake s.par.pcell else s)

/-- The watchdog may act: the launch has a limit, and the instant is open or waits to begin (R239). -/
def State.overrunDue (s : State) (k : Nat) : Bool :=
  match s.inst? k with
  | none => false
  | some i =>
    decide (((Tab.get? s.launches i.launch).map (·.overrun)).getD 0 ≠ 0) &&
      (decide (i.phase = .running) || (decide (i.phase = .between) && !i.stop && !i.forcing &&
        (s.nodesOf i).any (fun x => decide (x.2.stt ≠ .retired ∧ x.2.stt ≠ .sealed))))

/-- INSTANT_OVERRUN: R239; an instant still waiting to begin begins first (log entry 50). -/
def execInstantOverrun (s : State) : Host.Outcome State Fault Refusal :=
  .next (if s.overrunDue s.par.inst then
      ((s.onInst s.par.inst (fun i => { i with phase := .running })).refresh s.par.inst).overrun s.par.inst
    else s)

/-- WORD_NOT_AN_INSTRUCTION: ILLEGAL_OPCODE, with the major in [21:16] and, for formats R, A, V, VG and VX, the function
field in [28:22] (R67, R68). -/
def opcodeTrap (w : Word) : Trap :=
  let major := bitsN w.toNat 26 6
  let fn := if [1, 8, 10, 12, 13, 14, 18, 24, 25, 26, 29, 30, 31, 32, 33, 34, 37, 38, 39, 40, 41, 42].contains major
    then bitsN w.toNat 0 7 else 0
  { cause := .illegalOpcode, detail := BitVec.ofNat 16 (major + 64 * fn) }

/-- WORD_NOT_AN_INSTRUCTION: R67, R68. -/
def execWordNotAnInstruction (w : Word) (s : State) : Host.Outcome State Fault Refusal :=
  issue s {} (fun _ => some (opcodeTrap w)) (fun _ => .hold)

end Sys2Proof.Machine
end

