-- ==== Sys2Proof/Machine/Event.lean ====
section
/-! DEFINITION. OFFER, EVTEST, EVWAIT, PAUSE, RETIRE and the delay registers (R164 to R174). -/

namespace Sys2Proof.Machine

/-- EVENT_CHOICE_INVALID: the entry in detail [18:16], the reason in [22:19] (R167). -/
def choiceInvalid (entry reason : Nat) (a : Addr) : Trap :=
  { cause := .eventChoiceInvalid, detail := BitVec.ofNat 16 (entry + reason * 8), taddr := a }

/-- Two ranges meet. -/
def overlaps (a n b m : Nat) : Bool := decide (a < b + m) && decide (b < a + n)

/-- One entry of a choice record, as its 16 bytes hold it (R164). -/
structure RawEntry where
  ev : Nat
  high : Nat
  role : Nat
  mbz : Nat
  cbuf : Nat
  rbuf : Nat
  len : Nat

def RawEntry.of (l : List Byte) : RawEntry :=
  { ev := bitsN (field l 0 2) 0 10, high := bitsN (field l 0 2) 10 6, role := field l 2 1, mbz := field l 3 1,
    cbuf := field l 4 4, rbuf := field l 8 4, len := field l 12 4 }

/-- Checks 7 to 10 of R167 for entry `j`: the record lies at local offset `off` and ends at `fin`. -/
def checkEntry (i : Inst) (c : Cell) (o : Nat) (a : Addr) (off fin : Nat) (seen : List Nat) (j : Nat) (r : RawEntry) :
    Except Trap OfferEntry :=
  if r.high ≠ 0 ∨ r.mbz ≠ 0 then .error (choiceInvalid j 1 a)
  else if i.image.events.length ≤ r.ev then .error (choiceInvalid j 2 a)
  else if seen.contains r.ev then .error (choiceInvalid j 3 a)
  else
    let v := i.event r.ev
    match v.nodePart o with
    | none => .error { cause := .eventNotParticipant, detail := BitVec.ofNat 16 (r.ev + j * 1024), taddr := a }
    | some p =>
      let contrib := decide (p.role = 1 ∨ p.role = 3)
      let recv := decide (p.role = 2 ∨ p.role = 3)
      let inlineRecv := recv && !v.gran
      let lim := if v.gran then i.windowSize else localSize
      let unit := if v.gran then 1 else 8
      let n := (v.required.filter (fun q => decide (q.role = 1 ∨ q.role = 3))).length
      let cap := if v.kind = 3 then v.len * n else v.len
      if r.role ≠ p.role then .error (choiceInvalid j 4 a)
      else if (!contrib && decide (r.cbuf ≠ 0)) || (!inlineRecv && decide (r.rbuf ≠ 0))
          || (!contrib && !recv && decide (r.len ≠ 0)) then .error (choiceInvalid j 1 a)
      else if decide (r.cbuf % unit ≠ 0) || decide (r.rbuf % unit ≠ 0) || (contrib && decide (lim < r.cbuf + r.len))
          || (inlineRecv && decide (lim < r.rbuf + r.len)) then .error (choiceInvalid j 5 a)
      else if inlineRecv && (overlaps r.rbuf r.len c.codeOff c.codeLen || overlaps r.rbuf r.len off (fin - off)) then
        .error (choiceInvalid j 6 a)
      else if decide (p.role = 1) && decide (r.len ≠ v.len) then
        .error { cause := .eventLength, detail := BitVec.ofNat 16 j, taddr := a }
      else if recv && (decide (r.len < cap) || (!v.gran && decide (r.len % 8 ≠ 0))) then
        .error { cause := .eventLength, detail := BitVec.ofNat 16 (j + 8), taddr := a }
      else .ok { ev := r.ev, role := r.role, cbuf := r.cbuf, rbuf := r.rbuf, len := r.len }

/-- The entries in ascending order (check 6). -/
def checkEntries (i : Inst) (c : Cell) (o : Nat) (a : Addr) (off fin : Nat) :
    List RawEntry → List OfferEntry → Nat → Except Trap (List OfferEntry)
  | [], acc, _ => .ok acc
  | r :: t, acc, j =>
    match checkEntry i c o a off fin (acc.map (·.ev)) j r with
    | .error e => .error e
    | .ok x => checkEntries i c o a off fin t (acc ++ [x]) (j + 1)

/-- The address names this cell's local memory. -/
def ownLocal (s : State) (p : Nat) (a : Addr) : Bool :=
  spaceOf a == 0 || (spaceOf a == 1 && decide (bitsN a.toNat 17 11 = (s.cell p).lcell))

/-- The lowest poisoned doubleword of a local range, as a trap of a read there (R141, R167). -/
def localPoison (s : State) (p off n : Nat) (a : Addr) (k : Acc) : Option Trap :=
  if poisonedAt s.poison (keyLocal p off) n then
    some (k.trap .poisonConsumed (a + BitVec.ofNat 64 (firstPoison s.poison (keyLocal p off) n)))
  else none

/-- Checks 3 to 10 of R167: the captured entries (log entry 3). Of a record with a bad COUNT the header and as many entries as COUNT
says, 8 at most, are read for poison (log entry 101). A header in the code region, which OFFER would write, fails check 6 of R138 within
check 3 (R260, log entry 123). -/
def checkOffer (s : State) (u : Issue) (a : Addr) : Except Trap (List OfferEntry) :=
  let k : Acc := { size := 8, rd := true }
  match checkAccess s u.p a k with
  | .error t => .error t
  | .ok _ =>
    let off := bitsN a.toNat 0 17
    let key := keyLocal u.p off
    let n := (Memory.get s.mem key).toNat
    if !ownLocal s u.p a then .error (k.trap .addressSpace a)
    else if (s.cell u.p).meetsCode off 16 then .error (({ size := 8, wr := true } : Acc).trap .pageProtection a)
    else if a.toNat % 16 ≠ 0 then .error (k.trap .misaligned a)
    else match localPoison s u.p off (min (16 + 16 * min n 8) (localSize - off)) a k with
      | some t => .error t
      | none =>
        let hdr := Memory.num s.mem key 4
        if n = 0 ∨ 8 < n then .error (choiceInvalid 0 0 a)
        else if bitsN hdr 9 23 ≠ 0 then .error (choiceInvalid 0 1 a)
        else if localSize < off + 16 + 16 * n then .error (choiceInvalid 0 0 a)
        else
          let i := ((s.instOf u.p).map (·.2)).getD {}
          checkEntries i (s.cell u.p) u.n.ordinal a off (off + 16 + 16 * n)
            ((List.range n).map (fun j => RawEntry.of (Memory.bytes s.mem (key + 16 + 16 * j) 16))) [] 0

/-- WATCHPOINT of an OFFER of `n` entries, for the read of its record and the writing of its header; it is taken once the OFFER
completes (R37, R168, log entry 81). -/
def offerWatch (n : Node) (a : Addr) (cnt : Nat) : Option Trap :=
  (n.watchRange a { size := 8, rd := true } (2 + 2 * cnt)).orElse (fun _ => n.watchRange a { size := 8, wr := true } 2)

/-- The offer is made: the header is written and the node stops in OFFERING (R168). In twin mode it waits for its like. -/
def makeOffer (s : State) (u : Issue) (d : GReg) (a : Addr) (persist : Bool) (st : Nat) (l : List OfferEntry) : State :=
  let off := bitsN a.toNat 0 17
  let key := keyLocal u.p off
  let s := { s with mem := Memory.setBytes (Memory.setNum s.mem (key + 1) 1 (if persist then 1 else 0)) (key + 4) (leBytes 12 0),
                    poison := cleanAt s.poison (key + 4) 12 }
  let f : Offer := { recAddr := off, persist := persist, entries := l, d := d, st := st }
  let s := s.setCell u.p { s.cell u.p with cyc := u.c + u.n.slots 0 }
  let s := s.stopNode u.p u.i { u.n with made := some (l.map (·.ev)), settled := none, offer := some f, resolved := none,
                                             hints := { u.n.hints with offer := none }, pend := u.n.pend ++ (offerWatch u.n a l.length).toList } .offering
  match s.instOf u.p with
  | none => s
  | some (k, i) =>
    if i.twin.isEmpty then s.refresh k
    else s.setInst k { i with twinq := i.twinq ++
      [{ second := s.isTwinCell u.p, lcell := (s.cell u.p).lcell, msg := .offer (s.cell u.p).lcell u.i f }] }

/-- OFFER: R166 to R168. The cell holds until the record's bytes are in, and then, with what it captured, until the FENCE is: later
writes to the record do not alter the offer. -/
def execOffer (d : GReg) (a : AReg) (persist : Bool) (st : BitVec 2) (s : State) : Host.Outcome State Fault Refusal :=
  issue s { reads := [.a a], writes := [.g d], st := st.toNat } preNone fun u =>
    if u.n.inTrap then .forbidden
    else if u.n.made.isSome then .trap { cause := .eventSecondOffer }
    else match u.n.hints.offer with
      | some l => if s.inFlight (srcOf u) then .hold else .left (makeOffer s u d (u.n.getA a) persist st.toNat l)
      | none =>
        if s.inFlightTo (srcOf u) (.cell u.p) then .hold
        else match checkOffer s u (u.n.getA a) with
          | .error t => .trap t
          | .ok l =>
            if s.inFlight (srcOf u) then .left (s.holdCell { u with n := { u.n with hints := { u.n.hints with offer := some l } } })
            else .left (makeOffer s u d (u.n.getA a) persist st.toNat l)

/-- The checks of EVTEST and EVWAIT on an event number (R171). -/
def checkEvent (s : State) (u : Issue) (e : Nat) : Except Trap (Nat × Inst × Participant) :=
  match s.instOf u.p with
  | none => .error (choiceInvalid 0 2 0)
  | some (k, i) =>
    if i.image.events.length ≤ e then .error (choiceInvalid 0 2 0)
    else match (i.event e).nodePart u.n.ordinal with
      | none => .error { cause := .eventNotParticipant, detail := BitVec.ofNat 16 e }
      | some p => .ok (k, i, p)

/-- EVTEST: R171. -/
def execEvtest (d a : GReg) (la : Bool) (st : BitVec 2) (s : State) : Host.Outcome State Fault Refusal :=
  issue s { reads := [.g a], writes := [.g d], st := st.toNat } preNone fun u =>
    let e := bitsN (u.n.getG a).toNat 0 10
    match checkEvent s u e with
    | .error t => .trap t
    | .ok (_, i, _) =>
      .done s ((u.n.releaseAll (u.n.locs (if la then [.g a] else []))).writeReg (.g d)
        (.word (BitVec.ofNat 32 (i.status e).code)))

/-- EVWAIT: R171. A node that waits has its stall count waited out before another node of the cell issues (R15). -/
def execEvwait (d a : GReg) (la : Bool) (st : BitVec 2) (s : State) : Host.Outcome State Fault Refusal :=
  issue s { reads := [.g a], writes := [.g d], st := st.toNat } preNone fun u =>
    if u.n.inTrap then .forbidden
    else
      let e := bitsN (u.n.getG a).toNat 0 10
      let rel := u.n.locs (if la then [.g a] else [])
      match checkEvent s u e with
      | .error t => .trap t
      | .ok (_, i, p) =>
        if i.status e ≠ .unknown then
          .done s ((u.n.releaseAll rel).writeReg (.g d) (.word (BitVec.ofNat 32 (i.status e).code)))
        else if !p.obs && !((u.n.made.getD []).contains e) then .trap (causalityTrap e)
        else
          .left ((s.setCell u.p { s.cell u.p with cyc := u.c + u.n.slots 0 }).stopNode u.p u.i
            { u.n with wait := some { ev := e, d := d, rel := rel }, resolved := none,
                       issueAt := u.c + u.n.slots 0 + st.toNat + u.n.hints.stall } .waiting)

/-- The end of a reaction: the instruction completes, its stall count passes, and the node stops (R15); a breakpoint is no longer
suppressed (R37). -/
def endReaction (s : State) (u : Issue) (st : Nat) (n : Node) (stt : NodeSt) : State :=
  let next := u.c + u.n.slots 0
  let s := (s.setCell u.p { s.cell u.p with cyc := next }).stopNode u.p u.i
    { n.advance none with issueAt := next + st + u.n.hints.stall, hints := {}, bkSkip := none,
                          pend := if u.n.singleStep && n.pend.isEmpty then [{ cause := .singleStep }] else n.pend } stt
  match s.instOf u.p with
  | none => s
  | some (k, _) => s.refresh k

/-- PAUSE: R172. -/
def execPause (n : BitVec 5) (st : BitVec 2) (s : State) : Host.Outcome State Fault Refusal :=
  issue s { st := st.toNat } preNone fun u =>
    if u.n.inTrap then .forbidden
    else .left (endReaction s u st.toNat { u.n with pauseN := n.toNat } .paused)

/-- RETIRE: R173, with its claims given up (R181, R264). -/
def execRetire (st : BitVec 2) (s : State) : Host.Outcome State Fault Refusal :=
  issue s { st := st.toNat } preNone fun u =>
    if s.inFlight (srcOf u) then .hold
    else
      let s := match s.instOf u.p with
        | none => s
        | some (_, i) =>
          if isReeve u.p then s else s.releaseClaims i (siteOf u.p) (fun w => decide (w = s.nid u.p u.i))
      .left (endReaction s u st.toNat u.n .retired)

/-- DLR: R174, the committed copy. -/
def execDlr (d : GReg) (n : BitVec 3) (st : BitVec 2) (s : State) : Host.Outcome State Fault Refusal :=
  issue s { writes := [.g d], st := st.toNat } preNone fun u =>
    .done s (u.n.writeReg (.g d) (.word (Store.get 0 u.n.dComm n.toNat)))

/-- DLW: R174, the pending copy. -/
def execDlw (n : BitVec 3) (a : GReg) (la : Bool) (st : BitVec 2) (s : State) : Host.Outcome State Fault Refusal :=
  issue s { reads := [.g a], st := st.toNat } preNone fun u =>
    .done s { u.n.releaseAll (u.n.locs (if la then [.g a] else [])) with
      dPend := Store.set 0 u.n.dPend n.toNat (u.n.getG a), dWritten := setInsert u.n.dWritten n.toNat }

end Sys2Proof.Machine
end

