-- ==== Sys2Proof/Machine/Command.lean ====
section
/-! DEFINITION. The engine commands as a node issues them (R175 to R194, R382): their operands, their checks in order, the
command that waits at its second issue cycle; claims of operand slots, and the TID table. -/

namespace Sys2Proof.Machine

/-! ### Checks that commands share -/

/-- ENGINE_DESCRIPTOR (R176): a byte offset or bit number in detail [23:16], the source in [25:24]. -/
def descTrap (source pos : Nat) (a : Addr := 0) : Trap :=
  { cause := .engineDescriptor, detail := BitVec.ofNat 16 (pos % 256 + source * 256), taddr := a }

/-- The first failing check of a list of them. -/
def firstTrap : List (Option Trap) → Option Trap
  | [] => none
  | some t :: _ => some t
  | none :: l => firstTrap l

/-- A check that a condition must pass. -/
def need (ok : Bool) (t : Trap) : Option Trap := if ok then none else some t

/-- Bits of an operand that must be zero: the lowest offending one. -/
def zeroBits (x mask : Word) (source : Nat) : Option Trap :=
  ((List.range 32).find? (fun b => (x &&& mask).getLsbD b)).map (descTrap source)

/-- The order control (R177): `w` bits from a register (`off` none) or from the ORDER field at byte `off`. The lowest offending bit is
named (R176): the WAIT bit of the command's own SLOT, else the lowest reserved bit. -/
def orderTrap (x : Word) (w : Nat) (off : Option Nat) (a : Addr) : Option Trap :=
  let t : Nat → Trap := fun b => match off with
    | none => descTrap 3 b
    | some o => descTrap 0 o a
  let slot := bitsN x.toNat 8 3
  if x.getLsbD 11 && x.getLsbD slot then some (t slot)
  else ((List.range w).find? (fun b => decide (12 ≤ b) && x.getLsbD b)).map t

/-- The fields of an order control in a command. -/
def Cmd.withOrder (m : Cmd) (x : Word) : Cmd :=
  { m with wait := x.extractLsb' 0 8, oslot := bitsN x.toNat 8 3, seten := x.getLsbD 11 }

/-- The instance on a cell. -/
def State.instAt (s : State) (p : Nat) : Inst := ((s.instOf p).map (·.2)).getD {}
/-- The domain index of a croft site, in its copy of the domain. -/
def Inst.index (i : Inst) (site : Nat) : Nat := (i.sites.findIdx? (· == site)).getD ((i.twin.findIdx? (· == site)).getD 0)

/-- The TID entry of a number, and TID_INVALID where R63 fails. -/
def Inst.tid (i : Inst) (n : Nat) : Tid := Tid.of (Store.get 0 i.tids n)
def tidTrap (n : Nat) : Trap := { cause := .tidInvalid, detail := BitVec.ofNat 16 n }

/-- R180: checks 1 to 6 of R138 on byte addresses. -/
def spanTrap (s : State) (p : Nat) (wr : Bool) (l : List Int) : Option Trap :=
  l.findSome? (fun a => match staticCheck s p (BitVec.ofInt 64 a) { size := 1, rd := !wr, wr := wr } with
    | .error t => some t
    | .ok _ => none)

/-- R178: the event field of a command of engine `eng`. TADDR of EVENT_NOT_PARTICIPANT is the descriptor's address, and 0 for a command
without one, the model's choice (log entry 117). -/
def eventTrap (i : Inst) (site eng e : Nat) (bad : Trap) (a : Addr) : Option Trap :=
  if e = 0xFFFF then none
  else if i.image.events.length ≤ e then some bad
  else if (i.event e).parts.any (fun p => decide (p.pkind = eng + 1) && decide (p.id = i.index site)) then none
  else some { cause := .eventNotParticipant, detail := BitVec.ofNat 16 e, taddr := a }

/-- R274: the engine contributes to the event, and its destination is a slot. -/
def contributesSlot (i : Inst) (site eng e : Nat) : Bool :=
  decide (e ≠ 0xFFFF) && (i.event e).parts.any (fun p => decide (p.pkind = eng + 1) && decide (p.id = i.index site)
    && decide (p.role = 1))

/-- R186, check 6: the whole destination lies inside one shadow pair of the event. -/
def publishOk (i : Inst) (e : Nat) (l : List Int) : Bool :=
  decide (e ≠ 0xFFFF) && l.all (fun a => decide (spaceOf (BitVec.ofInt 64 a) = 2)) &&
    i.image.shadow.any (fun q => decide (q.event = e) && l.all (fun a =>
      let o := (BitVec.ofInt 64 a).toNat % 2 ^ 60
      decide (q.voff ≤ o ∧ o < q.voff + q.len)))

/-- The command passes its checks and waits at its second issue cycle for its place in the queue (R175). -/
def State.atSecond (s : State) (site eng : Nat) (m : Cmd) : State :=
  s.setEngine site eng { s.engine site eng with atIssue := some m }

/-- In twin mode a write of a TID entry by the node still waits for its like of the other copy (R261). -/
def State.tidPending (s : State) (u : Issue) : Bool :=
  (s.heldPackets (srcOf u)).any (fun t => match t with
    | .tid .. => true
    | _ => false)

/-- A command with its checks made, or its trap (log entry 36); `watch` is a watchpoint that its descriptor read touches. The entries
that it checks are those that the node's earlier TIDSETs and TIDCLRs have left (R194): in twin mode the cell holds for them. -/
def commandBody (s : State) (u : Issue) (eng : Nat) (rel : List RegName) (r : Except Trap Cmd)
    (watch : Option Trap := none) : Res :=
  if s.tidPending u then .hold
  else match r with
  | .error t => .trap t
  | .ok m => .done (s.atSecond (siteOf u.p) eng m) (u.n.releaseAll (u.n.locs rel)) none watch

/-! ### Matrix commands (R181 to R186) -/

/-- MCLAIM: R181, R264. -/
def execMclaim (d a : GReg) (la : Bool) (st : BitVec 2) (s : State) : Host.Outcome State Fault Refusal :=
  issue s { reads := [.g a], writes := [.g d], st := st.toNat } (preRole 2) fun u =>
    let site := siteOf u.p
    let sl := bitsN (u.n.getG a).toNat 0 4
    let free := decide ((s.croft site).claim sl = .free)
    let s := if free then s.setClaim site sl (.held (s.nid u.p u.i)) else s
    let n := u.n.releaseAll (u.n.locs (if la then [.g a] else []))
    .done s (match n.loc (.g d) with
      | none => n
      | some l => n.owe [l] (.value [⟨l, .word (if free then 0 else 1)⟩]) 0)

/-- MREL: R181, R264. -/
def execMrel (a : GReg) (la : Bool) (st : BitVec 2) (s : State) : Host.Outcome State Fault Refusal :=
  issue s { reads := [.g a], st := st.toNat } (preRole 2) fun u =>
    let site := siteOf u.p
    let sl := bitsN (u.n.getG a).toNat 0 4
    if (s.croft site).claim sl ≠ .held (s.nid u.p u.i) then .trap { cause := .slotNotOwned, detail := BitVec.ofNat 16 sl }
    else .done (s.releaseClaim (s.instAt u.p) site sl) (u.n.releaseAll (u.n.locs (if la then [.g a] else [])))

/-- The checks of R182. -/
def mmaCommand (s : State) (u : Issue) (x y oc : Word) : Except Trap Cmd :=
  let site := siteOf u.p
  let i := s.instAt u.p
  let a := bitsN x.toNat 0 4
  let b := bitsN x.toNat 4 4
  let ta := bitsN y.toNat 0 6
  let tb := bitsN y.toNat 8 6
  let gang := y.getLsbD 16
  let mine : Nat → Option Trap := fun sl =>
    need (decide ((s.croft site).claim sl = .held (s.nid u.p u.i))) { cause := .slotNotOwned, detail := BitVec.ofNat 16 sl }
  match firstTrap [zeroBits x 0xFFFFFC00 1, zeroBits y 0xFFFEC0C0 2, mine a, mine b,
      need (i.tid ta).valid (tidTrap ta), need (i.tid tb).valid (tidTrap tb),
      (mmaFault (i.tid ta) (i.tid tb)).map (descTrap 2),
      need (!gang || (decide (i.image.w ≤ 5) && decide (i.image.h ≤ 3))) (descTrap 2 16),
      orderTrap oc 32 none 0] with
  | some t => .error t
  | none => .ok (Cmd.withOrder
      { op := .mma a b (bitsN x.toNat 8 2) ta tb gang, inst := ((s.instOf u.p).map (·.1)).getD 0 } oc)

/-- MMA: R182, R184. -/
def execMma (d a b : GReg) (la lb : Bool) (st : BitVec 2) (s : State) : Host.Outcome State Fault Refusal :=
  issue s { reads := [.g a, .g b, .g d], st := st.toNat, extra := 1 } (preRole 2) fun u =>
    commandBody s u 2 ((if la then [.g a] else []) ++ (if lb then [.g b] else []))
      (mmaCommand s u (u.n.getG a) (u.n.getG b) (u.n.getG d))

/-- The checks of R185. -/
def mzeroCommand (s : State) (u : Issue) (x oc : Word) : Except Trap Cmd :=
  match firstTrap [zeroBits x 0xFFFFFFFC 1, orderTrap oc 32 none 0] with
  | some t => .error t
  | none => .ok (Cmd.withOrder { op := .mzero (bitsN x.toNat 0 2), inst := ((s.instOf u.p).map (·.1)).getD 0 } oc)

/-- MZERO: R185. -/
def execMzero (d a : GReg) (la : Bool) (st : BitVec 2) (s : State) : Host.Outcome State Fault Refusal :=
  issue s { reads := [.g a, .g d], st := st.toNat, extra := 1 } (preRole 2) fun u =>
    commandBody s u 2 (if la then [.g a] else []) (mzeroCommand s u (u.n.getG a) (u.n.getG d))

/-- The first and last bytes of the first and the last row of a tensor, in `planes` planes (R180). -/
def rowEnds (t : Tid) (planes r0 n : Nat) : List Int :=
  if n = 0 then []
  else
    ([0, planes - 1] : List Nat).flatMap (fun j => ([r0, r0 + n - 1] : List Nat).flatMap (fun r =>
      ([0, t.rowLen - 1] : List Nat).map (fun e => ((t.base + (j * t.rows + r) * t.stride + e : Nat) : Int))))

/-- The checks of R186. That a failing PUBLISH is named by its own bit, 16 of g[b], is the model's choice (log entry 118). -/
def mdrainCommand (s : State) (u : Issue) (x y oc : Word) : Except Trap Cmd :=
  let site := siteOf u.p
  let i := s.instAt u.p
  let n := bitsN x.toNat 8 6
  let t := i.tid n
  let ev := bitsN y.toNat 0 16
  let ends := rowEnds t 1 0 t.rows
  match firstTrap [zeroBits x 0xFFFFC0F8 1, zeroBits y 0xFFFE0000 2, need t.valid (tidTrap n),
      need (drainOk (x.getLsbD 2) t) (tidTrap n),
      need (decide (t.rows ≤ 128) && decide (t.cols ≤ 128) && decide (t.sparse = 0)) (descTrap 1 8),
      spanTrap s u.p true ends, eventTrap i site 2 ev (descTrap 2 0) 0,
      need (!y.getLsbD 16 || publishOk i ev ends) (descTrap 2 16), orderTrap oc 32 none 0] with
  | some e => .error e
  | none => .ok (Cmd.withOrder
      { op := .mdrain (bitsN x.toNat 0 2) (x.getLsbD 2) n (y.getLsbD 16), inst := ((s.instOf u.p).map (·.1)).getD 0,
        event := if ev = 0xFFFF then none else some ev } oc)

/-- MDRAIN: R186. -/
def execMdrain (d a b : GReg) (la lb : Bool) (st : BitVec 2) (s : State) : Host.Outcome State Fault Refusal :=
  issue s { reads := [.g a, .g b, .g d], st := st.toNat, extra := 1 } (preRole 2) fun u =>
    commandBody s u 2 ((if la then [.g a] else []) ++ (if lb then [.g b] else []))
      (mdrainCommand s u (u.n.getG a) (u.n.getG b) (u.n.getG d))

/-! ### Descriptors in local memory (R187, R191) -/

/-- The bytes of a descriptor of `n` bytes at an address, or the trap of its read; a poisoned doubleword is the lowest. -/
def descriptor (s : State) (u : Issue) (a : Addr) (n : Nat) : Except Trap (List Byte) :=
  let k : Acc := { size := n, rd := true }
  match checkAccess s u.p a k with
  | .error t => .error t
  | .ok _ =>
    let off := bitsN a.toNat 0 17
    if !ownLocal s u.p a then .error (k.trap .addressSpace a)
    else match localPoison s u.p off n a k with
      | some t => .error t
      | none => .ok (Memory.bytes s.mem (keyLocal u.p off) n)

/-- A command with a descriptor: the cell holds until the node's accesses to its own cell are performed, and the descriptor
read follows them (R175, R249). -/
def descCommand (s : State) (a : AReg) (st : BitVec 2) (role n : Nat) (f : Issue → Addr → List Byte → Except Trap Cmd) :
    Host.Outcome State Fault Refusal :=
  issue s { reads := [.a a], st := st.toNat, extra := 1 } (preRole role) fun u =>
    let x := u.n.getA a
    match checkAccess s u.p x { size := n, rd := true } with
    | .error t => .trap t
    | .ok _ =>
      if s.inFlightTo (srcOf u) (.cell u.p) then .hold
      else match descriptor s u x n with
        | .error t => .trap t
        | .ok l => commandBody s u role [] (f u x l) (u.n.watch x { size := n, rd := true })

/-! ### Copy commands (R187 to R190, R382) -/

/-- The three copy forms. -/
inductive CpyForm where
  | copy | copyg | copyop
  deriving DecidableEq, Repr

/-- The descriptor's fields. -/
def CpyDesc.of (l : List Byte) : CpyDesc :=
  let f : Nat → Nat → Nat := field l
  { src := BitVec.ofNat 64 (f 0 8), dst := BitVec.ofNat 64 (f 8 8), len0 := f 16 4, count1 := f 20 4, count2 := f 24 4,
    sstride1 := sgn 32 (f 28 4), sstride2 := sgn 32 (f 32 4), dstride1 := sgn 32 (f 36 4), dstride2 := sgn 32 (f 40 4),
    dkind := decide (f 48 1 % 2 = 1), publish := decide (f 49 1 % 2 = 1), cop := f 50 1, ctype := f 51 1,
    mcast := BitVec.ofNat 32 (f 52 4), idx := BitVec.ofNat 64 (f 56 8) }

/-- First and last byte of every dimension. -/
def corners (base s1 s2 : Int) (c1 c2 n : Nat) : List Int :=
  ([0, c2 - 1] : List Nat).flatMap (fun (i2 : Nat) => ([0, c1 - 1] : List Nat).flatMap (fun (i1 : Nat) =>
    ([0, n - 1] : List Nat).map (fun (e : Nat) => base + (i2 : Int) * s2 + (i1 : Int) * s1 + (e : Int))))

/-- The first byte offsets of the destination's dimensions: addresses, or offsets in a slot. -/
def CpyDesc.base (d : CpyDesc) : Int := if d.dkind then (d.slotOff : Int) else (d.dst.toNat : Int)
def CpyDesc.dstEnds (d : CpyDesc) : List Int := corners d.base d.dstride1 d.dstride2 d.count1 d.count2 d.len0

/-- Check 1 of R382: fields, in ascending byte offset. -/
def cpyFields (f : CpyForm) (d : CpyDesc) (b48 b49 : Nat) (a : Addr) : List (Option Trap) :=
  let t : Nat → Trap := fun o => descTrap 0 o a
  let op := decide (f = .copyop)
  let g := decide (f = .copyg)
  [need (decide (1 ≤ d.len0 ∧ d.len0 ≤ 2 ^ 24)) (t 16), need (decide (1 ≤ d.count1 ∧ d.count1 ≤ 2 ^ 16)) (t 20),
   need (decide (1 ≤ d.count2 ∧ d.count2 ≤ 2 ^ 16) && (!g || decide (d.count2 = 1))) (t 24),
   need (decide (b48 < 2)) (t 48), need (decide (b49 < 2)) (t 49), need (op || decide (d.cop = 0)) (t 50),
   need (op || decide (d.ctype = 0)) (t 51), need (d.dkind || decide (d.mcast = 0)) (t 52),
   need (g || decide (d.idx = 0)) (t 56)]

/-- Check 2 of R382: the rules of R189. -/
def copyopRules (d : CpyDesc) (a : Addr) : List (Option Trap) :=
  let t : Nat → Trap := fun o => descTrap 0 o a
  let u : Int := if [0x06, 0x10, 0x12].contains d.ctype then (elemBytes d.ctype : Nat) else 1
  let al : Int → Nat → Option Trap := fun x o => need (decide (x % u = 0)) (t o)
  [need (decide (d.dkind = false) && decide (spaceOf d.dst = 2)) (t 8), al d.src.toNat 0, al d.dst.toNat 8, al d.len0 16,
   al d.sstride1 28, al d.sstride2 32, al d.dstride1 36, al d.dstride2 40, need (decide (d.cop ≤ 5)) (t 50),
   need ([0x06, 0x10, 0x12].contains d.ctype) (t 51)]

/-- Check 4 of R382: the slot designation of R190. That a write beyond the slot is named by DST, byte 8, is the model's choice (log entry
119). -/
def slotRules (i : Inst) (d : CpyDesc) (a : Addr) : List (Option Trap) :=
  [need (decide (d.dst &&& 0xFFFFFFFF800000F0#64 = 0) && decide (d.slotOff % 64 = 0)) (descTrap 0 8 a),
   need (d.targets i.image.w i.image.h).isSome
     { cause := .remoteOutsideDomain, detail := ({ size := 64, wr := true } : Acc).detail, taddr := a },
   need (d.dstEnds.all (fun o => decide (0 ≤ o ∧ o ≤ 32767))) (descTrap 0 8 a)]

/-- The checks of R382. The source rows of COPYG are known only from its index vector, so of them the issue looks at row 0 alone
(R180, log entry 102); a failing PUBLISH names byte 49 (log entry 118). -/
def cpyCommand (s : State) (f : CpyForm) (u : Issue) (a : Addr) (l : List Byte) : Except Trap Cmd :=
  let site := siteOf u.p
  let i := s.instAt u.p
  let d := CpyDesc.of l
  let ev := field l 44 2
  let order := BitVec.ofNat 32 (field l 46 2)
  let srcs := match f with
    | .copyg => [(d.src.toNat : Int), d.src.toNat + d.len0 - 1]
    | _ => corners d.src.toNat d.sstride1 d.sstride2 d.count1 d.count2 d.len0
  match firstTrap (cpyFields f d (field l 48 1) (field l 49 1) a
      ++ (if f = .copyop then copyopRules d a else [])
      ++ [spanTrap s u.p false srcs, if d.dkind then none else spanTrap s u.p true d.dstEnds]
      ++ (if d.dkind then slotRules i d a else [])
      ++ [eventTrap i site 0 ev (descTrap 0 44 a) a, need (!(d.dkind && contributesSlot i site 0 ev)) (descTrap 0 44 a),
          need (!d.publish || (!d.dkind && publishOk i ev d.dstEnds)) (descTrap 0 49 a), orderTrap order 16 (some 46) a]) with
  | some t => .error t
  | none => .ok (Cmd.withOrder
      { op := match f with
          | .copy => .copy d
          | .copyg => .copyg d
          | .copyop => .copyop d,
        inst := ((s.instOf u.p).map (·.1)).getD 0, event := if ev = 0xFFFF then none else some ev } order)

/-- COPY: R187, R188. -/
def execCopy (a : AReg) (st : BitVec 2) (s : State) : Host.Outcome State Fault Refusal :=
  descCommand s a st 0 64 (cpyCommand s .copy)

/-- COPYG: R187, R188. -/
def execCopyg (a : AReg) (st : BitVec 2) (s : State) : Host.Outcome State Fault Refusal :=
  descCommand s a st 0 64 (cpyCommand s .copyg)

/-- COPYOP: R187, R189. -/
def execCopyop (a : AReg) (st : BitVec 2) (s : State) : Host.Outcome State Fault Refusal :=
  descCommand s a st 0 64 (cpyCommand s .copyop)

/-! ### Conversion commands (R191 to R193) -/

/-- The checks of R191, their order (log entry 37) and the fields that they name (log entry 120) the model's choice. What SAT and NROWS
come to is settled at acceptance, by the entries captured then (R175). -/
def cnvCommand (s : State) (f : CnvForm) (u : Issue) (a : Addr) (l : List Byte) : Except Trap Cmd :=
  let site := siteOf u.p
  let i := s.instAt u.p
  let t : Nat → Trap := fun o => descTrap 0 o a
  let b : Nat → Nat := fun o => field l o 1
  let x := i.tid (b 0)
  let y := i.tid (b 1)
  let dslot := decide (bitsN (b 2) 3 1 = 1)
  let publish := decide (bitsN (b 3) 4 1 = 1)
  let ev := field l 4 2
  let order := BitVec.ofNat 32 (field l 6 2)
  let row0 := field l 8 4
  let nrows := if field l 12 4 = 0 then x.rows - row0 else field l 12 4
  let soff := field l 16 4
  let planes := if y.fmt = 0x20 then 8 else 1
  let dsts := rowEnds y planes row0 nrows
  match firstTrap ([need (decide (b 0 < 64)) (t 0), need (decide (b 1 < 64)) (t 1), need (decide (b 2 < 16)) (t 2),
        need (decide (b 3 < 32) && (dslot || decide (b 3 % 16 = 0))) (t 3),
        need (if dslot then decide (soff % 64 = 0) else decide (soff = 0)) (t 16),
        need ((List.range 12).all (fun o => decide (b (20 + o) = 0))) (t 20)]
      ++ [need x.valid (tidTrap (b 0)), need y.valid (tidTrap (b 1)),
          need (decide (x.rows = y.rows) && decide (x.cols = y.cols)) (t 1),
          need (decide (row0 ≤ x.rows) && decide (row0 + nrows ≤ x.rows)) (t 8), need (cnvPair f x y) (t 1),
          need (decide (f ≠ .scalec) || decide (y.smode ≠ 2) || (decide (row0 = 0) && decide (nrows = x.rows))) (t 8),
          spanTrap s u.p false (rowEnds x 1 row0 nrows),
          if dslot then need (decide (soff + ((planes - 1) * y.rows + nrows) * y.rowLen ≤ 32768)) (t 16)
          else spanTrap s u.p true dsts,
          eventTrap i site 1 ev (t 4) a, need (!(dslot && contributesSlot i site 1 ev)) (t 4),
          need (!publish || (!dslot && publishOk i ev dsts)) (t 3), orderTrap order 16 (some 6) a]) with
  | some e => .error e
  | none =>
    let d : CnvDesc := { stid := b 0, dtid := b 1, rnd := bitsN (b 2) 0 2, sat := decide (bitsN (b 2) 2 1 = 1),
                         dslot := dslot, slot := b 3 % 16, publish := publish, row0 := row0, nrows := field l 12 4, soff := soff }
    .ok (Cmd.withOrder
      { op := match f with
          | .conv => .conv d
          | .planes => .planes d
          | .sparsify => .sparsify d
          | .scalec => .scalec d,
        inst := ((s.instOf u.p).map (·.1)).getD 0, event := if ev = 0xFFFF then none else some ev } order)

/-- CONV: R191, R192. -/
def execConv (a : AReg) (st : BitVec 2) (s : State) : Host.Outcome State Fault Refusal :=
  descCommand s a st 1 32 (cnvCommand s .conv)

/-- PLANES: R191, R192. -/
def execPlanes (a : AReg) (st : BitVec 2) (s : State) : Host.Outcome State Fault Refusal :=
  descCommand s a st 1 32 (cnvCommand s .planes)

/-- SPARSIFY: R191, R192. -/
def execSparsify (a : AReg) (st : BitVec 2) (s : State) : Host.Outcome State Fault Refusal :=
  descCommand s a st 1 32 (cnvCommand s .sparsify)

/-- SCALEC: R191, R193. -/
def execScalec (a : AReg) (st : BitVec 2) (s : State) : Host.Outcome State Fault Refusal :=
  descCommand s a st 1 32 (cnvCommand s .scalec)

/-! ### The TID table (R194) -/

/-- A write of an entry of the table of the instance on a cell: at once, or in twin mode when the other copy's node has made it too
(R194, R261). -/
def State.setTid (s : State) (u : Issue) (n : Nat) (image : TidImage) : State :=
  match s.instOf u.p with
  | none => s
  | some (k, i) =>
    if i.twin.isEmpty then s.performTid k n [] image
    else s.setInst k { i with twinq := i.twinq ++
      [{ second := s.isTwinCell u.p, lcell := (s.cell u.p).lcell, msg := .tid (srcOf u) n image }] }

/-- The read of the image of a TIDSET leaves the cell of a twin-mode group: it is made once, for both copies (R261, R360). -/
def State.tidAway (s : State) (u : Issue) (pl : Place) : Bool := pl.away && !(s.instAt u.p).twin.isEmpty

/-- What a TIDSET does once it may read: the state, and the trap that a poisoned image gives the node (R141, R194). -/
def State.tidset (s : State) (u : Issue) (n : Nat) (pl : Place) (a : Access) : State × List Trap :=
  if s.tidAway u pl then (s.setTid u n (.read a), [])
  else
    let key := s.keyNow a.key a.win
    match poisonTrap s a a.home key a.va false with
    | some t => (s.readHere a, [t])
    | none => ((s.readHere a).setTid u n (.value (BitVec.ofNat 256 (Memory.num s.mem key 32))), [])

/-- TIDSET: R194. The cell holds until the node's accesses to the image's home are performed, the station admits the read in order with
the node's earlier requests (R277), and no atomic holds the image's line (R150); then the image is read there and the entry written, or, poisoned, the node has its trap to take. -/
def execTidset (a : GReg) (b : AReg) (la : Bool) (st : BitVec 2) (s : State) : Host.Outcome State Fault Refusal :=
  issue s { reads := [.g a, .a b], st := st.toNat } preNone fun u =>
    let x := u.n.getA b
    let k : Acc := { size := 32, rd := true }
    match checkAccess s u.p x k with
    | .error t => .trap t
    | .ok pl =>
      let acc := nodeAccess u pl .load k x []
      if s.inFlightTo (srcOf u) pl.home || (!s.tidAway u pl &&
          (s.queues (srcOf u) || !s.admits ((s.instOf u.p).map (·.2)) acc || s.lineBusy pl.key)) then .hold
      else
        let r := (s.fillTlb (siteOf u.p) pl.fill).tidset u (bitsN (u.n.getG a).toNat 0 6) pl acc
        let n := u.n.releaseAll (u.n.locs (if la then [.g a] else []))
        .done r.1 { n with pend := n.pend ++ r.2 } none (u.n.watch x k)

/-- TIDGET: R194. The entry, as the node's earlier writes of it have left it, goes to memory as a store in flight. -/
def execTidget (a : GReg) (b : AReg) (la : Bool) (st : BitVec 2) (s : State) : Host.Outcome State Fault Refusal :=
  issue s { reads := [.g a, .a b], st := st.toNat } preNone fun u =>
    if s.tidPending u then .hold
    else storeBody s u (u.n.getA b) { size := 32, wr := true }
      (Store.get 0 (s.instAt u.p).tids (bitsN (u.n.getG a).toNat 0 6)).toNat (if la then [.g a] else [])

/-- TIDCLR: R194. -/
def execTidclr (a : GReg) (la : Bool) (st : BitVec 2) (s : State) : Host.Outcome State Fault Refusal :=
  issue s { reads := [.g a], st := st.toNat } preNone fun u =>
    .done (s.setTid u (bitsN (u.n.getG a).toNat 0 6) (.value 0)) (u.n.releaseAll (u.n.locs (if la then [.g a] else [])))

end Sys2Proof.Machine
end

