-- ==== Sys2Proof/Machine/Engine.lean ====
section
/-! DEFINITION. Engines at work (R175 to R193, R263 to R274, R351, R354): a command's chunks, what each reads and writes at
its homes, faults during execution, commands that complete unexecuted, gangs, and completion. -/

namespace Sys2Proof.Machine

/-! ### An engine's accesses (R179, R180) -/

/-- The place of every byte of a range passes the checks of R138: the first byte's place, or the first failing trap. -/
def State.rangePlace (s : State) (p a n : Nat) (wr : Bool) : Except Trap Place :=
  let at_ : Nat → Except Trap Place := fun j => checkAccess s p (BitVec.ofNat 64 (a + j)) { size := 1, rd := !wr, wr := wr }
  match (List.range n).findSome? (fun j => match at_ j with
      | .error t => some t
      | .ok _ => none) with
  | some t => .error t
  | none => at_ 0

/-- The request of an engine that reaches address `a` stays without a response (R364). -/
def State.isLost (s : State) (a : Nat) : Bool :=
  match s.par.lost with
  | none => false
  | some (b, n) => decide (b ≤ a) && decide (a < b + n)

/-- In twin mode a packet that an engine would send is noted, to be compared with that of the other copy (R360). -/
def State.note (s : State) (p : Nat) (x : Packet) : State :=
  match s.instOf p with
  | none => s
  | some (k, i) => if i.twin.isEmpty then s else s.setInst k { i with sent := i.sent ++ [x] }

/-- Byte `a` as an engine of cell `p` reads it: as its home gives it, and poison where no response comes (R364). -/
def State.engineByte (s : State) (p a : Nat) : Byte × Bool := if s.isLost a then (0, true) else s.readAddr p a
def State.engineBytes (s : State) (p a n : Nat) : Marked := (List.range n).map (fun j => s.engineByte p (a + j))

/-- A doubleword of a cell's local memory holds resident code, which no engine writes or poisons (R260). -/
def State.codeDword (s : State) (d : Nat) : Bool :=
  decide (keyRegion (8 * d) = 3) && s.codeWrite (keyLow (8 * d) / 2 ^ 17) (8 * d % 2 ^ 17) { size := 8, wr := true }

/-- Bytes at a place: `none` only poisons. -/
def State.putKey (s : State) (key n : Nat) : Option Marked → State
  | some m => if s.absentAt key then s else s.writeKey key m
  | none => if s.absentAt key then s else let s := s.meetWrite key n; { s with poison := poisonAt s.poison key n }

/-- The destination words of an access that a check forbids are poisoned (R179), but for those of resident code (R260, log entry 130). -/
def State.poisonForbidden (s : State) (key n : Nat) : State :=
  if s.absentAt key then s
  else ((dwords key n).filter (fun d => !s.codeDword d)).foldl (fun s d =>
    let s := s.meetWrite (max key (8 * d)) (min (key + n) (8 * d + 8) - max key (8 * d))
    { s with poison := setInsert s.poison d }) s

/-- A write of an engine of cell `p` at address `a`, inside 64 bytes: the state, and whether it was a fault. A published byte
goes to the inactive half of its pair (R186). One to another cell that is sealed is discarded, and one to its own local memory is made
(R354). A write that a page or a code region forbids poisons its words (R179), but for those of resident code (R260). In
twin mode one of the two copies' writes that leave the cell is made (R360). One that stays without a response is dropped
(R364). -/
def State.putAddr (s : State) (p : Nat) (ev : Option Nat) (a n : Nat) (data : Option Marked) : State × Bool :=
  match s.rangePlace p a n true with
  | .error t =>
    if t.cause = .pageProtection then
      match s.rangePlace p a n false with
      | .error _ => (s, true)
      | .ok pl =>
        if pl.away && s.sealedHome pl.home then (s, true)
        else
          let s := s.poisonForbidden (s.keyNow pl.key pl.win) n
          (match pl.mirror with
           | none => s
           | some k => s.poisonForbidden k n, true)
    else (s, true)
  | .ok pl =>
    let s := if pl.away then s.note p
        { cls := 6, dest := packetDest (BitVec.ofNat 64 a), addr := a, size := n, data := (data.map Marked.bytes).getD [] } else s
    if s.isLost a || (s.isTwinCell p && pl.away) then (s, false)
    else if pl.away && s.sealedHome pl.home then (s, false)
    else
      let key := match ev, pl.win with
        | some e, some (_, o) => (s.instAt p).windowKey ((s.instAt p).hidden e o)
        | _, _ => s.keyNow pl.key pl.win
      let s := s.putKey key n data
      (match pl.mirror with
       | none => s
       | some k => s.putKey k n data, false)

/-- Where a command writes: an address, or operand slots of crofts at an offset. -/
inductive Dest where
  | addr (a : Nat)
  | slots (sites : List Nat) (slot off : Nat)

/-- The event of a command whose writes are published. -/
def Cmd.pub (m : Cmd) : Option Nat := if m.dest.2 then m.event else none

/-- Bytes written by a command, part by part; whether a fault was met (log entries 32, 35). -/
def State.put (s : State) (p : Nat) (m : Cmd) (d : Dest) (n : Nat) (data : Option Marked) : State × Bool :=
  match d with
  | .slots l sl off =>
    (l.foldl (fun s site =>
      (if site = siteOf p then s else s.note p
        { cls := 7, dest := (s.instAt p).index site, addr := sl * 2 ^ 15 + off, size := n, data := (data.map Marked.bytes).getD [] }
        ).putKey (keySlot site sl off) n data) s, false)
  | .addr a => (parts a n).foldl (fun acc x =>
      let r := acc.1.putAddr p m.pub x.1 x.2 (data.map (fun b => (b.drop (x.1 - a)).take x.2))
      (r.1, acc.2 || r.2)) (s, false)

/-- The first access of a chunk that meets a page that is not present (R179, log entries 33, 34). -/
def State.pageTrap (s : State) (p : Nat) (l : List Touch) : Option Trap :=
  l.findSome? (fun x => match s.rangePlace p x.addr x.n x.wr with
    | .error t => if t.cause = .pageNotPresent then some t else none
    | .ok _ => none)

/-- The budget that counts an access of an engine. -/
def State.touchKind (s : State) (p : Nat) (x : Touch) : Nat :=
  if x.alu then 4
  else match checkAccess s p (BitVec.ofNat 64 x.addr) { size := 1, rd := true } with
    | .error _ => 0
    | .ok pl => if pl.tier = 1 then 1 else if pl.tier = 2 then 2 else 0

/-- The accesses of the second copy's chunk to its own cell meet their storage (R350); the others are made once (R360). -/
def State.fillOwn (s : State) (p : Nat) (l : List Touch) : State := l.foldl (fun s x => s.meetParts p x true) s

/-- The translation that an address of a chunk is walked for enters the station's cache (R314), and the storage of the walk is met. -/
def State.fillAddr (s : State) (p a : Nat) : State :=
  let s := s.meetAddr p (BitVec.ofNat 64 a)
  match checkAccess s p (BitVec.ofNat 64 a) { size := 1, rd := true } with
  | .error _ => s
  | .ok pl => s.fillTlb (siteOf p) pl.fill

/-- An address lies in tier-2 memory that is absent (R327). -/
def State.absentAddr (s : State) (p a : Nat) : Bool :=
  match checkAccess s p (BitVec.ofNat 64 a) { size := 1, rd := true } with
  | .error _ => false
  | .ok pl => s.absentAt pl.key

/-- An access of a chunk: each part's translation is walked for, its storage met, and tier-2 memory that is absent under some part
reported, once. -/
def State.fillTouch (s : State) (p : Nat) (x : Touch) : State :=
  let s := ((parts x.addr x.n).foldl (fun s y => s.fillAddr p y.1) s).meetParts p x
  match (parts x.addr x.n).find? (fun y => s.absentAddr p y.1) with
  | none => s
  | some y => s.reportCell p .translationWalkError ({ size := 1, rd := !x.wr, wr := x.wr } : Acc).detail (BitVec.ofNat 64 y.1)

/-- The accesses of a chunk. -/
def State.fillTouches (s : State) (p : Nat) (l : List Touch) : State := l.foldl (fun s x => s.fillTouch p x) s

/-- The reads of a chunk that leave the cell, as packets (R360). -/
def State.readPackets (s : State) (p : Nat) (l : List Touch) : List Packet :=
  (l.filter (fun x => !x.wr && (match checkAccess s p (BitVec.ofNat 64 x.addr) { size := 1, rd := true } with
    | .error _ => false
    | .ok pl => pl.away))).map
    (fun x => { cls := 0, dest := packetDest (BitVec.ofNat 64 x.addr), addr := x.addr, size := x.n, data := [] })

/-- A chunk of a command: its accesses, the operand slots and tiles that it reads, its effect with whether it met a fault, where
the command stands after it, and the operands that an MMA keeps for its further chunks. -/
structure Chunk where
  touches : List Touch := []
  meets : State → State := id
  run : State → State × Bool
  next : Nat
  row : Option (Nat × Bool) := none
  keep : State → Option Operands := fun _ => none

/-! ### Copies (R188 to R190) -/

/-- Progress of a copy counts runs × 2^25 and bytes done in the run. -/
abbrev runUnit : Nat := 2 ^ 25

/-- An address as a number. -/
def addrNat (x : Int) : Nat := (x % (2 ^ 64 : Nat)).toNat

/-- The sites that a slot designation selects, in the copy of the issuing croft. -/
def CpyDesc.targetSites (d : CpyDesc) (i : Inst) (site : Nat) : List Nat :=
  ((d.targets i.image.w i.image.h).getD []).map (fun x => (if i.twin.contains site then i.twin else i.sites).getD x 0)

/-- The destination of byte `done` of run `r`. -/
def CpyDesc.destAt (d : CpyDesc) (i : Inst) (site r done : Nat) : Dest × Nat :=
  let o := d.base + (r / d.count1 : Nat) * d.dstride2 + (r % d.count1 : Nat) * d.dstride1 + done
  if d.dkind then (.slots (d.targetSites i site) d.slotNo o.toNat, o.toNat) else (.addr (addrNat o), addrNat o)

/-- One element combined at its home (R189): a poisoned destination stays poisoned, and so does one whose source is. -/
def State.combineElem (s : State) (p : Nat) (m : Cmd) (d : CpyDesc) (a : Nat) (x : Marked) : State × Bool :=
  match s.rangePlace p a x.length true with
  | .error _ => s.putAddr p m.pub a x.length (some x)
  | .ok pl =>
    let s := s.note p { cls := 8 + d.cop, dest := d.ctype, addr := a, size := x.length, data := x.bytes }
    if s.isLost a || s.isTwinCell p then (s, false)
    else if s.absentAt pl.key then (s, true)
    else
      let key := match m.pub, pl.win with
        | some e, some (_, o) => (s.instAt p).windowKey ((s.instAt p).hidden e o)
        | _, _ => s.keyNow pl.key pl.win
      let bad := x.bad || poisonedAt s.poison key x.length
      let v := opElem d.ctype d.cop (Memory.num s.mem key x.length) (leNat x.bytes)
      let s := { s with mem := Memory.setNum s.mem key x.length v }
      ({ s with poison := if bad then poisonAt s.poison key x.length else s.poison }, bad)

/-- The elements of a chunk, in increasing index. -/
def State.combineGo (p : Nat) (m : Cmd) (d : CpyDesc) : Nat → Nat → Marked → State × Bool → State × Bool
  | 0, _, _, acc => acc
  | f + 1, a, x, acc =>
    if x.isEmpty then acc
    else
      let w := elemBytes d.ctype
      let r := acc.1.combineElem p m d a (x.take w)
      State.combineGo p m d f (a + w) (x.drop w) (r.1, acc.2 || r.2)

/-- The next chunk of a copy: read, then written (R188). -/
def copyChunk (s : State) (i : Inst) (p : Nat) (m : Cmd) (e : Engine) (d : CpyDesc) (gather combine : Bool) : Chunk :=
  let r := e.prog / runUnit
  let done := e.prog % runUnit
  let i1 := r % d.count1
  let row : Nat × Bool := match e.row with
    | some x => x
    | none =>
      if gather then let b := s.engineBytes p (d.idx.toNat + 4 * i1) 4; (leNat b.bytes, b.bad) else (i1, false)
  let src := addrNat (d.src.toNat + (r / d.count1 : Nat) * d.sstride2 + (row.1 : Int) * d.sstride1 + done)
  let dst := d.destAt i (siteOf p) r done
  let n := min (d.len0 - done) (64 - dst.2 % 64)
  let last := decide (done + n = d.len0)
  { touches := (if gather && e.row.isNone then [{ addr := d.idx.toNat + 4 * i1, n := 4 }] else [])
      ++ (if row.2 then [] else [{ addr := src, n := n }])
      ++ (if d.dkind then []
          else [{ addr := dst.2, n := n, wr := true, alu := combine, unit := if combine then elemBytes d.ctype else 64 }]),
    run := fun s =>
      let data : Marked := if row.2 then List.replicate n (0, true) else s.engineBytes p src n
      let w := if combine then State.combineGo p m d n dst.2 data (s, false) else s.put p m dst.1 n (some data)
      (w.1, w.2 || data.bad),
    next := if last then (r + 1) * runUnit else e.prog + n,
    row := if last then none else some row }

/-! ### The matrix engine (R183 to R186, R271, R272, R351) -/

/-- Bytes of an operand slot. -/
def State.slotBytes (s : State) (site sl off n : Nat) : Marked := s.readKey (keySlot site sl off) n

/-- Row `r` of operand A, element by element: its value and whether it is poisoned; none where structurally absent. -/
def rowA (s : State) (site sl : Nat) (t : Tid) (r : Nat) : List (Option (Num × Bool)) :=
  let w := fmtBits t.fmt
  if t.fmt = 0x20 then
    let n := t.rowLen
    let pl := (List.range t.planes).map (fun j => s.slotBytes site sl (j * t.rows * n + r * n) n)
    (List.range t.cols).map (fun c =>
      let bits := pl.map (fun m => (m.getD (c / 8) (0, false)))
      let q := bits.foldl (fun acc b => 2 * acc + bitsN b.1.toNat (c % 8) 1) 0
      some (ofInt false (nested t.planes (q * 2 ^ (8 - t.planes))) 0, bits.any (·.2)))
  else if t.sparse ≠ 0 then
    (List.range (t.cols / 32)).flatMap (fun g =>
      let b := s.slotBytes site sl (r * t.rowLen + g * t.groupLen) t.groupLen
      let kept := maskBits t.slots (leNat (b.bytes.take 4))
      let vals := Marked.bytes (b.drop 4)
      (List.range 32).map (fun j => match kept.findIdx? (· == j) with
        | none => none
        | some x =>
          let sp := spanOf w x
          some (elemNum t.fmt (elemOf w vals x), Marked.bad (b.take 4) || Marked.bad (((b.drop 4).drop sp.1).take sp.2))))
  else
    let b := s.slotBytes site sl (r * t.rowLen) t.rowLen
    (List.range t.cols).map (fun c =>
      let sp := spanOf w c
      some (elemNum t.fmt (elemOf w b.bytes c), Marked.bad ((b.drop sp.1).take sp.2)))

/-- Row `r` of A is met (R350): only the planes that the MMA reads, and the row's own bytes (R271). -/
def meetRowA (s : State) (site sl : Nat) (t : Tid) (r : Nat) : State :=
  if t.fmt = 0x20 then
    (List.range t.planes).foldl (fun s j => s.inspect (keySlot site sl (j * t.rows * t.rowLen + r * t.rowLen)) t.rowLen) s
  else s.inspect (keySlot site sl (r * t.rowLen)) t.rowLen

/-- The operands of an MMA are met: the rows of B under the elements that some row of A has (R350). -/
def meetOperands (site a b : Nat) (ta tb : Tid) (s : State) : State :=
  if s.flaws.isEmpty then s
  else
    let s := (List.range ta.rows).foldl (fun s r => meetRowA s site a ta r) s
    let has := (List.range ta.rows).map (rowA s site a ta)
    (List.range ta.cols).foldl (fun s k =>
      if has.any (fun l => (l.getD k none).isSome) then s.inspect (keySlot site b (k * tb.rowLen)) tb.rowLen else s) s

/-- A place lies in one of two operand slots of a croft. -/
def inSlots (site a b key : Nat) : Bool :=
  [a, b].any (fun sl => decide (keySlot site sl 0 ≤ key) && decide (key < keySlot site sl 32768))
/-- The operand slots of an MMA as it reads them now: every line of them once (R202). -/
def State.capture (s : State) (site a b : Nat) : Operands :=
  { mem := s.mem.filter (fun c => inSlots site a b c.1), poison := s.poison.filter (fun d => inSlots site a b (8 * d)) }
/-- The operands of the MMA at the head of an engine: those that it has read, or, at its first chunk, those that it reads. -/
def State.operands (s : State) (e : Engine) (site a b : Nat) : Operands := e.operands.getD (s.capture site a b)
/-- The state in which an MMA finds its operands as it read them. -/
def State.seeing (s : State) (o : Operands) : State := { s with mem := o.mem, poison := o.poison }

/-- A poisoned mask makes every element of its group count as read poisoned, those it hides included (R351). -/
def badGroups (s : State) (site sl : Nat) (t : Tid) (r : Nat) : Bool :=
  decide (t.sparse ≠ 0) && (List.range (t.cols / 32)).any (fun g => (s.slotBytes site sl (r * t.rowLen + g * t.groupLen) 4).bad)

/-- Element (k, j) of operand B. -/
def elemB (s : State) (site sl : Nat) (t : Tid) (k j : Nat) : Num × Bool :=
  let w := fmtBits t.fmt
  let sp := spanOf w j
  let b := s.slotBytes site sl (k * t.rowLen + sp.1) sp.2
  (elemNum t.fmt (leNat b.bytes / 2 ^ (w * j % 8) % 2 ^ w), b.bad)

/-- The exact product of two operand elements as an integer; both are (R58). -/
def numInt : Num → Int
  | .fin s m e _ => let x : Int := (m * 2 ^ e.toNat : Nat); if s then -x else x
  | _ => 0

/-- One product added to an element of a tile (R56): it is never -0, so a sum that rounds to zero is +0 (log entry 132). -/
def addFa40 (s : Nat) (x : Num × Num) : Nat :=
  let r := (roundNum fa40 0 false (addNum 0 (unpack fa40 s) (mulNum x.1 x.2).1).1).1
  if r = 2 ^ 39 then 0 else r

/-- The FA40 sequence of R56 over the products of a row of A and a column of B. -/
def sumFa40 (acc : Nat) (l : List (Num × Num)) : Nat := l.foldl addFa40 acc

/-- The INT32 sum of R58, as the tile's 40 bits. -/
def sumInt32 (acc : Nat) (l : List (Num × Num)) : Nat :=
  unsgn 40 (sgn 32 (unsgn 32 (l.foldl (fun s x => s + numInt x.1 * numInt x.2) (sgn 32 acc))))

/-- An element of a tile. -/
def State.tile (s : State) (site acc r c : Nat) : Nat := Memory.num s.mem (keyTile site acc r c) 5
def State.tileBad (s : State) (site acc r c : Nat) : Bool := s.poison.contains (keyTile site acc r c / 8)
def State.setTile (s : State) (site acc r c v : Nat) (bad : Bool) : State :=
  { s with mem := Memory.setNum s.mem (keyTile site acc r c) 5 v,
           poison := if bad then setInsert s.poison (keyTile site acc r c / 8) else s.poison }

/-- Row `r` of an MMA (R184), its operands as `o` gives them. -/
def mmaRow (s : State) (o : Operands) (site a b acc : Nat) (ta tb : Tid) (r : Nat) : State × Bool :=
  let v := s.seeing o
  let ra := rowA v site a ta r
  let hid := badGroups v site a ta r
  let ints := [0x03, 0x01, 0x20].contains ta.fmt
  (List.range tb.cols).foldl (fun st j =>
    let ps := (List.zip (List.range ta.cols) ra).filterMap (fun x => x.2.map (fun w => (w, elemB v site b tb x.1 j)))
    let bad := hid || ps.any (fun x => x.1.2 || x.2.2)
    let l := ps.map (fun x => (x.1.1, x.2.1))
    let old := s.tile site acc r j
    (st.1.setTile site acc r j (if ints then sumInt32 (old % 2 ^ 32) l else sumFa40 old l) bad, st.2 || bad)) (s, false)

/-- A whole tile zeroed, its poison and every error gone (R185, R350, R351); or, unexecuted, poisoned. -/
def State.zeroTile (s : State) (site acc : Nat) : State :=
  let k := keyTile site acc 0 0
  { s.renew k (2 ^ 17) with mem := Memory.clear s.mem k (2 ^ 17), poison := s.poison.filter (fun d => !(k ≤ 8 * d && 8 * d < k + 2 ^ 17)) }
def State.poisonTile (s : State) (site acc m n : Nat) : State :=
  let s := (List.range m).foldl (fun s r => s.renew (keyTile site acc r 0) (8 * n)) s
  { s with poison := (List.range m).foldl (fun p r =>
      (List.range n).foldl (fun p c => setInsert p (keyTile site acc r c / 8)) p) s.poison }

/-- A scale word read at its home (R64, R65): its value and whether it came from poison. -/
def scaleWord (s : State) (p : Nat) (t : Tid) (r c : Nat) : Nat × Bool :=
  let b := s.engineBytes p (t.scaleAddr r c) 4
  (leNat b.bytes, b.bad)

/-- A row of elements with their marks, as bytes. -/
def markRow (w : Nat) (l : List (Nat × Bool)) : Marked :=
  let bytes := packRow w (l.map (·.1))
  let bad := ((List.zip (List.range l.length) l).filter (·.2.2)).map (fun x => spanOf w x.1)
  List.zip bytes ((List.range bytes.length).map (fun j => bad.any (fun x => decide (x.1 ≤ j) && decide (j < x.1 + x.2))))

/-- Row `r` of a drain (R186). -/
def drainRow (s : State) (p acc : Nat) (itype : Bool) (t : Tid) (r : Nat) : Marked :=
  markRow (fmtBits t.fmt) ((List.range t.cols).map (fun c =>
    let sc := if t.smode = 0 then none else some (scaleWord s p t r c)
    (drainElem itype t (s.tile (siteOf p) acc r c) (sc.map (·.1)), s.tileBad (siteOf p) acc r c || ((sc.map (·.2)).getD false))))

/-! ### The conversion engine (R191 to R193) -/

/-- The destinations of row `r`: one, or eight planes (R54, R183). -/
def CnvDesc.dests (d : CnvDesc) (t : Tid) (site r : Nat) : List Dest :=
  (List.range (if t.fmt = 0x20 then 8 else 1)).map (fun j =>
    if d.dslot then .slots [site] d.slot (d.soff + (j * t.rows + (r - d.row0)) * t.rowLen)
    else .addr ((t.base + (j * t.rows + r) * t.stride) % 2 ^ 64))

/-- The rows of a destination written. -/
def State.putRows (s : State) (p : Nat) (m : Cmd) : List Dest → List (Option Marked) → Nat → State × Bool
  | d :: ds, x :: xs, n =>
    let r := s.put p m d n x
    let t := r.1.putRows p m ds xs n
    (t.1, r.2 || t.2 || ((x.map Marked.bad).getD true))
  | _, _, _ => (s, false)

/-- The elements of row `r` of the source, each with its mark. -/
def sourceRow (s : State) (p : Nat) (t : Tid) (r : Nat) : List (Nat × Bool) :=
  let b := s.engineBytes p (t.base + r * t.stride) t.rowLen
  let w := fmtBits t.fmt
  (List.range t.cols).map (fun c => let sp := spanOf w c; (elemOf w b.bytes c, Marked.bad ((b.drop sp.1).take sp.2)))

/-- A group's mark reaches its 32 elements. -/
def groupMarks (n : Nat) : Nat → List (Nat × Bool) → List Bool
  | 0, _ => []
  | g + 1, l => List.replicate n ((l.take 32).any (·.2)) ++ groupMarks n g (l.drop 32)

/-- Row `r` converted by a form other than SCALEC: the bytes of each plane. A CONV rounds in the descriptor's RND whatever its source
format, an FA40 source too, where the row FA40 of R52 says RNE (R48, R192, log entry 100). -/
def convRow (s : State) (p : Nat) (f : CnvForm) (d : CnvDesc) (a b : Tid) (r : Nat) : List Marked :=
  let l := sourceRow s p a r
  match f with
  | .planes => (List.range 8).map (fun j =>
      List.zip (planeRow j (l.map (·.1))) ((List.range b.rowLen).map (fun k => ((l.drop (8 * k)).take 8).any (·.2))))
  | .sparsify => [List.zip (sparseRow b (b.cols / 32) (l.map (·.1))) (groupMarks b.groupLen (b.cols / 32) l)]
  | _ => [markRow (fmtBits b.fmt) ((List.zip (List.range l.length) l).map (fun x =>
      if b.smode = 0 then (toElem b.fmt d.rnd d.sat (elemNum a.fmt x.2.1), x.2.2)
      else
        let sc := scaleWord s p b r x.1
        (toElem b.fmt d.rnd d.sat (scaleNum (elemNum a.fmt x.2.1) sc.1), x.2.2 || sc.2)))]

/-- The scale groups of rows `r` on, `n` of them: scale address and elements (row, column), in ascending address. -/
def scaleGroups (t : Tid) (r n : Nat) : List (Nat × List (Nat × Nat)) :=
  if t.smode = 1 then (List.range n).map (fun j => (t.scaleAddr (r + j) 0, (List.range t.cols).map (fun c => (r + j, c))))
  else if t.smode = 2 then
    (List.range t.cols).map (fun c => (t.scaleAddr 0 c, (List.range n).map (fun j => (r + j, c))))
  else
    (List.range n).flatMap (fun j => (List.range ((t.cols + 127) / 128)).map (fun b =>
      (t.scaleAddr (r + j) (128 * b), (List.range (min 128 (t.cols - 128 * b))).map (fun c => (r + j, 128 * b + c)))))

/-- Rows `r` on, `n` of them, scaled by SCALEC: the scales written, then the rows (R193). -/
def scalecRows (s : State) (p : Nat) (m : Cmd) (d : CnvDesc) (a b : Tid) (r n : Nat) : State × Bool :=
  let src := (List.range n).map (fun j => sourceRow s p a (r + j))
  let elem : Nat × Nat → Nat × Bool := fun x => ((src.getD (x.1 - r) []).getD x.2 (0, false))
  let gs := (scaleGroups b r n).map (fun g =>
    let l := g.2.map elem
    (g.1, g.2, groupScale a.fmt b.fmt d.rnd (l.map (·.1)), l.any (·.2)))
  let st := gs.foldl (fun acc g =>
    let w := acc.1.put p { m with event := none } (.addr (g.1 % 2 ^ 64)) 4 (some ((leBytes 4 g.2.2.1).map (fun x => (x, g.2.2.2))))
    (w.1, acc.2 || w.2 || g.2.2.2)) (s, false)
  (List.range n).foldl (fun acc j =>
    let row := (List.range b.cols).map (fun c => match gs.find? (fun g => g.2.1.contains (r + j, c)) with
      | none => (0, false)
      | some g => (quantElem a.fmt b.fmt d.rnd g.2.2.1 (elem (r + j, c)).1, g.2.2.2))
    let w := acc.1.putRows p m (d.dests b (siteOf p) (r + j)) [some (markRow (fmtBits b.fmt) row)] b.rowLen
    (w.1, acc.2 || w.2)) st

/-- The accesses of a row of a tensor, by planes. -/
def rowTouches (t : Tid) (planes r : Nat) (wr : Bool) : List Touch :=
  (List.range planes).map (fun j => { addr := (t.base + (j * t.rows + r) * t.stride) % 2 ^ 64, n := t.rowLen, wr := wr })
/-- The accesses of the scales of a row. -/
def scaleTouches (t : Tid) (r : Nat) (wr : Bool) : List Touch :=
  if t.smode = 0 then [] else ((List.range t.cols).map (t.scaleAddr r)).eraseDups.map (fun a => { addr := a % 2 ^ 64, n := 4, wr := wr })

/-- The next chunk of a conversion: a row, or every row of a SCALEC with per-column scales, each of which it writes once. -/
def convChunk (p : Nat) (m : Cmd) (e : Engine) (f : CnvForm) (d : CnvDesc) : Chunk :=
  let a := Tid.of m.tid1
  let b := Tid.of m.tid2
  let whole := decide (f = .scalec) && decide (b.smode = 2)
  let rows := if whole then (List.range d.nrows).map (· + d.row0) else [d.row0 + e.prog]
  { touches := rows.flatMap (fun r => rowTouches a 1 r false
      ++ (if (f = .scalec ∨ f = .conv) ∧ (whole = false ∨ r = d.row0) then scaleTouches b r (decide (f = .scalec)) else [])
      ++ (if d.dslot then [] else rowTouches b (if b.fmt = 0x20 then 8 else 1) r true)),
    run := fun s =>
      if f = .scalec then scalecRows s p m d a b (d.row0 + (if whole then 0 else e.prog)) (if whole then d.nrows else 1)
      else
        let r := d.row0 + e.prog
        s.putRows p m (d.dests b (siteOf p) r) ((convRow s p f d a b r).map some) b.rowLen,
    next := if whole then d.nrows else e.prog + 1 }

/-! ### One command -/

/-- How far a command goes before it is done. -/
def Cmd.total (m : Cmd) : Nat :=
  match m.op with
  | .mma .. => (Tid.of m.tid1).rows
  | .mzero _ => 1
  | .mdrain .. => (Tid.of m.tid1).rows
  | .copy d => d.count1 * d.count2 * runUnit
  | .copyg d => d.count1 * d.count2 * runUnit
  | .copyop d => d.count1 * d.count2 * runUnit
  | .conv d => d.nrows
  | .planes d => d.nrows
  | .sparsify d => d.nrows
  | .scalec d => d.nrows

/-- The next chunk of the command at the head of engine `eng` of a croft. -/
def chunkOf (s : State) (i : Inst) (site eng : Nat) (m : Cmd) (e : Engine) : Chunk :=
  let p := 4 * site + eng
  match m.op with
  | .mma a b acc _ _ _ =>
    let ta := Tid.of m.tid1
    let tb := Tid.of m.tid2
    { meets := fun s =>
        (if e.operands.isSome then s else meetOperands site a b ta tb s).inspect (keyTile site acc e.prog 0) (8 * tb.cols),
      run := fun s => mmaRow s (s.operands e site a b) site a b acc ta tb e.prog, next := e.prog + 1,
      keep := fun s => some (s.operands e site a b) }
  | .mzero acc => { run := fun s => (s.zeroTile site acc, false), next := 1 }
  | .mdrain acc itype _ _ =>
    let t := Tid.of m.tid1
    { touches := rowTouches t 1 e.prog true ++ scaleTouches t e.prog false,
      meets := fun s => s.inspect (keyTile site acc e.prog 0) (8 * t.cols),
      run := fun s =>
        let row := drainRow s p acc itype t e.prog
        let w := s.put p m (.addr ((t.base + e.prog * t.stride) % 2 ^ 64)) t.rowLen (some row)
        (w.1, w.2 || row.bad),
      next := e.prog + 1 }
  | .copy d => copyChunk s i p m e d false false
  | .copyg d => copyChunk s i p m e d true false
  | .copyop d => copyChunk s i p m e d false true
  | .conv d => convChunk p m e .conv d
  | .planes d => convChunk p m e .planes d
  | .sparsify d => convChunk p m e .sparsify d
  | .scalec d => convChunk p m e .scalec d

/-- The destinations of a command in memory and in operand slots, each with its length in bytes and whether it is one that PUBLISH
concerns, as the scales of a SCALEC are not (R186 to R193). -/
def Cmd.targets (m : Cmd) (i : Inst) (site : Nat) : List (Bool × Dest × Nat) :=
  let t := Tid.of m.tid2
  let cnv : CnvDesc → List (Bool × Dest × Nat) := fun d =>
    (List.range d.nrows).flatMap (fun j => (d.dests t site (d.row0 + j)).map (fun x => (true, x, t.rowLen)))
  let cpy : CpyDesc → List (Bool × Dest × Nat) := fun d =>
    (List.range (d.count1 * d.count2)).map (fun r => (true, (d.destAt i site r 0).1, d.len0))
  match m.op with
  | .mma .. => []
  | .mzero _ => []
  | .mdrain .. =>
    let t := Tid.of m.tid1
    (List.range t.rows).map (fun r => (true, .addr ((t.base + r * t.stride) % 2 ^ 64), t.rowLen))
  | .copy d => cpy d
  | .copyg d => cpy d
  | .copyop d => cpy d
  | .conv d => cnv d
  | .planes d => cnv d
  | .sparsify d => cnv d
  | .scalec d => (scaleGroups t d.row0 d.nrows).map (fun g => (false, .addr (g.1 % 2 ^ 64), 4)) ++ cnv d

/-- A write that only poisons reaches memory as any write of the engine does (R325, R327). -/
def State.fillDest (s : State) (p : Nat) (d : Dest) (n : Nat) : State :=
  match d with
  | .slots .. => s
  | .addr a => s.fillTouch p { addr := a, n := n, wr := true }

/-- Every destination doubleword of a command that completes unexecuted is poisoned (R270, R354). -/
def State.taint (s : State) (i : Inst) (site eng : Nat) (m : Cmd) : State :=
  match m.op with
  | .mma _ _ acc _ _ _ => s.poisonTile site acc (Tid.of m.tid1).rows (Tid.of m.tid2).cols
  | .mzero acc => s.poisonTile site acc 128 128
  | _ => (m.targets i site).foldl (fun s x =>
      ((s.fillDest (4 * site + eng) x.2.1 x.2.2).put (4 * site + eng) (if x.1 then m else { m with event := none }) x.2.1 x.2.2 none).1) s

/-! ### Faults, gangs and the steps -/

/-- The first fault of a command is reported (R179): engine in detail [25:24], bits [11:8] of its order control in [19:16]. -/
def State.enginePoison (s : State) (site eng : Nat) (m : Cmd) : State :=
  let e := s.engine site eng
  if e.faulted then s
  else
    (s.setEngine site eng { e with faulted := true }).reportCell (4 * site + eng) .enginePoison
      (BitVec.ofNat 16 (256 * (eng + 1) + (if m.seten then 8 else 0) + m.oslot))

/-- A gang step on a domain of which a thresh cell is sealed (R270): one of the cells on which the domain runs now, so a domain restored
on other crofts has ordinary steps again (log entry 107). -/
def State.gangDead (s : State) (i : Inst) (m : Cmd) : Bool :=
  m.isGang && i.allSites.any (fun c => (s.cell (4 * c + 2)).isSealed)

/-- The command at the head of an engine whose WAIT is met. -/
def State.headReady (s : State) (site eng : Nat) : Option (Cmd × Engine) :=
  let e := s.engine site eng
  match e.queue with
  | [] => none
  | m :: _ => if m.waitMet (s.croft site) then some (m, e) else none

/-- An engine may work on the command at its head: it is not held, its clock runs, and a gang step has its start. -/
def State.engineDue (s : State) (site eng : Nat) : Bool :=
  match s.headReady site eng with
  | none => false
  | some (m, e) =>
    e.heldFor.isNone && s.clockOn (4 * site + eng) && decide (e.prog < m.total ∨ !e.begun) &&
      (e.begun || e.dead || s.gangDead (s.instD m.inst) m || !m.isGang)

/-- The requests of a chunk: parts of its accesses, and of a combination its elements (R188, R277). -/
def Chunk.requests (c : Chunk) : List Touch := c.touches.flatMap Touch.split

/-- The station admits requests one by one while the budget of each is open: the state, and how many it admitted (R277). -/
def State.admitTouches (i : Inst) (p : Nat) : List Touch → State → State × Nat
  | [], s => (s, 0)
  | x :: t, s =>
    if s.budgetOpen (siteOf p) (s.touchKind p x) i then
      let r := State.admitTouches i p t (s.spend (siteOf p) (s.touchKind p x) x.n)
      (r.1, r.2 + 1)
    else (s, 0)
/-- The station of an engine in state `e` admits what it can of the rest of a chunk's requests. -/
def State.admitChunk (s : State) (i : Inst) (p : Nat) (c : Chunk) (e : Engine) : State × Nat :=
  State.admitTouches i p (c.requests.drop e.paid) s
/-- Every request of the chunk is admitted in this period. -/
def State.chunkOpen (s : State) (i : Inst) (p : Nat) (c : Chunk) (e : Engine) : Bool :=
  decide (c.requests.length ≤ e.paid + (s.admitChunk i p c e).2)

/-- The bridge holds a line of the chunk for an atomic that it has not written yet (R150). -/
def State.chunkWaits (s : State) (p : Nat) (c : Chunk) : Bool := c.requests.any (fun x => s.lineWaits p x.addr)

/-- The bridge holds a line of a destination that the command would write poisoned, unexecuted (R150). -/
def State.taintWaits (s : State) (i : Inst) (site eng : Nat) (m : Cmd) : Bool :=
  s.net.any (·.read.isSome) && (m.targets i site).any (fun x => match x.2.1 with
    | .slots .. => false
    | .addr a => (parts a x.2.2).any (fun y => s.lineWaits (4 * site + eng) y.1))

/-- The engine is held at an access for page service (R179). -/
def State.engineHeld (s : State) (site eng : Nat) (t : Trap) : State :=
  s.setEngine site eng { s.engine site eng with begun := true, heldFor := some t }
/-- The engine has done a chunk, keeps what an MMA read of its operands, and reports the first fault of its command. -/
def State.engineMoved (s : State) (site eng : Nat) (m : Cmd) (c : Chunk) (o : Option Operands) (fault : Bool) : State :=
  let e := { s.engine site eng with
    begun := true, prog := c.next, row := c.row, operands := o, noFrame := false, paid := 0 }
  let s := s.setEngine site eng e
  if fault then s.enginePoison site eng m else s

/-- The command at the head of an engine goes on by a chunk: R175, R177, R179, R188, R270, R354 (log entry 31). -/
def State.engineAlone (s : State) (site eng : Nat) (m : Cmd) (e : Engine) : State :=
  let i := s.instD m.inst
  let p := 4 * site + eng
  if !e.begun && (e.dead || s.gangDead i m) then
    if s.taintWaits i site eng m then s
    else ((s.taint i site eng m).setEngine site eng { e with begun := true, prog := m.total }).enginePoison site eng m
  else if decide (m.total ≤ e.prog) then s.setEngine site eng { e with begun := true }
  else
    let c := chunkOf s i site eng m e
    if s.chunkWaits p c then s
    else match (if e.noFrame then none else s.pageTrap p c.touches) with
    | some t => (s.engineHeld site eng t).reportCell p .pageNotPresent t.detail t.taddr
    | none =>
      let a := s.admitChunk i p c e
      if !s.chunkOpen i p c e then a.1.setEngine site eng { e with paid := e.paid + a.2 }
      else
        let s := c.meets (a.1.fillTouches p c.touches)
        let r := c.run s
        r.1.engineMoved site eng m c (c.keep s) r.2

/-- A chunk of one copy of a twin-mode group: the state, whether it met a fault, and the packets that it would send. -/
def State.copyRun (s : State) (k p : Nat) (c : Chunk) : State × Bool × List Packet :=
  let r := c.run (s.onInst k (fun i => { i with sent := [] }))
  (r.1.onInst k (fun i => { i with sent := [] }), r.2, s.readPackets p c.touches ++ (r.1.instD k).sent)

/-- The engines of croft `x` of a twin-mode group do a chunk together: what the copies would send is compared, a read is
answered to both, and a write that leaves its cell is made once (R360, log entry 35). -/
def State.enginesTwin (s : State) (k x eng : Nat) (m1 m2 : Cmd) (e1 e2 : Engine) : State :=
  let i := s.instD k
  let a := i.sites.getD x 0
  let b := i.twin.getD x 0
  if m1.total ≤ e1.prog ∨ m2.total ≤ e2.prog then
    let s := if m1.total ≤ e1.prog then s.setEngine a eng { e1 with begun := true } else s
    if m2.total ≤ e2.prog then s.setEngine b eng { e2 with begun := true } else s
  else
    let c1 := chunkOf s i a eng m1 e1
    let c2 := chunkOf s i b eng m2 e2
    let p := 4 * a + eng
    if s.chunkWaits p c1 then s
    else match (if e1.noFrame then none else s.pageTrap p c1.touches) with
    | some t => ((s.engineHeld a eng t).engineHeld b eng t).reportCell p .pageNotPresent t.detail t.taddr
    | none =>
      let s0 := c2.meets (c1.meets ((s.fillTouches p c1.touches).fillOwn (4 * b + eng) c2.touches))
      let r2 := s0.copyRun k (4 * b + eng) c2
      let r1 := r2.1.copyRun k p c1
      if r1.2.2.map Packet.hash ≠ r2.2.2.map Packet.hash then s.twinMismatch k (4 * x + eng) 0
      else
        let w := s.admitChunk i p c1 e1
        if !s.chunkOpen i p c1 e1 then w.1.setEngine a eng { e1 with paid := e1.paid + w.2 }
        else
          let s := State.admitTouches i p (c1.requests.drop e1.paid) r1.1
          (s.1.engineMoved a eng m1 c1 (c1.keep s0) r1.2.1).engineMoved b eng m2 c2 (c2.keep s0) r2.2.1

/-- The command at the head of an engine goes on, in twin mode with that of the other copy. -/
def State.engineStep (s : State) (site eng : Nat) : State :=
  match s.headReady site eng with
  | none => s
  | some (m, e) =>
    let i := s.instD m.inst
    if i.twin.isEmpty then s.engineAlone site eng m e
    else
      let x := i.index site
      let a := i.sites.getD x 0
      let b := i.twin.getD x 0
      match s.headReady a eng, s.headReady b eng with
      | some (m1, e1), some (m2, e2) =>
        if s.engineDue a eng && s.engineDue b eng then s.enginesTwin m.inst x eng m1 m2 e1 e2 else s
      | _, _ => s

/-- In twin mode a TIDSET or TIDCLR of the command's node that its station still holds comes before the command's capture of its
entries (R194, R261). -/
def State.tidHeld (s : State) (site eng : Nat) : Bool :=
  match s.instOf (4 * site + eng) with
  | none => false
  | some (_, i) => i.twinq.any (fun t => match t.msg with
    | .tid src _ _ => decide (src.cell = 4 * site + eng)
    | _ => false)

/-- COMMAND_ACCEPTANCE: R175, R177, the command at the second issue cycle enters its queue when there is room. -/
def execCommandAcceptance (s : State) : Host.Outcome State Fault Refusal :=
  .next (match (s.engine s.par.site s.par.eng).atIssue with
    | none => s
    | some m =>
      if (s.engine s.par.site s.par.eng).full || s.tidHeld s.par.site s.par.eng then s else s.accept s.par.site s.par.eng m)

/-- COMMAND_EXECUTION: R175, R177, R179. -/
def execCommandExecution (s : State) : Host.Outcome State Fault Refusal :=
  let s := { s with par := { s.par with lost := none } }
  .next (if s.engineDue s.par.site s.par.eng then s.engineStep s.par.site s.par.eng else s)

/-- Every write of the command at the head is performed. -/
def State.commandDone (s : State) (site eng : Nat) : Bool :=
  match (s.engine site eng).queue with
  | [] => false
  | m :: _ => (s.engine site eng).begun && decide (m.total ≤ (s.engine site eng).prog)

/-- COMMAND_COMPLETION: R178, R264, R273. -/
def execCommandCompletion (s : State) : Host.Outcome State Fault Refusal :=
  .next (if s.commandDone s.par.site s.par.eng then s.completeCmd s.par.site s.par.eng else s)

/-- A croft has its step of gang `n` at the head of its matrix engine with its WAIT met. -/
def State.gangReady (s : State) (n site : Nat) : Bool :=
  match s.headReady site 2 with
  | none => false
  | some (m, e) => decide (m.gang = some n) && !e.begun && e.gangAt.isNone

/-- Gang `n` of an instance may start. -/
def State.gangDue (s : State) (k : Nat) : Bool :=
  match s.inst? k with
  | none => false
  | some i => !i.allSites.isEmpty && i.allSites.all (s.gangReady i.gangs)

/-- GANG_START: R268. Each croft's step may begin after its stagger delay (R276). -/
def execGangStart (s : State) : Host.Outcome State Fault Refusal :=
  .next (if s.gangDue s.par.inst then
      let i := s.instD s.par.inst
      (i.allSites.foldl (fun s site => s.setEngine site 2 { s.engine site 2 with
          gangAt := some ((s.cell (4 * site + 2)).cyc + stagger (4 * i.index site) i.image.step) }) s).onInst s.par.inst
        (fun i => { i with gangs := i.gangs + 1 })
    else s)

/-- A gang step whose delay has passed, or whose cell has nothing to run. -/
def State.gangStepDue (s : State) (site : Nat) : Bool :=
  let e := s.engine site 2
  match e.gangAt with
  | none => false
  | some t => !e.begun && (decide (t ≤ (s.cell (4 * site + 2)).cyc) || (s.cell (4 * site + 2)).running.isNone)

/-- The gang step at the head of a matrix engine begins: neither its own croft nor the domain is dead for it (R270, R354,
log entry 51). -/
def State.gangBegins (s : State) (site : Nat) : Bool :=
  match s.headReady site 2 with
  | none => false
  | some (m, e) => !(e.dead || s.gangDead (s.instD m.inst) m)

/-- GANG_STEP_BEGIN: R268, R276. -/
def execGangStepBegin (s : State) : Host.Outcome State Fault Refusal :=
  .next (if s.gangStepDue s.par.site && s.gangBegins s.par.site then
      s.setEngine s.par.site 2 { s.engine s.par.site 2 with begun := true }
    else s)

/-! ### Silent parties (R364) -/

/-- Request `j` of the chunk at which an engine stands stays without a response (R364): the chunk is done with poison for what it
would have read there, and without the write. -/
def State.engineLost (s : State) (site eng j : Nat) : State :=
  match s.headReady site eng with
  | none => s
  | some (m, e) =>
    let c := chunkOf s (s.instD m.inst) site eng m e
    match c.touches[j]? with
    | none => s
    | some x =>
      if s.chunkWaits (4 * site + eng) c then s
      else match checkAccess s (4 * site + eng) (BitVec.ofNat 64 x.addr) { size := 1, rd := true } with
      | .error _ => s
      | .ok pl =>
        let users := ((s.launchOf (4 * site + eng)).toList ++ s.usersOf pl.home).eraseDups
        let s := { s with par := { s.par with lost := some (x.addr, x.n) } }.engineStep site eng
        { s with par := { s.par with lost := none } }.silence (4 * site + eng) pl.home (BitVec.ofNat 64 x.addr) users

/-- REMOTE_TIMEOUT: R364, request `i` of those in flight, with `second` the second home of its two, or with `engine` request `i` of an
engine's chunk, stays without a response. -/
def execRemoteTimeout (s : State) : Host.Outcome State Fault Refusal :=
  .next (if s.par.engine then
      if s.engineDue s.par.site s.par.eng then s.engineLost s.par.site s.par.eng s.par.i else s
    else s.requestLost s.par.i s.par.second)

end Sys2Proof.Machine
end

