-- ==== Sys2Proof/Machine/Image.lean ====
section
/-! DEFINITION. Kernel images (R203 to R216): the Ralger file read into the tables that placement loads, the checks of R219
on it, and the patches of R85 and R214. -/

namespace Sys2Proof.Machine

/-! ### The file (R203 to R205) -/

/-- A section table entry. -/
structure Section where
  ty : Nat
  flags : Nat
  off : Nat
  size : Nat
  addr : Nat
  deriving DecidableEq, Repr

def sectionsOf (f : List Byte) : List Section :=
  (List.range (field f 8 4)).map (fun j =>
    let o := field f 12 4 + 32 * j
    { ty := field f (o + 8) 4, flags := field f (o + 12) 4, off := field f (o + 16) 4, size := field f (o + 20) 4,
      addr := field f (o + 24) 8 })

/-- Check 2 of R219: MAGIC, VERSION major, KIND, and the section table within the file (log entry 41). Every minor version is taken
(log entry 103). -/
def headerOk (f : List Byte) : Bool :=
  decide (64 ≤ f.length) && decide (field f 0 4 = 0x1A474C52) && decide (field f 5 1 = 1) && decide (field f 6 2 = 2)
    && decide (1 ≤ field f 8 4 ∧ field f 8 4 ≤ 16) && decide (field f 12 4 % 8 = 0) && decide (64 ≤ field f 12 4)
    && decide (field f 12 4 + 32 * field f 8 4 ≤ f.length)

/-- SIGNED, and the digest and signature of a signed file (R204). -/
def signedImage (f : List Byte) : Bool := decide (field f 20 4 % 2 = 1)
def signedOk (f : List Byte) : Bool :=
  if signedImage f then decide (128 ≤ f.length) && decide (field f 24 4 = f.length - 64) else decide (field f 24 4 = 0)

def sect (l : List Section) (ty : Nat) : Option Section := l.find? (fun x => decide (x.ty = ty))
def contents (f : List Byte) (l : List Section) (ty : Nat) : List Byte :=
  match sect l ty with
  | none => []
  | some x => if x.flags = 1 then List.replicate x.size 0 else slice f x.off x.size
def sectSize (l : List Section) (ty : Nat) : Nat := ((sect l ty).map (·.size)).getD 0
def sectAddr (l : List Section) (ty : Nat) : Nat := ((sect l ty).map (·.addr)).getD 0

/-- Bytes of the file outside the header, the table, the sections and the signature are zero. -/
def gapsZero (f : List Byte) (l : List Section) : Bool :=
  let body := if signedImage f then f.length - 64 else f.length
  let spans := (0, 64) :: (field f 12 4, 32 * l.length) :: (l.filter (fun x => decide (x.flags = 0))).map (fun x => (x.off, x.size))
  (List.zip (List.range body) f).all (fun b => decide (b.2 = 0) || spans.any (fun x => decide (x.1 ≤ b.1) && decide (b.1 < x.1 + x.2)))

/-- R203 and R205. -/
def fileOk (f : List Byte) (l : List Section) : Bool :=
  let body := if signedImage f then f.length - 64 else f.length
  decide (field f 20 4 < 2) && signedOk f && decide (leNat (slice f 28 36) = 0)
    && l.all (fun x => decide (1 ≤ x.ty ∧ x.ty ≤ 13 ∧ x.ty ≠ 12) && decide (x.flags ≤ 1)
        && decide ((l.filter (fun y => decide (y.ty = x.ty))).length = 1)
        && (if x.flags = 1 then decide (x.ty = 2 ∨ x.ty = 3) && decide (x.off = 0) && decide (x.size ≤ 2 ^ 28)
            else decide (x.off % 8 = 0) && decide (x.off + x.size ≤ body))
        && (decide (x.ty ≤ 4) || decide (x.addr = 0)))
    && [1, 5, 6].all (fun t => (sect l t).isSome) && gapsZero f l

/-! ### The kernel header (R206) -/

/-- A range of local memory. -/
abbrev Range := Nat × Nat
def Range.apart (a b : Range) : Bool := decide (a.2 = 0) || decide (b.2 = 0) || decide (a.1 + a.2 ≤ b.1) || decide (b.1 + b.2 ≤ a.1)
def Range.inLocal (a : Range) : Bool := decide (a.1 + a.2 ≤ localSize)

/-- R206, with the sections that it describes. `k` is the header. That a range of no bytes lies within local memory too is the model's
choice (log entry 134). -/
def kheadOk (k : List Byte) (l : List Section) : Bool :=
  let f : Nat → Nat → Nat := field k
  let w := bitsN (f 0 1) 0 4
  let h := bitsN (f 0 1) 4 4
  let widths := (List.range 6).map (fun j => f (9 + j) 1)
  let nf := f 8 1
  let code : Range := (f 24 4, f 28 4)
  let data : Range := (f 32 4, f 36 4)
  let par : Range := (f 20 4, f 16 4)
  decide (sectSize l 5 = 64) && decide (1 ≤ w ∧ w ≤ 12) && decide (1 ≤ h ∧ h ≤ 8) && decide (f 1 1 < 4) && decide (f 2 1 < 16)
    && decide (f 3 1 ≤ 16) && decide (1 ≤ f 4 2 ∧ f 4 2 ≤ 80 * w * h) && decide (f 6 2 ≤ 1024) && decide (nf ≤ 6)
    && (List.range 6).all (fun j => let x := widths.getD j 0; if j < nf then decide (1 ≤ x ∧ x ≤ 64) else decide (x = 0))
    && decide (widths.foldl (· + ·) 0 ≤ 64) && decide (f 15 1 = 0)
    && decide (f 16 4 % 8 = 0) && decide (f 16 4 ≤ 4096) && decide (f 20 4 % 64 = 0) && decide (f 24 4 % 64 = 0)
    && decide (f 28 4 % 4 = 0) && decide (4 ≤ f 28 4)
    && code.inLocal && data.inLocal && par.inLocal && code.apart data && code.apart par && data.apart par
    && decide (sectAddr l 1 = f 24 4) && decide (sectSize l 1 = f 28 4)
    && decide (sectSize l 2 = f 36 4) && (decide (sectSize l 2 = 0) || decide (sectAddr l 2 = f 32 4))
    && decide (f 40 4 ≤ 2 ^ 21 * w * h)
    && (match sect l 3 with
        | none => decide (f 40 4 = 0)
        | some x => decide (x.addr + x.size = f 40 4))
    && decide (sectAddr l 4 + sectSize l 4 ≤ 2 ^ 48)
    && decide (f 44 2 ≤ 64) && decide (sectSize l 8 = 32 * f 44 2) && decide (f 46 2 ≤ 256) && decide (sectSize l 9 = 32 * f 46 2)
    && decide (f 48 4 ≤ 4096) && decide (f 52 2 ≤ 256) && decide (sectSize l 10 = 8 * (f 48 4 + f 52 2))
    && decide (sectSize l 6 = 32 * f 4 2)
    && (if f 6 2 = 0 then decide (sectSize l 7 = 0)
        else decide (32 * f 6 2 ≤ sectSize l 7) && decide (sectSize l 7 % 4 = 0) && decide (sectSize l 7 ≤ 32 * f 6 2 + 4 * 32768))
    && decide (leNat (slice k 54 10) = 0)

/-! ### Nodes, events, shadow pairs, parameters (R207 to R213) -/

def nodeEntryOf (b : List Byte) : NodeEntry :=
  let f : Nat → Nat → Nat := field b
  { lcell := f 0 2, slot := f 2 1, prio := bitsN (f 3 1) 0 2, vec := decide (bitsN (f 3 1) 2 1 = 1),
    notv := decide (bitsN (f 3 1) 3 1 = 1), stack := f 4 2, entry := f 8 4, tvec := f 12 4, wstk := f 16 4, wlim := f 20 4 }

/-- One entry of R207. -/
def nodeOk (i : Image) (codeLen : Nat) (b : List Byte) : Bool :=
  let n := nodeEntryOf b
  let inCode : Nat → Bool := fun o => decide (i.codeOff ≤ o) && decide (o < i.codeOff + codeLen)
  decide (n.lcell < 4 * i.w * i.h) && decide (n.slot ≤ 19) && decide (bitsN (field b 3 1) 4 4 = 0)
    && decide (n.stack % 16 = 0) && decide (48 ≤ n.stack ∧ n.stack ≤ 512) && decide (field b 6 2 = 0)
    && decide (n.entry % 4 = 0) && inCode n.entry && (if n.notv then decide (n.tvec = 0) else inCode n.tvec)
    && decide (n.wstk % 64 = 0) && decide (n.wlim % 64 = 0) && decide (n.wstk ≤ n.wlim)
    && (decide (n.wstk = n.wlim) || Range.inLocal (n.wstk, n.wlim - n.wstk)) && Range.apart (n.wstk, n.wlim - n.wstk) (i.codeOff, codeLen)
    && decide (leNat (slice b 24 8) = 0)

/-- The rules of R207, R16 and R24 on the table. -/
def nodesOk (i : Image) : Bool :=
  i.nodes.all (fun n =>
    let same := i.nodes.filter (fun m => decide (m.lcell = n.lcell))
    decide ((same.filter (fun m => decide (m.slot = n.slot))).length = 1)
      && decide ((same.map (·.stack)).foldl (· + ·) 0 ≤ 1024) && decide ((same.filter (·.vec)).length ≤ 4))
    && decide (i.nodes.length ≤ 2 ^ i.nb)

def participantOf (x : Nat) : Participant :=
  { id := bitsN x 0 16, pkind := bitsN x 16 3, role := bitsN x 19 2, obs := decide (bitsN x 21 1 = 1) }

/-- Participant words of an event, from the section. -/
def partWords (sec : List Byte) (events : Nat) (b : List Byte) : List Nat :=
  (List.range (field b 12 2)).map (fun j => field sec (32 * events + 4 * (field b 8 4 + j)) 4)

def eventEntryOf (sec : List Byte) (events : Nat) (b : List Byte) : EventEntry :=
  let f : Nat → Nat → Nat := field b
  { kind := f 0 1, etype := f 1 1, eop := f 2 1, gran := decide (f 3 1 % 2 = 1), len := f 4 4,
    parts := (partWords sec events b).map participantOf, shfirst := f 16 2, shcount := f 18 2, estep := f 20 1 }

/-- One participant of R210; a host-port slot only where `slots` says so, inline and of at most 256 bytes (R320). An engine is always
CONTRIBUTE, but in an event whose kind has ROLE NONE alone: the SYNC event of splitmm names a copy engine, with ROLE NONE (log
entry 92). The event is of an image of `nodes` nodes and `crofts` crofts. -/
def partOk (v : EventEntry) (nodes crofts : Nat) (slots : Bool) (p : Participant) : Bool :=
  let role : Bool := match v.kind with
    | 0 => decide (p.role = 0)
    | 1 => decide (p.role = 1 ∨ p.role = 2)
    | 4 => decide (p.role = 0)
    | _ => decide (p.role ≠ 0)
  (if p.obs then decide (p.role = 0) && decide (p.pkind = 0) else role)
    && decide ((v.parts.filter (fun q => decide (q.id = p.id) && decide (q.pkind = p.pkind))).length = 1)
    && (match p.pkind with
        | 0 => decide (p.id < nodes)
        | 1 | 2 | 3 => decide (p.id < crofts) && (decide (p.role = 1) || decide (v.kind = 0 ∨ v.kind = 4)) && !p.obs
        | 4 => decide (p.id ≤ 11) && decide (p.role = 1 ∨ p.role = 2)
        | 5 => slots && decide (p.id < 64) && decide (p.role = 1 ∨ p.role = 2) && !p.obs && !v.gran && decide (v.len ≤ 256)
        | _ => false)
    && (!v.gran || !(decide (2 ≤ p.role)) || decide (p.pkind = 0 ∨ p.pkind = 4))

/-- R209 and R210 on one event, which may name host-port slots where `slots` says so. SHFIRST is held to the table even where SHCOUNT
is 0 and names no pair (log entry 104). -/
def eventOk (sec b : List Byte) (i : Image) (events : Nat) (slots : Bool) (v : EventEntry) : Bool :=
  let f : Nat → Nat → Nat := field b
  let req := v.required
  let contrib := req.filter (fun p => decide (p.role = 1 ∨ p.role = 3))
  decide (v.kind ≤ 4) && (if v.kind = 2 then [0x06, 0x10, 0x12].contains v.etype && decide (v.eop ≤ 5)
      else decide (v.etype = 0) && decide (v.eop = 0))
    && decide (f 3 1 < 2) && (!v.gran || decide (v.kind = 1 ∨ v.kind = 2))
    && (if v.gran then decide (v.len ≤ 2 ^ 20) && decide (v.len % 256 = 0) && decide (1 ≤ v.shcount)
          && decide (v.len ≤ (((List.range v.shcount).filterMap (fun j => i.shadow[v.shfirst + j]?)).map (·.len)).foldl (· + ·) 0)
        else decide (v.len ≤ 4096) && decide (v.len % 8 = 0) && decide (v.shcount = 0))
    && decide (1 ≤ f 12 2 ∧ f 12 2 ≤ 1024) && decide (32 * events + 4 * (f 8 4 + f 12 2) ≤ sec.length) && decide (f 14 2 = 0)
    && decide (v.shcount ≤ 16) && decide (v.shfirst + v.shcount ≤ i.shadow.length) && decide (v.estep ≤ 15 ∨ v.estep = 255)
    && decide (leNat (slice b 21 11) = 0) && (partWords sec events b).all (fun x => decide (x < 2 ^ 22))
    && v.parts.all (partOk v i.nodes.length (i.w * i.h) slots)
    && (match v.kind with
        | 0 => !req.isEmpty
        | 1 => decide (contrib.length = 1) && decide (2 ≤ req.length)
        | 4 => decide (req.length = 1) && v.parts.any (·.obs)
        | _ => !contrib.isEmpty)

def shadowOf (b : List Byte) : ShadowPair := { voff := field b 0 4, hoff := field b 4 4, len := field b 8 4, event := field b 12 2 }

/-- R212 on the pairs. -/
def shadowOk (i : Image) (pads : Bool) : Bool :=
  let win := 2 ^ 21 * i.w * i.h
  let rs : ShadowPair → List Range := fun q => [(q.voff, q.len), (q.hoff, q.len)]
  let all := i.shadow.flatMap rs
  pads && i.shadow.all (fun q => decide (q.voff % 256 = 0) && decide (q.hoff % 256 = 0) && decide (q.len % 256 = 0)
      && decide (256 ≤ q.len ∧ q.len ≤ 2 ^ 20) && decide (q.voff + q.len ≤ win) && decide (q.hoff + q.len ≤ win)
      && decide (q.hoff ≠ q.voff) && decide ((q.hoff + 1024 * i.w * i.h * 2 ^ 32 - q.voff) % (1024 * i.w * i.h) = 0))
    && (List.range all.length).all (fun a => (List.range a).all (fun b => Range.apart (all.getD a (0, 0)) (all.getD b (0, 0))))
    && (List.zip (List.range i.shadow.length) i.shadow).all (fun x =>
        match i.events[x.2.event]? with
        | none => false
        | some v => decide (v.shfirst ≤ x.1) && decide (x.1 < v.shfirst + v.shcount))
    && (List.zip (List.range i.events.length) i.events).all (fun x => (List.range x.2.shcount).all (fun j =>
        decide ((i.shadow[x.2.shfirst + j]?).map (·.event) = some x.1)))

/-- Bytes of a parameter type (R213). -/
def ptypeSize (t : Nat) : Nat := if t ≤ 1 then 1 else if t ≤ 3 then 2 else if t ≤ 5 ∨ t = 8 then 4 else 8

/-- The format that a patch of a kind needs (R85): 0 I-format, 1 WIDE with an I-format word after it, 2 M or VM. -/
def isFormatI (w : Word) : Bool := [2, 3, 4, 5, 6, 7, 9, 15, 19].contains (bitsN w.toNat 26 6)
def isFormatM (w : Word) : Bool := [20, 21, 22, 23, 27, 28].contains (bitsN w.toNat 26 6)
def isWide (w : Word) : Bool := decide (bitsN w.toNat 26 6 = 63) && decide (bitsN w.toNat 24 2 = 1)
def patchWordOk (code : List Word) (q : Patch) : Bool :=
  match code[q.word]? with
  | none => false
  | some w =>
    if q.pkind = 0 then isFormatI w
    else if q.pkind = 1 then isWide w && (match code[q.word + 1]? with
      | none => false
      | some v => isFormatI v)
    else isFormatM w
/-- The words that a patch writes. -/
def Patch.words (q : Patch) : List Nat := if q.pkind = 1 then [q.word, q.word + 1] else [q.word]

/-- R213 and R214 on the tables. -/
def patchesOk (i : Image) (pads : Bool) : Bool :=
  pads && i.params.all (fun d => decide (d.ptype ≤ 9) && decide (d.poff % ptypeSize d.ptype = 0)
      && decide (d.poff + ptypeSize d.ptype ≤ i.psize))
    && i.patches.all (fun q => decide (q.pkind ≤ 2) && patchWordOk i.code q && (match i.params[q.pindex]? with
        | none => false
        | some d => decide (d.ptype ≤ 5)))
    && (let l := i.patches.map Patch.words
        (List.range l.length).all (fun a => (List.range a).all (fun b =>
          !((l.getD a []).any (fun w => (l.getD b []).contains w)))))

/-! ### The image -/

/-- Records of `n` bytes. -/
def records (n : Nat) (l : List Byte) : Nat → List (List Byte)
  | 0 => []
  | k + 1 => slice l 0 n :: records n (l.drop n) k

/-- The tables of a file whose header passed: everything but the checks. -/
def imageOf (f : List Byte) : Image :=
  let l := sectionsOf f
  let k := contents f l 5
  let g : Nat → Nat → Nat := field k
  let ev := contents f l 7
  let pt := contents f l 10
  { w := bitsN (g 0 1) 0 4, h := bitsN (g 0 1) 4 4, fault := bitsN (g 1 1) 0 1, dual := decide (bitsN (g 1 1) 1 1 = 1),
    step := bitsN (g 2 1) 0 4, nb := g 3 1, widths := (List.range (g 8 1)).map (fun j => g (9 + j) 1), psize := g 16 4,
    param := g 20 4, codeOff := g 24 4, code := (records 4 (contents f l 1) (g 28 4 / 4)).map (fun b => BitVec.ofNat 32 (leNat b)),
    dataOff := g 32 4, data := contents f l 2, granary := contents f l 3, granOff := sectAddr l 3, dramVa := sectAddr l 4,
    dram := contents f l 4, nodes := (records 32 (contents f l 6) (g 4 2)).map nodeEntryOf,
    events := (records 32 ev (g 6 2)).map (eventEntryOf ev (g 6 2)),
    tids := (records 32 (contents f l 8) (g 44 2)).map (fun b => BitVec.ofNat 256 (leNat b)),
    shadow := (records 32 (contents f l 9) (g 46 2)).map shadowOf,
    params := (records 8 pt (g 52 2)).map (fun b => { poff := field b 0 4, ptype := field b 4 1 }),
    patches := (records 8 (pt.drop (8 * g 52 2)) (g 48 4)).map
      (fun b => { word := field b 0 4, pkind := field b 4 1, pindex := field b 6 2 }) }

/-- Check 4 of R219 on a file that passed check 2; the image of the reeve domain may name host-port slots (R210), in its events 0 to
191 alone (R321). -/
def layoutOk (f : List Byte) (reeve : Bool := false) : Bool :=
  let l := sectionsOf f
  fileOk f l && (let k := contents f l 5
    kheadOk k l && (let i := imageOf f
      let ev := contents f l 7
      let pt := contents f l 10
      (records 32 (contents f l 6) (field k 4 2)).all (nodeOk i (field k 28 4)) && nodesOk i
        && (List.zip (List.range i.events.length) (List.zip (records 32 ev (field k 6 2)) i.events)).all (fun x =>
             eventOk ev x.2.1 i (field k 6 2) (reeve && decide (x.1 < 192)) x.2.2)
        && shadowOk i ((records 32 (contents f l 9) (field k 46 2)).all (fun b => decide (leNat (slice b 14 18) = 0)))
        && patchesOk i ((records 8 pt (field k 52 2)).all (fun b => decide (leNat (slice b 5 3) = 0))
            && (records 8 (pt.drop (8 * field k 52 2)) (field k 48 4)).all (fun b => decide (field b 5 1 = 0)))))

/-! ### Patches (R85, R214) -/

/-- The value of a parameter as an integer. -/
def ParamDesc.value (d : ParamDesc) (block : List Byte) : Int :=
  let n := ptypeSize d.ptype
  let x := field block d.poff n
  if d.ptype = 0 ∨ d.ptype = 2 ∨ d.ptype = 4 then sgn (8 * n) x else (x : Int)

/-- The unit of an M or VM word; 8 bytes where an M word has a size code that R73 gives no size (log entry 93). -/
def accessUnit (w : Word) : Int :=
  let major := bitsN w.toNat 26 6
  let sz := bitsN w.toNat 12 3
  if major = 27 ∨ major = 28 then 64 else if sz ≤ 1 then 1 else if sz ≤ 3 then 2 else if sz = 4 then 4 else 8

/-- A word with its low `n` bits replaced. -/
def withLow (n : Nat) (w : Word) (v : Int) : Word := BitVec.ofNat 32 (w.toNat / 2 ^ n * 2 ^ n + unsgn n v)

/-- One patch: the code after it, or none where the value lies outside the range of its kind (R85). -/
def applyPatch (i : Image) (block : List Byte) (code : List Word) (q : Patch) : Option (List Word) :=
  let v := ((i.params[q.pindex]?).map (fun d => d.value block)).getD 0
  let w := code.getD q.word 0
  if q.pkind = 0 then
    let lo : Int := if bitsN w.toNat 26 6 = 19 then 1 else -4096
    if lo ≤ v ∧ v ≤ 4095 then some (code.set q.word (withLow 13 w v)) else none
  else if q.pkind = 1 then
    if -(2 ^ 31) ≤ v ∧ v < 2 ^ 32 then
      some ((code.set q.word (withLow 19 w (v / 2 ^ 13))).set (q.word + 1) (withLow 13 (code.getD (q.word + 1) 0) v))
    else none
  else
    let u := accessUnit w
    if v % u = 0 ∧ -2048 ≤ v / u ∧ v / u ≤ 2047 then some (code.set q.word (withLow 12 w (v / u))) else none

/-- Every patch in ascending order: the patched code, or the first entry whose value is out of range. -/
def patchCode (i : Image) (block : List Byte) : List Patch → Nat → List Word → Except Nat (List Word)
  | [], _, code => .ok code
  | q :: t, n, code =>
    match applyPatch i block code q with
    | none => .error n
    | some code => patchCode i block t (n + 1) code

end Sys2Proof.Machine
end

