-- ==== Sys2Proof/Machine/Wear.lean ====
section
/-! DEFINITION. Wear, levels, heat and the Almanac (R277, R363, R368 to R374). -/

namespace Sys2Proof.Machine

/-! ### Islands and levels (R369, R371, R375) -/

def State.island (s : State) (i : Nat) : Island := Tab.getD s.pkg.islands i {}
def State.setIsland (s : State) (i : Nat) (x : Island) : State :=
  { s with pkg := { s.pkg with islands := Tab.set s.pkg.islands i x } }

/-- The croft sites of an island (log entry 12). -/
def islandSites (i : Nat) : List Nat := (List.range 26).filterMap (fun n => if islandOf (26 * (i / 8) + n) = i then some (26 * (i / 8) + n) else none)
/-- The compute cells of an island. -/
def islandCells (i : Nat) : List Nat := (islandSites i).flatMap (fun x => (List.range 4).map (fun r => 4 * x + r))

/-- The wear cap of an island: the lowest of its cells' (R370). -/
def State.wearCap (s : State) (i : Nat) : Nat := (islandCells i).foldl (fun m p => min m (s.cell p).wear.cap) 7
/-- The effective level (R369). -/
def State.effective (s : State) (i : Nat) : Nat := min (s.island i).req (min (s.wearCap i) (s.island i).tcap)

/-- An island goes to its effective level; a change stalls its clocks (R369). -/
def State.updateLevel (s : State) (i : Nat) : State :=
  let x := s.island i
  if s.effective i = x.level then s else s.setIsland i { x with level := s.effective i, stalled := true }

/-- ISLAND_CLOCK_STALL_END: R369. -/
def execIslandClockStallEnd (s : State) : Host.Outcome State Fault Refusal :=
  .next (s.setIsland s.par.isl { s.island s.par.isl with stalled := false })

/-- At 115 °C an island is powered off, its instances are killed and their launches complete with status 3 (R371). -/
def State.shutIsland (s : State) (i : Nat) : State :=
  let hit := s.insts.filter (fun x => !x.2.reeve && x.2.allSites.any (fun site => decide (islandOf site = i)))
  hit.foldl (fun s x => (s.kill x.1).failLaunch x.2.launch) (s.setIsland i { s.island i with off := true })

/-- THERMAL_DERATE: R371, one millisecond with the hottest sensor at `tj` °C: at 105 or more the cap falls, and goes on
falling until the sensor reads less than 100 (log entry 27). -/
def execThermalDerate (s : State) : Host.Outcome State Fault Refusal :=
  let i := s.par.isl
  let x := { s.island i with tj := s.par.tj, hot := decide (105 ≤ s.par.tj) || ((s.island i).hot && decide (100 ≤ s.par.tj)) }
  if 115 ≤ s.par.tj then .next ((s.setIsland i x).shutIsland i)
  else if x.hot then
    let p := (islandCells i).headD 0
    .next (((((s.setIsland i { x with tcap := x.tcap - 1 }).reportCell p .thermalDerate (BitVec.ofNat 16 p)).history p
      .thermalDerate x.tcap (x.tcap - 1))).updateLevel i)
  else .next (s.setIsland i x)

/-- THERMAL_CAP_RISE: R371, 100 ms with the sensor below 90 °C. -/
def execThermalCapRise (s : State) : Host.Outcome State Fault Refusal :=
  let i := s.par.isl
  let x := { s.island i with tj := s.par.tj, tcap := min 7 ((s.island i).tcap + 1), hot := false }
  .next (if s.par.tj < 90 then (s.setIsland i x).updateLevel i else s)

/-- THERMAL_SHUTDOWN: R371, a sensor reads 115 °C or more. -/
def execThermalShutdown (s : State) : Host.Outcome State Fault Refusal :=
  let i := s.par.isl
  .next (if 115 ≤ s.par.tj then (s.setIsland i { s.island i with tj := s.par.tj }).shutIsland i else s)

/-! ### Wear of a cell (R368, R370, R372) -/

/-- The rated life in micro-wear-units. -/
abbrev ratedLife : Nat := 220000000 * 1000000

/-- The wear state that a worn share gives under the policy's thresholds, and its cap (R370). -/
def Policy.wearState (r : Policy) (worn : Nat) : Nat × Nat :=
  let x := 100 * worn
  if x < r.derate * ratedLife then (0, 7)
  else if x < r.drain * ratedLife then (1, 6 - (x - r.derate * ratedLife) / (5 * ratedLife))
  else if x < r.retire * ratedLife then (2, 4)
  else (3, 4)

/-- Accruals are added, and the state and the cap move down as the share says. -/
def Wear.accrue (w : Wear) (r : Policy) (bti em : Nat) : Wear :=
  let x := r.wearState (max (w.wb + bti) (w.we + em))
  { w with wb := w.wb + bti, we := w.we + em, micros := w.micros + 1, state := max w.state x.1, cap := min w.cap x.2 }

/-- The cause reported on entering a state. -/
def wearCause (st : Nat) : Cause := if st = 1 then .wearDerate else if st = 2 then .wearDrain else .wearRetire

/-- The charge of an instance and of its launch (R372). -/
def State.charge (s : State) (p n : Nat) : State :=
  if isReeve p then s
  else match s.instOf p with
    | none => s
    | some (k, i) =>
      if i.reeve then s
      else (s.setInst k { i with wear := i.wear + n }).onLaunch i.launch (fun x => { x with wear := x.wear + n })

/-- WEAR_MONITOR_READ: R368, R370, R372, the readings of one period, converted to micro-wear-units through the calibration
constants of the cell (log entry 49). -/
def execWearMonitorRead (s : State) : Host.Outcome State Fault Refusal :=
  let p := s.par.pcell
  if !isReeve p && (s.island (islandOf (siteOf p))).off then .next s
  else
    let c := s.cell p
    let bti := Config.wearUnits c.wear.calb s.par.bti
    let em := Config.wearUnits c.wear.cale s.par.em
    let w := c.wear.accrue s.pkg.rules bti em
    let s := (s.setCell p { c with wear := w }).charge p (max bti em)
    let s := if w.state ≠ c.wear.state ∨ (w.state = 1 ∧ w.cap ≠ c.wear.cap) then
        (s.reportCell p (wearCause w.state) (BitVec.ofNat 16 p)).history p (wearCause w.state) c.wear.state w.state
      else s
    .next (if isReeve p then s else s.updateLevel (islandOf (siteOf p)))

/-! ### Budgets (R277) -/

/-- Requests that wait at stations are admitted in order, each source's after its earlier ones. -/
def admitGo : List Access → List Access → List Src → State → State
  | [], acc, _, s => { s with net := acc.reverse }
  | a :: t, acc, blocked, s =>
    if a.admitted then admitGo t (a :: acc) blocked s
    else if blocked.contains a.src then admitGo t (a :: acc) blocked s
    else
      let p := match a.src with
        | .node p _ _ => p
        | .engine site eng => 4 * site + eng
        | .host => 0
      if s.admits ((s.instOf p).map (·.2)) a then admitGo t ({ a with admitted := true } :: acc) blocked (s.spendAccess a)
      else admitGo t (a :: acc) (a.src :: blocked) s

/-- The islands as a microsecond passes: each that is powered counts it at its level (R373). -/
def State.islandsTick (s : State) : Tab Island :=
  (List.range 32).foldl (fun (t : Tab Island) i =>
    let x := Tab.getD t i {}
    if x.off then t else Tab.set t i { x with time := Store.set 0 x.time x.level (Store.get 0 x.time x.level + 1) }) s.pkg.islands

/-- BUDGET_PERIOD: R277, the shares renew and waiting requests are admitted; a microsecond passes: on a part that has booted the
islands count it, and the Almanac's clock does after its first commit (R373, log entry 38). -/
def execBudgetPeriod (s : State) : Host.Outcome State Fault Refusal :=
  let s := { s with crofts := s.crofts.map (fun x => (x.1, { x.2 with spent := [] })) }
  let s := admitGo s.net [] [] s
  .next { s with pkg := { s.pkg with
    micros := if s.pkg.alseq = 0 then s.pkg.micros else s.pkg.micros + 1,
    islands := if s.pkg.booted then s.islandsTick else s.pkg.islands } }

/-! ### The croft map and its spares (R310, R363) -/

def State.siteOfLog (s : State) (log : Nat) : Nat := Store.get 0 s.pkg.cmap log
/-- A domain instance occupies a croft site. -/
def State.occupied (s : State) (site : Nat) : Bool := (List.range 4).any (fun r => (s.cell (4 * site + r)).inst.isSome)
/-- A site with a retired cell. -/
def State.siteRetired (s : State) (site : Nat) : Bool := (List.range 4).any (fun r => decide ((s.cell (4 * site + r)).wear.state = 3))
/-- Logical crofts. -/
def logicals : List Nat := List.range 96

/-- A mapped site that has failed: a retired cell, or one sealed three times since power-on (R358, R363). -/
def State.siteFailed (s : State) (site : Nat) : Bool :=
  s.siteRetired site || (List.range 4).any (fun r => decide (3 ≤ (s.cell (4 * site + r)).sealsOn))

/-- A spare of the same die: unmapped, its cells ACTIVE and none sealed. -/
def State.spareFor (s : State) (site : Nat) : Option Nat :=
  ((List.range 26).map (· + 26 * (site / 26))).find? (fun x =>
    !logicals.any (fun l => decide (s.siteOfLog l = x)) &&
      (List.range 4).all (fun r => decide ((s.cell (4 * x + r)).wear.state = 0) && !(s.cell (4 * x + r)).isSealed))

/-- SPARE_PROMOTED: R363, logical croft `log` is unoccupied and its site has failed. -/
def execSparePromoted (s : State) : Host.Outcome State Fault Refusal :=
  let l := s.par.log
  let old := s.siteOfLog l
  if 96 ≤ l ∨ s.occupied old ∨ !s.siteFailed old then .next s
  else match s.spareFor old with
    | none => .next s
    | some new =>
      let s := { s with pkg := { s.pkg with cmap := Store.set 0 s.pkg.cmap l new } }
      .next ((s.reportTo (old / 26)
        { cause := .sparePromoted, tcause := tcauseWord .sparePromoted (BitVec.ofNat 16 (old + 128 * new)) }).history old
          .sparePromoted 0 0)

/-! ### The Almanac (R373, R374) -/

/-- The bytes of a cell record. -/
def Wear.record (w : Wear) : List Byte :=
  leBytes 8 w.wb ++ leBytes 8 w.we ++ leBytes 1 w.state ++ leBytes 1 w.cap ++ leBytes 1 w.seals ++ leBytes 1 0
    ++ leBytes 4 w.setot ++ leBytes 4 w.calb.toNat ++ leBytes 4 w.cale.toNat ++ leBytes 8 (w.micros / 1000000) ++ leBytes 24 0

/-- The wear cap of an island as a bank records its cells. -/
def Bank.cap (b : Bank) (i : Nat) : Nat := (islandCells i).foldl (fun m p => min m (Tab.getD b.wear p {}).cap) 7

/-- Bank bytes 0x0 to 0x1F_FFBF. -/
def Bank.bytes (b : Bank) : List Byte :=
  let sites := logicals.map (fun l => Store.get 0 b.cmap l)
  let spares := (List.range 104).filter (fun x => !sites.contains x)
  let cells := (List.range 432).flatMap (fun p => (Tab.getD b.wear p {}).record)
  let isl := (List.range 32).flatMap (fun i =>
    let x : Island := Tab.getD b.islands i {}
    leBytes 1 x.req ++ leBytes 1 (b.cap i) ++ leBytes 1 x.tcap
      ++ (List.range 8).flatMap (fun l => leBytes 3 (Store.get 0 x.time l / 1000000)) ++ leBytes 5 0)
  let map := (sites ++ spares).flatMap (leBytes 1)
  let head := leBytes 4 0x4E414C41 ++ leBytes 2 0x0100 ++ leBytes 2 0 ++ leBytes 8 b.seq
    ++ leBytes 8 Config.deviceSerial.toNat ++ leBytes 8 (b.micros / 1000000) ++ leBytes 224 0
  let hist := b.history.flatten
  slice head 0 256 ++ cells ++ isl ++ map ++ List.replicate (128 - map.length) 0xFF ++ leBytes (0x8000 - 0x7180) 0
    ++ slice hist 0 0x20000 ++ leBytes (0x1F0000 - 0x28000) 0 ++ slice Config.identityChain 0 65472

/-- The digest of a whole bank (R377). -/
def Bank.digest (b : Bank) : List Byte := sha256 (b.bytes ++ b.signature)

/-- The live state as a bank. -/
def State.liveBank (s : State) (seq : Nat) : Bank :=
  let b : Bank := { seq := seq, micros := s.pkg.micros, wear := s.cells.map (fun c => (c.1, c.2.wear)), islands := s.pkg.islands,
                    cmap := s.pkg.cmap, history := s.pkg.history, valid := true }
  { b with signature := identitySign (sha256 b.bytes) }

/-- The bank that holds the older SEQ; an invalid one before any other. -/
def Pkg.older (p : Pkg) : Nat :=
  let a : Bank := Tab.getD p.banks 0 {}
  let b : Bank := Tab.getD p.banks 1 {}
  if !a.valid then 0 else if !b.valid then 1 else if b.seq < a.seq then 1 else 0

/-- A commit begins: the older bank is being written (R374). One in progress completes first. -/
def State.beginCommit (s : State) : State :=
  if s.pkg.alBusy then { s with pkg := { s.pkg with alAgain := true } }
  else
    let n := s.pkg.older
    let b := s.liveBank (s.pkg.alseq + 1)
    { s with pkg := { s.pkg with
        alBusy := true, alBank := some (n, b), banks := Tab.set s.pkg.banks n { b with valid := false } } }

/-- ALMANAC_COMMIT: R374, every 60 s. -/
def execAlmanacCommit (s : State) : Host.Outcome State Fault Refusal := .next (if s.pkg.booted then s.beginCommit else s)

/-- ALMANAC_COMMIT_DONE: R374, the bank is written and verifies, or is left invalid; a commit asked for meanwhile begins. -/
def execAlmanacCommitDone (s : State) : Host.Outcome State Fault Refusal :=
  match s.pkg.alBank with
  | none => .next s
  | some (n, b) =>
    let p := { s.pkg with alBusy := false, alBank := none, alErr := !s.par.ok, alAgain := false }
    let p := if s.par.ok then { p with banks := Tab.set p.banks n b, alseq := b.seq, bankDigest := b.digest } else p
    let s1 := { s with pkg := p }
    let s1 := if s.par.ok then { s1 with cells := s1.cells.map (fun c => (c.1, { c.2 with thresholds := 0 })) } else s1
    .next (if s.pkg.alAgain then s1.beginCommit else s1)

/-- POWER_DOWN_REQUEST: R374, an orderly shutdown commits the Almanac, where the part has come up and its counters are those of a
bank. -/
def execPowerDownRequest (s : State) : Host.Outcome State Fault Refusal :=
  let t : State := { s with pkg := { s.pkg with powerDown := true } }
  .next (if s.pkg.booted then t.beginCommit else t)

end Sys2Proof.Machine
end

