-- ==== Sys2Proof/Machine/System.lean ====
section
/-! DEFINITION. System registers (R30 to R36, R310, R314, R349, R375), MOVS and MOVSW, TRAP, WSPILL, WFILL and WIDX (R195 to
R198), and the register writes that the table lists as steps of their own. -/

namespace Sys2Proof.Machine

/-! ### The registers -/

/-- The indices that are listed (R30, R310, R314, R349, R375). -/
def sysListed (idx : Nat) : Bool :=
  decide (idx ≤ 0x1E) || (decide (0x200 ≤ idx) && decide (idx ≤ 0x20B)) || (decide (0x210 ≤ idx) && decide (idx ≤ 0x21A))

/-- The checks of an index: the encoding for an unlisted index below 0x200, the privilege, the encoding on a reeve node
(R67, R195). -/
def sysPre (idx : BitVec 10) (u : Issue) : Option Trap :=
  if 0x200 ≤ idx.toNat ∧ !isReeve u.p then some { cause := .privileged }
  else if !sysListed idx.toNat then some (illegalEnc 2 11)
  else none

/-- A high register: the captured value once, else the current one (R31). -/
def readHigh (n : Node) (idx : Nat) (cur : Word) : Word × Node :=
  match Store.get none n.high idx with
  | some w => (w, { n with high := Store.set none n.high idx none })
  | none => (cur, n)
/-- A low register: its high register is captured (R31). -/
def readLow (n : Node) (hiIdx : Nat) (lo hi : Word) : Word × Node := (lo, { n with high := Store.set none n.high hiIdx (some hi) })

def lowWord (x : Nat) : Word := BitVec.ofNat 32 x
def highWord (x : Nat) : Word := BitVec.ofNat 32 (x / 2 ^ 32)

/-- NSTAT codes of the node states (R12). -/
def NodeSt.code : NodeSt → Nat
  | .idle => 0 | .ready => 1 | .running => 2 | .offering => 3 | .waiting => 4
  | .paused => 5 | .sleeping => 6 | .trapped => 7 | .retired => 8 | .sealed => 9

/-- NSTAT (R34). -/
def Node.nstat (n : Node) : Word := BitVec.ofNat 32 (n.flags.toNat + 32 * n.stt.code + (if n.inTrap then 512 else 0))
/-- WPOS (R35). -/
def Node.wpos (n : Node) : Word := BitVec.ofNat 32 (n.cur + 32 * n.res + 65536 * n.spilled)
/-- DOM (R32). -/
def domWord (i : Inst) (lcell : Nat) : Word :=
  let w := max 1 i.image.w
  BitVec.ofNat 32 (i.image.w + 16 * i.image.h + 256 * i.image.step + 4096 * (lcell / 4 % w) + 65536 * (lcell / 4 / w)
    + 2 ^ 20 * (lcell % 4) + (if i.twin.isEmpty then 0 else 2 ^ 22))

/-- ISLST (R375). -/
def State.islst (s : State) : Nat :=
  let i := s.pkg.islx
  let x := s.island i
  x.req + 8 * s.wearCap i + 64 * x.tcap + 512 * s.effective i + 4096 * (BitVec.ofInt 8 (x.tj + 40)).toNat

/-- A read: the value, and the node with what the read captures. -/
def sysRead (s : State) (u : Issue) (idx : Nat) : Word × Node :=
  let n := u.n
  let i : Inst := ((s.instOf u.p).map (·.2)).getD {}
  let g := s.pkg
  let die := dieOf u.p
  let ring := s.ring die
  let wc := g.wcellx
  let w : Wear := if wc ≤ 431 then (s.cell wc).wear else { cap := 0 }
  match idx with
  | 0x000 => (s.nid u.p u.i, n)
  | 0x001 => (domWord i (s.cell u.p).lcell, n)
  | 0x002 => readLow n 3 (lowWord i.instant) (highWord i.instant)
  | 0x003 => readHigh n 3 (highWord i.instant)
  | 0x004 => readLow n 5 (lowWord u.c) (highWord u.c)
  | 0x005 => readHigh n 5 (highWord u.c)
  | 0x006 => (n.nctl, n)
  | 0x007 => (n.nstat, n)
  | 0x008 => (n.tcause, n)
  | 0x009 => (n.tip, n)
  | 0x00A => readLow n 0xB (n.taddr.truncate 32) (n.taddr.extractLsb' 32 32)
  | 0x00B => readHigh n 0xB (n.taddr.extractLsb' 32 32)
  | 0x00C => (n.tvec, n)
  | 0x00D => (n.wstk, n)
  | 0x00E => (n.wlim, n)
  | 0x00F => (n.wpos, n)
  | 0x010 => (n.loopc, n)
  | 0x011 => (n.loops, n)
  | 0x012 => (n.loope, n)
  | 0x013 => (n.param, n)
  | 0x014 => readLow n 0x15 (lowWord (i.wear / 1000)) (highWord (i.wear / 1000))
  | 0x015 => readHigh n 0x15 (highWord (i.wear / 1000))
  | 0x016 => readLow n 0x17 (lowWord i.group) (highWord i.group)
  | 0x017 => readHigh n 0x17 (highWord i.group)
  | 0x018 => (Store.get 0 n.bka 0, n)
  | 0x019 => (Store.get 0 n.bka 1, n)
  | 0x01A => (Store.get 0 n.bka 2, n)
  | 0x01B => (Store.get 0 n.bka 3, n)
  | 0x01C => (Store.get 0 n.wpa 0, n)
  | 0x01D => (Store.get 0 n.wpa 1, n)
  | 0x01E => (n.dbgc, n)
  | 0x200 => (lowWord g.cmapx, n)
  | 0x201 =>
    let l := g.cmapx
    (lowWord ((if l < 96 then s.siteOfLog l else (Config.cmapBeyond l).toNat) + (if g.cmapFail then 128 else 0)), n)
  | 0x204 => (if g.xbusy.isEmpty then 0 else 1, n)
  | 0x205 => (lowWord ring.base, n)
  | 0x206 => (lowWord ring.head, n)
  | 0x207 => (lowWord ring.tail, n)
  | 0x208 => (lowWord (ring.ovf + 65536 * ring.first), n)
  | 0x209 => (lowWord ring.cellx, n)
  | 0x20A =>
    let c := s.cell ring.cellx
    if 415 < ring.cellx then (0, n)
    else (lowWord ((if c.isSealed then 1 else 0) + (if c.regErr then 2 else 0) + 65536 * c.secnt), n)
  | 0x20B => (lowWord g.sethr, n)
  | 0x210 => (lowWord g.wcellx, n)
  | 0x211 => readLow n 0x212 (lowWord w.wb) (highWord w.wb)
  | 0x212 => readHigh n 0x212 (highWord w.wb)
  | 0x213 => readLow n 0x214 (lowWord w.we) (highWord w.we)
  | 0x214 => readHigh n 0x214 (highWord w.we)
  | 0x215 => (lowWord (w.state + 4 * w.cap), n)
  | 0x216 => (lowWord g.islx, n)
  | 0x217 => (lowWord s.islst, n)
  | 0x218 => (lowWord g.alseq, n)
  | 0x21A => (lowWord ((if g.alBusy then 1 else 0) + (if g.alErr then 2 else 0)), n)
  | _ => (0, n)

/-- A write of CMAP (R310). A SITE of 104 to 127 is no physical site, and is refused as well (log entry 109). -/
def State.writeCmap (s : State) (v : Word) : State :=
  let l := s.pkg.cmapx
  let site := bitsN v.toNat 0 7
  if 96 ≤ l ∨ 104 ≤ site ∨ s.occupied (s.siteOfLog l) ∨ (logicals.any (fun m => decide (m ≠ l ∧ s.siteOfLog m = site))) ∨
      s.siteRetired site then { s with pkg := { s.pkg with cmapFail := true } }
  else { s with pkg := { s.pkg with cmapFail := false, cmap := Store.set 0 s.pkg.cmap l site } }

/-- A write of RQBASE (R349). -/
def State.writeRqbase (s : State) (die : Nat) (v : Word) : State :=
  let b := bitsN v.toNat 13 4 * 8192
  let c := s.cell (firstReeve + 4 * die)
  if localSize < b + 8192 ∨ (b < c.codeOff + c.codeLen ∧ c.codeOff < b + 8192) then s
  else s.setRing die { s.ring die with base := b }

/-- A write of RQTAIL (R349). -/
def State.writeRqtail (s : State) (die : Nat) (v : Word) : State :=
  let g := s.ring die
  let t := bitsN v.toNat 0 16
  if (g.head + 65536 - g.tail) % 65536 < (t + 65536 - g.tail) % 65536 then s
  else s.setRing die { g with tail := t }

/-- A write of RQOVF (R349). -/
def State.writeRqovf (s : State) (die : Nat) (v : Word) : State :=
  let g := s.ring die
  let n := bitsN v.toNat 0 16
  s.setRing die { g with ovf := n, first := if n = 0 then 0 else g.first }

/-- A write of CELLST by a reeve node of die `die` (R349, R358): one that has SEALED 0 unseals a sealed cell, with SECNT as it was,
or is ignored where an instance occupies the croft; any other stores SECNT, and seals where it has SEALED 1. -/
def State.writeCellst (s : State) (die : Nat) (v : Word) : State :=
  let p := (s.ring die).cellx
  if 415 < p then s
  else if !v.getLsbD 0 && (s.cell p).isSealed then s.unsealCell p
  else
    let s := s.setCell p { s.cell p with secnt := bitsN v.toNat 16 16 }
    if v.getLsbD 0 then s.sealCell p false else s

/-- A write of XINVH (R314): the invalidation starts. -/
def State.writeXinvh (s : State) (v : Word) : State :=
  { s with pkg := { s.pkg with xinvh := v, xbusy := s.pkg.xbusy ++ [s.pkg.xinvl.toNat + 2 ^ 32 * v.toNat] } }

/-- A write of ISLST (R375). -/
def State.writeIslst (s : State) (v : Word) : State :=
  let i := s.pkg.islx
  (s.setIsland i { s.island i with req := bitsN v.toNat 0 3 }).updateLevel i

/-- A write: the state and the node, or the encoding trap of R33 and R35. Writes of read-only registers change nothing, and
reserved and ignored bits are not stored (R7, R30, log entry 71). -/
def sysWrite (s : State) (u : Issue) (idx : Nat) (v : Word) : Except Trap (State × Node) :=
  let n := u.n
  let die := dieOf u.p
  match idx with
  | 0x006 => if 3 < bitsN v.toNat 1 3 then .error (illegalEnc 2 21) else .ok (s, { n with nctl := v &&& 0x3FF#32 })
  | 0x007 => .ok (s, { n with flags := v.truncate 5 })
  | 0x008 => .ok (s, { n with tcause := v &&& 0xFFFF003F#32 })
  | 0x009 => .ok (s, { n with tip := v })
  | 0x00A => .ok (s, { n with taddr := n.taddr.extractLsb' 32 32 ++ v })
  | 0x00B => .ok (s, { n with taddr := v ++ n.taddr.truncate 32 })
  | 0x00C => .ok (s, { n with tvec := v &&& 0xFFFFFFFC#32 })
  | 0x00D => .ok (s, { n with wstk := v &&& 0xFFFFFFC0#32 })
  | 0x00E => .ok (s, { n with wlim := v &&& 0xFFFFFFC0#32 })
  | 0x00F =>
    let cur := bitsN v.toNat 0 5
    let res := bitsN v.toNat 5 6
    if n.frames ≤ cur ∨ res = 0 ∨ n.frames < res then .error (illegalEnc 2 21)
    else .ok (s, { n with cur := cur, res := res, spilled := bitsN v.toNat 16 16 })
  | 0x018 => .ok (s, { n with bka := Store.set 0 n.bka 0 (v &&& 0xFFFFFFFC#32) })
  | 0x019 => .ok (s, { n with bka := Store.set 0 n.bka 1 (v &&& 0xFFFFFFFC#32) })
  | 0x01A => .ok (s, { n with bka := Store.set 0 n.bka 2 (v &&& 0xFFFFFFFC#32) })
  | 0x01B => .ok (s, { n with bka := Store.set 0 n.bka 3 (v &&& 0xFFFFFFFC#32) })
  | 0x01C => .ok (s, { n with wpa := Store.set 0 n.wpa 0 (v &&& 0xFFFFFFF8#32) })
  | 0x01D => .ok (s, { n with wpa := Store.set 0 n.wpa 1 (v &&& 0xFFFFFFF8#32) })
  | 0x01E => .ok (s, { n with dbgc := v &&& 0x1FFF#32 })
  | 0x200 => .ok ({ s with pkg := { s.pkg with cmapx := bitsN v.toNat 0 7 } }, n)
  | 0x201 => .ok (s.writeCmap v, n)
  | 0x202 => .ok ({ s with pkg := { s.pkg with xinvl := v } }, n)
  | 0x203 => .ok (s.writeXinvh v, n)
  | 0x205 => .ok (s.writeRqbase die v, n)
  | 0x207 => .ok (s.writeRqtail die v, n)
  | 0x208 => .ok (s.writeRqovf die v, n)
  | 0x209 => .ok (s.setRing die { s.ring die with cellx := bitsN v.toNat 0 9 }, n)
  | 0x20A => .ok (s.writeCellst die v, n)
  | 0x20B => .ok ({ s with pkg := { s.pkg with sethr := bitsN v.toNat 0 16 } }, n)
  | 0x210 => .ok ({ s with pkg := { s.pkg with wcellx := bitsN v.toNat 0 9 } }, n)
  | 0x216 => .ok ({ s with pkg := { s.pkg with islx := bitsN v.toNat 0 5 } }, n)
  | 0x217 => .ok (s.writeIslst v, n)
  | 0x219 => .ok (if v.getLsbD 0 then s.beginCommit else s, n)
  | _ => .ok (s, n)

/-- A register that waits for pending results of FSQRT and its like (R50). -/
def nstatWaits (n : Node) (idx : BitVec 10) : Bool := decide (idx = 7) && n.owed.any (·.fp)

/-- MOVS of a register (R195). -/
def movsOp (d : GReg) (idx : BitVec 10) (st : BitVec 2) (s : State) : Host.Outcome State Fault Refusal :=
  issue s { writes := [.g d], st := st.toNat } (sysPre idx) fun u =>
    if nstatWaits u.n idx then .hold
    else
      let r := sysRead s u idx.toNat
      match r.2.loc (.g d) with
      | none => .done s r.2
      | some l => .done s (r.2.owe [l] (.value [⟨l, .word r.1⟩]) 0)

/-- MOVSW of a register (R195): g[d] is read through the accumulate port. -/
def movswOp (d : GReg) (idx : BitVec 10) (st : BitVec 2) (s : State) : Host.Outcome State Fault Refusal :=
  issue s { reads := [.g d], st := st.toNat } (sysPre idx) fun u =>
    if nstatWaits u.n idx then .hold
    else match sysWrite s u idx.toNat (u.n.getG d) with
      | .error t => .trap t
      | .ok (s', n) => .done s' n

/-- MOVS: R195. -/
def execMovs (d : GReg) (idx : BitVec 10) (st : BitVec 2) (s : State) := movsOp d idx st s
/-- MOVSW: R195. -/
def execMovsw (d : GReg) (idx : BitVec 10) (st : BitVec 2) (s : State) := movswOp d idx st s
/-- PAIR_LOW_READ: R31. -/
def execPairLowRead (d : GReg) (idx : BitVec 10) (st : BitVec 2) (s : State) := movsOp d idx st s
/-- NCTL_WRITE: R33. -/
def execNctlWrite (d : GReg) (st : BitVec 2) (s : State) := movswOp d 0x006 st s
/-- WPOS_WRITE: R35. -/
def execWposWrite (d : GReg) (st : BitVec 2) (s : State) := movswOp d 0x00F st s
/-- NSTAT_ACCESS: R50. -/
def execNstatAccess (write : Bool) (d : GReg) (st : BitVec 2) (s : State) :=
  if write then movswOp d 0x007 st s else movsOp d 0x007 st s
/-- CMAP_WRITE: R310. -/
def execCmapWrite (d : GReg) (st : BitVec 2) (s : State) := movswOp d 0x201 st s
/-- XINVH_WRITE: R314. -/
def execXinvhWrite (d : GReg) (st : BitVec 2) (s : State) := movswOp d 0x203 st s
/-- RQBASE_WRITE: R349. -/
def execRqbaseWrite (d : GReg) (st : BitVec 2) (s : State) := movswOp d 0x205 st s
/-- RQTAIL_WRITE: R349. -/
def execRqtailWrite (d : GReg) (st : BitVec 2) (s : State) := movswOp d 0x207 st s
/-- RQOVF_WRITE: R349. -/
def execRqovfWrite (d : GReg) (st : BitVec 2) (s : State) := movswOp d 0x208 st s
/-- CELLST_SEAL: R349, the write whose value has SEALED 1. -/
def execCellstSeal (d : GReg) (st : BitVec 2) (s : State) := movswOp d 0x20A st s
/-- CELLST_UNSEAL: R358, the write whose value has SEALED 0. -/
def execCellstUnseal (d : GReg) (st : BitVec 2) (s : State) := movswOp d 0x20A st s
/-- ISLST_WRITE: R375. -/
def execIslstWrite (d : GReg) (st : BitVec 2) (s : State) := movswOp d 0x217 st s
/-- ALCMD_COMMIT: R374, R375. -/
def execAlcmdCommit (d : GReg) (st : BitVec 2) (s : State) := movswOp d 0x219 st s
/-- REGISTER_WRITE: R30. -/
def execRegisterWrite (d : GReg) (idx : BitVec 10) (st : BitVec 2) (s : State) := movswOp d idx st s

/-- INVALIDATION_COMPLETE: R314, every station has dropped the entries of the roots named. -/
def execInvalidationComplete (s : State) : Host.Outcome State Fault Refusal :=
  let roots := s.pkg.xbusy
  .next { s with
    crofts := s.crofts.map (fun x => (x.1, { x.2 with tlb := x.2.tlb.filter (fun t => !roots.contains t.root) })),
    pkg := { s.pkg with xbusy := [] } }

/-! ### TRAP, the spill area and the work identifier -/

/-- TRAP: R196. It completes and is then taken; in trap mode it is unperformed (R348). -/
def execTrap (code : BitVec 10) (st : BitVec 2) (s : State) : Host.Outcome State Fault Refusal :=
  issue s { st := st.toNat } preNone fun u =>
    let t : Trap := { cause := .software, detail := code.zeroExtend 16 }
    if u.n.inTrap then .trap t else .done s u.n none (some t)

/-- SPILL_AREA_FAULT (R197). -/
def spillFault (k : Acc) (a : Nat) : Trap := k.trap .spillAreaFault (BitVec.ofNat 64 a)
/-- 64 bytes of the spill area lie within local memory and outside the code region. -/
def spillOk (c : Cell) (a : Nat) : Bool :=
  decide (a + 64 ≤ localSize) && !(decide (a < c.codeOff + c.codeLen) && decide (c.codeOff < a + 64))

/-- One word of a spilled frame, as a store in flight. -/
def spillWord (u : Issue) (a f j : Nat) : Access :=
  { src := srcOf u, home := .cell u.p, op := .store (u.n.cellAt (.region (16 * f + j))).val.toNat, key := keyLocal u.p (a + 4 * j),
    size := 4, va := BitVec.ofNat 64 (a + 4 * j), detail := ({ size := 4, wr := true } : Acc).detail, site := siteOf u.p }

/-- WSPILL: R19, R197, R383. That its own traps come before its hold for a result owed to the frame is the model's choice (log entry
114). -/
def execWspill (st : BitVec 2) (s : State) : Host.Outcome State Fault Refusal :=
  issue s { st := st.toNat } (fun u => if u.n.res = 1 then some (illegalEnc 2 0) else none) fun u =>
    let k : Acc := { size := 64, wr := true }
    let a := u.n.wstk.toNat + 64 * u.n.spilled
    let f := (u.n.cur + 1 + u.n.frames - u.n.res) % u.n.frames
    if u.n.wlim.toNat < a + 64 ∨ !spillOk (s.cell u.p) a then .trap (spillFault k a)
    else if u.n.frameOwed f || s.ownWaits u false then .hold
    else
      let s := (List.range 16).foldl (fun s j => s.send u.p false (spillWord u a f j)) s
      .done s { u.n with spilled := u.n.spilled + 1, res := u.n.res - 1 } none
        (u.n.watchRange (BitVec.ofNat 64 a) { size := 4, wr := true } 16)

/-- WFILL: R19, R197. The cell holds until the words, and the node's earlier accesses here, are in. -/
def execWfill (st : BitVec 2) (s : State) : Host.Outcome State Fault Refusal :=
  issue s { st := st.toNat } (fun u => if u.n.res = u.n.frames then some (illegalEnc 2 0) else none) fun u =>
    let k : Acc := { size := 64, rd := true }
    if u.n.spilled = 0 then .trap (spillFault k u.n.wstk.toNat)
    else
      let a := u.n.wstk.toNat + 64 * (u.n.spilled - 1)
      let f := (u.n.cur + u.n.frames - u.n.res) % u.n.frames
      if !spillOk (s.cell u.p) a then .trap (spillFault k a)
      else if s.inFlightTo (srcOf u) (.cell u.p) then .hold
      else if poisonedAt s.poison (keyLocal u.p a) 64 then
        .trap (({ size := 4, rd := true } : Acc).trap .poisonConsumed
          (BitVec.ofNat 64 (a + firstPoison s.poison (keyLocal u.p a) 64)))
      else
        let n := (List.range 16).foldl (fun n j =>
          n.write ⟨.region (16 * f + j), .word (BitVec.ofNat 32 (Memory.num s.mem (keyLocal u.p (a + 4 * j)) 4))⟩) u.n
        .done s { n with spilled := u.n.spilled - 1, res := u.n.res + 1 } none
          (u.n.watchRange (BitVec.ofNat 64 a) { size := 4, rd := true } 16)

/-- Field `f` of the work identifier (R198). -/
def widxValue (i : Inst) (ordinal f : Nat) : Nat :=
  let w := i.group * 2 ^ i.image.nb + ordinal
  match i.image.widths[f]? with
  | none => 0
  | some n => bitsN w ((i.image.widths.take f).foldl (· + ·) 0) n

/-- WIDX: R198. -/
def execWidx (d : GReg) (half f : BitVec 5) (st : BitVec 2) (s : State) : Host.Outcome State Fault Refusal :=
  issue s { writes := [.g d], st := st.toNat } preNone fun u =>
    let i : Inst := ((s.instOf u.p).map (·.2)).getD {}
    let v := widxValue i u.n.ordinal f.toNat
    let w := if half = 0 then lowWord v else highWord v
    match u.n.loc (.g d) with
    | none => .done s u.n
    | some l => .done s (u.n.owe [l] (.value [⟨l, .word w⟩]) 0)

end Sys2Proof.Machine
end

