-- ==== Sys2Proof/Machine/Record.lean ====
section
/-! DEFINITION. The records of saved instances, byte for byte (R305 to R307). -/

namespace Sys2Proof.Machine

/-- Bits of a predicate on 0, 1, …, packed from bit 0 of the first byte: `n` bytes. -/
def packBits (n : Nat) (f : Nat → Bool) : List Byte :=
  (List.range n).map (fun j => BitVec.ofNat 8 ((List.range 8).foldl (fun a b => a + (if f (8 * j + b) then 2 ^ b else 0)) 0))

/-- Bytes of a sparse array. -/
def bytesOf (l : List (Nat × Byte)) (off n : Nat) : List Byte := (List.range n).map (fun j => Store.get 0 l (off + j))

/-- The next multiple. -/
def alignUp (u n : Nat) : Nat := (n + u - 1) / u * u
def padTo (u : Nat) (l : List Byte) : List Byte := l ++ List.replicate (alignUp u l.length - l.length) 0

def words (l : List Word) : List Byte := l.flatMap (fun w => leBytes 4 w.toNat)

/-- A frame of the region is resident (R18). -/
def Node.resident (n : Node) (f : Nat) : Bool := decide ((n.cur + n.frames - f) % n.frames < n.res)

/-- A region word that a record holds. -/
def Node.keepsWord (n : Node) (w : Nat) : Bool := decide (w < n.size) && n.resident (w / 16) && (Store.get {} n.region w).live

/-- The captured header and entries of an offer. -/
def Offer.bytes (f : Offer) : List Byte :=
  (leBytes 1 f.entries.length ++ leBytes 1 (if f.persist then 1 else 0) ++ List.replicate 14 0)
    ++ f.entries.flatMap (fun e => leBytes 2 e.ev ++ leBytes 1 e.role ++ leBytes 1 0 ++ leBytes 4 e.cbuf ++ leBytes 4 e.rbuf
        ++ leBytes 4 e.len)

/-- Instants still to sleep: of a PAUSED node, those that its PAUSE counts (R233, R306). -/
def Node.toSleep (n : Node) : Nat := if n.stt = .paused then n.pauseN else n.sleep
/-- The node is held for page service (R302, R306). -/
def Node.pageHeld (n : Node) : Bool := decide (n.heldFor.map (·.cause) = some .pageNotPresent)

/-- A node record (R306). -/
def Node.record (n : Node) (lcell slot : Nat) : List Byte :=
  let g : Nat → RegCell := fun i => Store.get {} n.g i
  let vctx := n.vec.getD {}
  let w8 : (Nat → Word) → List Byte := fun f => words ((List.range 8).map f)
  padTo 64
    (leBytes 4 (nidOf lcell slot n.gen).toNat ++ leBytes 1 n.stt.code ++ leBytes 1 n.toSleep
      ++ leBytes 1 ((if n.offer.isSome then 1 else 0) + (if n.wait.isSome then 2 else 0) + (if n.vec.isSome then 4 else 0)
          + (if n.pageHeld then 8 else 0))
      ++ leBytes 1 ((n.offer.map (·.d.toNat)).getD 0) ++ leBytes 4 n.firstWord.toNat
      ++ leBytes 4 ((n.offer.map (·.recAddr)).getD 0) ++ leBytes 2 ((n.wait.map (·.ev)).getD 0)
      ++ leBytes 1 ((n.wait.map (·.d.toNat)).getD 0) ++ packBits 1 (fun i => n.dWritten.contains i)
      ++ words [n.nctl, n.nstat, n.tcause, n.tip] ++ leBytes 8 n.taddr.toNat ++ words [n.tvec, n.wstk, n.wlim, n.wpos]
      ++ words [n.loopc, n.loops, n.loope, n.tloopc, n.tloops, n.tloope]
      ++ words ((List.range 4).map (Store.get 0 n.bka)) ++ words ((List.range 2).map (Store.get 0 n.wpa)) ++ words [n.dbgc]
      ++ words ((List.range 7).map (fun i => (g (i + 1)).val))
      ++ (List.range 8).flatMap (fun i => leBytes 8 (Store.get (0 : Addr) n.a i).toNat)
      ++ packBits 1 (fun i => decide (i ≠ 0) && Store.get false n.p i)
      ++ packBits 1 (fun i => decide (i ≠ 0) && (g i).live) ++ leBytes 2 0
      ++ w8 (Store.get 0 n.dPend) ++ w8 (Store.get 0 n.dComm)
      ++ w8 (fun i => (Store.get {} n.bank i).val) ++ packBits 1 (fun i => (Store.get {} n.bank i).live) ++ leBytes 3 0
      ++ (let b := (n.offer.map Offer.bytes).getD []; b ++ List.replicate (144 - b.length) 0)
      ++ w8 (fun i => (g (i + 8)).val) ++ packBits 1 (fun i => (g (i + 8)).live) ++ List.replicate 27 0
      ++ (List.range 16).flatMap (fun i => leBytes 64 (Store.get {} vctx.v i).val.toNat)
      ++ (List.range 7).flatMap (fun i => leBytes 2 (Store.get (0 : BitVec 16) vctx.k (i + 1)).toNat)
      ++ packBits 2 (fun i => n.vec.isSome && (Store.get {} vctx.v i).live) ++ packBits 64 n.keepsWord
      ++ words (((List.range n.size).filter n.keepsWord).map (fun w => (Store.get {} n.region w).val)))

/-- The events part (R305): a word an event, then the TID table. -/
def Saved.eventsPart (v : Saved) (events : Nat) : List Byte :=
  (List.range events).flatMap (fun e =>
      let x := Store.get {} v.ev e
      leBytes 4 (x.st.code + (if x.perm = .unknown then 0 else 4)))
    ++ (List.range 64).flatMap (fun j => leBytes 32 (Store.get (0 : BitVec 256) v.tids j).toNat)

/-- A claim as a record holds it. -/
def Claim.word : Claim → Nat
  | .free => 0
  | .held nid => 1 + nid.toNat * 2 ^ 32
  | .releasing => 2

/-- The croft part of one croft (R307). The count of standing offers and the event numbers take two bytes each (log entry
20). -/
def Saved.croftPart (v : Saved) (c : Nat) : List Byte :=
  let o := c * 2 ^ 20
  let cr := Tab.getD v.crofts c {}
  let bad : Nat → Bool := fun k => v.slotsPoison.contains ((o + k) / 8)
  bytesOf v.slots o (2 ^ 19)
    ++ (List.range (4 * 128 * 128)).flatMap (fun e => bytesOf v.slots (o + 2 ^ 19 + 8 * e) 5)
    ++ packBits 8192 (fun d => bad (8 * d)) ++ packBits 8192 (fun e => bad (2 ^ 19 + 8 * e))
    ++ (List.range 16).flatMap (fun s => leBytes 8 (Store.get Claim.free cr.claims s).word)
    ++ leBytes 8 cr.gangAcc
    ++ (List.range 3).flatMap (fun e =>
        let l := (Tab.getD cr.eng e {}).standing
        leBytes 2 l.length ++ l.flatMap (fun x => leBytes 2 x.ev))

/-- The cell part of one cell (R307). -/
def Saved.cellPart (v : Saved) (l : Nat) : List Byte :=
  bytesOf v.local_ (l * 2 ^ 17) localSize
    ++ packBits 1536 (fun d => v.localPoison.contains ((l * 2 ^ 17) / 8 + d))
    ++ ((v.nodes.filter (fun x => decide (x.1 / 20 = l))).flatMap (fun x => x.2.record l (x.1 % 20)))

/-- The granary part (R307). -/
def Saved.granaryPart (v : Saved) (crofts : Nat) : List Byte :=
  bytesOf v.window 0 (2 ^ 21 * crofts) ++ packBits (2 ^ 15 * crofts) (fun d => v.windowPoison.contains d)

/-- A whole instance record (R305), with the DIGEST field given. -/
def Saved.record (v : Saved) (i : Image) (dual : Bool) (digest : List Byte) : List Byte :=
  let n := i.w * i.h
  let ev := padTo 4096 (v.eventsPart i.events.length)
  let cr := padTo 4096 ((List.range n).flatMap v.croftPart)
  let ce := padTo 4096 ((List.range (4 * n)).flatMap v.cellPart)
  let gr := v.granaryPart n
  let o1 := 4096 + ev.length
  let o2 := o1 + cr.length
  let o3 := o2 + ce.length
  padTo 4096
    (leBytes 4 0x53585443 ++ leBytes 2 0x0100 ++ leBytes 1 v.kind ++ leBytes 1 (if dual then 1 else 0) ++ leBytes 8 v.group
      ++ leBytes 8 v.instant ++ leBytes 8 (v.wear / 1000) ++ leBytes 1 (i.w + 16 * i.h) ++ leBytes 1 0
      ++ leBytes 2 i.events.length ++ leBytes 4 4096 ++ leBytes 4 o1 ++ leBytes 4 o2 ++ leBytes 4 o3
      ++ leBytes 4 (o3 + gr.length) ++ List.replicate 8 0 ++ digest ++ List.replicate 32 0)
    ++ ev ++ cr ++ ce ++ gr

/-- The digest of a record: that of the record with a zero DIGEST field. -/
def Saved.digestOf (v : Saved) (i : Image) (dual : Bool) : List Byte := sha256 (v.record i dual (List.replicate 32 0))

/-- The length of a record. -/
def Saved.recordLen (v : Saved) (i : Image) : Nat := (v.record i false (List.replicate 32 0)).length

end Sys2Proof.Machine
end

