-- ==== Sys2Proof/Machine/Launch.lean ====
section
/-! DEFINITION. Launches (R199 to R201, R219, R292 to R295, R298, R300): the launch record and its checks, GROW, LAUNCH and
SEAL, the host's requests for launch, drain and discard, and the states of a drain. -/

namespace Sys2Proof.Machine

/-! ### Reading and writing through a launch's own translation (R293, R313) -/

/-- The place of a byte of virtual memory: its key, and whether the leaf has NX or allows writes. -/
def launchPlace (s : State) (root va : Nat) : Option (Nat × Bool × Bool) :=
  if 2 ^ 48 ≤ va then none
  else match walk s root va with
    | .error _ => none
    | .ok (l, e) => some (physKey e l va, pteNx e, pteW e)

/-- Every place of a range; none where translation cannot read one. -/
def launchPlaces (s : State) (root va : Nat) : Nat → Option (List (Nat × Bool × Bool))
  | 0 => some []
  | n + 1 =>
    match launchPlace s root va with
    | none => none
    | some x => (launchPlaces s root (va + 1) n).map (x :: ·)

/-- The bytes of a range; none where one cannot be read. -/
def launchBytes (s : State) (l : List (Nat × Bool × Bool)) : Option (List Byte) :=
  if l.any (fun x => s.absentAt x.1 || s.poison.contains (x.1 / 8)) then none else some (l.map (fun x => Memory.get s.mem x.1))

/-- Places one after another inside 64 bytes, as first place and length. -/
def runs : List Nat → List (Nat × Nat)
  | [] => []
  | k :: t =>
    match runs t with
    | (a, n) :: r => if a = k + 1 ∧ a % 64 ≠ 0 then (k, n + 1) :: r else (k, 1) :: (a, n) :: r
    | [] => [(k, 1)]

/-- The accesses with which a launch reads or writes a range: the storage is met (R350), and a host page is asked for through the
bridge (R325). -/
def State.launchTouch (s : State) (wr : Bool) (l : List (Nat × Bool × Bool)) : State :=
  (runs (l.map (·.1))).foldl (fun s x =>
    if keyRegion x.1 = 2 then s.cacheReq (if !wr then .rdCurr else if x.2 = 64 then .itoMWr else .wrCur) x.1 x.2
    else if wr && decide (8 ≤ x.2) then s.renew x.1 x.2
    else s.inspect x.1 x.2) s
/-- Absent tier-2 memory in a range that a launch reads or writes for a source is reported, once (R327). -/
def State.launchAbsent (s : State) (src : Src) (wr : Bool) (va : Nat) (l : List (Nat × Bool × Bool)) : State :=
  match l.findIdx? (fun x => s.absentAt x.1) with
  | none => s
  | some j => s.reportSrc src .translationWalkError ({ size := 1, rd := !wr, wr := wr } : Acc).detail (BitVec.ofNat 64 (8 * 2 ^ 60 + va + j))

/-- The walks for a range of virtual addresses meet the tables (R313, R350). -/
def State.meetRange (s : State) (root va n : Nat) : State :=
  if s.flaws.isEmpty then s else (List.range (n / 2 ^ 16 + 2)).foldl (fun s j => s.meetWalk root ((va + j * 2 ^ 16) % 2 ^ 48)) s

/-- The places of a range are writable and there. -/
def launchWritable (s : State) (l : List (Nat × Bool × Bool)) : Bool := l.all (fun x => x.2.2 && !s.absentAt x.1)
/-- Bytes written at the places of a range. -/
def launchWrite (s : State) (l : List (Nat × Bool × Bool)) (data : List Byte) : State :=
  let whole : Nat → Bool := fun d => (List.range 8).all (fun j => l.any (fun x => decide (x.1 = 8 * d + j)))
  let s := s.launchTouch true l
  let s := { s with poison := s.poison.filter (fun d => !whole d) }
  (List.zip l data).foldl (fun s x => s.writeKey x.1.1 [(x.2, false)]) s

/-- No atomic stands between its read and its write at the host bridge (R150): a LAUNCH, which may touch host pages, waits. -/
def State.bridgeIdle (s : State) : Bool := !s.net.any (·.read.isSome)

/-! ### The launch record (R292, R293) -/

structure LaunchRec where
  image : Nat
  par : Nat
  imageLen : Nat
  parLen : Nat
  groups : Nat
  troot : Nat
  w : Nat
  h : Nat
  prio : Nat
  fpol : Nat
  dual : Bool
  cslot : Nat
  drainlim : Nat
  forcelim : Nat
  overrun : Nat
  budgets : List Nat
  tag : Nat

def LaunchRec.of (b : List Byte) : LaunchRec :=
  let f : Nat → Nat → Nat := field b
  { image := f 0 8, par := f 8 8, imageLen := f 16 4, parLen := f 20 4, groups := f 24 8, troot := f 32 8,
    w := bitsN (f 40 1) 0 4, h := bitsN (f 40 1) 4 4, prio := bitsN (f 41 1) 0 2, fpol := bitsN (f 41 1) 2 2,
    dual := decide (bitsN (f 41 1) 4 1 = 1), cslot := bitsN (f 42 1) 0 6, drainlim := f 44 4, forcelim := f 48 4,
    overrun := f 52 4, budgets := [f 56 4, f 60 4, f 64 4, f 68 4], tag := f 72 8 }

/-- TROOT is aligned and in tier-1 memory. -/
def trootOk (x : Nat) : Bool := decide (x % 4096 = 0) && decide (x < tier1Size)

/-- The fields of a record, and that its TAG names no held launch (R293). -/
def recordOk (s : State) (b : List Byte) : Bool :=
  let r := LaunchRec.of b
  decide (field b 43 1 = 0) && decide (leNat (slice b 80 48) = 0) && decide (field b 41 1 < 32) && decide (field b 42 1 < 64)
    && decide (r.fpol ≠ 3) && decide (1 ≤ r.groups ∧ r.groups ≤ 2 ^ 40) && decide (r.image % 8 = 0)
    && (decide (r.parLen = 0) || decide (r.par % 8 = 0)) && trootOk r.troot
    && !s.launches.any (fun x => decide (x.2.tag.toNat = r.tag))

/-- The header of an image as far as it can be read: its PSIZE and shape agree with the record. -/
def headAgrees (r : LaunchRec) (f : List Byte) : Bool :=
  decide (field f 16 4 = r.imageLen) &&
    (!headerOk f ||
      (match sect (sectionsOf f) 5 with
       | none => true
       | some x =>
         decide (f.length < x.off + 64) || decide (x.flags = 1) ||
           (decide (field f (x.off + 16) 4 = r.parLen)
             && (decide (r.w = 0 ∧ r.h = 0) || decide (field f x.off 1 = r.w + 16 * r.h)))))

/-- Check 3 of R219 under the signed policy (R204, R376). -/
def signatureOk (g : Pkg) (f : List Byte) : Bool :=
  if signedImage f then
    signedOk f && g.rules.keys.any (fun k => ecdsaVerify k (sha256 (f.take (f.length - 64))) (f.drop (f.length - 64)))
  else decide (g.rules.sigMode ≠ 2)

/-- The bytes of the image with its patched code (R304). -/
def patchedFile (f : List Byte) (code : List Word) : List Byte :=
  match sect (sectionsOf f) 1 with
  | none => f
  | some x => f.take x.off ++ code.flatMap (fun w => leBytes 4 w.toNat) ++ f.drop (x.off + 4 * code.length)

/-- The launch copy: the patched image, then the parameter block. -/
def launchCopy (i : Image) (f block : List Byte) : List Byte := patchedFile f i.code ++ block

/-- A launch of a record that passed every check. -/
def newLaunch (r : LaunchRec) (i : Image) (f block : List Byte) : Launch :=
  { tag := BitVec.ofNat 64 r.tag, image := i, params := block, copyDigest := sha256 (launchCopy i f block),
    count := r.groups, prio := r.prio, notify := if r.fpol = 0 then decide (i.fault = 1) else decide (r.fpol = 2),
    dual := r.dual || i.dual, cslot := r.cslot, drainlim := r.drainlim, forcelim := r.forcelim, overrun := r.overrun,
    budgets := r.budgets, troot := r.troot }

/-! ### Tier-1 memory reserved to the reeve domain (R219, R304) -/

/-- A range of memory becomes zero and clean, with no error left in it (R220, R350). -/
def State.clearRange (s : State) (key n : Nat) : State :=
  { s.renew key ((n + 7) / 8 * 8) with mem := Memory.clear s.mem key n, poison := s.poison.filter (fun d => !(key ≤ 8 * d && 8 * d < key + n)) }
/-- The lowest address that a held launch keeps for its copy or its save set (log entry 20). -/
def State.reserveFloor (s : State) : Nat :=
  s.launches.foldl (fun m x => min m (min (x.2.copyAt.getD tier1Size) (x.2.setAt.getD tier1Size))) tier1Size
/-- Where `n` bytes more are kept: below, on a page boundary. -/
def State.reserve (s : State) (n : Nat) : Nat := (s.reserveFloor - n) / 4096 * 4096
/-- The firmware keeps bytes at an address of tier-1 memory. -/
def State.keep (s : State) (a : Nat) (b : List Byte) : State :=
  let s := s.clearRange (keyTier1 a) b.length
  { s with mem := Memory.setBytes s.mem (keyTier1 a) b }
/-- What stands there. -/
def State.kept (s : State) (a n : Nat) : List Byte := Memory.bytes s.mem (keyTier1 a) n

/-- LAUNCH of a 128-byte record for a source (R200, R219): the state and the status. A record with a status other than 0 leaves
nothing behind but what its accesses did (log entry 42) and PATCH_RANGE's report, which goes to die 0 (log entry 105). -/
def State.submit (s : State) (src : Src) (b : List Byte) : State × Nat :=
  let r := LaunchRec.of b
  if !recordOk s b then (s, 1)
  else
    let s := (s.meetRange r.troot r.par r.parLen).meetRange r.troot r.image r.imageLen
    match launchPlaces s r.troot r.par r.parLen, launchPlaces s r.troot r.image r.imageLen with
    | some pl, some il =>
      let s := (((s.launchTouch false pl).launchTouch false il).launchAbsent src false r.par pl).launchAbsent src false r.image il
      match launchBytes s pl, launchBytes s il with
      | some block, some f =>
        if !headAgrees r f then (s, 1)
        else if il.any (·.2.1) || !headerOk f || !signatureOk s.pkg f || !layoutOk f then (s, 2)
        else
          let i := imageOf f
          match patchCode i block i.patches 0 i.code with
          | .error n =>
            (s.reportTo 0 { cause := .patchRange, tcause := tcauseWord .patchRange (BitVec.ofNat 16 n) }, 3)
          | .ok code =>
            let s := s.meetRange r.troot i.dramVa i.dram.length
            match launchPlaces s r.troot i.dramVa i.dram.length with
            | none => (s, 1)
            | some dl =>
              let s := s.launchAbsent src true i.dramVa dl
              if !launchWritable s dl then (s, 1)
              else if Config.dispatchRoom ≤ s.launches.length then (s, 4)
              else
                let i := { i with code := code }
                let s := launchWrite s dl i.dram
                let at_ := s.reserve (launchCopy i f block).length
                let x := { newLaunch r i f block with copyAt := some at_, copyLen := (launchCopy i f block).length }
                let s := s.keep at_ (launchCopy i f block)
                ({ s with launches := Tab.set s.launches s.nextLaunch x, nextLaunch := s.nextLaunch + 1,
                          pkg := { s.pkg with launchLog := sha256 (s.pkg.launchLog ++ x.copyDigest) } }, 0)
      | _, _ => (s, 1)
    | _, _ => (s, 1)

/-! ### GROW, LAUNCH, SEAL (R199 to R201) -/

/-- A GROW waits, in twin mode, for its like of the other copy, and holds its cell meanwhile (R360, log entry 112). -/
def State.holdGrow (s : State) (u : Issue) (nid : BitVec 16) (v : Nat) : State :=
  let m : TwinMsg := .grow (srcOf u) nid u.n.grows v
  let s : State := match s.instOf u.p with
    | none => s
    | some (k, i) =>
      if (s.heldPackets (srcOf u)).contains m then s
      else s.setInst k { i with twinq := i.twinq ++ [{ second := s.isTwinCell u.p, lcell := (s.cell u.p).lcell, msg := m }] }
  s.holdCell u

/-- GROW: R199. -/
def execGrow (d a : GReg) (la : Bool) (st : BitVec 2) (s : State) : Host.Outcome State Fault Refusal :=
  issue s { reads := [.g a], writes := [.g d], st := st.toNat } preNone fun u =>
    let v := (u.n.getG a).toNat
    let n := u.n.releaseAll (u.n.locs (if la then [.g a] else []))
    let give : State → Word → Res := fun s w =>
      let n := { n with grows := n.grows + 1 }
      .done s (match n.loc (.g d) with
        | none => n
        | some l => n.owe [l] (.value [⟨l, .word w⟩]) 0)
    match s.launchOf u.p, s.groupOf u.p with
    | some l, some g =>
      match s.launch? l with
      | none => give s (Config.growReeve u.p u.i u.n.grows)
      | some x =>
        let nid : BitVec 16 := (s.nid u.p u.i).truncate 16
        match x.grows.find? (fun k => decide (k.group = g) && decide (k.nid = nid) && decide (k.count = u.n.grows)) with
        | some k => give s (BitVec.ofNat 32 k.old)
        | none =>
          if !(s.instAt u.p).twin.isEmpty then .left (s.holdGrow u nid v)
          else match x.grow g nid u.n.grows v with
            | none => .trap { cause := .growLimit }
            | some y => give (s.onLaunch l (fun _ => y)) (BitVec.ofNat 32 x.count)
    | _, _ => give s (Config.growReeve u.p u.i u.n.grows)

/-- A record of 128 bytes that a reeve node reads (R200): two reads of 64 bytes at their home, at a multiple of 128, after
the node's own accesses to it (log entry 4) and any atomic that holds a line of it (R150). -/
def recordRead (s : State) (u : Issue) (a : Addr) (k : State → List Byte → Res) : Res :=
  let c : Acc := { size := 64, rd := true }
  match checkAccess s u.p a c with
  | .error t => .trap t
  | .ok p1 =>
    if a.toNat % 128 ≠ 0 then .trap (c.trap .misaligned a)
    else match checkAccess s u.p (a + 64) c with
      | .error t => .trap t
      | .ok p2 =>
        if s.inFlightTo (srcOf u) p1.home || s.inFlightTo (srcOf u) p2.home || s.lineBusy p1.key || s.lineBusy p2.key then .hold
        else
          let a1 := nodeAccess u p1 .load c a []
          let a2 := nodeAccess u p2 .load c (a + 64) []
          let s := (s.readHere a1).readHere a2
          match (poisonTrap s a1 p1.home (s.keyNow p1.key p1.win) a false).orElse
            (fun _ => poisonTrap s a2 p2.home (s.keyNow p2.key p2.win) (a + 64) false) with
          | some t => .left (s.trapUnperformed u t 0 false)
          | none => k s (Memory.bytes s.mem (s.keyNow p1.key p1.win) 64 ++ Memory.bytes s.mem (s.keyNow p2.key p2.win) 64)

/-- A status goes to g[d] as an interlocked result; a watchpoint that the reads of the record touch is taken then (R37). -/
def statusResult (s : State) (n : Node) (a : Addr) (d : GReg) (st : Nat) : Res :=
  .done s (match n.loc (.g d) with
    | none => n
    | some l => n.owe [l] (.value [⟨l, .word (BitVec.ofNat 32 st)⟩]) 0) none (n.watchRange a { size := 64, rd := true } 2)

/-- LAUNCH: R200. -/
def execLaunch (d : GReg) (a : AReg) (st : BitVec 2) (s : State) : Host.Outcome State Fault Refusal :=
  issue s { reads := [.a a], writes := [.g d], st := st.toNat } preReeve fun u =>
    recordRead s u (u.n.getA a) fun s b =>
      if !s.bridgeIdle then .hold
      else let r := s.submit (srcOf u) b; statusResult r.1 u.n (u.n.getA a) d r.2

/-- SEAL: R201. -/
def execSeal (a : GReg) (la : Bool) (st : BitVec 2) (s : State) : Host.Outcome State Fault Refusal :=
  issue s { reads := [.g a], st := st.toNat } preReeve fun u =>
    let c := bitsN (u.n.getG a).toNat 0 9
    .done (if c < firstReeve then s.sealCell c false else s) (u.n.releaseAll (u.n.locs (if la then [.g a] else [])))

/-! ### Drains (R300) -/

/-- The instances of a launch. -/
def State.instsOf (s : State) (l : Nat) : List (Nat × Inst) := s.insts.filter (fun x => !x.2.reeve && decide (x.2.launch = l))

/-- The length of the directory, the entries, the GROW keys and the signature of a save set (R304, R308), and of each record. -/
def Launch.headLen (x : Launch) : Nat := 64 + 64 * x.saved.length + 8 + 24 * x.grows.length + 64
def Launch.recordLens (x : Launch) : List Nat := x.saved.map (fun v => if v.kind = 2 then 0 else v.recordLen x.image)
/-- Things of these lengths one after another: where each begins. -/
def placesFrom (off : Nat) : List Nat → List Nat
  | [] => []
  | n :: t => off :: placesFrom (off + n) t
/-- The saved instances with the address and the length of their records. -/
def Launch.entries (x : Launch) : List (Saved × Nat × Nat) :=
  List.zip x.saved (List.zip (placesFrom (x.setAt.getD 0 + alignUp 4096 x.headLen) x.recordLens) x.recordLens)

/-- Where a launch keeps things in tier-1 memory: the head and the records of its save set, and its launch copy. -/
def Launch.keeps (x : Launch) : List (Nat × Nat) :=
  (match x.setAt with
   | none => []
   | some a => [(a, x.headLen), (a + alignUp 4096 x.headLen, x.recordLens.foldl (· + ·) 0)])
  ++ (match x.copyAt with
   | none => []
   | some c => [(c, x.copyLen)])
/-- What a launch keeps is read (R350). -/
def State.meetKept (s : State) (x : Launch) : State := x.keeps.foldl (fun s r => s.inspect (keyTier1 r.1) r.2) s

/-- Bytes of a save set's directory, entries and GROW keys (R304). An unstarted group's ADDR and DIGEST are zero, and the keys stand in the
order in which the GROWs were performed, by the model's choice (log entry 136). -/
def Launch.directory (x : Launch) : List Byte :=
  leBytes 4 0x54455343 ++ leBytes 4 x.saved.length ++ leBytes 8 x.nextG ++ leBytes 8 x.count ++ leBytes 8 (x.wear / 1000)
    ++ x.copyDigest
    ++ x.entries.flatMap (fun e => leBytes 8 e.1.group
        ++ (if e.1.kind = 2 then List.replicate 48 0 else leBytes 8 e.2.1 ++ leBytes 8 e.2.2 ++ e.1.digest) ++ leBytes 8 0)
    ++ leBytes 8 x.grows.length
    ++ x.grows.flatMap (fun k => leBytes 8 k.group ++ leBytes 2 k.nid.toNat ++ leBytes 2 0 ++ leBytes 4 k.count ++ leBytes 8 k.old)

/-- The 64 bytes of the identity key's signature over bytes (R308, R376). -/
def identitySignature (b : List Byte) : List Byte := identitySign (sha256 b)
/-- A whole save set: what is signed, the signature after it, and the records. -/
def Launch.setBytes (x : Launch) : List Byte :=
  padTo 4096 (x.directory ++ identitySignature x.directory)
    ++ x.saved.flatMap (fun v => if v.kind = 2 then [] else v.record x.image x.dual v.digest)

/-- Saved instances in ascending group. -/
def insertSaved (v : Saved) : List Saved → List Saved
  | [] => [v]
  | x :: t => if v.group < x.group then v :: x :: t else if x.group = v.group then v :: t else x :: insertSaved v t

/-- Groups that wait to be placed again enter the save set as unstarted (R303). -/
def Launch.gather (x : Launch) : Launch :=
  let more := x.again.filter (fun g => !x.saved.any (fun v => decide (v.group = g)))
  { x with again := [], saved := more.foldl (fun l g => insertSaved { group := g, kind := 2 } l) x.saved }

/-- The save set of a drained launch is sealed: it stands, signed, in the memory of the reeve domain (R304, R308, log entry 20). -/
def State.sealSet (s : State) (l : Nat) : State :=
  match s.launch? l with
  | none => s
  | some x =>
    let y := x.gather
    let at_ := s.reserve (alignUp 4096 y.headLen + y.recordLens.foldl (· + ·) 0)
    let y := { y with setAt := some at_ }
    (s.onLaunch l (fun _ => y)).keep at_ y.setBytes

/-- A launch with no instance left: complete when every group has retired, or at the end of a drain (R298, R300). -/
def State.endLaunch (s : State) (l : Nat) : State :=
  match s.launch? l with
  | none => s
  | some x =>
    if !(s.instsOf l).isEmpty then s
    else if x.again.isEmpty && x.saved.isEmpty && decide (x.count ≤ x.nextG) then s.sendCompletion l 0
    else if x.phase = .dispatching ∨ x.phase = .ended then s
    else (s.sealSet l).sendCompletion l (if x.killed then 2 else 1)

/-- FORCING (R300, R302): FORCED_SAVE is reported for each instance not yet saved, and one in mid-instant stops; one at its
boundary is saved there. One that a seal restarts is to enter the save set unstarted (R303). -/
def State.toForcing (s : State) (l : Nat) : State :=
  let s := s.onLaunch l (fun x => { x with phase := .forcing })
  let s := (s.instsOf l).foldl (fun s x =>
    (s.reportTo (dieOf (x.2.cells.headD 0))
      { cause := .forcedSave, tcause := tcauseWord .forcedSave 0, group := some x.2.group }).onInst x.1
      (fun i => if i.phase = .running then { i with forcing := true, phase := .forced } else { i with forcing := true })) s
  s.endLaunch l

/-- STOPPING (R300): every resident instance receives its stop request. -/
def State.toStopping (s : State) (l : Nat) : State :=
  let s := s.onLaunch l (fun x => { x with phase := .stopping })
  let s := (s.instsOf l).foldl (fun s x => s.onInst x.1 (fun i => { i with stop := true })) s
  let s := s.endLaunch l
  match s.launch? l with
  | none => s
  | some x => if x.phase = .stopping ∧ x.forcelim = 0 then s.toForcing l else s

/-- DRAINING (R300). DRAIN_REQUEST, which concerns no cell, goes to die 0, the model's choice (log entry 105). -/
def State.toDraining (s : State) (l : Nat) : State :=
  let s := s.onLaunch l (fun x => { x with phase := .draining })
  let s := (s.reportTo 0 { cause := .drainRequest, tcause := tcauseWord .drainRequest 0 }).noteCause (some l) .drainRequest none
  let s := s.endLaunch l
  match s.launch? l with
  | none => s
  | some x => if x.phase = .draining ∧ x.drainlim = 0 then s.toStopping l else s

/-- The held launch of a TAG. -/
def State.launchTag (s : State) (tag : Nat) : Option (Nat × Launch) := s.launches.find? (fun x => decide (x.2.tag.toNat = tag))

/-- A drain request (R300): the state and the status. -/
def State.drain (s : State) (tag : Nat) : State × Nat :=
  match s.launchTag tag with
  | none => (s, 1)
  | some (l, x) =>
    match x.phase with
    | .dispatching => (s.toDraining l, 0)
    | .ended => (s, 1)
    | _ => (s, 0)

/-- DRAIN_LIMIT_EXPIRY: R300. -/
def execDrainLimitExpiry (s : State) : Host.Outcome State Fault Refusal :=
  .next (match s.launch? s.par.launch with
    | none => s
    | some x => if x.phase = .draining then s.toStopping s.par.launch else s)

/-- FORCE_LIMIT_EXPIRY: R300. -/
def execForceLimitExpiry (s : State) : Host.Outcome State Fault Refusal :=
  .next (match s.launch? s.par.launch with
    | none => s
    | some x => if x.phase = .stopping then s.toForcing s.par.launch else s)

/-! ### Host requests (R294) -/

/-- The request that the firmware holds for a slot, if its KIND is `kind`. One of a KIND that R294 does not list is never answered
and stays in its slot (log entry 110). -/
def State.requestOf (s : State) (slot kind : Nat) : Option (List Byte) :=
  match (s.slot slot).request with
  | none => none
  | some b => if field b 0 1 = kind then some b else none

/-- Bytes of a request that must be zero: 1 to 7, the TAG field unless the kind uses it, the record unless it does, and the
rest. -/
def requestZero (b : List Byte) (tag rec_ : Bool) : Bool :=
  decide (leNat (slice b 1 7) = 0) && (tag || decide (leNat (slice b 8 8) = 0)) && decide (leNat (slice b 16 48) = 0)
    && (rec_ || decide (leNat (slice b 64 128) = 0)) && decide (leNat (slice b 192 64) = 0)

/-- The answer of 16 bytes. -/
def State.answer (s : State) (slot st tag : Nat) : State :=
  let h := s.slot slot
  s.setSlot slot { h with request := none, answers := h.answers ++ [leBytes 8 st ++ leBytes 8 tag] }

/-- HOST_REQUEST_LAUNCH: R294. A reserved byte that is not zero gives status 1 (log entry 110). -/
def execHostRequestLaunch (s : State) : Host.Outcome State Fault Refusal :=
  .next (match (if s.bridgeIdle then s.requestOf s.par.slot 1 else none) with
    | none => s
    | some b =>
      let r := if requestZero b false true then s.submit .host (slice b 64 128) else (s, 1)
      r.1.answer s.par.slot r.2 (field b 136 8))

/-- DRAIN_REQUEST: R294, R300. -/
def execDrainRequest (s : State) : Host.Outcome State Fault Refusal :=
  .next (match s.requestOf s.par.slot 2 with
    | none => s
    | some b =>
      let r := if requestZero b true false then s.drain (field b 8 8) else (s, 1)
      r.1.answer s.par.slot r.2 (field b 8 8))

/-- A launch and its save set are freed, with the port bindings that it kept (R337). -/
def State.discard (s : State) (l : Nat) (x : Launch) : State :=
  { s.unkeep x with launches := Tab.erase s.launches l }

/-- HOST_REQUEST_DISCARD: R294, a drained launch and its save set are freed, with the port bindings that it kept (R337). -/
def execHostRequestDiscard (s : State) : Host.Outcome State Fault Refusal :=
  .next (match s.requestOf s.par.slot 4 with
    | none => s
    | some b =>
      let tag := field b 8 8
      match s.launchTag tag with
      | none => s.answer s.par.slot 1 tag
      | some (l, x) =>
        if requestZero b true false && decide (x.phase = .ended) then
          (s.discard l x).answer s.par.slot 0 tag
        else s.answer s.par.slot 1 tag)

end Sys2Proof.Machine
end

