-- ==== Sys2Proof/Machine/Save.lean ====
section
/-! DEFINITION. Domain instances come and go (R220, R221, R233, R295 to R298, R300 to R309): placement, the end of an instance,
clean and forced saves, RESTART and the restoring of a saved instance. -/

namespace Sys2Proof.Machine

/-! ### Placement (R220, R297) -/

/-- A cell joins an instance: its local memory is zero but for code, data and parameters; its slots hold `nodes`, and its round-robin
pointers are 0 (log entry 95). -/
def State.joinCell (s : State) (k l : Nat) (i : Image) (params : List Byte) (lcell p : Nat) (nodes : Tab Node) : State :=
  let s := s.clearRange (keyLocal p 0) localSize
  let mem := Memory.setBytes s.mem (keyLocal p i.codeOff) (i.code.flatMap (fun w => leBytes 4 w.toNat))
  let mem := Memory.setBytes mem (keyLocal p i.dataOff) i.data
  let mem := Memory.setBytes mem (keyLocal p i.param) params
  let c := s.cell p
  let merged : Tab Node := nodes.foldl (fun (t : Tab Node) (x : Nat × Node) => Tab.set t x.1 x.2) c.nodes
  { s with mem := mem }.setCell p { c with
    inst := some k, lcell := lcell, codeOff := i.codeOff, codeLen := 4 * i.code.length, codeTag := some l, running := none,
    rr := [], nodes := merged }

/-- The nodes of a logical cell with their ordinals. -/
def Image.nodesAt (i : Image) (lcell : Nat) : List (Nat × NodeEntry) :=
  (List.zip (List.range i.nodes.length) i.nodes).filter (fun x => decide (x.2.lcell = lcell))

/-- Step 4 of R220 on a croft site: order slots, claims and queues are fresh; operand slots and tiles are kept only from an
instance of the same launch. -/
def State.joinCroft (s : State) (l site : Nat) : State :=
  let c := s.croft site
  let s := if c.lastTag = some l then s
    else (s.clearRange (keySlot site 0 0) (2 ^ 19)).clearRange (keyTile site 0 0 0) (2 ^ 19)
  s.setCroft site { c with claims := [], acc := [], done := [], eng := [], gangAcc := 0, lastTag := some l }

/-- The ports that an image names, without repetition. -/
def Image.ports (i : Image) : List Nat :=
  ((i.events.flatMap (·.parts)).filter (fun p => decide (p.pkind = 4))).foldl (fun l p => setInsert l p.id) []

/-- The ports of an instance are bound (R333, R335, R340): nothing begun, residuals zero, and four messages granted on each
channel that the port receives. Of what the peer has granted a total of four messages of its channel stays, which is what a peer that
bound first has granted, and any other is of an earlier binding; or, at a restore, the binding that the saved
instance kept goes on as the port holds it (R337, log entry 94). -/
def State.bindPort (s : State) (k : Nat) (i : Image) (kept : Bool) (n : Nat) : State :=
  let q := s.port n
  if kept then s.setPort n { q with bound := some k }
  else
    let recv := (List.zip (List.range i.events.length) i.events).filter (fun e =>
      e.2.parts.any (fun p => decide (p.pkind = 4) && decide (p.id = n) && decide (p.role = 1)))
    let four : EventEntry → Nat := fun v => 4 * wireLen q.cls v.kind v.etype v.len
    let g := recv.map (fun e => (e.1, four e.2))
    let given := g.foldl (fun t x => Store.set 0 t x.1 x.2) []
    let early := q.grant.filter (fun x => match i.events[x.1]? with
      | none => false
      | some v => decide (x.2 = four v))
    let q := { q with bound := some k, residual := [], begun := [], granted := given, grant := early, inbox := [], partial_ := [] }
    s.setPort n (g.foldl (fun (q : Port) (x : Nat × Nat) => q.allow x.1 x.2) q)

/-- The cells of one copy: logical number and physical cell. -/
def copyCells (sites : List Nat) : List (Nat × Nat) :=
  (List.zip (List.range sites.length) sites).flatMap (fun x => (List.range 4).map (fun r => (4 * x.1 + r, 4 * x.2 + r)))

/-- The generations of the nodes by ordinal, in one copy. -/
def State.gensOf (s : State) (i : Image) (sites : List Nat) : List (BitVec 16) :=
  i.nodes.map (fun e => s.nextGen (4 * sites.getD (e.lcell / 4) 0 + e.lcell % 4) e.slot)

/-- The granary window of an instance, with its contents by window offset (R220 step 3, R244). -/
def State.joinWindow (s : State) (i : Inst) (bytes : List (Nat × Byte)) : State :=
  let s := i.sites.foldl (fun s site => s.clearRange (keyBin (4 * site) 0) (2 ^ 21)) s
  { s with mem := bytes.foldl (fun m x => Memory.set m (i.binKey x.1) x.2) s.mem }

/-- Placement of a group that has never run, or runs again from its start (R220), from the launch copy. -/
def State.place (s : State) (l : Nat) (x : Launch) (group : Nat) (sites twin : List Nat) : State :=
  let k := s.nextInst
  let i := x.image
  let tids := (List.zip (List.range i.tids.length) i.tids).foldl (fun t e => Store.set 0 t e.1 e.2) []
  let s := s.meetKept x
  let gens := s.gensOf i sites ++ s.gensOf i twin
  let inst : Inst :=
    { launch := l, group := group, image := i, sites := sites, twin := twin, gens := gens, tids := tids }
  let s := (copyCells sites ++ copyCells twin).foldl (fun s c =>
    s.joinCell k l i x.params c.1 c.2 ((i.nodesAt c.1).map (fun e => (e.2.slot, i.node e.1 e.2 (s.nextGen c.2 e.2.slot))))) s
  let s := (sites ++ twin).foldl (fun s site => s.joinCroft l site) s
  let s := s.joinWindow inst ((List.zip (List.range i.granary.length) i.granary).map (fun b => (i.granOff + b.1, b.2)))
  let s := i.ports.foldl (fun s n => s.bindPort k i false n) s
  ({ s.setInst k inst with nextInst := k + 1 }).refresh k

/-! ### Restoring (R309) -/

/-- The region as a record gives it back (R306, R309): a word that is live in a resident frame has its value, and every other word
is released. -/
def Node.restoredRegion (n : Node) : Store RegCell :=
  (List.range n.size).foldl (fun t w => if n.keepsWord w then t else Store.set {} t w { val := 0, live := false }) n.region

/-- A saved node in its slot, as its record holds it: a new generation, no time left over from its old cell, no record captured by an OFFER that did
not perform, and its region with the liveness that the record gives. A high half captured by a low read stays captured (log entry 131).
A node held for page service waits for it again. -/
def Node.restored (n : Node) (gen : BitVec 16) : Node :=
  let n := n.flush
  { n with gen := gen, issueAt := 0, delay := 0, owed := [], region := n.restoredRegion, hints := { n.hints with offer := none } }

/-- A port went down while the saved instance kept its binding: every event that names it is faulted, permanently (R334). -/
def Inst.losePort (i : Inst) (n : Nat) : Inst :=
  i.evs.foldl (fun (i : Inst) e =>
    if (i.event e).parts.any (fun p => decide (p.pkind = 4) && decide (p.id = n)) then (i.mark e .faulted).markPerm e .faulted else i) i

/-- A placement with steps 1 to 5 of R220 replaced by the saved parts. -/
def State.restore (s : State) (l : Nat) (x : Launch) (v : Saved) (sites twin : List Nat) : State :=
  let k := s.nextInst
  let i := x.image
  let s := s.meetKept x
  let gens := s.gensOf i sites ++ s.gensOf i twin
  let inst : Inst :=
    { launch := l, group := v.group, image := i, sites := sites, twin := twin, gens := gens, tids := v.tids, ev := v.ev,
      instant := v.instant, wear := v.wear / 1000 * 1000, stood := v.stood, phase := if v.kind = 0 then .between else .running,
      gangs := (Tab.getD v.crofts 0 {}).gangAcc }
  let nodeOf : Nat → Nat → Option Node := fun lc sl => Tab.get? v.nodes (20 * lc + sl)
  let s := (copyCells sites ++ copyCells twin).foldl (fun s c =>
    let ns := (i.nodesAt c.1).filterMap (fun e => (nodeOf c.1 e.2.slot).map (fun n => (e.2.slot, n.restored (s.nextGen c.2 e.2.slot))))
    let s := s.joinCell k l i [] c.1 c.2 ns
    let mine := (v.local_.filter (fun b => decide (b.1 / 2 ^ 17 = c.1))).map (fun b => (b.1 % 2 ^ 17, b.2))
    let bad := (v.localPoison.filter (fun d => decide (8 * d / 2 ^ 17 = c.1))).map (fun d => keyLocal c.2 (8 * d % 2 ^ 17) / 8)
    let mem := Memory.insertAll (Memory.clear s.mem (keyLocal c.2 i.dataOff) i.data.length) (keyLocal c.2 0) mine
    let s := { s with mem := mem, poison := bad.foldl setInsert s.poison }
    match ns.find? (fun n => decide (n.2.stt = .running)) with
    | none => s
    | some n => s.setCell c.2 { s.cell c.2 with running := some n.1 }) s
  let newNid : List Nat → Word → Word := fun copy w =>
    let lc := bitsN w.toNat 5 11
    nidOf lc (bitsN w.toNat 0 5) (((s.node? (4 * copy.getD (lc / 4) 0 + lc % 4) (bitsN w.toNat 0 5)).map (·.gen)).getD 0)
  let place1 := fun (copy : List Nat) (s : State) (c : Nat × Nat) =>
    let s := s.joinCroft l c.2
    let o := c.1 * 2 ^ 20
    let cr := Tab.getD v.crofts c.1 {}
    let s := (s.clearRange (keySlot c.2 0 0) (2 ^ 19)).clearRange (keyTile c.2 0 0 0) (2 ^ 19)
    let key : Nat → Nat := fun b => if b % 2 ^ 20 < 2 ^ 19 then keySlot c.2 0 (b - o) else keyTile c.2 0 0 0 + (b - o - 2 ^ 19)
    let mem := (v.slots.filter (fun b => decide (b.1 / 2 ^ 20 = c.1))).foldl (fun m b => Memory.set m (key b.1) b.2) s.mem
    let bad := (v.slotsPoison.filter (fun d => decide (8 * d / 2 ^ 20 = c.1))).map (fun d => key (8 * d) / 8)
    let s := { s with mem := mem, poison := bad.foldl setInsert s.poison }
    s.setCroft c.2 { s.croft c.2 with
      claims := cr.claims.map (fun y => (y.1, match y.2 with
        | .held w => .held (newNid copy w)
        | z => z)),
      gangAcc := cr.gangAcc, eng := cr.eng }
  let s := (List.zip (List.range twin.length) twin).foldl (place1 twin) ((List.zip (List.range sites.length) sites).foldl (place1 sites) s)
  let s := s.joinWindow inst v.window
  let s := { s with poison := (v.windowPoison.map (fun d => inst.binKey (8 * d) / 8)).foldl setInsert s.poison }
  let s := i.ports.foldl (fun s n => s.bindPort k i (v.keeps n) n) s
  let s := { s.setInst k inst with nextInst := k + 1 }
  let s := inst.cells.foldl (fun s p => (s.cell p).nodes.foldl (fun s n => match n.2.heldFor with
    | none => s
    | some t => if t.cause = .pageNotPresent ∧ (s.cell p).inst = some k then s.trapHeld p n.1 n.2 t t.cause t.detail n.2.pc else s) s) s
  let lost := i.ports.filter (fun n => Tab.getD v.ports n false)
  let s := s.onInst k (fun i => lost.foldl Inst.losePort i)
  let s := if v.kind = 0 then s.tryBegin k else s.refresh k
  if lost.isEmpty then s else (s.refresh k).afterSeal k

/-! ### Dispatch (R295, R296) -/

/-- The logical crofts of a rectangle of the torus, in domain order. -/
def rectangle (origin w h : Nat) : List Nat :=
  (List.range h).flatMap (fun dy => (List.range w).map (fun dx => (origin % 12 + dx) % 12 + 12 * ((origin / 12 + dy) % 8)))

/-- Nothing is under way at a croft site: no access that its cells or engines left behind, and none on its way to its cells or bins,
the firmware's included (R2, R221, R260). -/
def State.settled (s : State) (site : Nat) : Bool :=
  let mine : Src → Bool := fun c => match c with
    | .node p _ _ => !isReeve p && decide (siteOf p = site)
    | .engine x _ => decide (x = site)
    | .host => false
  let at_ : Home → Bool := fun h => match h with
    | .cell p => !isReeve p && decide (siteOf p = site)
    | .bin b => decide (b / 4 = site)
    | _ => false
  !s.net.any (fun a => a.srcs.any mine || a.homes.any at_)

/-- A croft may be placed on: unoccupied, with nothing of an earlier occupant under way, every cell ACTIVE or DERATED, none sealed,
its island powered, and a reeve cell of its die left (R221, R296, R366, R371). -/
def State.croftFree (s : State) (log : Nat) : Bool :=
  let site := s.siteOfLog log
  (List.range 4).all (fun r => let c := s.cell (4 * site + r); c.inst.isNone && !c.isSealed && decide (c.wear.state ≤ 1))
    && s.settled site && !(s.island (islandOf site)).off
    && (List.range 4).any (fun r => !(s.cell (firstReeve + 4 * (site / 26) + r)).isSealed)

/-- The wear of a rectangle. -/
def State.rectWear (s : State) (l : List Nat) : Nat :=
  (l.flatMap (fun log => (List.range 4).map (fun r =>
    let w := (s.cell (4 * s.siteOfLog log + r)).wear; max w.wb w.we))).foldl (· + ·) 0

/-- The candidates of a shape: origin and crofts, in ascending origin. -/
def State.candidates (s : State) (w h : Nat) : List (List Nat) :=
  (logicals.map (fun o => rectangle o w h)).filter (fun l => l.all s.croftFree)

/-- The first element of least weight. -/
def leastBy {α : Type} (f : α → Nat) : List α → Option α
  | [] => none
  | x :: t =>
    match leastBy f t with
    | none => some x
    | some y => if f y < f x then some y else some x

/-- Two crofts are the same or neighbours on the torus. That the rectangles of a twin pair 'share no torus neighbour' (R296) is read so:
no croft of one is near a croft of the other (log entry 122). -/
def near (a b : Nat) : Bool :=
  let dx := (a % 12 + 12 - b % 12) % 12
  let dy := (a / 12 + 8 - b / 12) % 8
  (decide (dy = 0) && (dx == 0 || dx == 1 || dx == 11)) || (decide (dx = 0) && (dy == 1 || dy == 7))

/-- The crofts for a group: one rectangle, or two apart from one another in twin mode. Of several pairs of least wear the model takes the
first by the origin of one and then of the other, and the first of the two is the primary copy (log entry 135). -/
def State.chooseCrofts (s : State) (x : Launch) : Option (List Nat × List Nat) :=
  let cs := s.candidates x.image.w x.image.h
  if x.dual then
    leastBy (fun p => s.rectWear p.1 + s.rectWear p.2)
      (cs.flatMap (fun a => (cs.filter (fun b => a.all (fun u => b.all (fun v => !near u v)))).map (fun b => (a, b))))
  else (leastBy s.rectWear cs).map (fun a => (a, []))

/-- The group that a launch places next: those that run again and the saved ones first. -/
def Launch.nextGroup (x : Launch) : Option Nat :=
  if x.phase ≠ .dispatching then none
  else match x.again with
    | g :: _ => some g
    | [] => if x.nextG < x.count then some x.nextG else none

/-- The ports that group `g` of a launch names are up, and neither named by a resident instance, the reeve domain's included, nor bound
to one or to a saved one of another group (R334, R335, R337, log entry 44). -/
def State.portsFree (s : State) (l g : Nat) (i : Image) : Bool :=
  i.ports.all (fun n => (s.port n).up && (s.port n).bound.isNone && !s.insts.any (fun x => x.2.image.ports.contains n) &&
    !s.launches.any (fun x => x.2.saved.any (fun v => v.keeps n && !(decide (x.1 = l) && decide (v.group = g)))))

/-- The launch whose group is placed next, with the group and its crofts. -/
def State.nextPlacement (s : State) : Option (Nat × Launch × Nat × List Nat × List Nat) :=
  ([3, 2, 1, 0] : List Nat).findSome? (fun prio => (s.launches.filter (fun x => decide (x.2.prio = prio))).findSome? (fun x =>
    match x.2.nextGroup with
    | none => none
    | some g =>
      if s.pkg.noBank || !s.portsFree x.1 g x.2.image then none
      else (s.chooseCrofts x.2).map (fun c => (x.1, x.2, g, c.1, c.2))))

/-- A launch that drains and has no instance left. -/
def State.drained (s : State) : Option Nat :=
  (s.launches.find? (fun x => decide (x.2.phase ≠ .dispatching ∧ x.2.phase ≠ .ended) && (s.instsOf x.1).isEmpty)).map (·.1)

/-- DISPATCH: R295, R296, one group placed or restored; a drain whose last instance is gone ends. -/
def execDispatch (s : State) : Host.Outcome State Fault Refusal :=
  .next (match s.drained with
    | some l => s.endLaunch l
    | none =>
      match s.nextPlacement with
      | none => s
      | some (l, x, g, a, b) =>
        let sites := a.map s.siteOfLog
        let twin := b.map s.siteOfLog
        let again := decide (x.again.head? = some g)
        let s := s.onLaunch l (fun y => { y with
          again := if again then y.again.drop 1 else y.again, nextG := if again then y.nextG else y.nextG + 1,
          saved := y.saved.filter (fun v => decide (v.group ≠ g)) })
        match x.saved.find? (fun v => decide (v.group = g) && decide (v.kind ≠ 2)) with
        | some v => s.restore l x v sites twin
        | none => s.place l x g sites twin)

/-! ### The end of an instance (R221, R233) -/

/-- Nothing of an instance is under way: accesses, engine commands, results, releases, and no run of hints but one before an OFFER or
an EVWAIT in which its node stands. -/
def State.still (s : State) (i : Inst) : Bool :=
  !s.net.any (fun a => match a.src with
      | .node p _ _ => i.cells.contains p
      | .engine site _ => i.allSites.contains site
      | .host => false)
    && i.twinq.isEmpty
    && i.allSites.all (fun site => (s.croft site).eng.all (fun e => e.2.queue.isEmpty && e.2.atIssue.isNone))
    && (s.nodesOf i).all (fun x => x.2.owed.isEmpty && x.2.resolved.isNone &&
        (x.2.hints.start.isNone || decide (x.2.stt = .offering ∨ x.2.stt = .waiting)))

/-- Every node is RETIRED or SEALED. -/
def State.over (s : State) (i : Inst) : Bool := (s.nodesOf i).all (fun x => decide (x.2.stt = .retired ∨ x.2.stt = .sealed))

/-- An instance may end: at a boundary, all its nodes over, or restarted after a seal (R355); the reeve domain's stays (R321). -/
def State.endDue (s : State) (k : Nat) : Bool :=
  match s.inst? k with
  | none => false
  | some i => decide (i.phase = .between) && !i.reeve && (i.restart || s.over i) && s.still i

/-- INSTANCE_END: R221, R233, R298; under restart its group is placed again (R355). -/
def execInstanceEnd (s : State) : Host.Outcome State Fault Refusal :=
  .next (if s.endDue s.par.inst then
      let i := s.instD s.par.inst
      let s := s.releaseInst s.par.inst
      if i.restart then s.placeAgain i
      else (s.onLaunch i.launch (fun x => { x with gdone := x.gdone + 1 })).endLaunch i.launch
    else s)

/-! ### Saves (R301 to R307) -/

/-- The poisoned doublewords of a range, counted from its start. -/
def poisonOf (p : List Nat) (key n : Nat) : List Nat := (p.filter (fun d => key ≤ 8 * d && 8 * d < key + n)).map (· - key / 8)

/-- The window offset that a place of a bin holds for a reader now. -/
def Inst.offsetAt (i : Inst) (b q : Nat) : Nat := i.mapWindow ((q / 256 * (4 * i.crofts) + b) * 256 + q % 256)

/-- What a save records of an instance (log entry 46). -/
def State.savedOf (s : State) (i : Inst) (kind : Nat) : Saved :=
  let cells := copyCells i.sites
  let crofts := List.zip (List.range i.sites.length) i.sites
  let bins := (List.range (4 * i.crofts)).map (fun b => (b, keyBin (4 * i.sites.getD (b / 4) 0 + b % 4) 0))
  let inCode : Nat → Bool := fun o => decide (i.image.codeOff ≤ o) && decide (o < i.image.codeOff + 4 * i.image.code.length)
  { group := i.group, kind := kind, instant := i.instant, wear := i.wear, ev := i.ev, tids := i.tids,
    nodes := (cells.flatMap (fun c => (i.image.nodesAt c.1).filterMap (fun e =>
      (s.node? c.2 e.2.slot).map (fun n => (20 * c.1 + e.2.slot, n.flush))))).foldl (fun (t : Tab Node) x => Tab.set t x.1 x.2) [],
    local_ := cells.flatMap (fun c =>
      ((Memory.extract s.mem (keyLocal c.2 0) localSize).filter (fun b => !inCode b.1)).map (fun b => (c.1 * 2 ^ 17 + b.1, b.2))),
    localPoison := cells.flatMap (fun c =>
      (poisonOf s.poison (keyLocal c.2 0) localSize).map (fun d => c.1 * 2 ^ 17 / 8 + d)),
    window := bins.flatMap (fun b => (Memory.extract s.mem b.2 (2 ^ 19)).map (fun x => (i.offsetAt b.1 x.1, x.2))),
    windowPoison := bins.flatMap (fun b => (poisonOf s.poison b.2 (2 ^ 19)).map (fun d => i.offsetAt b.1 (8 * d) / 8)),
    crofts := crofts.map (fun c =>
      let x := s.croft c.2
      (c.1, { claims := x.claims, gangAcc := x.gangAcc, eng := x.eng.map (fun e => (e.1, { standing := e.2.standing })) })),
    slots := crofts.flatMap (fun c =>
      (Memory.extract s.mem (keySlot c.2 0 0) (2 ^ 19)).map (fun b => (c.1 * 2 ^ 20 + b.1, b.2))
        ++ (Memory.extract s.mem (keyTile c.2 0 0 0) (2 ^ 19)).map (fun b => (c.1 * 2 ^ 20 + 2 ^ 19 + b.1, b.2))),
    slotsPoison := crofts.flatMap (fun c =>
      (poisonOf s.poison (keySlot c.2 0 0) (2 ^ 19)).map (fun d => c.1 * 2 ^ 17 + d)
        ++ (poisonOf s.poison (keyTile c.2 0 0 0) (2 ^ 19)).map (fun d => c.1 * 2 ^ 17 + 2 ^ 16 + d)),
    ports := i.image.ports.map (fun n => (n, false)), stood := i.stood }

/-- The storage that a save records of an instance is read (R350): its cells' but their code, its bins, slots and tiles. -/
def State.meetInst (s : State) (i : Inst) : State :=
  let past := i.image.codeOff + 4 * i.image.code.length
  let s := (copyCells i.sites).foldl (fun s c =>
    (s.inspect (keyLocal c.2 0) i.image.codeOff).inspect (keyLocal c.2 past) (localSize - past)) s
  let s := i.sites.foldl (fun s site => (List.range 4).foldl (fun s b => s.inspect (keyBin (4 * site + b) 0) (2 ^ 19)) s) s
  i.sites.foldl (fun s site => (s.inspect (keySlot site 0 0) (2 ^ 19)).inspect (keyTile site 0 0 0) (2 ^ 19)) s

/-- An instance is recorded and its crofts released; one that a seal restarts is recorded as unstarted (R303). The launch's drain may
end with it. -/
def State.save (s : State) (k kind : Nat) : State :=
  match s.inst? k with
  | none => s
  | some i =>
    let s := if i.restart then s else s.meetInst i
    let v := s.savedOf i kind
    let v := if i.restart then { group := i.group, kind := 2 } else { v with digest := v.digestOf i.image (!i.twin.isEmpty) }
    ((s.releaseInst k (!i.restart)).onLaunch i.launch (fun x => { x with saved := insertSaved v x.saved })).endLaunch i.launch

/-- A clean save is due: at a boundary, on a stop request for a drain, with nothing under way (R301). -/
def State.cleanDue (s : State) (k : Nat) : Bool :=
  match s.inst? k with
  | none => false
  | some i => decide (i.phase = .between) && (i.stop || i.forcing) && !i.restart && !i.reeve && !s.over i && s.still i

/-- CLEAN_SAVE: R301, KIND 0. -/
def execCleanSave (s : State) : Host.Outcome State Fault Refusal := .next (if s.cleanDue s.par.inst then s.save s.par.inst 0 else s)

/-- A forced save is due: the instance has stopped in mid-instant and nothing is under way (R302). -/
def State.forcedDue (s : State) (k : Nat) : Bool :=
  match s.inst? k with
  | none => false
  | some i => decide (i.phase = .forced) && s.still i

/-- FORCED_SAVE: R302, KIND 1. -/
def execForcedSave (s : State) : Host.Outcome State Fault Refusal := .next (if s.forcedDue s.par.inst then s.save s.par.inst 1 else s)

/-- FORCED_SAVE_TIMEOUT: R303, the instance is killed, its cells are sealed, and its group enters the save set unstarted
(log entry 40). -/
def execForcedSaveTimeout (s : State) : Host.Outcome State Fault Refusal :=
  .next (match s.inst? s.par.inst with
    | none => s
    | some i =>
      if !i.forcing then s
      else
        let s := i.cells.foldl (fun s p => s.sealCell p false) (s.kill s.par.inst)
        (s.onLaunch i.launch (fun x => { x with
          killed := true, saved := insertSaved { group := i.group, kind := 2 } x.saved })).endLaunch i.launch)

/-! ### RESTART (R200, R309) -/

/-- The save set stands in memory as it was sealed: its signature verifies, and the DIGEST of each record and LDIGEST hold (R308, log
entry 30). -/
def Launch.verified (x : Launch) (s : State) : Bool :=
  match x.setAt, x.copyAt with
  | some a, some c =>
    let d := s.kept a x.directory.length
    !x.keeps.any (fun r => poisonedAt s.poison (keyTier1 r.1) r.2) && decide (d = x.directory) && identityVerify (sha256 d) (s.kept (a + d.length) 64)
      && x.entries.all (fun e => decide (e.1.kind = 2) ||
          (let r := s.kept e.2.1 e.2.2
           decide (sha256 (r.take 64 ++ List.replicate 32 0 ++ r.drop 96) = e.1.digest)))
      && decide (sha256 (s.kept c x.copyLen) = x.copyDigest)
  | _, _ => false

/-- RESTART of a record (R309): the state and the status. The launch keeps its place among those of its PRIO, which the spec leaves open
(R295, log entry 121). -/
def State.resubmit (s : State) (b : List Byte) : State × Nat :=
  let r := LaunchRec.of b
  match s.launchTag r.tag with
  | none => (s, 1)
  | some (l, x) =>
    if x.phase ≠ .ended ∨ !trootOk r.troot then (s, 1)
    else
      let s := s.meetKept x
      if !x.verified s then (s, 2)
      else
        (s.onLaunch l (fun x => { x with
          prio := r.prio, cslot := r.cslot, troot := r.troot, drainlim := r.drainlim, forcelim := r.forcelim, overrun := r.overrun,
          budgets := r.budgets, phase := .dispatching, again := x.saved.map (·.group), completed := false, killed := false }), 0)

/-- RESTART: R200, R309 (log entry 43). -/
def execRestart (d : GReg) (a : AReg) (st : BitVec 2) (s : State) : Host.Outcome State Fault Refusal :=
  issue s { reads := [.a a], writes := [.g d], st := st.toNat } preReeve fun u =>
    recordRead s u (u.n.getA a) fun s b => let r := s.resubmit b; statusResult r.1 u.n (u.n.getA a) d r.2

/-- HOST_REQUEST_RESTORE: R294, R309. A reserved byte that is not zero gives status 1 (log entry 110). -/
def execHostRequestRestore (s : State) : Host.Outcome State Fault Refusal :=
  .next (match s.requestOf s.par.slot 3 with
    | none => s
    | some b =>
      let r := if requestZero b false true then s.resubmit (slice b 64 128) else (s, 1)
      r.1.answer s.par.slot r.2 (field b 136 8))

end Sys2Proof.Machine
end

