-- ==== Sys2Proof/Machine/Host.lean ====
section
/-! DEFINITION. The host port (R317 to R326), bring-up and loss of power (R321, R327, R374, R376), and attestation (R377). -/

namespace Sys2Proof.Machine

/-! ### BAR0 (R318, R319) -/

/-- The reeve domain. -/
def State.reeveInst (s : State) : Option (Nat × Inst) := s.insts.find? (fun x => x.2.reeve)

/-- A write to SOFFER of slot `n` (R320): the offer stands, or ERR is set. -/
def State.soffer (s : State) (n : Nat) (v : Word) : State :=
  let h := s.slot n
  let e := bitsN v.toNat 0 10
  let img : Image := (s.reeveInst.map (·.2.image)).getD {}
  let named := ((img.events[e]?).map (fun x => x.parts.any (fun p => decide (p.pkind = 5) && decide (p.id = n)))).getD false
  if h.offered.isSome || !named then s.setSlot n { h with err := true }
  else
    let s := s.setSlot n { h with done := false, fault := false, taint := false, dlen := 0, offered := some e }
    match s.reeveInst with
    | none => s
    | some (k, _) => (s.refresh k).tryBegin k

/-- SOFFER_WRITE: R320. The slots are 0 to 63. -/
def execSofferWrite (s : State) : Host.Outcome State Fault Refusal :=
  .next (if s.pkg.linkUp && decide (s.par.slot < 64) then s.soffer s.par.slot (s.par.value.truncate 32) else s)

/-- SSTAT (R319). -/
def HostSlot.stat (h : HostSlot) : Nat :=
  (if h.offered.isSome then 1 else 0) + (if h.done then 2 else 0) + (if h.fault then 4 else 0) + (if h.err then 8 else 0)
    + (if h.taint then 16 else 0) + 2 ^ 16 * h.dlen

/-- One byte of BAR0 (log entry 62). -/
def State.barByte (s : State) (off : Nat) : Byte :=
  if off < 0x4000 then Store.get 0 (s.slot (off / 256)).window (off % 256)
  else if off < 0x4400 then
    let h := s.slot ((off - 0x4000) / 16)
    let w : Nat := match off % 16 / 4 with
      | 0 => 0
      | 1 => h.stat
      | 2 => (if h.ien then 1 else 0)
      | _ => h.inst.toNat
    BitVec.ofNat 8 (w / 2 ^ (8 * (off % 4)))
  else 0

/-- One 32-bit word written to the control registers. -/
def State.barWord (s : State) (off : Nat) (v : Word) : State :=
  let n := (off - 0x4000) / 16
  let h := s.slot n
  match off % 16 / 4 with
  | 0 => s.soffer n v
  | 1 => s.setSlot n { h with
      done := h.done && !v.getLsbD 1, fault := h.fault && !v.getLsbD 2, err := h.err && !v.getLsbD 3 }
  | 2 => s.setSlot n { h with ien := v.getLsbD 0 }
  | _ => s

/-- A write of the host to BAR0: bytes of a window, or one whole control register; reserved offsets ignore it. A write to the
control registers that is not one aligned word is ignored whole (log entry 85). -/
def State.barWrite (s : State) (off : Nat) (data : List Byte) : State :=
  if off < 0x4000 then
    (List.zip (List.range data.length) data).foldl (fun s x =>
      let o := off + x.1
      if o < 0x4000 then
        let h := s.slot (o / 256)
        s.setSlot (o / 256) { h with window := Store.set 0 h.window (o % 256) x.2 }
      else s) s
  else if off < 0x4400 ∧ off % 4 = 0 ∧ data.length = 4 then s.barWord off (BitVec.ofNat 32 (leNat data))
  else s

/-! ### Memory accesses of the host (R323) -/

/-- The pieces of a write, doubleword by doubleword: place and bytes (log entry 61). -/
def dwordsGo : Nat → Nat → List Byte → List (Nat × List Byte)
  | 0, _, _ => []
  | f + 1, k, l => if l.isEmpty then [] else let n := 8 - k % 8; (k, l.take n) :: dwordsGo f (k + n) (l.drop n)

/-- Bytes that the host writes at a place: as R141 says of each doubleword; absent memory discards them. -/
def State.hostWrite (s : State) (key : Nat) (data : List Byte) : State :=
  (dwordsGo (data.length + 1) key data).foldl (fun s x =>
    (s.meet (.store 0) x.1 x.2.length).storeHome .host (dramHome x.1) x.1 x.2.length (leNat x.2) (BitVec.ofNat 64 (0xF0 * 2 ^ 56 + x.1)) 0) s

/-- A store or an atomic add of the host to its own memory, which the device reads through CXL.cache (R324): it waits while the
bridge holds the line (R325), and falls between the read and the write of an atomic without SYSATOM (R150). -/
def State.hostOwn (s : State) (w : Params) : State :=
  let n := w.data.length
  let key := keyHost w.off
  if 2 ^ 56 < w.off + n || !w.write || s.lineHeld key then s
  else s.writeHome key n (if w.atomic then (Memory.num s.mem key n + leNat w.data) % 2 ^ (8 * n) else leNat w.data)

/-- HOST_MEM_ACCESS: R318, R323, R324, one access of the host inside 64 bytes: to its own memory when `hostMem`, to BAR0 when
`bar`, else through an HDM decoder. -/
def execHostMemAccess (s : State) : Host.Outcome State Fault Refusal :=
  let w := s.par
  let n := w.data.length
  if decide (n = 0) || decide (64 < w.off % 64 + n) then .next s
  else if w.hostMem then .next (s.hostOwn w)
  else if !s.pkg.linkUp then .next s
  else if w.bar then
    if 0x20000 < w.off + n then .next s
    else if w.write then .next (s.barWrite w.off w.data)
    else .next { s with pkg := { s.pkg with
        hostReads := s.pkg.hostReads ++ [((List.range n).map (fun j => s.barByte (w.off + j)), false)] } }
  else if (if w.decoder then tier2Size else tier1Size) < w.off + n then .next s
  else
    let key := if w.decoder then keyTier2 w.off else keyTier1 w.off
    let s := s.reportAbsent { src := .host, home := dramHome key, op := .load, key := key, size := n } key 0
    let s := if w.write then s else s.inspect key n
    if w.write then .next (s.hostWrite key w.data)
    else .next { s with pkg := { s.pkg with
        hostReads := s.pkg.hostReads ++ [(Memory.bytes s.mem key n, s.absentAt key || poisonedAt s.poison key n)] } }

/-- SNOOP: R317, R325. The device holds no line, so a snoop is answered as a miss, but that of a line which the bridge holds for a
SYSATOM atomic waits for the writeback (log entry 60). -/
def execSnoop (s : State) : Host.Outcome State Fault Refusal :=
  .next (if s.pkg.linkUp && !s.lineHeld (keyHost (64 * s.par.line)) then { s with pkg := { s.pkg with snoops := s.pkg.snoops ++ [s.par.line] } } else s)

/-- HOST_LINK_UP: R317, the host port has trained its link; a package that has not booted has no link to train. -/
def execHostLinkUp (s : State) : Host.Outcome State Fault Refusal :=
  .next (if s.pkg.booted then { s with pkg := { s.pkg with linkUp := true } } else s)

/-! ### Bring-up (R321, R327, R374, R376) -/

/-- The slot's role in a reserved event and the length that it carries (R321). -/
def slotRole (e : Nat) : Nat := if e % 3 = 0 then 1 else 2
def slotLen (e : Nat) : Nat := match e % 3 with
  | 0 => 256
  | 1 => 16
  | _ => 64
/-- A reserved event whose firmware side is participant node 0. -/
def slotEvent (e : Nat) : EventEntry :=
  { kind := 1, len := slotLen e,
    parts := [{ id := e / 3, pkind := 5, role := slotRole e, obs := false }, { id := 0, pkind := 0, role := 3 - slotRole e, obs := false }] }
/-- An event of the firmware image has the meaning that R321 reserves it for. -/
def slotEventOk (e : Nat) (v : EventEntry) : Bool :=
  decide (v.kind = 1) && decide (v.len = slotLen e) && !v.gran && v.parts.any (fun p => decide (p.pkind = 0)) &&
    decide ((v.parts.filter (fun p => decide (p.pkind = 5))).map (fun p => (p.id, p.role)) = [(e / 3, slotRole e)])

/-- The reeve domain of a firmware image: sixteen cells, the reserved events, as the image has them where it keeps to R321, then the
firmware's own. Placement takes no image that fails the checks of R203 to R214, so of such a one nothing runs (R16, R219, log
entry 7). -/
def reeveImage (f : List Byte) : Image :=
  let i := if headerOk f && layoutOk f true && decide ((imageOf f).w * (imageOf f).h = 4) then imageOf f else {}
  { i with
    w := 4, h := 1,
    events := (List.range 192).map (fun e => match i.events[e]? with
      | some v => if slotEventOk e v then v else slotEvent e
      | none => slotEvent e) ++ i.events.drop 192 }

/-- A signed blob ends in the 64 bytes of its signature, under the key whose hash the fuses hold (R376, log entry 52). -/
def blobOk (f : List Byte) : Bool :=
  decide (sha256 (Config.blobKey f) = Config.fuseKeyHash) &&
    ecdsaVerify (Config.blobKey f) (sha256 (f.take (f.length - 64))) (f.drop (f.length - 64))

/-- A bank verifies under the identity key (R374). -/
def Bank.ok (b : Bank) : Bool := b.valid && identityVerify (sha256 b.bytes) b.signature

/-- The valid bank with the higher SEQ. -/
def Pkg.chosen (p : Pkg) : Option Bank :=
  let l := ((p.banks.map (·.2)).filter Bank.ok)
  l.foldl (fun (b : Option Bank) x => match b with
    | none => some x
    | some y => if y.seq < x.seq then some x else b) none

/-- Whole seconds of a count of microseconds, as the Almanac keeps it. -/
def wholeSeconds (n : Nat) : Nat := n / 1000000 * 1000000

/-- The croft map of a part whose Almanac holds none: logical croft L at site 26 × (L / 24) + L % 24 (log entry 16). -/
def firstMap : Store Nat := (List.range 96).foldl (fun t l => Store.set 0 t l (26 * (l / 24) + l % 24)) []

/-- The counters of every cell, the croft map and the history restart from a bank; a cell that the bank does not list has none
(R374). -/
def State.fromBank (s : State) (b : Bank) : State :=
  let s : State := { s with cells := s.cells.map (fun c => (c.1, { c.2 with wear := {} })) }
  let s := b.wear.foldl (fun (s : State) (x : Nat × Wear) =>
    s.setCell x.1 { s.cell x.1 with wear := { x.2 with micros := wholeSeconds x.2.micros } }) s
  let isl : Tab Island := b.islands.map (fun x => (x.1, { time := x.2.time.map (fun t => (t.1, wholeSeconds t.2)) }))
  { s with pkg := { s.pkg with
    islands := isl, cmap := b.cmap, history := b.history, micros := wholeSeconds b.micros, alseq := b.seq, bankDigest := b.digest } }

/-- The policy of flash comes into force (R338, R375, R376): the ports take their classes, and the cells that it names its calibration
constants and states, which only ever move down (R370): a policy that the cells have already taken changes nothing (log entry 90). -/
def State.loadPolicy (s : State) : State :=
  let r := s.pkg.flash
  let s := { s with pkg := { s.pkg with rules := r } }
  let s := (List.range 12).foldl (fun (s : State) n => s.setPort n { s.port n with
    cls := r.classes.getD n 0, mac := leBytes 6 (Config.macAddress n false).toNat, peerMac := leBytes 6 (Config.macAddress n true).toNat }) s
  let s := r.calib.foldl (fun (s : State) x => s.setCell x.1 { s.cell x.1 with
    wear := { (s.cell x.1).wear with calb := x.2.1, cale := x.2.2 } }) s
  r.states.foldl (fun (s : State) x =>
    let w := (s.cell x.1).wear
    s.setCell x.1 { s.cell x.1 with wear := { w with state := max w.state x.2.1, cap := min w.cap x.2.2 } }) s

/-- The reeve domain is placed on the sixteen reeve cells (log entry 64). -/
def State.placeReeve (s : State) : State :=
  let k := s.nextInst
  let i := reeveImage s.pkg.firmware
  let sites := [104, 105, 106, 107]
  let gens := s.gensOf i sites
  let tids := (List.zip (List.range i.tids.length) i.tids).foldl (fun t e => Store.set 0 t e.1 e.2) []
  let inst : Inst := { reeve := true, image := i, sites := sites, gens := gens, tids := tids }
  let s := (copyCells sites).foldl (fun s c =>
    s.joinCell k 0 i [] c.1 c.2 ((i.nodesAt c.1).map (fun e => (e.2.slot, i.node e.1 e.2 (s.nextGen c.2 e.2.slot))))) s
  ({ s.setInst k inst with nextInst := k + 1 }).refresh k

/-- POWER_ON: R321, R327, R374, R376. The boot ROM verifies firmware and policy, with their versions, and both banks; a part
whose firmware or policy fails does not come up. The data gives the GiB of tier-2 memory at each port, two bytes to a port
(log entry 53). -/
def execPowerOn (s : State) : Host.Outcome State Fault Refusal :=
  let p := s.pkg
  if p.booted then .next s
  else if !blobOk p.firmware || !blobOk p.policy || decide (p.fwVersion < p.fuseCount) || decide (p.flash.version < p.fuseCount) then
    .next s
  else
    let s := { s with pkg := { p with
      booted := true, launchLog := List.replicate 32 0,
      tier2 := (List.range 8).map (fun j => 2 ^ 30 * min 256 (field s.par.data (2 * j) 2)) } }
    let s := match p.chosen with
      | some b => s.fromBank b
      | none => { s with pkg := { s.pkg with noBank := true, cmap := firstMap, bankDigest := List.replicate 32 0xFF } }
    let s := s.loadPolicy
    let s := (List.range 32).foldl (fun s i => s.setIsland i { s.island i with level := s.effective i }) s
    .next s.placeReeve

/-- POWER_LOSS: R374. Flash, fuses and the Almanac's banks stay, and the number of the last key exchange of a port, so that no later
one repeats it (R378); a bank in mid-commit is left invalid, as its writing began. -/
def execPowerLoss (s : State) : Host.Outcome State Fault Refusal :=
  let p := s.pkg
  .next { State.reset with
    pkg := { firmware := p.firmware, fwVersion := p.fwVersion, fuseCount := p.fuseCount, policy := p.policy, flash := p.flash,
             banks := p.banks },
    ports := s.ports.map (fun x => (x.1, { exchanges := x.2.exchanges })), par := s.par, agenda := s.agenda }

/-! ### Attestation (R377) -/

/-- Measurement `i`. -/
def State.measurement (s : State) (i : Nat) : List Byte :=
  match i with
  | 1 => Config.bootRomDigest
  | 2 => sha256 s.pkg.firmware
  | 3 => sha256 s.pkg.policy
  | 4 => sha256 (Config.fuseConfig ++ logicals.flatMap (fun l => leBytes 1 (s.siteOfLog l)))
  | 5 => s.pkg.bankDigest
  | 6 => s.pkg.launchLog
  | _ => []

/-- A response that the identity key signs (R376, R377): a body, the device's own nonce, and the signature over the responses so far,
the requester's nonce, the body and the nonce. -/
def State.spdmSigned (s : State) (body : List Byte) : List Byte :=
  let own := Config.spdmNonce s.pkg.spdm.length
  body ++ own ++ identitySignature (s.pkg.spdm.flatten ++ s.par.data ++ body ++ own)

/-- All six measurements. -/
def State.measurements (s : State) : List Byte := (List.range 6).flatMap (fun i => s.measurement (i + 1))

/-- The answer to an SPDM request (R377). The codes are those of SPDM 1.2, and the layout within a body is the model's; another code gets
an ERROR, UnsupportedRequest (log entry 54). -/
def State.spdmAnswer (s : State) : List Byte :=
  let c := s.par.code
  if c = 0xE0 ∧ s.par.arg = 0 then s.spdmSigned [6]
  else if c = 0xE0 ∧ s.par.arg = 0xFF then s.spdmSigned s.measurements
  else if c = 0xE0 ∧ s.par.arg ≤ 6 then s.spdmSigned (s.measurement s.par.arg)
  else if c = 0x81 then sha256 Config.identityChain
  else if c = 0x82 ∧ s.par.arg = 0 then Config.identityChain
  else if c = 0x83 then s.spdmSigned (sha256 Config.identityChain ++ sha256 s.measurements)
  else if c = 0xE4 then s.spdmSigned (Config.spdmBody c s.par.arg (s.pkg.spdm.flatten ++ s.par.data))
  else if [0x84, 0xE1, 0xE3, 0xE5].contains c then Config.spdmBody c s.par.arg (s.pkg.spdm.flatten ++ s.par.data)
  else [0x7F, 0x07]

/-- SPDM_REQUEST: R377. The data of the step is the requester's nonce; a FINISH establishes the keys of the link (R317). -/
def execSpdmRequest (s : State) : Host.Outcome State Fault Refusal :=
  .next (if s.pkg.linkUp then
      { s with pkg := { s.pkg with
          spdm := s.pkg.spdm ++ [s.spdmAnswer],
          ideKeys := if s.par.code = 0xE5 then some (Config.spdmKeys (s.pkg.spdm.flatten ++ s.par.data)) else s.pkg.ideKeys } }
    else s)

end Sys2Proof.Machine
end

