-- ==== Sys2Proof/Machine/Link.lean ====
section
/-! DEFINITION. The Fjargeton ports (R328 to R340, R378): frames, retransmission, grants, messages of the link engines, and the key
exchange. -/

namespace Sys2Proof.Machine

/-! ### A port's instance -/

/-- The image whose events port `n` serves: the bound instance's, or that of the saved instance which keeps its binding (R337). -/
def State.portImage (s : State) (n : Nat) : Option Image :=
  match (s.port n).bound with
  | some k => (s.inst? k).map (·.image)
  | none => (s.launches.find? (fun x => x.2.saved.any (fun v => v.keeps n))).map (·.2.image)

/-- The event of a channel in which port `n` has a role. -/
def Image.portEvent (i : Image) (n chan role : Nat) : Option EventEntry :=
  match i.events[chan]? with
  | none => none
  | some v => if v.parts.any (fun p => decide (p.pkind = 4) && decide (p.id = n) && decide (p.role = role)) then some v else none

/-- The instance bound to a port may begin its next instant (R233). -/
def State.portWake (s : State) (n : Nat) : State :=
  match (s.port n).bound with
  | none => s
  | some k => s.tryBegin k

/-! ### A port that fails (R334) -/

/-- A saved instance that keeps the binding of port `n` finds at its restore that the port went down (R334, R337). -/
def Saved.portLost (v : Saved) (n : Nat) : Saved := if v.keeps n then { v with ports := Tab.set v.ports n true } else v

/-- A port goes down: the fault is reported, held frames are discarded, every event of the bound instance that names the port is
permanently faulted, and the instance's fault policy applies (log entry 45); for a saved instance that keeps the binding, at its
restore. -/
def State.portDown (s : State) (n : Nat) (c : Cause) : State :=
  let q := s.port n
  let k := q.bound
  let s := s.setPort n { q with
    up := false, window := [], outbox := [], sending := none, partial_ := [], keyxSent := false, sinceAck := 0, tagFails := 0 }
  let s : State := { s with
    launches := s.launches.map (fun (x : Nat × Launch) => (x.1, { x.2 with saved := x.2.saved.map (·.portLost n) })) }
  let g : Option (Nat × Nat) := match k with
    | none => none
    | some k => (s.inst? k).map (fun (i : Inst) => (i.launch, i.group))
  let s := (s.reportTo (portDie n) { cause := c, tcause := tcauseWord c (BitVec.ofNat 16 (n % 16)), group := g.map (·.2) }).noteCause
    (g.map (·.1)) c (g.map (·.2))
  match k with
  | none => s
  | some k => (s.refresh k).afterSeal k

/-! ### Sending (R331, R333, R338 to R340) -/

/-- Payload bytes of a whole frame, and the bytes that a retry window holds. -/
abbrev frameMax : Nat := 8192
abbrev windowMax : Nat := 384 * 2 ^ 20

/-- Bytes of a held frame: the 16 of its head, its payload and its tag (R329). -/
def Frame.size (f : Frame) : Nat := 32 + f.payload.length
def Port.held (q : Port) : Nat := (q.window.map Frame.size).foldl (· + ·) 0

/-- The next message of a port begins to travel. -/
def State.takeMessage (s : State) (n : Nat) : State :=
  let q := s.port n
  match q.sending, q.outbox with
  | none, m :: t => s.setPort n { q with outbox := t, sending := some (m.chan, m.bytes, 0, false) }
  | _, _ => s

/-- Our KEYX leaves, if it has not (R330, R378). It is that of an exchange of its own number, so that its key pair and its nonce are
fresh. The payload: public key, nonce, certificate chain, signature; the TAG is zero. -/
def Port.sendKeyx (q : Port) (n : Nat) : Port :=
  if q.keyxSent then q
  else
    let x := q.exchanges + 1
    let body := publicOf (secretOf (Config.ephemeralSecret n x)) ++ Config.ephemeralNonce n x ++ Config.identityChain
    let load := body ++ identitySign (sha256 body)
    { q with
      keyxSent := true, exchanges := x,
      wire := q.wire ++ [q.macHeader false ++ frameHead 4 false false 0 0 0 load.length ++ load ++ List.replicate 16 0] }

/-- The station that counts the frames of a channel against the Fjargeton budget of its instance: that of the croft that homes the
event (R244, R277, log entry 82). None where the port is bound to no instance. -/
def State.frameSite (s : State) (n chan : Nat) : Option (Inst × Nat) :=
  ((s.port n).bound.bind s.inst?).map (fun (i : Inst) => (i, i.eventBin chan / 4))
/-- The budget lets the port send a frame in this period. -/
def State.frameOpen (s : State) (n chan : Nat) : Bool :=
  match s.frameSite n chan with
  | none => true
  | some (i, site) => s.budgetOpen site 3 i
def State.frameSpend (s : State) (n chan bytes : Nat) : State :=
  match s.frameSite n chan with
  | none => s
  | some (_, site) => s.spend site 3 bytes

/-- FRAME_SEND: R331, the next DATA frame of the next message, while the retry window has room and the budget is open (R277); a new key
exchange comes before SEQ reaches 2^47 (R330). -/
def execFrameSend (s : State) : Host.Outcome State Fault Refusal :=
  let n := s.par.port
  let q := s.port n
  if !q.up then .next s
  else if 2 ^ 47 ≤ q.txSeq + 1 then .next (s.setPort n (q.sendKeyx n))
  else
    let s1 := s.takeMessage n
    let q := s1.port n
    match q.sending with
    | none => .next s1
    | some (chan, bytes, off, begun) =>
      let load := (bytes.drop off).take frameMax
      let last := decide (bytes.length ≤ off + load.length)
      let f : Frame := { chan := chan, seq := q.txSeq, first := !begun, last := last, moff := off, payload := load }
      if windowMax < q.held + f.size || !s1.frameOpen n chan then .next s1
      else
        let q := q.emit 0 f.first f.last chan q.txSeq off load
        .next ((s1.setPort n { q with
          txSeq := q.txSeq + 1, window := q.window ++ [f],
          sending := if last then none else some (chan, bytes, off + load.length, true) }).frameSpend n chan load.length)

/-- Every held frame from `seq` on is sent again, in order (R331), without being counted again by the Fjargeton budget (log entry 108);
the port fails when the oldest has been sent 8 times without
progress of the acknowledgements (R334, log entry 57). -/
def State.goBack (s : State) (n seq : Nat) : State :=
  let q := s.port n
  match q.window.head? with
  | none => s
  | some o =>
    if seq ≤ o.seq ∧ 8 ≤ o.sends then s.portDown n .linkRetryExhausted
    else
      let q1 : Port := (q.window.filter (fun f => decide (seq ≤ f.seq))).foldl (fun (q : Port) (f : Frame) =>
        q.emit 0 f.first f.last f.chan f.seq f.moff f.payload) q
      s.setPort n { q1 with window := q.window.map (fun f => if seq ≤ f.seq then { f with sends := f.sends + 1 } else f) }

/-- RETRANSMIT_TIMEOUT: R331, 8 ms without acknowledgement progress. -/
def execRetransmitTimeout (s : State) : Host.Outcome State Fault Refusal :=
  .next (if (s.port s.par.port).up then s.goBack s.par.port 0 else s)

/-! ### Receiving (R330, R332, R333) -/

/-- A frame whose tag fails is dropped; 64 in a row take the port down (R330, R334). -/
def State.tagFail (s : State) (n : Nat) : State :=
  let q := s.port n
  if 64 ≤ q.tagFails + 1 then s.portDown n .linkAuthFail else s.setPort n { q with tagFails := q.tagFails + 1 }

/-- The wire length of the messages that port `n` receives on a channel; none where no event of its instance receives them. -/
def State.expects (s : State) (n chan : Nat) : Option Nat :=
  match s.portImage n with
  | none => none
  | some i => (i.portEvent n chan 1).map (fun v => wireLen (s.port n).cls v.kind v.etype v.len)

/-- A payload at its offset in a message; one that leaves a gap does not join it. -/
def placeAt (bytes : List Byte) (off : Nat) (load : List Byte) : List Byte :=
  if bytes.length < off then bytes else bytes.take off ++ load ++ bytes.drop (off + load.length)

/-- An accepted frame joins its message at its MOFF (R329); the last one completes it. A message of another length than its event
expects is discarded and counted (R335). -/
def State.acceptFrame (s : State) (n : Nat) (first last : Bool) (chan moff : Nat) (load : List Byte) : State :=
  let q := s.port n
  let bytes := placeAt (if first then [] else Store.get [] q.partial_ chan) moff load
  if !last then s.setPort n { q with partial_ := Store.set [] q.partial_ chan bytes }
  else
    let q := { q with partial_ := Store.set [] q.partial_ chan [] }
    if s.expects n chan = some bytes.length then (s.setPort n { q with inbox := q.inbox ++ [{ chan := chan, bytes := bytes }] }).portWake n
    else s.setPort n { q with dropped := q.dropped + 1 }

/-- DATA_FRAME: R329, R330, R332. A frame whose tag fails is of unknown SEQ (log entry 56); one of more than 8,192 payload bytes is no
frame of the layout, and is dropped and counted. -/
def execDataFrame (s : State) : Host.Outcome State Fault Refusal :=
  let w := s.par
  let n := w.port
  let q := s.port n
  if !q.up then .next s
  else if frameMax < w.data.length then .next (s.setPort n { q with dropped := q.dropped + 1 })
  else match q.open_ 0 w.first w.last w.chan w.seq 0 w.moff w.data w.tag with
    | none => .next ((s.setPort n (q.nak q.rxNext)).tagFail n)
    | some load =>
      let q := { q with tagFails := 0 }
      if w.seq < q.rxNext then .next (s.setPort n (q.ack (q.rxNext - 1)))
      else if q.rxNext < w.seq then .next (s.setPort n (q.nak q.rxNext))
      else
        let q := { q with rxNext := q.rxNext + 1, sinceAck := q.sinceAck + 1 }
        let q := if 64 ≤ q.sinceAck then q.ack (q.rxNext - 1) else q
        .next ((s.setPort n q).acceptFrame n w.first w.last w.chan w.moff load)

/-- ACK_INTERVAL_EXPIRY: R332, 10 µs with frames accepted since the last ACK. -/
def execAckIntervalExpiry (s : State) : Host.Outcome State Fault Refusal :=
  let n := s.par.port
  let q := s.port n
  .next (if q.up && decide (0 < q.sinceAck) then s.setPort n (q.ack (q.rxNext - 1)) else s)

/-- ACK_FRAME: R331, frames up to SEQ are freed; what is left counts its sendings anew (R334). -/
def execAckFrame (s : State) : Host.Outcome State Fault Refusal :=
  let w := s.par
  let n := w.port
  let q := s.port n
  if !q.up then .next s
  else match q.open_ 1 false false 0 w.seq w.ctl 0 [] w.tag with
    | none => .next (s.tagFail n)
    | some _ =>
      let rest := q.window.filter (fun f => decide (w.seq < f.seq))
      .next (s.setPort n { q with
        tagFails := 0,
        window := if rest.length < q.window.length then rest.map (fun f => { f with sends := 1 }) else q.window })

/-- NAK_FRAME: R331. -/
def execNakFrame (s : State) : Host.Outcome State Fault Refusal :=
  let w := s.par
  let n := w.port
  let q := s.port n
  if !q.up then .next s
  else match q.open_ 2 false false 0 w.seq w.ctl 0 [] w.tag with
    | none => .next (s.tagFail n)
    | some _ => .next ((s.setPort n { q with tagFails := 0 }).goBack n w.seq)

/-- ALLOW_FRAME: R333. GRANT is the peer's total since its binding, so the last frame gives it, a lower one being of a new binding (log
entry 58). -/
def execAllowFrame (s : State) : Host.Outcome State Fault Refusal :=
  let w := s.par
  let n := w.port
  let q := s.port n
  if !q.up then .next s
  else match q.open_ 3 false false w.chan 0 w.ctl 0 w.data w.tag with
    | none => .next (s.tagFail n)
    | some load =>
      .next ((s.setPort n { q with
        tagFails := 0, grant := Store.set 0 q.grant w.chan (field load 0 8) }).portWake n)

/-- OTHER_ETHERTYPE_FRAME: R328, R329, dropped and counted. -/
def execOtherEthertypeFrame (s : State) : Host.Outcome State Fault Refusal :=
  let q := s.port s.par.port
  .next (s.setPort s.par.port { q with dropped := q.dropped + 1 })

/-- LINK_PEER_LOST: R334. -/
def execLinkPeerLost (s : State) : Host.Outcome State Fault Refusal :=
  .next (if (s.port s.par.port).up then s.portDown s.par.port .linkPeerLost else s)

/-! ### The key exchange (R378) -/

/-- PORT_RETRAINED: R334, a port that is down has trained and starts a key exchange. -/
def execPortRetrained (s : State) : Host.Outcome State Fault Refusal :=
  let n := s.par.port
  let q := s.port n
  .next (if q.up || !s.pkg.booted || decide (12 ≤ n) then s else s.setPort n (q.sendKeyx n))

/-- Keys and salts of a completed exchange: what this side sends with, and what it receives with. -/
def exchangeKeys (n count : Nat) (peer nonceP keyP : List Byte) : List Byte × List Byte :=
  let isA := decide (beNat (identityPublic.take 32) < beNat (keyP.take 32))
  let mine := Config.ephemeralNonce n count
  let salt := if isA then mine ++ nonceP else nonceP ++ mine
  let z := (ecdhShared (secretOf (Config.ephemeralSecret n count)) peer).getD (Config.ecdhUnstated peer)
  let k : Byte → List Byte := fun d => hkdf salt z ([0x46, 0x4A, 0x4B, 0x58] ++ [d]) 36
  if isA then (k 1, k 2) else (k 2, k 1)

/-- Frames held under the old keys are numbered from 0 and sent again under the new ones. -/
def Port.resend (q : Port) : Port :=
  let fs := (List.zip (List.range q.window.length) q.window).map (fun x => { x.2 with seq := x.1, sends := 1 })
  let q := fs.foldl (fun (q : Port) (f : Frame) => q.emit 0 f.first f.last f.chan f.seq f.moff f.payload) q
  { q with window := fs, txSeq := fs.length }

/-- A port that the firmware's own events name is bound to the reeve domain as it comes up (R321, R334, R335, log entry 44). -/
def State.bindReeve (s : State) (n : Nat) : State :=
  match s.insts.find? (fun x => x.2.reeve && x.2.image.ports.contains n) with
  | none => s
  | some (k, i) => if (s.port n).bound.isSome then s else s.bindPort k i.image false n

/-- KEYX_FRAME: R378. The payload is the peer's public key (64 bytes), nonce (32), certificate chain and signature (64)
(log entry 55). -/
def execKeyxFrame (s : State) : Host.Outcome State Fault Refusal :=
  let n := s.par.port
  let b := s.par.data
  let m := b.length - 64
  let chain := (b.take m).drop 96
  let key := Config.chainKey chain
  if !s.pkg.booted || decide (12 ≤ n) then .next s
  else if b.length < 160 || !Config.chainAccepted s.pkg.rules.authorities chain || !ecdsaVerify key (sha256 (b.take m)) (b.drop m) then
    .next (s.portDown n .linkAuthFail)
  else
    let q := (s.port n).sendKeyx n
    let k := exchangeKeys n q.exchanges (b.take 64) (slice b 64 32) key
    .next ((s.setPort n ({ q with
      up := true, txKey := k.1.take 32, txSalt := k.1.drop 32, rxKey := k.2.take 32, rxSalt := k.2.drop 32,
      keyxSent := false, rxNext := 0, ctl := 0, sinceAck := 0, tagFails := 0 }.resend)).bindReeve n)

end Sys2Proof.Machine
end

