-- ==== Sys2Proof/Machine/Vector.lean ====
section
/-! DEFINITION. The vector instructions that compute: integers, floating point, conversions, comparisons, three-input
logic, permutes, reductions and masks (R157 to R162). -/

namespace Sys2Proof.Machine

/-! ### Results lane by lane -/

/-- A vector result from its selected elements: bit position, width, value; the other bits keep their old contents. -/
def vecOf (items : List (Nat × Nat × Nat)) : RegVal :=
  let r := items.foldl (fun acc e =>
    (acc.1 + e.2.2 % 2 ^ e.2.1 * 2 ^ e.1, acc.2 + (2 ^ e.2.1 - 1) * 2 ^ e.1)) ((0 : Nat), (0 : Nat))
  .vec (BitVec.ofNat 512 r.1) (BitVec.ofNat 512 r.2)

/-- Elements with exceptions: the value and the union of the exceptions (R50). -/
def vecExc (items : List (Nat × Nat × (Nat × Exc))) : RegVal × Exc :=
  (vecOf (items.map (fun e => (e.1, e.2.1, e.2.2.1))), items.foldl (fun acc e => acc ||| e.2.2.2) 0)

/-- VINT widths (R95). -/
def vintWidth (w : BitVec 2) : Nat := if w = 0 then 32 else if w = 1 then 16 else 8
/-- VFP formats (R95). -/
def vfpFmt (w : BitVec 2) : Fmt := if w = 0 then fp32 else if w = 1 then fp16 else bf16

/-- The last-use sources of va and vb. -/
def relV (la lb : Bool) (va vb : VReg) : List RegName := (if la then [.v va] else []) ++ (if lb then [.v vb] else [])

/-- VINT on the selected lanes of width `w` (R157): `f` of the width and two lane values. -/
def vint (f : Nat → Nat → Nat → Nat) (w : BitVec 2) (vd va vb : VReg) (k : KReg) (la lb : Bool) (st : BitVec 2)
    (s : State) :=
  simple { reads := [.v va, .v vb, .k k], rel := relV la lb va vb, dest := .v vd, lat := some 2, vec := true,
           st := st.toNat,
           f := fun n =>
             let b := vintWidth w
             .ok (vecOf ((selLanes b (n.getK k)).map (fun i =>
               (b * i, b, f b (lane b i (n.getV va)) (lane b i (n.getV vb))))), 0) } s

/-- VFP on the selected lanes (R158), from two sources: `f` of format, mode and saturation. -/
def vfp (f : Fmt → Nat → Bool → Nat → Nat → Nat × Exc) (lat : Option Nat) (late : Bool) (w : BitVec 2) (vd va vb : VReg)
    (k : KReg) (la lb : Bool) (st : BitVec 2) (s : State) :=
  simple { reads := [.v va, .v vb, .k k], rel := relV la lb va vb, dest := .v vd, lat := lat, late := late, vec := true,
           st := st.toNat,
           f := fun n =>
             let q := vfpFmt w
             let b := q.width
             .ok (vecExc ((selLanes b (n.getK k)).map (fun i =>
               (b * i, b, f q n.rnd n.sat (lane b i (n.getV va)) (lane b i (n.getV vb)))))) } s

/-- VFP FMA and FMS, which read vd through the accumulate port. -/
def vfpAcc (neg : Bool) (w : BitVec 2) (vd va vb : VReg) (k : KReg) (la lb : Bool) (st : BitVec 2) (s : State) :=
  simple { reads := [.v va, .v vb, .k k, .v vd], rel := relV la lb va vb, dest := .v vd, lat := some 4, vec := true,
           st := st.toNat,
           f := fun n =>
             let q := vfpFmt w
             let b := q.width
             .ok (vecExc ((selLanes b (n.getK k)).map (fun i =>
               (b * i, b, fpFma q n.rnd n.sat neg (lane b i (n.getV vd)) (lane b i (n.getV va))
                 (lane b i (n.getV vb)))))) } s

/-- A vector operation on one source: `f` of format, mode, saturation. -/
def vfpOne (f : Fmt → Nat → Bool → Nat → Nat × Exc) (lat : Option Nat) (late : Bool) (w : BitVec 2) (vd va : VReg)
    (k : KReg) (la : Bool) (st : BitVec 2) (s : State) :=
  simple { reads := [.v va, .k k], rel := relV la false va 0, dest := .v vd, lat := lat, late := late, vec := true,
           st := st.toNat,
           f := fun n =>
             let q := vfpFmt w
             let b := q.width
             .ok (vecExc ((selLanes b (n.getK k)).map (fun i =>
               (b * i, b, f q n.rnd n.sat (lane b i (n.getV va)))))) } s

/-- The bit position of the narrow side of element `i` (R159). -/
def narrowPos (b : Nat) (hi : Bool) (i : Nat) : Nat := b * (i + if hi then 256 / b else 0)

/-- VCVT over its 16 elements (R159): source and destination width and half. -/
def vcvt (sb : Nat) (shi : Bool) (db : Nat) (dhi : Bool) (f : Nat → Bool → Nat → Nat × Exc) (vd va : VReg) (k : KReg)
    (la : Bool) (st : BitVec 2) (s : State) :=
  simple { reads := [.v va, .k k], rel := relV la false va 0, dest := .v vd, lat := some 3, vec := true, st := st.toNat,
           f := fun n =>
             .ok (vecExc ((selLanes 32 (n.getK k)).map (fun i =>
               (narrowPos db dhi i, db, f n.rnd n.sat (bitsN (n.getV va).toNat (narrowPos sb shi i) sb))))) } s

/-- VCMP into a lane mask (R160). -/
def vcmp (f : Nat → Nat → Bool) (kd : KReg) (va vb : VReg) (k : KReg) (la lb : Bool) (st : BitVec 2) (s : State) :=
  simple { reads := [.v va, .v vb, .k k], rel := relV la lb va vb, dest := .k kd, lat := some 2, vec := true,
           st := st.toNat,
           f := fun n =>
             .ok (.lanes (BitVec.ofNat 16 ((List.range 16).foldl (fun acc i =>
                 if f (lane 32 i (n.getV va)) (lane 32 i (n.getV vb)) then acc + 2 ^ i else acc) 0)) (n.getK k), 0) } s

/-- A VCMP condition of type signed INT32, unsigned INT32 or FP32. -/
def vcond (ty : BitVec 2) (s : Int → Int → Bool) (f : Nat → Nat → Bool) (x y : Nat) : Bool :=
  if ty = 0 then s (sgn 32 x) (sgn 32 y) else if ty = 1 then s x y else f x y

/-- VPERM: interlocked unless a latency is given (R27, R162). -/
def vperm (reads : List RegName) (dest : RegName) (lat : Option Nat) (f : Node → RegVal) (s : State) :=
  simple { reads := reads, dest := dest, lat := lat, vec := true, f := fun n => .ok (f n, 0) } s

/-- All 16 lanes of a vector result. -/
def lanes16 (f : Nat → Nat) : RegVal := vecOf ((List.range 16).map (fun i => (32 * i, 32, f i)))

/-! ### Lane functions (R157) -/

def vSgnMin (w x y : Nat) : Nat := if sgn w y < sgn w x then y else x
def vSgnMax (w x y : Nat) : Nat := if sgn w x < sgn w y then y else x
/-- The shift count of a lane: bits [log2 w : 0]. -/
def vCount (w y : Nat) : Nat := y % (2 * w)
def vShl (w x y : Nat) : Nat := if vCount w y < w then x * 2 ^ vCount w y else 0
def vShr (w x y : Nat) : Nat := if vCount w y < w then x / 2 ^ vCount w y else 0
def vSha (w x y : Nat) : Nat :=
  if vCount w y < w then unsgn w (sgn w x / 2 ^ vCount w y) else if sgn w x < 0 then 2 ^ w - 1 else 0
/-- The four INT8 products of a 32-bit lane. -/
def dot4 (d x y : Nat) : Nat :=
  unsgn 32 ((List.range 4).foldl (fun acc j => acc + sgn 8 (bitsN x (8 * j) 8) * sgn 8 (bitsN y (8 * j) 8)) (d : Int))
/-- The wrap-around sum of lanes 0 to `i`. -/
def laneSum (v : Vec) (i : Nat) : Nat := (List.range (i + 1)).foldl (fun acc j => acc + lane 32 j v) 0
/-- VREDFADD: lane order, RNE (R59); the exceptions of the fifteen sums together. -/
def redFadd (sat : Bool) (v : Vec) : Nat × Exc :=
  (List.range 15).foldl (fun acc i =>
    let r := fpAdd fp32 0 sat acc.1 (lane 32 (i + 1) v)
    (r.1, acc.2 ||| r.2)) (lane 32 0 v, 0)
def redFp (f : Nat → Nat → Nat) (v : Vec) : Nat :=
  (List.range 15).foldl (fun acc i => f acc (lane 32 (i + 1) v)) (lane 32 0 v)
/-- FP32 to INT32 and back, saturating integer narrowing (R52). -/
def cvtF32I32 (mode x : Nat) : Nat × Exc :=
  let r := numToInt mode (-2147483648) 2147483647 (unpack fp32 x)
  (unsgn 32 r.1, r.2)
def cvtNarrow (w x : Nat) : Nat × Exc := (unsgn w (clampS w (sgn 32 x)), 0)

/-! ### The instructions -/

/-- VADD: R157. -/
def execVadd (w : BitVec 2) (vd va vb : VReg) (k : KReg) (la lb : Bool) (st : BitVec 2) (s : State) :
    Host.Outcome State Fault Refusal :=
  vint (fun _ x y => x + y) w vd va vb k la lb st s

/-- VSUB: R157. -/
def execVsub (w : BitVec 2) (vd va vb : VReg) (k : KReg) (la lb : Bool) (st : BitVec 2) (s : State) :
    Host.Outcome State Fault Refusal :=
  vint (fun w x y => x + (2 ^ w - y)) w vd va vb k la lb st s

/-- VMUL: R157. -/
def execVmul (w : BitVec 2) (vd va vb : VReg) (k : KReg) (la lb : Bool) (st : BitVec 2) (s : State) :
    Host.Outcome State Fault Refusal :=
  vint (fun _ x y => x * y) w vd va vb k la lb st s

/-- VMULHS: R157. -/
def execVmulhs (w : BitVec 2) (vd va vb : VReg) (k : KReg) (la lb : Bool) (st : BitVec 2) (s : State) :
    Host.Outcome State Fault Refusal :=
  vint (fun w x y => unsgn w (sgn w x * sgn w y / 2 ^ w)) w vd va vb k la lb st s

/-- VAND: R157. -/
def execVand (w : BitVec 2) (vd va vb : VReg) (k : KReg) (la lb : Bool) (st : BitVec 2) (s : State) :
    Host.Outcome State Fault Refusal :=
  vint (fun _ x y => x &&& y) w vd va vb k la lb st s

/-- VOR: R157. -/
def execVor (w : BitVec 2) (vd va vb : VReg) (k : KReg) (la lb : Bool) (st : BitVec 2) (s : State) :
    Host.Outcome State Fault Refusal :=
  vint (fun _ x y => x ||| y) w vd va vb k la lb st s

/-- VXOR: R157. -/
def execVxor (w : BitVec 2) (vd va vb : VReg) (k : KReg) (la lb : Bool) (st : BitVec 2) (s : State) :
    Host.Outcome State Fault Refusal :=
  vint (fun _ x y => x ^^^ y) w vd va vb k la lb st s

/-- VANDN: R157. -/
def execVandn (w : BitVec 2) (vd va vb : VReg) (k : KReg) (la lb : Bool) (st : BitVec 2) (s : State) :
    Host.Outcome State Fault Refusal :=
  vint (fun w x y => x &&& (2 ^ w - 1 - y)) w vd va vb k la lb st s

/-- VSHL: R157. -/
def execVshl (w : BitVec 2) (vd va vb : VReg) (k : KReg) (la lb : Bool) (st : BitVec 2) (s : State) :
    Host.Outcome State Fault Refusal :=
  vint vShl w vd va vb k la lb st s

/-- VSHR: R157. -/
def execVshr (w : BitVec 2) (vd va vb : VReg) (k : KReg) (la lb : Bool) (st : BitVec 2) (s : State) :
    Host.Outcome State Fault Refusal :=
  vint vShr w vd va vb k la lb st s

/-- VSHA: R157. -/
def execVsha (w : BitVec 2) (vd va vb : VReg) (k : KReg) (la lb : Bool) (st : BitVec 2) (s : State) :
    Host.Outcome State Fault Refusal :=
  vint vSha w vd va vb k la lb st s

/-- VMINS: R157. -/
def execVmins (w : BitVec 2) (vd va vb : VReg) (k : KReg) (la lb : Bool) (st : BitVec 2) (s : State) :
    Host.Outcome State Fault Refusal :=
  vint vSgnMin w vd va vb k la lb st s

/-- VMAXS: R157. -/
def execVmaxs (w : BitVec 2) (vd va vb : VReg) (k : KReg) (la lb : Bool) (st : BitVec 2) (s : State) :
    Host.Outcome State Fault Refusal :=
  vint vSgnMax w vd va vb k la lb st s

/-- VMINU: R157. -/
def execVminu (w : BitVec 2) (vd va vb : VReg) (k : KReg) (la lb : Bool) (st : BitVec 2) (s : State) :
    Host.Outcome State Fault Refusal :=
  vint (fun _ x y => min x y) w vd va vb k la lb st s

/-- VMAXU: R157. -/
def execVmaxu (w : BitVec 2) (vd va vb : VReg) (k : KReg) (la lb : Bool) (st : BitVec 2) (s : State) :
    Host.Outcome State Fault Refusal :=
  vint (fun _ x y => max x y) w vd va vb k la lb st s

/-- VADDS: R157. -/
def execVadds (w : BitVec 2) (vd va vb : VReg) (k : KReg) (la lb : Bool) (st : BitVec 2) (s : State) :
    Host.Outcome State Fault Refusal :=
  vint (fun w x y => unsgn w (clampS w (sgn w x + sgn w y))) w vd va vb k la lb st s

/-- VSUBS: R157. -/
def execVsubs (w : BitVec 2) (vd va vb : VReg) (k : KReg) (la lb : Bool) (st : BitVec 2) (s : State) :
    Host.Outcome State Fault Refusal :=
  vint (fun w x y => unsgn w (clampS w (sgn w x - sgn w y))) w vd va vb k la lb st s

/-- VABS: R157, vb is not read. -/
def execVabs (w : BitVec 2) (vd va : VReg) (k : KReg) (la : Bool) (st : BitVec 2) (s : State) :
    Host.Outcome State Fault Refusal :=
  simple { reads := [.v va, .k k], rel := relV la false va 0, dest := .v vd, lat := some 2, vec := true, st := st.toNat,
           f := fun n =>
             let b := vintWidth w
             .ok (vecOf ((selLanes b (n.getK k)).map (fun i =>
               (b * i, b, (sgn b (lane b i (n.getV va))).natAbs))), 0) } s

/-- VDOT4: R157, reads vd. -/
def execVdot4 (vd va vb : VReg) (k : KReg) (la lb : Bool) (st : BitVec 2) (s : State) :
    Host.Outcome State Fault Refusal :=
  simple { reads := [.v va, .v vb, .k k, .v vd], rel := relV la lb va vb, dest := .v vd, lat := some 2, vec := true,
           st := st.toNat,
           f := fun n =>
             .ok (vecOf ((selLanes 32 (n.getK k)).map (fun i =>
               (32 * i, 32, dot4 (lane 32 i (n.getV vd)) (lane 32 i (n.getV va)) (lane 32 i (n.getV vb))))), 0) } s

/-- VFADD: R158. -/
def execVfadd (w : BitVec 2) (vd va vb : VReg) (k : KReg) (la lb : Bool) (st : BitVec 2) (s : State) :
    Host.Outcome State Fault Refusal :=
  vfp fpAdd (some 4) false w vd va vb k la lb st s

/-- VFSUB: R158. -/
def execVfsub (w : BitVec 2) (vd va vb : VReg) (k : KReg) (la lb : Bool) (st : BitVec 2) (s : State) :
    Host.Outcome State Fault Refusal :=
  vfp fpSub (some 4) false w vd va vb k la lb st s

/-- VFMUL: R158. -/
def execVfmul (w : BitVec 2) (vd va vb : VReg) (k : KReg) (la lb : Bool) (st : BitVec 2) (s : State) :
    Host.Outcome State Fault Refusal :=
  vfp fpMul (some 4) false w vd va vb k la lb st s

/-- VFFMA: R158. -/
def execVffma (w : BitVec 2) (vd va vb : VReg) (k : KReg) (la lb : Bool) (st : BitVec 2) (s : State) :
    Host.Outcome State Fault Refusal :=
  vfpAcc false w vd va vb k la lb st s

/-- VFFMS: R158. -/
def execVffms (w : BitVec 2) (vd va vb : VReg) (k : KReg) (la lb : Bool) (st : BitVec 2) (s : State) :
    Host.Outcome State Fault Refusal :=
  vfpAcc true w vd va vb k la lb st s

/-- VFMIN: R158, R51. -/
def execVfmin (w : BitVec 2) (vd va vb : VReg) (k : KReg) (la lb : Bool) (st : BitVec 2) (s : State) :
    Host.Outcome State Fault Refusal :=
  vfp (fun q _ _ x y => (fpMin q x y, 0)) (some 4) false w vd va vb k la lb st s

/-- VFMAX: R158, R51. -/
def execVfmax (w : BitVec 2) (vd va vb : VReg) (k : KReg) (la lb : Bool) (st : BitVec 2) (s : State) :
    Host.Outcome State Fault Refusal :=
  vfp (fun q _ _ x y => (fpMax q x y, 0)) (some 4) false w vd va vb k la lb st s

/-- VFABS: R158. -/
def execVfabs (w : BitVec 2) (vd va : VReg) (k : KReg) (la : Bool) (st : BitVec 2) (s : State) :
    Host.Outcome State Fault Refusal :=
  vfpOne (fun q _ _ x => (fpAbs q x, 0)) (some 4) false w vd va k la st s

/-- VFNEG: R158. -/
def execVfneg (w : BitVec 2) (vd va : VReg) (k : KReg) (la : Bool) (st : BitVec 2) (s : State) :
    Host.Outcome State Fault Refusal :=
  vfpOne (fun q _ _ x => (fpNeg q x, 0)) (some 4) false w vd va k la st s

/-- VFDIV: R158, interlocked. -/
def execVfdiv (w : BitVec 2) (vd va vb : VReg) (k : KReg) (la lb : Bool) (st : BitVec 2) (s : State) :
    Host.Outcome State Fault Refusal :=
  vfp fpDiv none true w vd va vb k la lb st s

/-- VFSQRT: R158, FP32, interlocked. -/
def execVfsqrt (vd va : VReg) (k : KReg) (la : Bool) (st : BitVec 2) (s : State) :
    Host.Outcome State Fault Refusal :=
  vfpOne (fun q r t x => fpSqrt q r t x) none true 0 vd va k la st s

/-- VCVTF32F16: R159. -/
def execVcvtf32f16 (hi : Bool) (vd va : VReg) (k : KReg) (la : Bool) (st : BitVec 2) (s : State) :
    Host.Outcome State Fault Refusal :=
  vcvt 32 false 16 hi (fun r t x => fpCvt fp32 fp16 r t x) vd va k la st s

/-- VCVTF16F32: R159. -/
def execVcvtf16f32 (hi : Bool) (vd va : VReg) (k : KReg) (la : Bool) (st : BitVec 2) (s : State) :
    Host.Outcome State Fault Refusal :=
  vcvt 16 hi 32 false (fun r t x => fpCvt fp16 fp32 r t x) vd va k la st s

/-- VCVTF32BF: R159. -/
def execVcvtf32bf (hi : Bool) (vd va : VReg) (k : KReg) (la : Bool) (st : BitVec 2) (s : State) :
    Host.Outcome State Fault Refusal :=
  vcvt 32 false 16 hi (fun r t x => fpCvt fp32 bf16 r t x) vd va k la st s

/-- VCVTBFF32: R159. -/
def execVcvtbff32 (hi : Bool) (vd va : VReg) (k : KReg) (la : Bool) (st : BitVec 2) (s : State) :
    Host.Outcome State Fault Refusal :=
  vcvt 16 hi 32 false (fun r t x => fpCvt bf16 fp32 r t x) vd va k la st s

/-- VCVTF32F8A: R159. -/
def execVcvtf32f8a (hi : Bool) (vd va : VReg) (k : KReg) (la : Bool) (st : BitVec 2) (s : State) :
    Host.Outcome State Fault Refusal :=
  vcvt 32 false 8 hi (fun r t x => fpCvt fp32 f8a r t x) vd va k la st s

/-- VCVTF8AF32: R159. -/
def execVcvtf8af32 (hi : Bool) (vd va : VReg) (k : KReg) (la : Bool) (st : BitVec 2) (s : State) :
    Host.Outcome State Fault Refusal :=
  vcvt 8 hi 32 false (fun r t x => fpCvt f8a fp32 r t x) vd va k la st s

/-- VCVTF32F8B: R159. -/
def execVcvtf32f8b (hi : Bool) (vd va : VReg) (k : KReg) (la : Bool) (st : BitVec 2) (s : State) :
    Host.Outcome State Fault Refusal :=
  vcvt 32 false 8 hi (fun r t x => fpCvt fp32 f8b r t x) vd va k la st s

/-- VCVTF8BF32: R159. -/
def execVcvtf8bf32 (hi : Bool) (vd va : VReg) (k : KReg) (la : Bool) (st : BitVec 2) (s : State) :
    Host.Outcome State Fault Refusal :=
  vcvt 8 hi 32 false (fun r t x => fpCvt f8b fp32 r t x) vd va k la st s

/-- VCVTF32I32: R159. -/
def execVcvtf32i32 (vd va : VReg) (k : KReg) (la : Bool) (st : BitVec 2) (s : State) :
    Host.Outcome State Fault Refusal :=
  vcvt 32 false 32 false (fun r _ x => cvtF32I32 r x) vd va k la st s

/-- VCVTI32F32: R159. -/
def execVcvti32f32 (vd va : VReg) (k : KReg) (la : Bool) (st : BitVec 2) (s : State) :
    Host.Outcome State Fault Refusal :=
  vcvt 32 false 32 false (fun r _ x => intToFp fp32 r (sgn 32 x)) vd va k la st s

/-- VCVTI32I16: R159. -/
def execVcvti32i16 (hi : Bool) (vd va : VReg) (k : KReg) (la : Bool) (st : BitVec 2) (s : State) :
    Host.Outcome State Fault Refusal :=
  vcvt 32 false 16 hi (fun _ _ x => cvtNarrow 16 x) vd va k la st s

/-- VCVTI32I8: R159. -/
def execVcvti32i8 (hi : Bool) (vd va : VReg) (k : KReg) (la : Bool) (st : BitVec 2) (s : State) :
    Host.Outcome State Fault Refusal :=
  vcvt 32 false 8 hi (fun _ _ x => cvtNarrow 8 x) vd va k la st s

/-- VCVTI8I32: R159. -/
def execVcvti8i32 (hi : Bool) (vd va : VReg) (k : KReg) (la : Bool) (st : BitVec 2) (s : State) :
    Host.Outcome State Fault Refusal :=
  vcvt 8 hi 32 false (fun _ _ x => (unsgn 32 (sgn 8 x), 0)) vd va k la st s

/-- VCMPEQ: R160. -/
def execVcmpeq (ty : BitVec 2) (kd : KReg) (va vb : VReg) (k : KReg) (la lb : Bool) (st : BitVec 2) (s : State) :
    Host.Outcome State Fault Refusal :=
  vcmp (vcond ty (fun x y => x == y) (fpEq fp32)) kd va vb k la lb st s

/-- VCMPNE: R160. -/
def execVcmpne (ty : BitVec 2) (kd : KReg) (va vb : VReg) (k : KReg) (la lb : Bool) (st : BitVec 2) (s : State) :
    Host.Outcome State Fault Refusal :=
  vcmp (vcond ty (fun x y => x != y) (fun x y => !fpEq fp32 x y)) kd va vb k la lb st s

/-- VCMPLT: R160. -/
def execVcmplt (ty : BitVec 2) (kd : KReg) (va vb : VReg) (k : KReg) (la lb : Bool) (st : BitVec 2) (s : State) :
    Host.Outcome State Fault Refusal :=
  vcmp (vcond ty (fun x y => decide (x < y)) (fpLt fp32)) kd va vb k la lb st s

/-- VCMPLE: R160. -/
def execVcmple (ty : BitVec 2) (kd : KReg) (va vb : VReg) (k : KReg) (la lb : Bool) (st : BitVec 2) (s : State) :
    Host.Outcome State Fault Refusal :=
  vcmp (vcond ty (fun x y => decide (x ≤ y)) (fpLe fp32)) kd va vb k la lb st s

/-- VCMPGT: R160. -/
def execVcmpgt (ty : BitVec 2) (kd : KReg) (va vb : VReg) (k : KReg) (la lb : Bool) (st : BitVec 2) (s : State) :
    Host.Outcome State Fault Refusal :=
  vcmp (vcond ty (fun x y => decide (y < x)) (fun x y => fpLt fp32 y x)) kd va vb k la lb st s

/-- VCMPGE: R160. -/
def execVcmpge (ty : BitVec 2) (kd : KReg) (va vb : VReg) (k : KReg) (la lb : Bool) (st : BitVec 2) (s : State) :
    Host.Outcome State Fault Refusal :=
  vcmp (vcond ty (fun x y => decide (y ≤ x)) (fun x y => fpLe fp32 y x)) kd va vb k la lb st s

/-- VCMPUN: R160, FP32. -/
def execVcmpun (kd : KReg) (va vb : VReg) (k : KReg) (la lb : Bool) (st : BitVec 2) (s : State) :
    Host.Outcome State Fault Refusal :=
  vcmp (fpUn fp32) kd va vb k la lb st s

/-- VLUT3: R161, latency 2. -/
def execVlut3 (vd va vb : VReg) (k : KReg) (la lb : Bool) (tbl : BitVec 8) (s : State) :
    Host.Outcome State Fault Refusal :=
  simple { reads := [.v va, .v vb, .k k, .v vd], rel := relV la lb va vb, dest := .v vd, lat := some 2, vec := true,
           f := fun n =>
             let r := lutBits tbl (n.getV vd) (n.getV va) (n.getV vb)
             .ok (vecOf ((selLanes 32 (n.getK k)).map (fun i => (32 * i, 32, lane 32 i r))), 0) } s

/-- VBCAST: R162. -/
def execVbcast (v : VReg) (g : GReg) (s : State) :
    Host.Outcome State Fault Refusal :=
  vperm [.g g] (.v v) none (fun n => lanes16 (fun _ => (n.getG g).toNat)) s

/-- VINS: R162. -/
def execVins (v : VReg) (g : GReg) (n : BitVec 6) (s : State) :
    Host.Outcome State Fault Refusal :=
  vperm [.g g] (.v v) none (fun m => vecOf [(32 * n.toNat, 32, (m.getG g).toNat)]) s

/-- VEXT: R162. -/
def execVext (g : GReg) (vb : VReg) (n : BitVec 6) (s : State) :
    Host.Outcome State Fault Refusal :=
  vperm [.v vb] (.g g) none (fun m => .word (BitVec.ofNat 32 (lane 32 n.toNat (m.getV vb)))) s

/-- VSHUF: R162. -/
def execVshuf (v vb : VReg) (s : State) :
    Host.Outcome State Fault Refusal :=
  vperm [.v v, .v vb] (.v v) none
    (fun n => lanes16 (fun i => lane 32 (lane 32 i (n.getV v) % 16) (n.getV vb))) s

/-- VROT: R162. -/
def execVrot (v vb : VReg) (n : BitVec 6) (s : State) :
    Host.Outcome State Fault Refusal :=
  vperm [.v vb] (.v v) none (fun m => lanes16 (fun i => lane 32 ((i + n.toNat) % 16) (m.getV vb))) s

/-- VREDADD: R162. -/
def execVredadd (g : GReg) (vb : VReg) (s : State) :
    Host.Outcome State Fault Refusal :=
  vperm [.v vb] (.g g) none (fun n => .word (BitVec.ofNat 32 (laneSum (n.getV vb) 15))) s

/-- VREDFADD: R162, R59; flags come with the result. -/
def execVredfadd (g : GReg) (vb : VReg) (s : State) :
    Host.Outcome State Fault Refusal :=
  simple { reads := [.v vb], dest := .g g, lat := none, late := true, vec := true,
           f := fun n => .ok (fpWord (redFadd n.sat (n.getV vb))) } s

/-- VREDMAX: R162, R51. -/
def execVredmax (g : GReg) (vb : VReg) (s : State) :
    Host.Outcome State Fault Refusal :=
  vperm [.v vb] (.g g) none (fun n => .word (BitVec.ofNat 32 (redFp (fpMax fp32) (n.getV vb)))) s

/-- VREDMIN: R162, R51. -/
def execVredmin (g : GReg) (vb : VReg) (s : State) :
    Host.Outcome State Fault Refusal :=
  vperm [.v vb] (.g g) none (fun n => .word (BitVec.ofNat 32 (redFp (fpMin fp32) (n.getV vb)))) s

/-- VSCAN: R162. -/
def execVscan (v vb : VReg) (s : State) :
    Host.Outcome State Fault Refusal :=
  vperm [.v vb] (.v v) none (fun n => lanes16 (fun i => laneSum (n.getV vb) i)) s

/-- VPOPK: R162. -/
def execVpopk (g : GReg) (kn : BitVec 6) (s : State) :
    Host.Outcome State Fault Refusal :=
  vperm [.k (kn.truncate 3)] (.g g) none
    (fun n => .word (BitVec.ofNat 32 (oneBits 16 (n.getK (kn.truncate 3)).toNat))) s

/-- VMOVK: R162, latency 2. -/
def execVmovk (kn : BitVec 6) (g : GReg) (s : State) :
    Host.Outcome State Fault Refusal :=
  vperm [.g g] (.k (kn.truncate 3)) (some 2) (fun n => .lanes ((n.getG g).truncate 16) 0xFFFF#16) s

/-- VKMOV: R162, latency 2. -/
def execVkmov (g : GReg) (kn : BitVec 6) (s : State) :
    Host.Outcome State Fault Refusal :=
  vperm [.k (kn.truncate 3)] (.g g) (some 2) (fun n => .word ((n.getK (kn.truncate 3)).zeroExtend 32)) s

end Sys2Proof.Machine
end

