-- ==== Sys2Proof/Machine/Dispatch.lean ====
section
/-! DEFINITION. One arm per constructor: each calls the meaning of its instruction. -/

namespace Sys2Proof.Machine

/-- What an instruction, or a step of another agent, does to the machine. -/
def exec (i : Instr) (s : State) : Host.Outcome State Fault Refusal :=
  match i with
  | .add d a b la lb st => Sys2Proof.Machine.execAdd d a b la lb st s
  | .sub d a b la lb st => Sys2Proof.Machine.execSub d a b la lb st s
  | .and d a b la lb st => Sys2Proof.Machine.execAnd d a b la lb st s
  | .andn d a b la lb st => Sys2Proof.Machine.execAndn d a b la lb st s
  | .or d a b la lb st => Sys2Proof.Machine.execOr d a b la lb st s
  | .orn d a b la lb st => Sys2Proof.Machine.execOrn d a b la lb st s
  | .xor d a b la lb st => Sys2Proof.Machine.execXor d a b la lb st s
  | .xnor d a b la lb st => Sys2Proof.Machine.execXnor d a b la lb st s
  | .shl d a b la lb st => Sys2Proof.Machine.execShl d a b la lb st s
  | .shr d a b la lb st => Sys2Proof.Machine.execShr d a b la lb st s
  | .sha d a b la lb st => Sys2Proof.Machine.execSha d a b la lb st s
  | .rotl d a b la lb st => Sys2Proof.Machine.execRotl d a b la lb st s
  | .mins d a b la lb st => Sys2Proof.Machine.execMins d a b la lb st s
  | .maxs d a b la lb st => Sys2Proof.Machine.execMaxs d a b la lb st s
  | .minu d a b la lb st => Sys2Proof.Machine.execMinu d a b la lb st s
  | .maxu d a b la lb st => Sys2Proof.Machine.execMaxu d a b la lb st s
  | .adds d a b la lb st => Sys2Proof.Machine.execAdds d a b la lb st s
  | .subs d a b la lb st => Sys2Proof.Machine.execSubs d a b la lb st s
  | .sel d p a b la lb st => Sys2Proof.Machine.execSel d p a b la lb st s
  | .addi d a la st imm => Sys2Proof.Machine.execAddi d a la st imm s
  | .andi d a la st imm => Sys2Proof.Machine.execAndi d a la st imm s
  | .ori d a la st imm => Sys2Proof.Machine.execOri d a la st imm s
  | .xori d a la st imm => Sys2Proof.Machine.execXori d a la st imm s
  | .movi d st imm => Sys2Proof.Machine.execMovi d st imm s
  | .muli d a la st imm => Sys2Proof.Machine.execMuli d a la st imm s
  | .cmpeq p comb a b la lb st => Sys2Proof.Machine.execCmpeq p comb a b la lb st s
  | .cmpne p comb a b la lb st => Sys2Proof.Machine.execCmpne p comb a b la lb st s
  | .cmplt p comb a b la lb st => Sys2Proof.Machine.execCmplt p comb a b la lb st s
  | .cmple p comb a b la lb st => Sys2Proof.Machine.execCmple p comb a b la lb st s
  | .cmpgt p comb a b la lb st => Sys2Proof.Machine.execCmpgt p comb a b la lb st s
  | .cmpge p comb a b la lb st => Sys2Proof.Machine.execCmpge p comb a b la lb st s
  | .cmpltu p comb a b la lb st => Sys2Proof.Machine.execCmpltu p comb a b la lb st s
  | .cmpleu p comb a b la lb st => Sys2Proof.Machine.execCmpleu p comb a b la lb st s
  | .cmpgtu p comb a b la lb st => Sys2Proof.Machine.execCmpgtu p comb a b la lb st s
  | .cmpgeu p comb a b la lb st => Sys2Proof.Machine.execCmpgeu p comb a b la lb st s
  | .cmpbitany p comb a b la lb st => Sys2Proof.Machine.execCmpbitany p comb a b la lb st s
  | .cmpbitnone p comb a b la lb st => Sys2Proof.Machine.execCmpbitnone p comb a b la lb st s
  | .cmpieq p a la st imm => Sys2Proof.Machine.execCmpieq p a la st imm s
  | .cmpine p a la st imm => Sys2Proof.Machine.execCmpine p a la st imm s
  | .cmpilt p a la st imm => Sys2Proof.Machine.execCmpilt p a la st imm s
  | .cmpiltu p a la st imm => Sys2Proof.Machine.execCmpiltu p a la st imm s
  | .shli d a n la st => Sys2Proof.Machine.execShli d a n la st s
  | .shri d a n la st => Sys2Proof.Machine.execShri d a n la st s
  | .shai d a n la st => Sys2Proof.Machine.execShai d a n la st s
  | .rotli d a n la st => Sys2Proof.Machine.execRotli d a n la st s
  | .clz d a la st => Sys2Proof.Machine.execClz d a la st s
  | .ctz d a la st => Sys2Proof.Machine.execCtz d a la st s
  | .popc d a la st => Sys2Proof.Machine.execPopc d a la st s
  | .brev d a la st => Sys2Proof.Machine.execBrev d a la st s
  | .bswap d a la st => Sys2Proof.Machine.execBswap d a la st s
  | .bfx d a b la lb st => Sys2Proof.Machine.execBfx d a b la lb st s
  | .bfxs d a b la lb st => Sys2Proof.Machine.execBfxs d a b la lb st s
  | .bfi d a b la lb st => Sys2Proof.Machine.execBfi d a b la lb st s
  | .fshl d a b la lb st c => Sys2Proof.Machine.execFshl d a b la lb st c s
  | .fshr d a b la lb st c => Sys2Proof.Machine.execFshr d a b la lb st c s
  | .lut3 d a b la lb tbl => Sys2Proof.Machine.execLut3 d a b la lb tbl s
  | .mul d a b la lb st => Sys2Proof.Machine.execMul d a b la lb st s
  | .mulhs d a b la lb st => Sys2Proof.Machine.execMulhs d a b la lb st s
  | .mulhu d a b la lb st => Sys2Proof.Machine.execMulhu d a b la lb st s
  | .divs d a b la lb st => Sys2Proof.Machine.execDivs d a b la lb st s
  | .divu d a b la lb st => Sys2Proof.Machine.execDivu d a b la lb st s
  | .rems d a b la lb st => Sys2Proof.Machine.execRems d a b la lb st s
  | .remu d a b la lb st => Sys2Proof.Machine.execRemu d a b la lb st s
  | .fadd d a b la lb st => Sys2Proof.Machine.execFadd d a b la lb st s
  | .fsub d a b la lb st => Sys2Proof.Machine.execFsub d a b la lb st s
  | .fmul d a b la lb st => Sys2Proof.Machine.execFmul d a b la lb st s
  | .ffma d a b la lb st => Sys2Proof.Machine.execFfma d a b la lb st s
  | .fmin d a b la lb st => Sys2Proof.Machine.execFmin d a b la lb st s
  | .fmax d a b la lb st => Sys2Proof.Machine.execFmax d a b la lb st s
  | .fabs d a la st => Sys2Proof.Machine.execFabs d a la st s
  | .fneg d a la st => Sys2Proof.Machine.execFneg d a la st s
  | .fcvtif d a la st => Sys2Proof.Machine.execFcvtif d a la st s
  | .fcvtfi d a la st => Sys2Proof.Machine.execFcvtfi d a la st s
  | .fsqrt d a la st => Sys2Proof.Machine.execFsqrt d a la st s
  | .fcmpeq p a b la lb st => Sys2Proof.Machine.execFcmpeq p a b la lb st s
  | .fcmpne p a b la lb st => Sys2Proof.Machine.execFcmpne p a b la lb st s
  | .fcmplt p a b la lb st => Sys2Proof.Machine.execFcmplt p a b la lb st s
  | .fcmple p a b la lb st => Sys2Proof.Machine.execFcmple p a b la lb st s
  | .fcmpun p a b la lb st => Sys2Proof.Machine.execFcmpun p a b la lb st s
  | .adda d a b lb st => Sys2Proof.Machine.execAdda d a b lb st s
  | .addau d a b lb st => Sys2Proof.Machine.execAddau d a b lb st s
  | .addas d a b lb st t => Sys2Proof.Machine.execAddas d a b lb st t s
  | .movga d a b la lb st => Sys2Proof.Machine.execMovga d a b la lb st s
  | .movag d a st => Sys2Proof.Machine.execMovag d a st s
  | .movagh d a st => Sys2Proof.Machine.execMovagh d a st s
  | .suba d a b st => Sys2Proof.Machine.execSuba d a b st s
  | .addai d a st imm => Sys2Proof.Machine.execAddai d a st imm s
  | .br p n st off => Sys2Proof.Machine.execBr p n st off s
  | .call p n st off => Sys2Proof.Machine.execCall p n st off s
  | .jmpr a la st => Sys2Proof.Machine.execJmpr a la st s
  | .callr a la st => Sys2Proof.Machine.execCallr a la st s
  | .ret st => Sys2Proof.Machine.execRet st s
  | .rtt st => Sys2Proof.Machine.execRtt st s
  | .loop a la st imm => Sys2Proof.Machine.execLoop a la st imm s
  | .ldb t x st off => Sys2Proof.Machine.execLdb t x st off s
  | .ldbs t x st off => Sys2Proof.Machine.execLdbs t x st off s
  | .ldh t x st off => Sys2Proof.Machine.execLdh t x st off s
  | .ldhs t x st off => Sys2Proof.Machine.execLdhs t x st off s
  | .ldw t x st off => Sys2Proof.Machine.execLdw t x st off s
  | .ldd t x st off => Sys2Proof.Machine.execLdd t x st off s
  | .stb t x lt st off => Sys2Proof.Machine.execStb t x lt st off s
  | .sth t x lt st off => Sys2Proof.Machine.execSth t x lt st off s
  | .stw t x lt st off => Sys2Proof.Machine.execStw t x lt st off s
  | .std t x lt st off => Sys2Proof.Machine.execStd t x lt st off s
  | .lda t x st off => Sys2Proof.Machine.execLda t x st off s
  | .sta t x st off => Sys2Proof.Machine.execSta t x st off s
  | .amoadd d x b lb dw => Sys2Proof.Machine.execAmoadd d x b lb dw s
  | .amoand d x b lb dw => Sys2Proof.Machine.execAmoand d x b lb dw s
  | .amoor d x b lb dw => Sys2Proof.Machine.execAmoor d x b lb dw s
  | .amoxor d x b lb dw => Sys2Proof.Machine.execAmoxor d x b lb dw s
  | .amomins d x b lb dw => Sys2Proof.Machine.execAmomins d x b lb dw s
  | .amomaxs d x b lb dw => Sys2Proof.Machine.execAmomaxs d x b lb dw s
  | .amominu d x b lb dw => Sys2Proof.Machine.execAmominu d x b lb dw s
  | .amomaxu d x b lb dw => Sys2Proof.Machine.execAmomaxu d x b lb dw s
  | .amoswap d x b lb dw => Sys2Proof.Machine.execAmoswap d x b lb dw s
  | .amocas d x b la lb dw => Sys2Proof.Machine.execAmocas d x b la lb dw s
  | .amofadd d x b lb => Sys2Proof.Machine.execAmofadd d x b lb s
  | .dcas d x b la lb => Sys2Proof.Machine.execDcas d x b la lb s
  | .amov2 d x b lb => Sys2Proof.Machine.execAmov2 d x b lb s
  | .fence st => Sys2Proof.Machine.execFence st s
  | .movs d idx st => Sys2Proof.Machine.execMovs d idx st s
  | .movsw d idx st => Sys2Proof.Machine.execMovsw d idx st s
  | .trap code st => Sys2Proof.Machine.execTrap code st s
  | .wspill st => Sys2Proof.Machine.execWspill st s
  | .wfill st => Sys2Proof.Machine.execWfill st s
  | .widx d half f st => Sys2Proof.Machine.execWidx d half f st s
  | .vld v x st off => Sys2Proof.Machine.execVld v x st off s
  | .vldh v x st off => Sys2Proof.Machine.execVldh v x st off s
  | .vst v x lt st off => Sys2Proof.Machine.execVst v x lt st off s
  | .vsth v x lt st off => Sys2Proof.Machine.execVsth v x lt st off s
  | .gathw v x vi k sc => Sys2Proof.Machine.execGathw v x vi k sc s
  | .scatw v x vi k sc => Sys2Proof.Machine.execScatw v x vi k sc s
  | .gathh v x vi k sc => Sys2Proof.Machine.execGathh v x vi k sc s
  | .scath v x vi k sc => Sys2Proof.Machine.execScath v x vi k sc s
  | .vadd w vd va vb k la lb st => Sys2Proof.Machine.execVadd w vd va vb k la lb st s
  | .vsub w vd va vb k la lb st => Sys2Proof.Machine.execVsub w vd va vb k la lb st s
  | .vmul w vd va vb k la lb st => Sys2Proof.Machine.execVmul w vd va vb k la lb st s
  | .vmulhs w vd va vb k la lb st => Sys2Proof.Machine.execVmulhs w vd va vb k la lb st s
  | .vand w vd va vb k la lb st => Sys2Proof.Machine.execVand w vd va vb k la lb st s
  | .vor w vd va vb k la lb st => Sys2Proof.Machine.execVor w vd va vb k la lb st s
  | .vxor w vd va vb k la lb st => Sys2Proof.Machine.execVxor w vd va vb k la lb st s
  | .vandn w vd va vb k la lb st => Sys2Proof.Machine.execVandn w vd va vb k la lb st s
  | .vshl w vd va vb k la lb st => Sys2Proof.Machine.execVshl w vd va vb k la lb st s
  | .vshr w vd va vb k la lb st => Sys2Proof.Machine.execVshr w vd va vb k la lb st s
  | .vsha w vd va vb k la lb st => Sys2Proof.Machine.execVsha w vd va vb k la lb st s
  | .vmins w vd va vb k la lb st => Sys2Proof.Machine.execVmins w vd va vb k la lb st s
  | .vmaxs w vd va vb k la lb st => Sys2Proof.Machine.execVmaxs w vd va vb k la lb st s
  | .vminu w vd va vb k la lb st => Sys2Proof.Machine.execVminu w vd va vb k la lb st s
  | .vmaxu w vd va vb k la lb st => Sys2Proof.Machine.execVmaxu w vd va vb k la lb st s
  | .vadds w vd va vb k la lb st => Sys2Proof.Machine.execVadds w vd va vb k la lb st s
  | .vsubs w vd va vb k la lb st => Sys2Proof.Machine.execVsubs w vd va vb k la lb st s
  | .vabs w vd va k la st => Sys2Proof.Machine.execVabs w vd va k la st s
  | .vdot4 vd va vb k la lb st => Sys2Proof.Machine.execVdot4 vd va vb k la lb st s
  | .vfadd w vd va vb k la lb st => Sys2Proof.Machine.execVfadd w vd va vb k la lb st s
  | .vfsub w vd va vb k la lb st => Sys2Proof.Machine.execVfsub w vd va vb k la lb st s
  | .vfmul w vd va vb k la lb st => Sys2Proof.Machine.execVfmul w vd va vb k la lb st s
  | .vffma w vd va vb k la lb st => Sys2Proof.Machine.execVffma w vd va vb k la lb st s
  | .vffms w vd va vb k la lb st => Sys2Proof.Machine.execVffms w vd va vb k la lb st s
  | .vfmin w vd va vb k la lb st => Sys2Proof.Machine.execVfmin w vd va vb k la lb st s
  | .vfmax w vd va vb k la lb st => Sys2Proof.Machine.execVfmax w vd va vb k la lb st s
  | .vfabs w vd va k la st => Sys2Proof.Machine.execVfabs w vd va k la st s
  | .vfneg w vd va k la st => Sys2Proof.Machine.execVfneg w vd va k la st s
  | .vfdiv w vd va vb k la lb st => Sys2Proof.Machine.execVfdiv w vd va vb k la lb st s
  | .vfsqrt vd va k la st => Sys2Proof.Machine.execVfsqrt vd va k la st s
  | .vcvtf32f16 hi vd va k la st => Sys2Proof.Machine.execVcvtf32f16 hi vd va k la st s
  | .vcvtf16f32 hi vd va k la st => Sys2Proof.Machine.execVcvtf16f32 hi vd va k la st s
  | .vcvtf32bf hi vd va k la st => Sys2Proof.Machine.execVcvtf32bf hi vd va k la st s
  | .vcvtbff32 hi vd va k la st => Sys2Proof.Machine.execVcvtbff32 hi vd va k la st s
  | .vcvtf32f8a hi vd va k la st => Sys2Proof.Machine.execVcvtf32f8a hi vd va k la st s
  | .vcvtf8af32 hi vd va k la st => Sys2Proof.Machine.execVcvtf8af32 hi vd va k la st s
  | .vcvtf32f8b hi vd va k la st => Sys2Proof.Machine.execVcvtf32f8b hi vd va k la st s
  | .vcvtf8bf32 hi vd va k la st => Sys2Proof.Machine.execVcvtf8bf32 hi vd va k la st s
  | .vcvtf32i32 vd va k la st => Sys2Proof.Machine.execVcvtf32i32 vd va k la st s
  | .vcvti32f32 vd va k la st => Sys2Proof.Machine.execVcvti32f32 vd va k la st s
  | .vcvti32i16 hi vd va k la st => Sys2Proof.Machine.execVcvti32i16 hi vd va k la st s
  | .vcvti32i8 hi vd va k la st => Sys2Proof.Machine.execVcvti32i8 hi vd va k la st s
  | .vcvti8i32 hi vd va k la st => Sys2Proof.Machine.execVcvti8i32 hi vd va k la st s
  | .vbcast v g => Sys2Proof.Machine.execVbcast v g s
  | .vins v g n => Sys2Proof.Machine.execVins v g n s
  | .vext g vb n => Sys2Proof.Machine.execVext g vb n s
  | .vshuf v vb => Sys2Proof.Machine.execVshuf v vb s
  | .vrot v vb n => Sys2Proof.Machine.execVrot v vb n s
  | .vredadd g vb => Sys2Proof.Machine.execVredadd g vb s
  | .vredfadd g vb => Sys2Proof.Machine.execVredfadd g vb s
  | .vredmax g vb => Sys2Proof.Machine.execVredmax g vb s
  | .vredmin g vb => Sys2Proof.Machine.execVredmin g vb s
  | .vscan v vb => Sys2Proof.Machine.execVscan v vb s
  | .vpopk g kn => Sys2Proof.Machine.execVpopk g kn s
  | .vmovk kn g => Sys2Proof.Machine.execVmovk kn g s
  | .vkmov g kn => Sys2Proof.Machine.execVkmov g kn s
  | .vcmpeq ty kd va vb k la lb st => Sys2Proof.Machine.execVcmpeq ty kd va vb k la lb st s
  | .vcmpne ty kd va vb k la lb st => Sys2Proof.Machine.execVcmpne ty kd va vb k la lb st s
  | .vcmplt ty kd va vb k la lb st => Sys2Proof.Machine.execVcmplt ty kd va vb k la lb st s
  | .vcmple ty kd va vb k la lb st => Sys2Proof.Machine.execVcmple ty kd va vb k la lb st s
  | .vcmpgt ty kd va vb k la lb st => Sys2Proof.Machine.execVcmpgt ty kd va vb k la lb st s
  | .vcmpge ty kd va vb k la lb st => Sys2Proof.Machine.execVcmpge ty kd va vb k la lb st s
  | .vcmpun kd va vb k la lb st => Sys2Proof.Machine.execVcmpun kd va vb k la lb st s
  | .vlut3 vd va vb k la lb tbl => Sys2Proof.Machine.execVlut3 vd va vb k la lb tbl s
  | .offer d a persist st => Sys2Proof.Machine.execOffer d a persist st s
  | .evtest d a la st => Sys2Proof.Machine.execEvtest d a la st s
  | .evwait d a la st => Sys2Proof.Machine.execEvwait d a la st s
  | .pause n st => Sys2Proof.Machine.execPause n st s
  | .dlr d n st => Sys2Proof.Machine.execDlr d n st s
  | .dlw n a la st => Sys2Proof.Machine.execDlw n a la st s
  | .retire st => Sys2Proof.Machine.execRetire st s
  | .mclaim d a la st => Sys2Proof.Machine.execMclaim d a la st s
  | .mrel a la st => Sys2Proof.Machine.execMrel a la st s
  | .mma d a b la lb st => Sys2Proof.Machine.execMma d a b la lb st s
  | .mzero d a la st => Sys2Proof.Machine.execMzero d a la st s
  | .mdrain d a b la lb st => Sys2Proof.Machine.execMdrain d a b la lb st s
  | .copy a st => Sys2Proof.Machine.execCopy a st s
  | .copyg a st => Sys2Proof.Machine.execCopyg a st s
  | .copyop a st => Sys2Proof.Machine.execCopyop a st s
  | .conv a st => Sys2Proof.Machine.execConv a st s
  | .planes a st => Sys2Proof.Machine.execPlanes a st s
  | .sparsify a st => Sys2Proof.Machine.execSparsify a st s
  | .scalec a st => Sys2Proof.Machine.execScalec a st s
  | .tidset a b la st => Sys2Proof.Machine.execTidset a b la st s
  | .tidget a b la st => Sys2Proof.Machine.execTidget a b la st s
  | .tidclr a la st => Sys2Proof.Machine.execTidclr a la st s
  | .grow d a la st => Sys2Proof.Machine.execGrow d a la st s
  | .launch d a st => Sys2Proof.Machine.execLaunch d a st s
  | .restart d a st => Sys2Proof.Machine.execRestart d a st s
  | .seal a la st => Sys2Proof.Machine.execSeal a la st s
  | .stall n => Sys2Proof.Machine.execStall n s
  | .wide hi => Sys2Proof.Machine.execWide hi s
  | .mod rnd sat => Sys2Proof.Machine.execMod rnd sat s
  | .crit => Sys2Proof.Machine.execCrit s
  | .pairLowRead d idx st => Sys2Proof.Machine.execPairLowRead d idx st s
  | .nctlWrite d st => Sys2Proof.Machine.execNctlWrite d st s
  | .wposWrite d st => Sys2Proof.Machine.execWposWrite d st s
  | .nstatAccess write d st => Sys2Proof.Machine.execNstatAccess write d st s
  | .cmapWrite d st => Sys2Proof.Machine.execCmapWrite d st s
  | .xinvhWrite d st => Sys2Proof.Machine.execXinvhWrite d st s
  | .rqbaseWrite d st => Sys2Proof.Machine.execRqbaseWrite d st s
  | .rqtailWrite d st => Sys2Proof.Machine.execRqtailWrite d st s
  | .rqovfWrite d st => Sys2Proof.Machine.execRqovfWrite d st s
  | .cellstSeal d st => Sys2Proof.Machine.execCellstSeal d st s
  | .cellstUnseal d st => Sys2Proof.Machine.execCellstUnseal d st s
  | .islstWrite d st => Sys2Proof.Machine.execIslstWrite d st s
  | .alcmdCommit d st => Sys2Proof.Machine.execAlcmdCommit d st s
  | .registerWrite d idx st => Sys2Proof.Machine.execRegisterWrite d idx st s
  | .wordNotAnInstruction w => Sys2Proof.Machine.execWordNotAnInstruction w s
  | .nodeSelect => Sys2Proof.Machine.execNodeSelect s
  | .valueArrival => Sys2Proof.Machine.execValueArrival s
  | .accessPerformed => Sys2Proof.Machine.execAccessPerformed s
  | .commandAcceptance => Sys2Proof.Machine.execCommandAcceptance s
  | .commandExecution => Sys2Proof.Machine.execCommandExecution s
  | .commandCompletion => Sys2Proof.Machine.execCommandCompletion s
  | .gangStart => Sys2Proof.Machine.execGangStart s
  | .gangStepBegin => Sys2Proof.Machine.execGangStepBegin s
  | .fastCommit => Sys2Proof.Machine.execFastCommit s
  | .settlingRound => Sys2Proof.Machine.execSettlingRound s
  | .instanceEnd => Sys2Proof.Machine.execInstanceEnd s
  | .nodeResume => Sys2Proof.Machine.execNodeResume s
  | .instantOverrun => Sys2Proof.Machine.execInstantOverrun s
  | .dispatch => Sys2Proof.Machine.execDispatch s
  | .hostRequestLaunch => Sys2Proof.Machine.execHostRequestLaunch s
  | .drainRequest => Sys2Proof.Machine.execDrainRequest s
  | .hostRequestRestore => Sys2Proof.Machine.execHostRequestRestore s
  | .hostRequestDiscard => Sys2Proof.Machine.execHostRequestDiscard s
  | .drainLimitExpiry => Sys2Proof.Machine.execDrainLimitExpiry s
  | .forceLimitExpiry => Sys2Proof.Machine.execForceLimitExpiry s
  | .cleanSave => Sys2Proof.Machine.execCleanSave s
  | .forcedSave => Sys2Proof.Machine.execForcedSave s
  | .forcedSaveTimeout => Sys2Proof.Machine.execForcedSaveTimeout s
  | .pageServiceResume => Sys2Proof.Machine.execPageServiceResume s
  | .heldResume => Sys2Proof.Machine.execHeldResume s
  | .heldRetire => Sys2Proof.Machine.execHeldRetire s
  | .invalidationComplete => Sys2Proof.Machine.execInvalidationComplete s
  | .sofferWrite => Sys2Proof.Machine.execSofferWrite s
  | .hostMemAccess => Sys2Proof.Machine.execHostMemAccess s
  | .reportWrite => Sys2Proof.Machine.execReportWrite s
  | .registerParityError => Sys2Proof.Machine.execRegisterParityError s
  | .sealForcelimExpiry => Sys2Proof.Machine.execSealForcelimExpiry s
  | .patrolScrub => Sys2Proof.Machine.execPatrolScrub s
  | .twinHashCompare => Sys2Proof.Machine.execTwinHashCompare s
  | .twinMatchTimeout => Sys2Proof.Machine.execTwinMatchTimeout s
  | .remoteTimeout => Sys2Proof.Machine.execRemoteTimeout s
  | .hostAbort => Sys2Proof.Machine.execHostAbort s
  | .sparePromoted => Sys2Proof.Machine.execSparePromoted s
  | .wearMonitorRead => Sys2Proof.Machine.execWearMonitorRead s
  | .budgetPeriod => Sys2Proof.Machine.execBudgetPeriod s
  | .thermalDerate => Sys2Proof.Machine.execThermalDerate s
  | .thermalCapRise => Sys2Proof.Machine.execThermalCapRise s
  | .thermalShutdown => Sys2Proof.Machine.execThermalShutdown s
  | .almanacCommit => Sys2Proof.Machine.execAlmanacCommit s
  | .almanacCommitDone => Sys2Proof.Machine.execAlmanacCommitDone s
  | .powerOn => Sys2Proof.Machine.execPowerOn s
  | .powerDownRequest => Sys2Proof.Machine.execPowerDownRequest s
  | .dataFrame => Sys2Proof.Machine.execDataFrame s
  | .ackFrame => Sys2Proof.Machine.execAckFrame s
  | .nakFrame => Sys2Proof.Machine.execNakFrame s
  | .allowFrame => Sys2Proof.Machine.execAllowFrame s
  | .keyxFrame => Sys2Proof.Machine.execKeyxFrame s
  | .frameSend => Sys2Proof.Machine.execFrameSend s
  | .retransmitTimeout => Sys2Proof.Machine.execRetransmitTimeout s
  | .linkPeerLost => Sys2Proof.Machine.execLinkPeerLost s
  | .spdmRequest => Sys2Proof.Machine.execSpdmRequest s
  | .snoop => Sys2Proof.Machine.execSnoop s
  | .powerLoss => Sys2Proof.Machine.execPowerLoss s
  | .hostLinkUp => Sys2Proof.Machine.execHostLinkUp s
  | .portRetrained => Sys2Proof.Machine.execPortRetrained s
  | .ackIntervalExpiry => Sys2Proof.Machine.execAckIntervalExpiry s
  | .otherEthertypeFrame => Sys2Proof.Machine.execOtherEthertypeFrame s
  | .islandClockStallEnd => Sys2Proof.Machine.execIslandClockStallEnd s

end Sys2Proof.Machine
end

