-- ==== Sys2Proof/Machine/Policy.lean ====
section
/-! DEFINITION. Who acts when the agenda names nobody: the model's own fixed order of the steps that are due (log entry
14), and the loading of one instruction for `State.withFetchWord`. -/

namespace Sys2Proof.Machine

/-- The first access in flight that may be performed. -/
def State.dueAccess (s : State) : Option Choice :=
  ((List.range s.net.length).find? (fun i => s.mayPerform i)).map (fun i => .event .accessPerformed { i := i })

/-- The first complete result owed to a node. -/
def State.dueArrival (s : State) : Option Choice :=
  s.cells.findSome? (fun c => c.2.nodes.findSome? (fun n =>
    (n.2.owed.findIdx? (fun o => decide (o.need ≤ o.got.length))).map (fun i =>
      .event .valueArrival { pcell := c.1, slot := n.1, i := i })))

/-- The first event that may commit by fast commit and does not wait for a budget or an atomic; or whose contributions differ in twin mode. -/
def State.dueCommit (s : State) : Option Choice :=
  s.insts.findSome? (fun x => (x.2.evs.find? (fun e =>
      s.fastReady x.1 e && ((s.differing x.1 [e]).isSome || !(s.combineShut x.2 e || s.contributionWaits x.2 e)))).map (fun e =>
    .event .fastCommit { inst := x.1, ev := e }))

/-- The first packets of the two copies of a twin-mode group that meet (R360). -/
def State.dueCompare (s : State) : Option Choice :=
  s.insts.findSome? (fun x => (x.2.twinq.find? (fun t => !t.second && (x.2.packet true t.lcell).isSome &&
      ((x.2.packet false t.lcell).map (s.tidOpen x.2)).getD false)).map (fun t =>
    .event .twinHashCompare { inst := x.1, lcell := t.lcell }))

/-- The turn of a cell changes nothing: it waits for room in a full queue, or its instance has stopped at a boundary. -/
def State.stuck (s : State) (p : Nat) (c : Cell) : Bool :=
  (s.awaits p && (s.engine (siteOf p) (roleOf p)).full) ||
    (s.frozen p && ((c.running.bind c.node?).map (fun n => n.hints.start.isNone)).getD true)

/-- The cell with a running node whose cycle count is lowest. -/
def State.dueIssue (s : State) : Option Choice :=
  ((s.cells.filter (fun c => c.2.running.isSome && s.clockOn c.1 && !s.stuck c.1 c.2)).foldl (fun (b : Option (Nat × Nat)) c =>
    match b with
    | some (_, y) => if c.2.cyc < y then some (c.1, c.2.cyc) else b
    | none => some (c.1, c.2.cyc)) none).map (fun x => .issue x.1)

/-- The first cell that can select a node. -/
def State.dueSelect (s : State) : Option Choice :=
  (s.cells.find? (fun c => c.2.running.isNone && !c.2.isSealed && !s.frozen c.1 && c.2.choose.isSome)).map (fun c =>
    .event .nodeSelect { pcell := c.1 })

/-- The first resolved node that may resume. -/
def State.dueResume (s : State) : Option Choice :=
  s.cells.findSome? (fun c => (c.2.nodes.find? (fun n => s.resumeDue c.1 n.1)).map (fun n =>
    .event .nodeResume { pcell := c.1, slot := n.1 }))

/-- The first instance at quiescence that a settling round takes further: one that holds its instant waits (R231). -/
def State.dueSettle (s : State) : Option Choice :=
  (s.insts.find? (fun x => s.settleDue x.1 && decide (s.settleStep x.1 ≠ s))).map (fun x => .event .settlingRound { inst := x.1 })

/-- The step of one engine that is due: acceptance, completion, the beginning of a gang step, a chunk. -/
def State.dueEngine (s : State) (site eng : Nat) : Option Choice :=
  let e := s.engine site eng
  let w : Params := { site := site, eng := eng }
  if e.atIssue.isSome && !e.full then some (.event .commandAcceptance w)
  else if s.commandDone site eng then some (.event .commandCompletion w)
  else if decide (eng = 2) && s.gangStepDue site && s.gangBegins site then some (.event .gangStepBegin w)
  else if s.engineDue site eng && decide (s.engineStep site eng ≠ s) then some (.event .commandExecution w)
  else none
/-- The first engine with a step due. -/
def State.dueEngines (s : State) : Option Choice := s.crofts.findSome? (fun c => c.2.eng.findSome? (fun e => s.dueEngine c.1 e.1))
/-- The first gang that may start. -/
def State.dueGang (s : State) : Option Choice := (s.insts.find? (fun x => s.gangDue x.1)).map (fun x => .event .gangStart { inst := x.1 })

/-- The first die with a report to write. -/
def State.dueReport (s : State) : Option Choice :=
  (s.pkg.rings.find? (fun g =>
    (List.range 4).any (fun j => !(s.cell (firstReeve + 4 * g.1 + j)).isSealed) &&
      (if g.2.full then (dropReport g.2.pending).isSome else !g.2.pending.isEmpty))).map (fun g =>
    .event .reportWrite { die := g.1 })

/-- The channel of the next frame of a port. -/
def Port.nextChan (q : Port) : Option Nat :=
  match q.sending, q.outbox with
  | some x, _ => some x.1
  | none, m :: _ => some m.chan
  | none, [] => none

/-- A frame of a message waits, the budget is open, and the retry window has room for one of the largest. -/
def State.dueFrame (s : State) : Option Choice :=
  (s.ports.find? (fun q => q.2.up && ((q.2.nextChan).map (fun c => s.frameOpen q.1 c)).getD false &&
    decide (q.2.held + frameMax + 32 ≤ windowMax) && decide (q.2.txSeq + 1 < 2 ^ 47))).map (fun q =>
    .event .frameSend { port := q.1 })

/-- What the firmware has to do: a request of the host, the end or the save of an instance, a placement, an invalidation or a
commit to complete. -/
def State.dueFirmware (s : State) : Option Choice :=
  s.host.findSome? (fun h => match h.2.request with
      | none => none
      | some b => match field b 0 1 with
        | 1 => some (.event .hostRequestLaunch { slot := h.1 })
        | 2 => some (.event .drainRequest { slot := h.1 })
        | 3 => some (.event .hostRequestRestore { slot := h.1 })
        | 4 => some (.event .hostRequestDiscard { slot := h.1 })
        | _ => none)
    <|> s.insts.findSome? (fun x =>
      if s.endDue x.1 then some (.event .instanceEnd { inst := x.1 })
      else if s.cleanDue x.1 then some (.event .cleanSave { inst := x.1 })
      else if s.forcedDue x.1 then some (.event .forcedSave { inst := x.1 })
      else none)
    <|> (if s.drained.isSome || s.nextPlacement.isSome then some (.event .dispatch {}) else none)
    <|> (if s.pkg.xbusy.isEmpty then none else some (.event .invalidationComplete {}))
    <|> (if s.pkg.alBusy then some (.event .almanacCommitDone {}) else none)

/-- Requests, combinations or frames wait at stations for a share of the next period. -/
def State.dueBudget (s : State) : Option Choice :=
  if s.net.any (fun a => !a.admitted) || s.crofts.any (fun c => c.2.eng.any (fun e => s.engineDue c.1 e.1))
      || s.insts.any (fun x => x.2.evs.any (s.combineShut x.2) || x.2.twinq.any (fun t => !s.tidOpen x.2 t.msg))
      || s.ports.any (fun q => q.2.up && ((q.2.nextChan).map (fun c => !s.frameOpen q.1 c)).getD false) then
    some (.event .budgetPeriod {})
  else none

/-- An island whose clocks stall. -/
def State.dueClock (s : State) : Option Choice :=
  (s.pkg.islands.find? (fun i => i.2.stalled)).map (fun i => .event .islandClockStallEnd { isl := i.1 })

/-- The step that the model's own order takes. -/
def State.defaultChoice (s : State) : Option Choice :=
  s.dueAccess <|> s.dueArrival <|> s.dueCompare <|> s.dueCommit <|> s.dueEngines <|> s.dueGang <|> s.dueReport <|> s.dueFrame <|> s.dueFirmware
    <|> s.dueSelect <|> s.dueResume <|> s.dueClock <|> s.dueBudget <|> s.dueIssue <|> s.dueSettle
    <|> (if s.pkg.booted then none else some (.event .powerOn {}))

/-! ### What a step reads of the storage before its instruction (R350, log entry 84) -/

/-- The word of the running node and those of its run are read. -/
def State.readCode (s : State) : State :=
  match s.run? with
  | none => s
  | some (_, n) =>
    let c := s.cell s.cur
    if !c.inCode n.pc then s
    else s.inspect (keyLocal s.cur n.pc.toNat) (4 * ((scanRun s s.cur c n (c.codeLen / 4 + 1) n.pc).1.length + 1))

/-- The address and the doublewords of a record that an instruction reads in the step in which it issues (log entry 3). -/
def recordOf (s : State) (n : Node) : Instr → Option (Addr × Nat)
  | .offer _ a _ _ => if n.hints.offer.isSome then none else some (n.getA a, 2 + 2 * min 8 (Memory.get s.mem (keyLocal s.cur (bitsN (n.getA a).toNat 0 17))).toNat)
  | .copy a _ | .copyg a _ | .copyop a _ => some (n.getA a, 8)
  | .conv a _ | .planes a _ | .sparsify a _ | .scalec a _ => some (n.getA a, 4)
  | .tidset _ b _ _ => some (n.getA b, 4)
  | .launch _ a _ | .restart _ a _ => some (n.getA a, 16)
  | .wfill _ => some (BitVec.ofNat 64 (n.wstk.toNat + 64 * (n.spilled - 1)), 8)
  | _ => none

/-- The storage that the walks of an instruction read is met (R350): those of the translations that its effect adds to the station, and
the one that fails where it leaves the node held by it. -/
def State.meetWalks (s : State) (o : Host.Outcome State Fault Refusal) : State :=
  match s.flaws, o with
  | [], _ => s
  | _, .next t =>
    let new := (t.croft (siteOf s.cur)).tlb.filter (fun x => !(s.croft (siteOf s.cur)).tlb.contains x)
    let s := new.foldl (fun s x => s.meetWalk x.root (x.vpn * 2 ^ pageBits x.level)) s
    match s.run? with
    | none => s
    | some (i, _) => match (t.node? s.cur i).bind (·.heldFor) with
      | some h => if h.cause = .translationWalkError then s.meetWalk (s.troot s.cur) (h.taddr.toNat % 2 ^ 48) else s
      | none => s
  | _, _ => s

/-- The record of the instruction whose turn it is is read. -/
def State.readRecord (s : State) (i : Instr) : State :=
  match s.run? with
  | none => s
  | some (_, n) =>
    match recordOf s (n.landed (max (s.cell s.cur).cyc n.issueAt)) i with
    | none => s
    | some (a, cnt) => (List.range cnt).foldl (fun s j =>
        match checkAccess s s.cur (a + BitVec.ofNat 64 (8 * j)) { size := 8, rd := true } with
        | .error _ => s
        | .ok pl => s.inspect (s.keyNow pl.key pl.win) 8) s

/-! ### One instruction where the next fetch finds it -/

/-- The cell on which a major opcode and function run: the role of an engine command, a reeve cell for the DISP operations
but GROW, else a field cell. -/
def cellFor (w : Nat) : Nat :=
  let major := bitsN w 26 6
  if major = 38 then 2
  else if major = 39 then 0
  else if major = 40 then 1
  else if major = 42 ∧ bitsN w 0 7 ≠ 0 then firstReeve
  else 3

/-- The local offset at which the loader below puts code. -/
abbrev loadAt : Nat := 0x1000

/-- A domain instance of one node that is about to execute the word `w`; ADDI g1, g0, 0 stands behind it, the follower that
a hint needs. -/
def State.loadOne (s : State) (w : Nat) : State :=
  let p := cellFor w
  let k := s.nextInst
  let role := if isReeve p then 0 else roleOf p
  let node : Node := { stt := .running, vec := some {}, pc := BitVec.ofNat 32 loadAt, begun := true }
  let entry : NodeEntry :=
    { lcell := role, slot := 0, prio := 0, vec := true, notv := false, stack := 48, entry := 0, tvec := 0, wstk := 0, wlim := 0 }
  let img : Image := { codeOff := loadAt, nodes := [entry] }
  let inst : Inst := { reeve := isReeve p, image := img, sites := [0], gens := [0] }
  let cell : Cell := { inst := some k, lcell := role, codeOff := loadAt, codeLen := 8, running := some 0, nodes := [(0, node)] }
  let s := (s.setInst k inst).setCell p cell
  { s with
    mem := Memory.setNum (Memory.setNum s.mem (keyLocal p loadAt) 4 w) (keyLocal p (loadAt + 4)) 4 0x08200000,
    nextInst := k + 1, agenda := [.issue p] }

/-- The word replaces the one that a running node of cell `p` fetches next. -/
def State.placeAt (s : State) (p : Nat) (pc : Word) (w : Nat) : State :=
  { s with mem := Memory.setNum s.mem (keyLocal p pc.toNat) 4 w, poison := cleanAt s.poison (keyLocal p pc.toNat / 8 * 8) 8 }

end Sys2Proof.Machine
end

