-- ==== Sys2Proof/Machine/Step.lean ====
section
/-! DEFINITION. One step of the machine: the next choice of the agenda, or of the model's own order, is carried out. -/

namespace Sys2Proof.Machine

/-- The steps of agents other than a node: the rows of the table that carry no word of an instruction. -/
def agents : List Instr :=
  [.nodeSelect, .valueArrival, .accessPerformed, .commandAcceptance, .commandExecution, .commandCompletion,
   .gangStart, .gangStepBegin, .fastCommit, .settlingRound, .instanceEnd, .nodeResume, .instantOverrun,
   .dispatch, .hostRequestLaunch, .drainRequest, .hostRequestRestore, .hostRequestDiscard, .drainLimitExpiry,
   .forceLimitExpiry, .cleanSave, .forcedSave, .forcedSaveTimeout, .pageServiceResume, .heldResume,
   .heldRetire, .invalidationComplete, .sofferWrite, .hostMemAccess, .reportWrite, .registerParityError,
   .sealForcelimExpiry, .patrolScrub, .twinHashCompare, .twinMatchTimeout, .remoteTimeout, .hostAbort,
   .sparePromoted, .wearMonitorRead, .budgetPeriod, .thermalDerate, .thermalCapRise, .thermalShutdown,
   .almanacCommit, .almanacCommitDone, .powerOn, .powerDownRequest, .dataFrame, .ackFrame, .nakFrame,
   .allowFrame, .keyxFrame, .frameSend, .retransmitTimeout, .linkPeerLost, .spdmRequest, .snoop, .powerLoss,
   .hostLinkUp, .portRetrained, .ackIntervalExpiry, .otherEthertypeFrame, .islandClockStallEnd]

/-- The turn of the running node of the current cell: it takes a trap, or executes the instruction it fetched. -/
def runCell (s : State) : Host.Outcome State Fault Refusal :=
  match turn s with
  | .idle => .next s
  | .trap t => .next t
  | .instr i => exec i ((s.readRecord i).meetWalks (exec i (s.readRecord i)))

/-- A choice is carried out. An instruction word comes only from a cell's fetch. -/
def act (s : State) : Choice → Host.Outcome State Fault Refusal
  | .issue p => runCell (State.readCode { s with cur := p })
  | .event e par => if agents.contains e then exec e { s with par := par } else .next s

/-- One step. -/
def step (s : State) : Host.Outcome State Fault Refusal :=
  match s.agenda with
  | c :: t => act { s with agenda := t } c
  | [] =>
    match s.defaultChoice with
    | some c => act s c
    | none => .next s

/-- The state with one instruction where the next step fetches it: at the program counter of the node whose turn the
agenda names, or in a domain instance of one node made for it (log entry 66). -/
def State.withFetchWord (s : State) (nbits w : Nat) : State :=
  let w := w % 2 ^ nbits % 2 ^ 32
  match s.agenda with
  | .issue p :: _ =>
    match State.run? { s with cur := p } with
    | some (_, n) => s.placeAt p n.pc w
    | none => s.loadOne w
  | _ => s.loadOne w

end Sys2Proof.Machine
end

