-- ==== Sys2Proof/Safety.lean ====
section
/-! DEFINITION. The terms in which claims are made: the point at which a node issues and what stands in its way, what a
completed instruction leaves of the state, how a result goes on its way, what frames compare, and the invariants of a run. -/

namespace Sys2Proof.Machine

/-! ### Issue -/

/-- The point at which the running node of the current cell issues: the first cycle that R26 allows, with every write that
is due by then made (R27). -/
def State.issuePoint (s : State) : Option Issue :=
  s.run?.map fun r =>
    let c := max (s.cell s.cur).cyc r.2.issueAt
    { p := s.cur, i := r.1, c := c, n := r.2.landed c }

/-- The node issues at `u` an instruction that reads `reads` and writes `writes`, and the scoreboard lets it: none of them is
pending (R28), and under CHK none is early (R29). -/
structure Clear (s : State) (u : Issue) (reads writes : List RegName) : Prop where
  point : s.issuePoint = some u
  free : u.n.owes (u.n.locs reads ++ u.n.locs writes) = false
  inTime : u.n.early (reads ++ writes) = none

/-- No soft error meets the instruction: it is no CRIT follower, or none waits for one (R362). -/
def Steady (s : State) (u : Issue) : Prop := u.n.hints.crit = true → (s.cell u.p).soft = []

/-- The cycle of the instruction's last execution: under CRIT the third (R83). -/
def Issue.last (u : Issue) : Nat := if u.n.hints.crit then u.c + 2 else u.c

/-- The state after an instruction that issued at `u` completes with the node as `n`: stall count `st`, `extra` issue cycles,
a transfer of control or none (R26, R36, R134). -/
def State.finish (s : State) (u : Issue) (st extra : Nat) (n : Node) (xfer : Option Word := none) : State :=
  s.complete u.p u.i u.c st extra n xfer none u.n.singleStep

/-- The node after it has released the last-use registers of an instruction (R22). -/
def Node.used (n : Node) (rel : List RegName) : Node := n.releaseAll (n.locs rel)

/-- The node after the last execution of an instruction that may follow a CRIT hint, its last-use registers released (R22,
R105). -/
def Issue.used (u : Issue) (rel : List RegName) : Node := (u.n.atLast u.c).releaseAll (u.n.locs rel)

/-- A result that lands at a cycle (R27). -/
def Node.landing (n : Node) (land : Nat) (r : RegName) (v : RegVal) : Node :=
  match n.loc r with
  | none => n
  | some l => { n with fixed := insertFixed ⟨land, ⟨l, v⟩⟩ n.fixed }

/-- An interlocked result that the node is owed and that is known (R28). -/
def Node.owing (n : Node) (r : RegName) (v : RegVal) : Node :=
  match n.loc r with
  | none => n
  | some l => n.owe [l] (.value [⟨l, v⟩]) 0

/-- Instruction `i` at `u` completes: exec answers the next state in which the node stands after it as `n`, `st` stall cycles
on. Nothing else of the state has changed. -/
def Completes (i : Instr) (s : State) (u : Issue) (st : Nat) (n : Node) (xfer : Option Word := none) : Prop :=
  exec i s = .next (s.finish u st 0 n xfer)

/-- Instruction `i` at `u` traps, unperformed: no register is written but the flags `f` (R106, R50). -/
def Traps (i : Instr) (s : State) (u : Issue) (t : Trap) (f : BitVec 5 := 0) : Prop :=
  exec i s = .next (s.trapUnperformed u t f false)

/-- The trap of a set of exceptions that an operation raises, `on` those of them that are enabled: the cause is that of the
lowest enabled flag, and the detail holds the full set (R50). -/
def raisedTrap (on e : Exc) : Trap :=
  { cause := if on.getLsbD 0 then .fpInvalid else if on.getLsbD 1 then .fpDivzero else if on.getLsbD 2 then .fpOverflow
             else if on.getLsbD 3 then .fpUnderflow else .fpInexact,
    detail := e.zeroExtend 16 }

/-- An operation that raises the set `e` of exceptions with some of them enabled sets its flags and traps (R50, R106). -/
def Raises (i : Instr) (s : State) (u : Issue) (e : Exc) : Prop :=
  e &&& u.n.fpte ≠ 0 → Traps i s u (raisedTrap (e &&& u.n.fpte) e) e

/-! ### Instructions that compute one register -/

/-- The destination and the last-use sources of an instruction that computes one register from registers (R105, R153). -/
def targetOf : Sys2Proof.Instr → Option (RegName × List RegName)
  | .add d a b la lb _ | .sub d a b la lb _ | .and d a b la lb _ | .andn d a b la lb _ => some (.g d, rel2 la lb a b)
  | .or d a b la lb _ | .orn d a b la lb _ | .xor d a b la lb _ | .xnor d a b la lb _ => some (.g d, rel2 la lb a b)
  | .shl d a b la lb _ | .shr d a b la lb _ | .sha d a b la lb _ | .rotl d a b la lb _ => some (.g d, rel2 la lb a b)
  | .mins d a b la lb _ | .maxs d a b la lb _ | .minu d a b la lb _ | .maxu d a b la lb _ => some (.g d, rel2 la lb a b)
  | .adds d a b la lb _ | .subs d a b la lb _ | .bfx d a b la lb _ | .bfxs d a b la lb _ => some (.g d, rel2 la lb a b)
  | .bfi d a b la lb _ | .mul d a b la lb _ | .mulhs d a b la lb _ | .mulhu d a b la lb _ => some (.g d, rel2 la lb a b)
  | .divs d a b la lb _ | .divu d a b la lb _ | .rems d a b la lb _ | .remu d a b la lb _ => some (.g d, rel2 la lb a b)
  | .fadd d a b la lb _ | .fsub d a b la lb _ | .fmul d a b la lb _ | .ffma d a b la lb _ => some (.g d, rel2 la lb a b)
  | .fmin d a b la lb _ | .fmax d a b la lb _ => some (.g d, rel2 la lb a b)
  | .sel d _ a b la lb _ => some (.g d, rel2 la lb a b)
  | .fshl d a b la lb _ _ | .fshr d a b la lb _ _ | .lut3 d a b la lb _ => some (.g d, rel2 la lb a b)
  | .clz d a la _ | .ctz d a la _ | .popc d a la _ | .brev d a la _ => some (.g d, rel1 la a)
  | .bswap d a la _ | .fabs d a la _ | .fneg d a la _ | .fcvtif d a la _ => some (.g d, rel1 la a)
  | .fcvtfi d a la _ | .fsqrt d a la _ => some (.g d, rel1 la a)
  | .shli d a _ la _ | .shri d a _ la _ | .shai d a _ la _ | .rotli d a _ la _ => some (.g d, rel1 la a)
  | .addi d a la _ _ | .andi d a la _ _ | .ori d a la _ _ | .xori d a la _ _ => some (.g d, rel1 la a)
  | .muli d a la _ _ => some (.g d, rel1 la a)
  | .movi d _ _ | .movag d _ _ | .movagh d _ _ | .suba d _ _ _ => some (.g d, [])
  | .cmpeq p _ a b la lb _ | .cmpne p _ a b la lb _ | .cmplt p _ a b la lb _ | .cmple p _ a b la lb _ => some (.p p, rel2 la lb a b)
  | .cmpgt p _ a b la lb _ | .cmpge p _ a b la lb _ | .cmpltu p _ a b la lb _ | .cmpleu p _ a b la lb _ => some (.p p, rel2 la lb a b)
  | .cmpgtu p _ a b la lb _ | .cmpgeu p _ a b la lb _ | .cmpbitany p _ a b la lb _ | .cmpbitnone p _ a b la lb _ => some (.p p, rel2 la lb a b)
  | .cmpieq p a la _ _ | .cmpine p a la _ _ | .cmpilt p a la _ _ | .cmpiltu p a la _ _ => some (.p p, rel1 la a)
  | .fcmpeq p a b la lb _ | .fcmpne p a b la lb _ | .fcmplt p a b la lb _ | .fcmple p a b la lb _ => some (.p p, rel2 la lb a b)
  | .fcmpun p a b la lb _ => some (.p p, rel2 la lb a b)
  | .adda d _ b lb _ | .addau d _ b lb _ | .addas d _ b lb _ _ => some (.a d, rel1 lb b)
  | .movga d a b la lb _ => some (.a d, rel2 la lb a b)
  | .addai d _ _ _ => some (.a d, [])
  | .vadd _ d a b _ la lb _ | .vsub _ d a b _ la lb _ | .vmul _ d a b _ la lb _ | .vmulhs _ d a b _ la lb _ => some (.v d, relV la lb a b)
  | .vand _ d a b _ la lb _ | .vor _ d a b _ la lb _ | .vxor _ d a b _ la lb _ | .vandn _ d a b _ la lb _ => some (.v d, relV la lb a b)
  | .vshl _ d a b _ la lb _ | .vshr _ d a b _ la lb _ | .vsha _ d a b _ la lb _ | .vmins _ d a b _ la lb _ => some (.v d, relV la lb a b)
  | .vmaxs _ d a b _ la lb _ | .vminu _ d a b _ la lb _ | .vmaxu _ d a b _ la lb _ | .vadds _ d a b _ la lb _ => some (.v d, relV la lb a b)
  | .vsubs _ d a b _ la lb _ | .vfadd _ d a b _ la lb _ | .vfsub _ d a b _ la lb _ | .vfmul _ d a b _ la lb _ => some (.v d, relV la lb a b)
  | .vffma _ d a b _ la lb _ | .vffms _ d a b _ la lb _ | .vfmin _ d a b _ la lb _ | .vfmax _ d a b _ la lb _ => some (.v d, relV la lb a b)
  | .vfdiv _ d a b _ la lb _ => some (.v d, relV la lb a b)
  | .vdot4 d a b _ la lb _ | .vlut3 d a b _ la lb _ => some (.v d, relV la lb a b)
  | .vabs _ d a _ la _ | .vfabs _ d a _ la _ | .vfneg _ d a _ la _ => some (.v d, relV la false a 0)
  | .vcvtf32f16 _ d a _ la _ | .vcvtf16f32 _ d a _ la _ | .vcvtf32bf _ d a _ la _ | .vcvtbff32 _ d a _ la _ => some (.v d, relV la false a 0)
  | .vcvtf32f8a _ d a _ la _ | .vcvtf8af32 _ d a _ la _ | .vcvtf32f8b _ d a _ la _ | .vcvtf8bf32 _ d a _ la _ => some (.v d, relV la false a 0)
  | .vcvti32i16 _ d a _ la _ | .vcvti32i8 _ d a _ la _ | .vcvti8i32 _ d a _ la _ => some (.v d, relV la false a 0)
  | .vcvtf32i32 d a _ la _ | .vcvti32f32 d a _ la _ | .vfsqrt d a _ la _ => some (.v d, relV la false a 0)
  | .vcmpeq _ k a b _ la lb _ | .vcmpne _ k a b _ la lb _ | .vcmplt _ k a b _ la lb _ | .vcmple _ k a b _ la lb _ => some (.k k, relV la lb a b)
  | .vcmpgt _ k a b _ la lb _ | .vcmpge _ k a b _ la lb _ => some (.k k, relV la lb a b)
  | .vcmpun k a b _ la lb _ => some (.k k, relV la lb a b)
  | .vbcast v _ | .vins v _ _ | .vshuf v _ | .vrot v _ _ | .vscan v _ => some (.v v, [])
  | .vext g _ _ | .vredadd g _ | .vredfadd g _ | .vredmax g _ | .vredmin g _ | .vpopk g _ | .vkmov g _ => some (.g g, [])
  | .vmovk k _ => some (.k (k.truncate 3), [])
  | _ => none

/-- The instructions of FPS, whose exception sets the vote of R362 compares (R90, R120 to R124). -/
def ofFps : Sys2Proof.Instr → Bool
  | .fadd .. | .fsub .. | .fmul .. | .ffma .. | .fmin .. | .fmax .. | .fabs .. | .fneg .. | .fcvtif .. | .fcvtfi .. | .fsqrt .. => true
  | .fcmpeq .. | .fcmpne .. | .fcmplt .. | .fcmple .. | .fcmpun .. => true
  | _ => false

/-! ### What an instruction asks of the scoreboard -/

/-- The registers that an instruction reads and those that its result writes (R28, R29, R105): none for a hint, for the word that
is no instruction, and for the step of another agent. -/
def usesOf : Sys2Proof.Instr → Option (List RegName × List RegName)
  | .add d a b _ _ _ | .sub d a b _ _ _ | .and d a b _ _ _ | .andn d a b _ _ _ => some ([.g a, .g b], [.g d])
  | .or d a b _ _ _ | .orn d a b _ _ _ | .xor d a b _ _ _ | .xnor d a b _ _ _ => some ([.g a, .g b], [.g d])
  | .shl d a b _ _ _ | .shr d a b _ _ _ | .sha d a b _ _ _ | .rotl d a b _ _ _ => some ([.g a, .g b], [.g d])
  | .mins d a b _ _ _ | .maxs d a b _ _ _ | .minu d a b _ _ _ | .maxu d a b _ _ _ => some ([.g a, .g b], [.g d])
  | .adds d a b _ _ _ | .subs d a b _ _ _ | .bfx d a b _ _ _ | .bfxs d a b _ _ _ => some ([.g a, .g b], [.g d])
  | .mul d a b _ _ _ | .mulhs d a b _ _ _ | .mulhu d a b _ _ _ | .divs d a b _ _ _ => some ([.g a, .g b], [.g d])
  | .divu d a b _ _ _ | .rems d a b _ _ _ | .remu d a b _ _ _ | .fadd d a b _ _ _ => some ([.g a, .g b], [.g d])
  | .fsub d a b _ _ _ | .fmul d a b _ _ _ | .fmin d a b _ _ _ | .fmax d a b _ _ _ => some ([.g a, .g b], [.g d])
  | .bfi d a b _ _ _ | .lut3 d a b _ _ _ | .ffma d a b _ _ _ => some ([.g a, .g b, .g d], [.g d])
  | .fshl d a b _ _ _ _ | .fshr d a b _ _ _ _ => some ([.g a, .g b], [.g d])
  | .sel d p a b _ _ _ => some ([.g a, .g b, .p p], [.g d])
  | .addi d a _ _ _ | .andi d a _ _ _ | .ori d a _ _ _ | .xori d a _ _ _ | .muli d a _ _ _ => some ([.g a], [.g d])
  | .shli d a _ _ _ | .shri d a _ _ _ | .shai d a _ _ _ | .rotli d a _ _ _ => some ([.g a], [.g d])
  | .clz d a _ _ | .ctz d a _ _ | .popc d a _ _ | .brev d a _ _ | .bswap d a _ _ => some ([.g a], [.g d])
  | .fabs d a _ _ | .fneg d a _ _ | .fcvtif d a _ _ | .fcvtfi d a _ _ | .fsqrt d a _ _ => some ([.g a], [.g d])
  | .movi d _ _ => some ([], [.g d])
  | .cmpeq p c a b _ _ _ | .cmpne p c a b _ _ _ => some ([.g a, .g b] ++ (if c = 0 then [] else [.p p]), [.p p])
  | .cmplt p c a b _ _ _ | .cmple p c a b _ _ _ => some ([.g a, .g b] ++ (if c = 0 then [] else [.p p]), [.p p])
  | .cmpgt p c a b _ _ _ | .cmpge p c a b _ _ _ => some ([.g a, .g b] ++ (if c = 0 then [] else [.p p]), [.p p])
  | .cmpltu p c a b _ _ _ | .cmpleu p c a b _ _ _ => some ([.g a, .g b] ++ (if c = 0 then [] else [.p p]), [.p p])
  | .cmpgtu p c a b _ _ _ | .cmpgeu p c a b _ _ _ => some ([.g a, .g b] ++ (if c = 0 then [] else [.p p]), [.p p])
  | .cmpbitany p c a b _ _ _ | .cmpbitnone p c a b _ _ _ => some ([.g a, .g b] ++ (if c = 0 then [] else [.p p]), [.p p])
  | .cmpieq p a _ _ _ | .cmpine p a _ _ _ | .cmpilt p a _ _ _ | .cmpiltu p a _ _ _ => some ([.g a], [.p p])
  | .fcmpeq p a b _ _ _ | .fcmpne p a b _ _ _ | .fcmplt p a b _ _ _ | .fcmple p a b _ _ _ => some ([.g a, .g b], [.p p])
  | .fcmpun p a b _ _ _ => some ([.g a, .g b], [.p p])
  | .adda d a b _ _ | .addau d a b _ _ => some ([.a a, .g b], [.a d])
  | .addas d a b _ _ _ => some ([.a a, .g b], [.a d])
  | .movga d a b _ _ _ => some ([.g a, .g b], [.a d])
  | .movag d a _ | .movagh d a _ => some ([.a a], [.g d])
  | .suba d a b _ => some ([.a a, .a b], [.g d])
  | .addai d a _ _ => some ([.a a], [.a d])
  | .br p _ _ _ | .call p _ _ _ => some ([.p p], [])
  | .jmpr a _ _ | .callr a _ _ => some ([.g a], [])
  | .loop a _ _ _ => some ([.g a], [])
  | .ret _ | .rtt _ | .fence _ | .wspill _ | .wfill _ => some ([], [])
  | .retire _ => some ([], [])
  | .trap _ _ | .pause _ _ => some ([], [])
  | .ldb t x _ _ | .ldbs t x _ _ | .ldh t x _ _ | .ldhs t x _ _ | .ldw t x _ _ => some ([.a x], [.g t])
  | .ldd t x _ _ => some ([.a x], [.g t, .g (t + 1)])
  | .lda t x _ _ => some ([.a x], [.a t])
  | .stb t x _ _ _ | .sth t x _ _ _ | .stw t x _ _ _ => some ([.a x, .g t], [])
  | .std t x _ _ _ => some ([.a x, .g t, .g (t + 1)], [])
  | .sta t x _ _ => some ([.a x, .a t], [])
  | .amoadd d x b _ w | .amoand d x b _ w | .amoor d x b _ w | .amoxor d x b _ w => some (.a x :: gNames b w, gNames d w)
  | .amomins d x b _ w | .amomaxs d x b _ w | .amominu d x b _ w => some (.a x :: gNames b w, gNames d w)
  | .amomaxu d x b _ w | .amoswap d x b _ w => some (.a x :: gNames b w, gNames d w)
  | .amocas d x b _ _ w => some (.a x :: gNames b w ++ gNames d w, gNames d w)
  | .amofadd d x b _ => some ([.a x, .g b], [.g d])
  | .dcas d x b _ _ => some ([.a x, .a (x + 1), .g b, .g (b + 1), .g d, .g (d + 1)], [.g d, .g (d + 1)])
  | .amov2 d x b _ => some ([.a x, .a (x + 1), .g b], [.g d])
  | .movs d _ _ | .pairLowRead d _ _ => some ([], [.g d])
  | .nstatAccess w d _ => some (if w then [.g d] else [], if w then [] else [.g d])
  | .movsw d _ _ | .registerWrite d _ _ => some ([.g d], [])
  | .nctlWrite d _ | .wposWrite d _ | .cmapWrite d _ | .xinvhWrite d _ | .rqbaseWrite d _ => some ([.g d], [])
  | .rqtailWrite d _ | .rqovfWrite d _ | .cellstSeal d _ | .cellstUnseal d _ | .islstWrite d _ => some ([.g d], [])
  | .alcmdCommit d _ => some ([.g d], [])
  | .widx d _ _ _ => some ([], [.g d])
  | .vld v x _ _ => some ([.a x], [.v v])
  | .vldh v x _ _ => some ([.a x, .v v], [.v v])
  | .vst v x _ _ _ | .vsth v x _ _ _ => some ([.a x, .v v], [])
  | .gathw v x i k _ | .gathh v x i k _ => some ([.a x, .v i, .k k, .v v], [.v v])
  | .scatw v x i k _ | .scath v x i k _ => some ([.a x, .v i, .k k, .v v], [])
  | .vadd _ d a b k _ _ _ | .vsub _ d a b k _ _ _ | .vmul _ d a b k _ _ _ => some ([.v a, .v b, .k k], [.v d])
  | .vmulhs _ d a b k _ _ _ | .vand _ d a b k _ _ _ | .vor _ d a b k _ _ _ => some ([.v a, .v b, .k k], [.v d])
  | .vxor _ d a b k _ _ _ | .vandn _ d a b k _ _ _ | .vshl _ d a b k _ _ _ => some ([.v a, .v b, .k k], [.v d])
  | .vshr _ d a b k _ _ _ | .vsha _ d a b k _ _ _ | .vmins _ d a b k _ _ _ => some ([.v a, .v b, .k k], [.v d])
  | .vmaxs _ d a b k _ _ _ | .vminu _ d a b k _ _ _ | .vmaxu _ d a b k _ _ _ => some ([.v a, .v b, .k k], [.v d])
  | .vadds _ d a b k _ _ _ | .vsubs _ d a b k _ _ _ | .vfadd _ d a b k _ _ _ => some ([.v a, .v b, .k k], [.v d])
  | .vfsub _ d a b k _ _ _ | .vfmul _ d a b k _ _ _ | .vfmin _ d a b k _ _ _ => some ([.v a, .v b, .k k], [.v d])
  | .vfmax _ d a b k _ _ _ | .vfdiv _ d a b k _ _ _ => some ([.v a, .v b, .k k], [.v d])
  | .vffma _ d a b k _ _ _ | .vffms _ d a b k _ _ _ => some ([.v a, .v b, .k k, .v d], [.v d])
  | .vdot4 d a b k _ _ _ | .vlut3 d a b k _ _ _ => some ([.v a, .v b, .k k, .v d], [.v d])
  | .vabs _ d a k _ _ | .vfabs _ d a k _ _ | .vfneg _ d a k _ _ | .vcvtf32f16 _ d a k _ _ => some ([.v a, .k k], [.v d])
  | .vcvtf16f32 _ d a k _ _ | .vcvtf32bf _ d a k _ _ | .vcvtbff32 _ d a k _ _ => some ([.v a, .k k], [.v d])
  | .vcvtf32f8a _ d a k _ _ | .vcvtf8af32 _ d a k _ _ | .vcvtf32f8b _ d a k _ _ => some ([.v a, .k k], [.v d])
  | .vcvtf8bf32 _ d a k _ _ | .vcvti32i16 _ d a k _ _ | .vcvti32i8 _ d a k _ _ => some ([.v a, .k k], [.v d])
  | .vcvti8i32 _ d a k _ _ => some ([.v a, .k k], [.v d])
  | .vfsqrt d a k _ _ | .vcvtf32i32 d a k _ _ | .vcvti32f32 d a k _ _ => some ([.v a, .k k], [.v d])
  | .vcmpeq _ d a b k _ _ _ | .vcmpne _ d a b k _ _ _ | .vcmplt _ d a b k _ _ _ => some ([.v a, .v b, .k k], [.k d])
  | .vcmple _ d a b k _ _ _ | .vcmpgt _ d a b k _ _ _ | .vcmpge _ d a b k _ _ _ => some ([.v a, .v b, .k k], [.k d])
  | .vcmpun d a b k _ _ _ => some ([.v a, .v b, .k k], [.k d])
  | .vbcast v g => some ([.g g], [.v v])
  | .vins v g _ => some ([.g g], [.v v])
  | .vext g v _ => some ([.v v], [.g g])
  | .vshuf v b => some ([.v v, .v b], [.v v])
  | .vrot v b _ => some ([.v b], [.v v])
  | .vscan v b => some ([.v b], [.v v])
  | .vredadd g b | .vredfadd g b | .vredmax g b | .vredmin g b => some ([.v b], [.g g])
  | .vpopk g k | .vkmov g k => some ([.k (k.truncate 3)], [.g g])
  | .vmovk k g => some ([.g g], [.k (k.truncate 3)])
  | .offer d a _ _ => some ([.a a], [.g d])
  | .evtest d a _ _ | .evwait d a _ _ | .mclaim d a _ _ | .grow d a _ _ => some ([.g a], [.g d])
  | .dlr d _ _ => some ([], [.g d])
  | .dlw _ a _ _ => some ([.g a], [])
  | .mrel a _ _ | .seal a _ _ | .tidclr a _ _ => some ([.g a], [])
  | .mma d a b _ _ _ | .mdrain d a b _ _ _ => some ([.g a, .g b, .g d], [])
  | .mzero d a _ _ => some ([.g a, .g d], [])
  | .copy x _ | .copyg x _ | .copyop x _ | .conv x _ | .planes x _ => some ([.a x], [])
  | .sparsify x _ | .scalec x _ => some ([.a x], [])
  | .tidset a b _ _ | .tidget a b _ _ => some ([.g a, .a b], [])
  | .launch d x _ | .restart d x _ => some ([.a x], [.g d])
  | _ => none

/-- The checks of R67 that stand before the scoreboard pass: the vector context, the cell of an engine's role, the privilege, and
the encodings that depend on the node. -/
def passes (i : Sys2Proof.Instr) (u : Issue) : Bool :=
  match i with
  | .vld _ _ _ _ | .vldh _ _ _ _ | .vst _ _ _ _ _ | .vsth _ _ _ _ _ | .vadd _ _ _ _ _ _ _ _ => u.n.vec.isSome
  | .vsub _ _ _ _ _ _ _ _ | .vmul _ _ _ _ _ _ _ _ | .vmulhs _ _ _ _ _ _ _ _ | .vand _ _ _ _ _ _ _ _ => u.n.vec.isSome
  | .vor _ _ _ _ _ _ _ _ | .vxor _ _ _ _ _ _ _ _ | .vandn _ _ _ _ _ _ _ _ | .vshl _ _ _ _ _ _ _ _ => u.n.vec.isSome
  | .vshr _ _ _ _ _ _ _ _ | .vsha _ _ _ _ _ _ _ _ | .vmins _ _ _ _ _ _ _ _ | .vmaxs _ _ _ _ _ _ _ _ => u.n.vec.isSome
  | .vminu _ _ _ _ _ _ _ _ | .vmaxu _ _ _ _ _ _ _ _ | .vadds _ _ _ _ _ _ _ _ | .vsubs _ _ _ _ _ _ _ _ => u.n.vec.isSome
  | .vabs _ _ _ _ _ _ | .vdot4 _ _ _ _ _ _ _ | .vfadd _ _ _ _ _ _ _ _ | .vfsub _ _ _ _ _ _ _ _ => u.n.vec.isSome
  | .vfmul _ _ _ _ _ _ _ _ | .vffma _ _ _ _ _ _ _ _ | .vffms _ _ _ _ _ _ _ _ | .vfmin _ _ _ _ _ _ _ _ => u.n.vec.isSome
  | .vfmax _ _ _ _ _ _ _ _ | .vfabs _ _ _ _ _ _ | .vfneg _ _ _ _ _ _ | .vfdiv _ _ _ _ _ _ _ _ => u.n.vec.isSome
  | .vfsqrt _ _ _ _ _ | .vcvtf32f16 _ _ _ _ _ _ | .vcvtf16f32 _ _ _ _ _ _ | .vcvtf32bf _ _ _ _ _ _ => u.n.vec.isSome
  | .vcvtbff32 _ _ _ _ _ _ | .vcvtf32f8a _ _ _ _ _ _ | .vcvtf8af32 _ _ _ _ _ _ => u.n.vec.isSome
  | .vcvtf32f8b _ _ _ _ _ _ | .vcvtf8bf32 _ _ _ _ _ _ | .vcvtf32i32 _ _ _ _ _ | .vcvti32f32 _ _ _ _ _ => u.n.vec.isSome
  | .vcvti32i16 _ _ _ _ _ _ | .vcvti32i8 _ _ _ _ _ _ | .vcvti8i32 _ _ _ _ _ _ | .vbcast _ _ => u.n.vec.isSome
  | .vins _ _ _ | .vext _ _ _ | .vshuf _ _ | .vrot _ _ _ | .vredadd _ _ | .vredfadd _ _ => u.n.vec.isSome
  | .vredmax _ _ | .vredmin _ _ | .vscan _ _ | .vpopk _ _ | .vmovk _ _ | .vkmov _ _ => u.n.vec.isSome
  | .vcmpeq _ _ _ _ _ _ _ _ | .vcmpne _ _ _ _ _ _ _ _ | .vcmplt _ _ _ _ _ _ _ _ => u.n.vec.isSome
  | .vcmple _ _ _ _ _ _ _ _ | .vcmpgt _ _ _ _ _ _ _ _ | .vcmpge _ _ _ _ _ _ _ _ => u.n.vec.isSome
  | .vcmpun _ _ _ _ _ _ _ | .vlut3 _ _ _ _ _ _ _ | .gathw _ _ _ _ _ | .gathh _ _ _ _ _ => u.n.vec.isSome
  | .scatw _ _ _ _ _ | .scath _ _ _ _ _ => u.n.vec.isSome
  | .mclaim _ _ _ _ | .mrel _ _ _ | .mma _ _ _ _ _ _ | .mzero _ _ _ _ => decide (u.p < 416 ∧ u.p % 4 = 2)
  | .mdrain _ _ _ _ _ _ => decide (u.p < 416 ∧ u.p % 4 = 2)
  | .copy _ _ | .copyg _ _ | .copyop _ _ => decide (u.p < 416 ∧ u.p % 4 = 0)
  | .conv _ _ | .planes _ _ | .sparsify _ _ | .scalec _ _ => decide (u.p < 416 ∧ u.p % 4 = 1)
  | .launch _ _ _ | .restart _ _ _ | .seal _ _ _ | .cmapWrite _ _ | .xinvhWrite _ _ => decide (416 ≤ u.p)
  | .rqbaseWrite _ _ | .rqtailWrite _ _ | .rqovfWrite _ _ | .cellstSeal _ _ | .cellstUnseal _ _ => decide (416 ≤ u.p)
  | .islstWrite _ _ | .alcmdCommit _ _ => decide (416 ≤ u.p)
  | .movs _ x _ | .movsw _ x _ | .registerWrite _ x _ | .pairLowRead _ x _ =>
    decide (x.toNat ≤ 0x1E ∨ 416 ≤ u.p ∧ (0x200 ≤ x.toNat ∧ x.toNat ≤ 0x20B ∨ 0x210 ≤ x.toNat ∧ x.toNat ≤ 0x21A))
  | .rtt _ => u.n.inTrap
  | .wspill _ => decide (u.n.res ≠ 1)
  | .wfill _ => decide (u.n.res ≠ u.n.frames)
  | _ => true

/-- The number of a register in the detail of STALL_UNDERSIZED: g, v, a, and p and k (R29). -/
def regNumber : RegName → BitVec 16
  | .g r => r.zeroExtend 16
  | .v r => r.zeroExtend 16 + 32
  | .a r => r.zeroExtend 16 + 64
  | .p r | .k r => r.zeroExtend 16 + 96

/-! ### Holds and accesses -/

/-- What one node's own instruction leaves alone: everything but the node, its cell's cycle count and its cell's choice of
a running node. -/
structure Elsewhere (s t : State) (p i : Nat) : Prop where
  mem : t.mem = s.mem
  poison : t.poison = s.poison
  crofts : t.crofts = s.crofts
  insts : t.insts = s.insts
  net : t.net = s.net
  host : t.host = s.host
  ports : t.ports = s.ports
  launches : t.launches = s.launches
  pkg : t.pkg = s.pkg
  cells : ∀ q, q ≠ p → t.cell q = s.cell q
  nodes : ∀ j, j ≠ i → t.node? p j = s.node? p j
  cell : { t.cell p with cyc := 0, nodes := [], running := none } = { s.cell p with cyc := 0, nodes := [], running := none }

/-- Instruction `i` at `u` does not issue: the cell holds for a cycle and nothing else changes (R28). -/
def Holds (i : Sys2Proof.Instr) (s : State) (u : Issue) : Prop :=
  ∃ t, exec i s = .next t ∧ t.node? u.p u.i = some u.n ∧ (t.cell u.p).cyc = u.c + 1 ∧ Elsewhere s t u.p u.i

/-- Instruction `i` at `u` makes one access of the kind `k` to the address `a`: the first check that fails traps; one that stays in the
cell holds while the station holds an AMO2 of the node with a word there; else the access goes on its way to its home and the instruction
completes, a watchpoint's trap following. -/
def Accesses (i : Sys2Proof.Instr) (s : State) (u : Issue) (st : Nat) (a : Addr) (k : Acc) (op : AccOp) (rets : List Ret) (n : Node) :
    Prop :=
  (∀ t, checkAccess s u.p a k = .error t → Traps i s u t) ∧
  (∀ pl, checkAccess s u.p a k = .ok pl → s.ownWaits u pl.away = true → Holds i s u) ∧
  (∀ pl, checkAccess s u.p a k = .ok pl → s.ownWaits u pl.away = false →
    exec i s = .next ((sendOne s u pl op k a rets).complete u.p u.i u.c st 0 n none (u.n.watch a k) u.n.singleStep))

/-- No storage error stands in a doubleword that these bytes touch (R350). -/
def State.Sound (s : State) (key n : Nat) : Prop := ∀ d, 8 * d < key + n → key < 8 * d + 8 → Store.get 0 s.flaws d = 0

/-! ### Seals -/

/-- What a seal leaves of a compute cell (R349, R354, R373): the cell is sealed and counts the seal, none of its nodes runs, each
occupied slot is SEALED, or IDLE where the instance was killed, its engine is dead, and CELL_SEALED waits to be reported. -/
structure SealedAs (s t : State) (c : Nat) (parity : Bool) : Prop where
  cell : ((t.cell c).isSealed, (t.cell c).regErr, (t.cell c).running, (t.cell c).sealsOn) = (true, parity, none, (s.cell c).sealsOn + 1)
  wear : (t.cell c).wear.seals = min 255 ((s.cell c).wear.seals + 1)
  nodes : ∀ j n, t.node? c j = some n → n.stt = .idle ∨ n.stt = .sealed
  engine : c % 4 < 3 → (t.cell c).inst = (s.cell c).inst → (t.engine (c / 4) (c % 4)).dead = true ∧ (t.engine (c / 4) (c % 4)).atIssue = none
  report : ∃ r ∈ (t.ring (dieOf c)).pending, r.cause = .cellSealed ∧ r.pcell = c ∧ r.held = false

/-! ### Vector results -/

/-- The contents that a vector result leaves in the lanes it does not select: what the destination holds when the result lands,
or, where the instruction itself releases the destination, what it read there (R22, R153). -/
def Node.rest (n : Node) (d : VReg) (rel : List RegName) (old : Vec) : Vec := if .v d ∈ rel then n.getV d else old

/-- Written to a register that holds `old`, `v` gives element `j` of the `n` elements of `w` bits at the places `pos` the value
`f j` where it is selected; every other bit of the register is that of `keep old`. -/
def Elements (pos : Nat → Nat) (w n : Nat) (sel : Nat → Bool) (keep : Vec → Vec) (v : RegVal) (f : Nat → Nat) : Prop :=
  ∀ old : Vec,
    (∀ j, j < n → sel j = true → bitsN (v.onVec old).toNat (pos j) w = f j % 2 ^ w) ∧
    (∀ b, b < 512 → (∀ j, j < n → sel j = true → ¬ (pos j ≤ b ∧ b < pos j + w)) →
      (v.onVec old).getLsbD b = (keep old).getLsbD b)

/-- The lanes of `w` bits that a mask selects take `f` (R45). -/
def Lanes (w : Nat) (k : BitVec 16) (keep : Vec → Vec) (v : RegVal) (f : Nat → Nat) : Prop :=
  Elements (fun j => w * j) w (512 / w) (fun j => k.getLsbD (j * w / 32)) keep v f

/-! ### Numbers -/

/-- The magnitude of a bit pattern, its sign bit apart, and its sign (R41, R42). -/
def Fmt.mag (k : Fmt) (x : Nat) : Nat := x % 2 ^ (k.e + k.f)
def Fmt.neg (k : Fmt) (x : Nat) : Bool := decide (x / 2 ^ (k.e + k.f) % 2 = 1)
/-- The value of a magnitude as a multiple of the smallest subnormal (R41). Magnitudes past the largest finite one go on as if the
exponents had no end (R46). -/
def Fmt.units (k : Fmt) (m : Nat) : Nat := if m / 2 ^ k.f = 0 then m else (2 ^ k.f + m % 2 ^ k.f) * 2 ^ (m / 2 ^ k.f - 1)
/-- The multiple of the smallest subnormal that 1 is. -/
def Fmt.one (k : Fmt) : Nat := 2 ^ (k.bias + k.f - 1)
/-- The signed value of a pattern as a multiple of the smallest subnormal. -/
def Fmt.val (k : Fmt) (x : Nat) : Int := if k.neg x then -(k.units (k.mag x) : Int) else k.units (k.mag x)
/-- What a pattern stands for: a finite value, an infinity, or no number (R42, R43). -/
def Fmt.isFin (k : Fmt) (x : Nat) : Prop := k.mag x ≤ k.maxFin
def Fmt.isInf (k : Fmt) (x : Nat) : Prop := k.inf = true ∧ k.mag x = k.maxFin + 1
def Fmt.isNaN (k : Fmt) (x : Nat) : Prop := ¬ k.isFin x ∧ ¬ k.isInf x
/-- The zero of a sign. -/
def Fmt.zero (k : Fmt) (s : Bool) : Nat := k.sign s

/-- `r` is the value of sign `s` rounded once to the format `k`, with its exceptions (R46, R47, R49, log entry 68). The exact magnitude
is known by `cmp`, which compares each quarter of the smallest subnormal with it. It is rounded to one of the two magnitudes of the
format beside it as if the exponents had no end: to the nearer one, and on a tie to the even one, or in the direction of the mode.
Past the largest finite magnitude it overflows. It is tiny where its rounding to as many bits with an unbounded exponent stays below
the smallest normal magnitude. -/
def Rounds (k : Fmt) (mode : Nat) (sat s : Bool) (cmp : Nat → Ordering) (r : Nat × Exc) : Prop :=
  ∃ lo : Nat, cmp (4 * k.units lo) ≠ .gt ∧ cmp (4 * k.units (lo + 1)) = .gt ∧
    let exact : Bool := decide (cmp (4 * k.units lo) = .eq)
    let middle := cmp (2 * (k.units lo + k.units (lo + 1)))
    let outward : Bool := (decide (mode = 2) && s) || (decide (mode = 3) && !s)
    let nearer : Bool := decide (mode = 0) && (decide (middle = .lt) || (decide (middle = .eq) && decide (lo % 2 = 1)))
    let m := if !exact && (nearer || outward) then lo + 1 else lo
    let tiny : Bool := if mode = 0 then decide (cmp (4 * 2 ^ k.f - 1) = .gt)
      else if outward then decide (cmp (4 * 2 ^ k.f - 2) ≠ .lt) else decide (cmp (4 * 2 ^ k.f) = .gt)
    r = if k.maxFin < m then
          (if sat || !(decide (mode = 0) || outward) then k.sign s + k.maxFin else if k.inf then k.sign s + (k.maxFin + 1) else k.nan,
           excOverflow ||| excInexact)
        else (k.sign s + m, if exact then 0 else if tiny then excUnderflow ||| excInexact else excInexact)

/-- An exact value: finite, of sign `s` and magnitude `n` / `d`. -/
def Num.Mag (v : Num) (s : Bool) (n d : Nat) : Prop :=
  ∃ (m : Nat) (e : Int), v = .fin s m e false ∧ m * 2 ^ e.toNat * d = n * 2 ^ (-e).toNat

/-- `n` / `d` rounded to an integer in a mode, and whether that lost anything; `s` is the sign of the value (R46). -/
def nearInt (mode : Nat) (s : Bool) (n d : Nat) : Nat × Bool :=
  let up : Bool := match mode with
    | 0 => decide (d < 2 * (n % d)) || (decide (2 * (n % d) = d) && decide (n / d % 2 = 1))
    | 1 => false
    | 2 => s && decide (n % d ≠ 0)
    | _ => !s && decide (n % d ≠ 0)
  (if up then n / d + 1 else n / d, decide (n % d ≠ 0))

/-- A value of sign `s` and magnitude `n` / `d` converted to an integer from `lo` to `hi` (R49, R52). -/
def ToInt (mode : Nat) (lo hi : Int) (s : Bool) (n d : Nat) (r : Int × Exc) : Prop :=
  let q := nearInt mode s n d
  let v : Int := if s then -(q.1 : Int) else q.1
  r = if v < lo then (lo, excInvalid) else if hi < v then (hi, excInvalid) else (v, if q.2 then excInexact else 0)

/-! ### Translation -/

/-- The fields of a table entry: present, leaf, write, tier, host atomics serialised, and the address of the table or the frame
(R312). -/
structure Pte where
  p : Bool
  l : Bool
  w : Bool
  tier : Nat
  sysatom : Bool
  addr : Nat

/-- The entry that an 8-byte word holds. -/
def Pte.of (e : Nat) : Pte :=
  { p := e.testBit 0, l := e.testBit 1, w := e.testBit 2, tier := e / 2 ^ 3 % 4, sysatom := e.testBit 5,
    addr := e / 2 ^ 8 % 2 ^ 48 * 2 ^ 8 }

/-- The word of tier-1 memory at `w`: none where it lies outside that memory, is poisoned, or lies in a block with an error that
its code only detects (R313, R350). -/
def State.tableAt (s : State) (w : Nat) : Option Nat :=
  if 96 * 2 ^ 30 < w + 8 ∨ poisonedAt s.poison (keyTier1 w) 8 = true ∨
      (∃ f ∈ s.flaws, 8 * f.1 / 64 = keyTier1 w / 64 ∧ 2 ≤ f.2) then none
  else some (Memory.num s.mem (keyTier1 w) 8)

/-- log2 of the page size of a leaf of a level, and the index of a virtual address in a table of a level (R313). -/
def levelBits (l : Nat) : Nat := if l = 2 then 30 else if l = 3 then 21 else 16
def levelIndex (va l : Nat) : Nat := va / 2 ^ (if l = 1 then 39 else levelBits l) % (if l = 4 then 32 else 512)

/-- An entry of level `l` is a leaf where the walk reaches it (R312). -/
def leafAt (l e : Nat) : Prop := l = 4 ∨ (2 ≤ l ∧ (Pte.of e).l = true)

/-- A present entry that is well formed: a table entry, and a leaf (R312, R313; the extent of a frame is log entry 9). -/
def TableEntryOk (l e : Nat) : Prop :=
  e / 2 % 2 ^ 7 = 0 ∧ e / 2 ^ 56 % 2 ^ 8 = 0 ∧ (Pte.of e).addr % (if l = 3 then 256 else 4096) = 0
def LeafOk (l e : Nat) : Prop :=
  e / 2 ^ 7 % 2 = 0 ∧ e / 2 ^ 56 % 2 ^ 8 = 0 ∧ (l = 4 → (Pte.of e).l = false) ∧ (Pte.of e).tier ≠ 3 ∧
  ((Pte.of e).sysatom = true → (Pte.of e).tier = 2) ∧ (Pte.of e).addr % 2 ^ levelBits l = 0 ∧
  (Pte.of e).addr + 2 ^ levelBits l ≤ (if (Pte.of e).tier = 0 then 96 * 2 ^ 30 else if (Pte.of e).tier = 1 then 2 ^ 41 else 2 ^ 56)

/-- The walk for a virtual address, from the entry of level `l` at the tier-1 address `w`: a leaf with its level, or the cause of
the fault (R313). -/
inductive Walks (s : State) (va : Nat) : Nat → Nat → Except Cause (Nat × Nat) → Prop
  | unreadable {l w} : s.tableAt w = none → Walks s va l w (.error .translationWalkError)
  | absent {l w e} : s.tableAt w = some e → (Pte.of e).p = false → Walks s va l w (.error .pageNotPresent)
  | malformed {l w e} : s.tableAt w = some e → (Pte.of e).p = true → (leafAt l e → ¬ LeafOk l e) → (¬ leafAt l e → ¬ TableEntryOk l e) →
      Walks s va l w (.error .translationWalkError)
  | leaf {l w e} : s.tableAt w = some e → (Pte.of e).p = true → leafAt l e → LeafOk l e → Walks s va l w (.ok (l, e))
  | table {l w e r} : s.tableAt w = some e → (Pte.of e).p = true → ¬ leafAt l e → TableEntryOk l e →
      Walks s va (l + 1) ((Pte.of e).addr + 8 * levelIndex va (l + 1)) r → Walks s va l w r

/-! ### Checks in their order -/

/-- The first of the checks that fails gives the trap, and with none failing the result is as `ok` says. -/
def Checks {α : Type} (l : List (Bool × Trap)) (r : Except Trap α) (ok : α → Prop) : Prop :=
  match l.find? (fun c => !c.1) with
  | some c => r = .error c.2
  | none => ∃ x, r = .ok x ∧ ok x

/-! ### Frames -/

/-- Every register of the node but those named reads as before. -/
structure SameRegs (n m : Node) (but : List RegName) : Prop where
  g : ∀ r, .g r ∉ but → m.getG r = n.getG r
  a : ∀ r, .a r ∉ but → m.getA r = n.getA r
  p : ∀ r, .p r ∉ but → m.getP r = n.getP r
  v : ∀ r, .v r ∉ but → m.getV r = n.getV r
  k : ∀ r, .k r ∉ but → m.getK r = n.getK r

/-- What every register write leaves alone in the node: its identity, system registers, delay registers, trap state, loop
state, window position and offers. -/
structure SameSystem (n m : Node) : Prop where
  id : (m.stt, m.gen, m.ordinal, m.prio, m.notv, m.base, m.size) = (n.stt, n.gen, n.ordinal, n.prio, n.notv, n.base, n.size)
  delay : (m.dPend, m.dComm, m.dWritten) = (n.dPend, n.dComm, n.dWritten)
  control : (m.nctl, m.flags, m.param, m.dbgc, m.bka, m.wpa, m.high) = (n.nctl, n.flags, n.param, n.dbgc, n.bka, n.wpa, n.high)
  trap : (m.inTrap, m.tcause, m.tip, m.taddr, m.tvec) = (n.inTrap, n.tcause, n.tip, n.taddr, n.tvec)
  window : (m.cur, m.res, m.spilled, m.wstk, m.wlim) = (n.cur, n.res, n.spilled, n.wstk, n.wlim)
  loop : (m.loopc, m.loops, m.loope, m.tloopc, m.tloops, m.tloope) = (n.loopc, n.loops, n.loope, n.tloopc, n.tloops, n.tloope)
  offer : (m.made, m.settled, m.offer, m.wait, m.resolved, m.pauseN, m.sleep) =
    (n.made, n.settled, n.offer, n.wait, n.resolved, n.pauseN, n.sleep)

/-! ### Invariants -/

/-- The one memory of the state is in canonical form. -/
def State.MemOk (s : State) : Prop := Memory.wf s.mem = true

end Sys2Proof.Machine
end

