-- ==== Sys2Proof/Certificates/Slice0/Obligations.lean ====
section
/-! DEFINITION. The statements for the provers, in the terms of Sys2Proof.Safety: what each instruction and each agent's step does,
its frame, where it traps, and the invariants of every step. A register, a node or a memory that a statement does not name
stands as before through the state that the statement gives whole (`Completes`, `State.finish`). -/

open Sys2Proof Sys2Proof.Machine

/-- R108, R109: the two-register integer operations write g[d] with the value the table gives for x = g[a] and y = g[b]; last-
use sources read zero after, and the latency is 1. R110: SEL writes g[a] where the predicate is 1 and g[b] otherwise; both
sources are read and released whichever is taken, and p0 always gives g[a]. -/
def Obligations.IntegerResults : Prop :=
  (∀ (s : State) (u : Issue) (d a b : GReg) (la lb : Bool) (st : BitVec 2),
     Clear s u [.g a, .g b] [.g d] → Steady s u →
     let x := u.n.getG a
     let y := u.n.getG b
     let c := (y.extractLsb' 0 6).toNat
     let clamp : Int → Word := fun v => if v < -2 ^ 31 then 0x80000000 else if 2 ^ 31 ≤ v then 0x7FFFFFFF else BitVec.ofInt 32 v
     let gives : Instr → Word → Prop := fun i v =>
       Completes i s u st.toNat ((u.used (rel2 la lb a b)).writeReg (.g d) (.word v))
     gives (.add d a b la lb st) (x + y) ∧ gives (.sub d a b la lb st) (x - y) ∧
     gives (.and d a b la lb st) (x &&& y) ∧ gives (.andn d a b la lb st) (x &&& ~~~y) ∧
     gives (.or d a b la lb st) (x ||| y) ∧ gives (.orn d a b la lb st) (x ||| ~~~y) ∧
     gives (.xor d a b la lb st) (x ^^^ y) ∧ gives (.xnor d a b la lb st) (~~~(x ^^^ y)) ∧
     gives (.shl d a b la lb st) (if c < 32 then x <<< c else 0) ∧
     gives (.shr d a b la lb st) (if c < 32 then x >>> c else 0) ∧
     gives (.sha d a b la lb st) (if c < 32 then x.sshiftRight c else if x.msb then 0xFFFFFFFF else 0) ∧
     gives (.rotl d a b la lb st) (x.rotateLeft (c % 32)) ∧
     gives (.mins d a b la lb st) (if x.toInt ≤ y.toInt then x else y) ∧
     gives (.maxs d a b la lb st) (if x.toInt ≤ y.toInt then y else x) ∧
     gives (.minu d a b la lb st) (if x.toNat ≤ y.toNat then x else y) ∧
     gives (.maxu d a b la lb st) (if x.toNat ≤ y.toNat then y else x) ∧
     gives (.adds d a b la lb st) (clamp (x.toInt + y.toInt)) ∧
     gives (.subs d a b la lb st) (clamp (x.toInt - y.toInt))) ∧
  (∀ (s : State) (u : Issue) (d a b : GReg) (p : PReg) (la lb : Bool) (st : BitVec 2),
     Clear s u [.g a, .g b, .p p] [.g d] → Steady s u →
     Completes (.sel d p a b la lb st) s u st.toNat
       ((u.used (rel2 la lb a b)).writeReg (.g d) (.word (if u.n.getP p then u.n.getG a else u.n.getG b))) ∧
     u.n.getP 0 = true)

/-- R111: the immediate forms, with the sign-extended 13-bit immediate, or behind a WIDE hint the 32-bit value whose low 13 bits
stand in the word; MULI lands after three cycles. -/
def Obligations.ImmediateResults : Prop :=
  ∀ (s : State) (u : Issue) (d a : GReg) (la : Bool) (st : BitVec 2) (imm : BitVec 13), Steady s u →
    let x := u.n.getG a
    let i : Word := match u.n.hints.wide with
      | some hi => hi ++ imm
      | none => imm.signExtend 32
    let gives : Instr → Word → Prop := fun j v =>
      Completes j s u st.toNat ((u.used (rel1 la a)).writeReg (.g d) (.word v))
    (Clear s u [.g a] [.g d] →
      gives (.addi d a la st imm) (x + i) ∧ gives (.andi d a la st imm) (x &&& i) ∧
      gives (.ori d a la st imm) (x ||| i) ∧ gives (.xori d a la st imm) (x ^^^ i) ∧
      Completes (.muli d a la st imm) s u st.toNat ((u.used (rel1 la a)).landing (u.last + 3) (.g d) (.word (x * i)))) ∧
    (Clear s u [] [.g d] →
      Completes (.movi d st imm) s u st.toNat ((u.used []).writeReg (.g d) (.word i)))

/-- R112: CMP sets the predicate to the condition, or combines it by AND or OR with the value the predicate held. R113: CMPI
sets the predicate to a condition on g[a] and the immediate of R111; LTU takes the extended immediate as an unsigned value. -/
def Obligations.CompareResults : Prop :=
  (∀ (s : State) (u : Issue) (p : PReg) (comb : BitVec 2) (a b : GReg) (la lb : Bool) (st : BitVec 2),
     comb ≠ 3#2 → Clear s u ([.g a, .g b] ++ if comb = 0#2 then [] else [.p p]) [.p p] → Steady s u →
     let x := u.n.getG a
     let y := u.n.getG b
     let old := u.n.getP p
     let gives : Instr → Bool → Prop := fun i t =>
       Completes i s u st.toNat ((u.used (rel2 la lb a b)).writeReg (.p p)
         (.bit (if comb = 0#2 then t else if comb = 1#2 then old && t else old || t)))
     gives (.cmpeq p comb a b la lb st) (decide (x = y)) ∧ gives (.cmpne p comb a b la lb st) (decide (x ≠ y)) ∧
     gives (.cmplt p comb a b la lb st) (decide (x.toInt < y.toInt)) ∧
     gives (.cmple p comb a b la lb st) (decide (x.toInt ≤ y.toInt)) ∧
     gives (.cmpgt p comb a b la lb st) (decide (y.toInt < x.toInt)) ∧
     gives (.cmpge p comb a b la lb st) (decide (y.toInt ≤ x.toInt)) ∧
     gives (.cmpltu p comb a b la lb st) (decide (x.toNat < y.toNat)) ∧
     gives (.cmpleu p comb a b la lb st) (decide (x.toNat ≤ y.toNat)) ∧
     gives (.cmpgtu p comb a b la lb st) (decide (y.toNat < x.toNat)) ∧
     gives (.cmpgeu p comb a b la lb st) (decide (y.toNat ≤ x.toNat)) ∧
     gives (.cmpbitany p comb a b la lb st) (decide (x &&& y ≠ 0)) ∧
     gives (.cmpbitnone p comb a b la lb st) (decide (x &&& y = 0))) ∧
  (∀ (s : State) (u : Issue) (p : PReg) (a : GReg) (la : Bool) (st : BitVec 2) (imm : BitVec 13),
     Clear s u [.g a] [.p p] → Steady s u →
     let x := u.n.getG a
     let i : Word := match u.n.hints.wide with
       | some hi => hi ++ imm
       | none => imm.signExtend 32
     let gives : Instr → Bool → Prop := fun j t =>
       Completes j s u st.toNat ((u.used (rel1 la a)).writeReg (.p p) (.bit t))
     gives (.cmpieq p a la st imm) (decide (x = i)) ∧ gives (.cmpine p a la st imm) (decide (x ≠ i)) ∧
     gives (.cmpilt p a la st imm) (decide (x.toInt < i.toInt)) ∧
     gives (.cmpiltu p a la st imm) (decide (x.toNat < i.toNat)))

/-- R114: the one-register bit operations: shifts and a rotation by a count in the word, counts of leading, trailing and one
bits, and the reversals of bits and bytes. R115: a field of position pos and length len: BFX reads it with zeros above, BFXS
with copies of its top bit (a field past bit 31 is read with copies of bit 31), BFI writes it into g[d]. R116, R117: the funnel shifts
by a count in the word, and three-input logic by a truth table with g[d] as its first input. R118: the low and the high halves of the
exact 64-bit product, three cycles on. -/
def Obligations.BitFieldMultiplyResults : Prop :=
  (∀ (s : State) (u : Issue) (d a : GReg) (n : BitVec 5) (la : Bool) (st : BitVec 2),
     Clear s u [.g a] [.g d] → Steady s u →
     let x := u.n.getG a
     let gives : Instr → Word → Prop := fun i v =>
       Completes i s u st.toNat ((u.used (rel1 la a)).writeReg (.g d) (.word v))
     gives (.shli d a n la st) (x <<< n.toNat) ∧ gives (.shri d a n la st) (x >>> n.toNat) ∧
     gives (.shai d a n la st) (x.sshiftRight n.toNat) ∧ gives (.rotli d a n la st) (x.rotateLeft n.toNat) ∧
     (∃ v : Word, gives (.clz d a la st) v ∧ v.toNat ≤ 32 ∧ (∀ j, j < v.toNat → x.getLsbD (31 - j) = false) ∧
       (v.toNat < 32 → x.getLsbD (31 - v.toNat) = true)) ∧
     (∃ v : Word, gives (.ctz d a la st) v ∧ v.toNat ≤ 32 ∧ (∀ j, j < v.toNat → x.getLsbD j = false) ∧
       (v.toNat < 32 → x.getLsbD v.toNat = true)) ∧
     gives (.popc d a la st) (BitVec.ofNat 32 ((List.range 32).countP (fun j => x.getLsbD j))) ∧
     (∃ v : Word, gives (.brev d a la st) v ∧ ∀ j, j < 32 → v.getLsbD j = x.getLsbD (31 - j)) ∧
     (∃ v : Word, gives (.bswap d a la st) v ∧ ∀ j, j < 4 → v.extractLsb' (8 * j) 8 = x.extractLsb' (8 * (3 - j)) 8)) ∧
  (∀ (s : State) (u : Issue) (d a b : GReg) (la lb : Bool) (st : BitVec 2), Steady s u →
     let x := u.n.getG a
     let y := u.n.getG b
     let pos := (y.extractLsb' 0 5).toNat
     let len := (y.extractLsb' 8 5).toNat + 1
     let gives : Instr → Word → Prop := fun i v =>
       Completes i s u st.toNat ((u.used (rel2 la lb a b)).writeReg (.g d) (.word v))
     (Clear s u [.g a, .g b] [.g d] →
       (∃ v : Word, gives (.bfx d a b la lb st) v ∧ ∀ j, j < 32 → v.getLsbD j = (decide (j < len) && x.getLsbD (pos + j))) ∧
       (∃ v : Word, gives (.bfxs d a b la lb st) v ∧ ∀ j, j < 32 → v.getLsbD j = x.getLsbD (min 31 (pos + min j (len - 1))))) ∧
     (Clear s u [.g a, .g b, .g d] [.g d] →
       ∃ v : Word, gives (.bfi d a b la lb st) v ∧ ∀ j, j < 32 →
         v.getLsbD j = if pos ≤ j ∧ j < pos + len then x.getLsbD (j - pos) else (u.n.getG d).getLsbD j)) ∧
  (∀ (s : State) (u : Issue) (d a b : GReg) (la lb : Bool) (st : BitVec 2) (c : BitVec 5) (tbl : BitVec 8), Steady s u →
     let x := u.n.getG a
     let y := u.n.getG b
     let gives : Instr → Nat → Word → Prop := fun i k v =>
       Completes i s u k ((u.used (rel2 la lb a b)).writeReg (.g d) (.word v))
     (Clear s u [.g a, .g b] [.g d] →
       gives (.fshl d a b la lb st c) st.toNat (if c = 0#5 then x else (x <<< c.toNat) ||| (y >>> (32 - c.toNat))) ∧
       gives (.fshr d a b la lb st c) st.toNat (if c = 0#5 then y else (y >>> c.toNat) ||| (x <<< (32 - c.toNat)))) ∧
     (Clear s u [.g a, .g b, .g d] [.g d] →
       ∃ v : Word, gives (.lut3 d a b la lb tbl) 0 v ∧ ∀ j, j < 32 →
         v.getLsbD j = tbl.getLsbD (4 * ((u.n.getG d).getLsbD j).toNat + 2 * (x.getLsbD j).toNat + (y.getLsbD j).toNat))) ∧
  (∀ (s : State) (u : Issue) (d a b : GReg) (la lb : Bool) (st : BitVec 2),
     Clear s u [.g a, .g b] [.g d] → Steady s u →
     let x := u.n.getG a
     let y := u.n.getG b
     let gives : Instr → Word → Prop := fun i v =>
       Completes i s u st.toNat ((u.used (rel2 la lb a b)).landing (u.last + 3) (.g d) (.word v))
     gives (.mul d a b la lb st) (BitVec.ofNat 32 (x.toNat * y.toNat)) ∧
     gives (.mulhs d a b la lb st) (BitVec.ofInt 32 (x.toInt * y.toInt / 2 ^ 32)) ∧
     gives (.mulhu d a b la lb st) (BitVec.ofNat 32 (x.toNat * y.toNat / 2 ^ 32)))

/-- R119: the divisions are owed to the node with the quotient truncated toward zero or its remainder; a zero divisor gives all
ones or the dividend, unless NCTL.DZT makes it take DIV_ZERO. -/
def Obligations.DivideResults : Prop :=
  ∀ (s : State) (u : Issue) (d a b : GReg) (la lb : Bool) (st : BitVec 2),
    Clear s u [.g a, .g b] [.g d] → Steady s u →
    let x := u.n.getG a
    let y := u.n.getG b
    let gives : Instr → Word → Prop := fun i v =>
      Completes i s u st.toNat ((u.used (rel2 la lb a b)).owing (.g d) (.word v))
    (y ≠ 0 →
      gives (.divs d a b la lb st)
        (if x = 0x80000000 ∧ y = 0xFFFFFFFF then 0x80000000 else BitVec.ofInt 32 (x.toInt.tdiv y.toInt)) ∧
      gives (.divu d a b la lb st) (BitVec.ofNat 32 (x.toNat / y.toNat)) ∧
      gives (.rems d a b la lb st)
        (if x = 0x80000000 ∧ y = 0xFFFFFFFF then 0 else BitVec.ofInt 32 (x.toInt - x.toInt.tdiv y.toInt * y.toInt)) ∧
      gives (.remu d a b la lb st) (BitVec.ofNat 32 (x.toNat % y.toNat))) ∧
    (y = 0 → u.n.nctl.getLsbD 4 = false →
      gives (.divs d a b la lb st) 0xFFFFFFFF ∧ gives (.divu d a b la lb st) 0xFFFFFFFF ∧
      gives (.rems d a b la lb st) x ∧ gives (.remu d a b la lb st) x) ∧
    (y = 0 → u.n.nctl.getLsbD 4 = true →
      ∀ i ∈ [Instr.divs d a b la lb st, .divu d a b la lb st, .rems d a b la lb st, .remu d a b la lb st],
        Traps i s u { cause := .divZero, detail := 0, taddr := 0 })

/-- R125, R126: 64-bit address arithmetic and moves between g and a registers; nothing checks the address. -/
def Obligations.AddressResults : Prop :=
  ∀ (s : State) (u : Issue) (d a a2 : AReg) (g g2 : GReg) (la lb : Bool) (st : BitVec 2) (t : BitVec 3) (imm : BitVec 13),
    Steady s u →
    let x := u.n.getA a
    let y := u.n.getG g
    let i : Word := match u.n.hints.wide with
      | some hi => hi ++ imm
      | none => imm.signExtend 32
    (Clear s u [.a a, .g g] [.a d] →
      let gives : Instr → Addr → Prop := fun j v =>
        Completes j s u st.toNat ((u.used (rel1 lb g)).writeReg (.a d) (.addr v))
      gives (.adda d a g lb st) (x + y.signExtend 64) ∧ gives (.addau d a g lb st) (x + y.zeroExtend 64) ∧
      gives (.addas d a g lb st t) (x + (y.signExtend 64 <<< t.toNat))) ∧
    (Clear s u [.g g2, .g g] [.a d] →
      Completes (.movga d g2 g la lb st) s u st.toNat ((u.used (rel2 la lb g2 g)).writeReg (.a d)
        (.addr ((y.zeroExtend 64 <<< 32) ||| (u.n.getG g2).zeroExtend 64)))) ∧
    (Clear s u [.a a] [.g g] →
      Completes (.movag g a st) s u st.toNat ((u.used []).writeReg (.g g) (.word (x.extractLsb' 0 32))) ∧
      Completes (.movagh g a st) s u st.toNat ((u.used []).writeReg (.g g) (.word (x.extractLsb' 32 32)))) ∧
    (Clear s u [.a a, .a a2] [.g g] →
      Completes (.suba g a a2 st) s u st.toNat ((u.used []).writeReg (.g g) (.word ((x - u.n.getA a2).extractLsb' 0 32)))) ∧
    (Clear s u [.a a] [.a d] →
      Completes (.addai d a st imm) s u st.toNat ((u.used []).writeReg (.a d) (.addr (x + i.signExtend 64))))

/-- R120, R48 to R50: the scalar floating-point operations that round: the result rounded once in the mode of the MOD hint or of
NCTL, its exceptions set in the flags, four cycles on; FSQRT is owed. R50: an operation that raises an exception enabled in
NCTL.FPTE writes no register; it sets its flags and traps with the cause of the lowest enabled exception and the full set in the
detail. That FSQRT with FPTE not 0 completes at once, where R50 holds the cell until its result arrives, is the model's choice (log
entry 99). -/
def Obligations.FloatResults : Prop :=
  ∀ (s : State) (u : Issue) (d a b : GReg) (la lb : Bool) (st : BitVec 2), Steady s u →
     let m := u.n.rnd
     let t := u.n.sat
     let x := (u.n.getG a).toNat
     let y := (u.n.getG b).toNat
     let gives : Instr → List RegName → Nat × Exc → Prop := fun i rel r =>
       (r.2 &&& u.n.fpte = 0 → Completes i s u st.toNat
         (((u.used rel).raise r.2).landing (u.last + 4) (.g d) (.word (BitVec.ofNat 32 r.1)))) ∧ Raises i s u r.2
     (Clear s u [.g a, .g b] [.g d] →
       gives (.fadd d a b la lb st) (rel2 la lb a b) (fpAdd fp32 m t x y) ∧
       gives (.fsub d a b la lb st) (rel2 la lb a b) (fpSub fp32 m t x y) ∧
       gives (.fmul d a b la lb st) (rel2 la lb a b) (fpMul fp32 m t x y) ∧
       gives (.fmin d a b la lb st) (rel2 la lb a b) (fpMin fp32 x y, 0) ∧
       gives (.fmax d a b la lb st) (rel2 la lb a b) (fpMax fp32 x y, 0)) ∧
     (Clear s u [.g a, .g b, .g d] [.g d] →
       gives (.ffma d a b la lb st) (rel2 la lb a b) (fpFma fp32 m t false (u.n.getG d).toNat x y)) ∧
     (Clear s u [.g a] [.g d] →
       gives (.fabs d a la st) (rel1 la a) (fpAbs fp32 x, 0) ∧ gives (.fneg d a la st) (rel1 la a) (fpNeg fp32 x, 0) ∧
       gives (.fcvtif d a la st) (rel1 la a) (intToFp fp32 m (u.n.getG a).toInt) ∧
       (let v := numToInt 1 (-2 ^ 31) (2 ^ 31 - 1) (unpack fp32 x)
        (v.2 &&& u.n.fpte = 0 → Completes (.fcvtfi d a la st) s u st.toNat
           (((u.used (rel1 la a)).raise v.2).landing (u.last + 4) (.g d) (.word (BitVec.ofInt 32 v.1)))) ∧
        Raises (.fcvtfi d a la st) s u v.2) ∧
       (let r := fpSqrt fp32 m t x
        let l := u.n.locs [.g d]
        (u.n.fpte = 0 → Completes (.fsqrt d a la st) s u st.toNat
           ((u.used (rel1 la a)).owe l (.value (l.map fun q => ⟨q, .word (BitVec.ofNat 32 r.1)⟩)) 0 r.2 true)) ∧
        (u.n.fpte ≠ 0 → r.2 &&& u.n.fpte = 0 → Completes (.fsqrt d a la st) s u st.toNat
           (((u.used (rel1 la a)).raise r.2).writeReg (.g d) (.word (BitVec.ofNat 32 r.1)))) ∧
        Raises (.fsqrt d a la st) s u r.2))

/-- R51, R124: the comparisons of floating-point values set the predicate, a NaN being unordered with everything and the two
zeros equal; they raise nothing. -/
def Obligations.FloatCompareResults : Prop :=
  ∀ (s : State) (u : Issue) (p : PReg) (a b : GReg) (la lb : Bool) (st : BitVec 2),
    Clear s u [.g a, .g b] [.p p] → Steady s u →
    let nan : Word → Bool := fun x => decide (0x7F800000 < (x &&& 0x7FFFFFFF).toNat)
    let val : Word → Int := fun x => if x.msb then -(x &&& 0x7FFFFFFF).toNat else (x &&& 0x7FFFFFFF).toNat
    let x := u.n.getG a
    let y := u.n.getG b
    let un := nan x || nan y
    let gives : Instr → Bool → Prop := fun i t =>
      Completes i s u st.toNat ((u.used (rel2 la lb a b)).landing (u.last + 4) (.p p) (.bit t))
    gives (.fcmpeq p a b la lb st) (!un && decide (val x = val y)) ∧
    gives (.fcmpne p a b la lb st) (un || decide (val x ≠ val y)) ∧
    gives (.fcmplt p a b la lb st) (!un && decide (val x < val y)) ∧
    gives (.fcmple p a b la lb st) (!un && decide (val x ≤ val y)) ∧
    gives (.fcmpun p a b la lb st) un

/-- R41, R42, R43, R46, R47, R49, R51, R52, R122: what the arithmetic of FloatResults, VectorFloatResults and VectorPermuteResults
computes. Of finite operands, a sum, a difference, a product, a quotient, a product added to or taken from a third operand, and a square
root are the exact value rounded once to the format in the mode, with the exceptions of that rounding; an exact sum of zero is +0, or -0
toward minus infinity, or has the sign that both operands have. A quotient by zero is an infinity with DIVZERO, 0 / 0, infinity minus
infinity, infinity times zero, infinity over infinity and the root of a negative number are the NaN with INVALID, and a NaN gives the NaN.
Minimum and maximum give the number beside a NaN, and -0 lies below +0; the comparisons hold of no NaN. A conversion between formats is
one rounding too, and without an infinity in the destination one becomes the largest number or the NaN, with INVALID; an integer
converted is rounded, and a number becomes the integer beside it that the mode names, saturated with INVALID, a NaN becoming 0. When a
result is tiny is the model's reading of R47, log entry 68. -/
def Obligations.Rounding : Prop :=
  ∀ (mode : Nat) (sat : Bool), mode < 4 →
    (∀ k ∈ [fp32, fp16, bf16], ∀ x y d : Nat, x < 2 ^ k.width → y < 2 ^ k.width → d < 2 ^ k.width →
      let ux := k.units (k.mag x)
      let uy := k.units (k.mag y)
      let sx := k.neg x
      let sy := k.neg y
      let inf : Bool → Nat := fun s => k.sign s + (k.maxFin + 1)
      let invalid : Nat × Exc := (k.nan, excInvalid)
      let zeroSign : Bool → Bool → Bool := fun s t => if s = t then s else decide (mode = 2)
      let sum : Int → Bool → Bool → Nat → Nat × Exc → Prop := fun v s t unit r =>
        Rounds k mode sat (if v = 0 then zeroSign s t else decide (v < 0)) (fun h => compare (h * unit) (4 * v.natAbs)) r
      let arith : List (Nat × Exc) := [fpAdd k mode sat x y, fpSub k mode sat x y, fpMul k mode sat x y, fpDiv k mode sat x y]
      let fma : Bool → Nat × Exc := fun n => fpFma k mode sat n d x y
      (k.isFin x → k.isFin y →
        sum (k.val x + k.val y) sx sy 1 (fpAdd k mode sat x y) ∧ sum (k.val x - k.val y) sx (!sy) 1 (fpSub k mode sat x y) ∧
        Rounds k mode sat (sx != sy) (fun h => compare (h * k.one) (4 * (ux * uy))) (fpMul k mode sat x y) ∧
        (uy ≠ 0 → Rounds k mode sat (sx != sy) (fun h => compare (h * uy) (4 * (ux * k.one))) (fpDiv k mode sat x y)) ∧
        (uy = 0 → fpDiv k mode sat x y = if ux = 0 then invalid else (inf (sx != sy), excDivZero)) ∧
        (k.isFin d → ∀ n : Bool,
          sum (k.val d * k.one + (if n then -(k.val x * k.val y) else k.val x * k.val y)) (k.neg d) (n != (sx != sy)) k.one (fma n)) ∧
        (k.isInf d → ∀ n, fma n = (inf (k.neg d), 0))) ∧
      (k.isNaN x ∨ k.isNaN y → ∀ r ∈ arith ++ [fma false, fma true], r = invalid) ∧ (k.isNaN d → ∀ n, fma n = invalid) ∧
      (k.isInf x → k.isInf y → fpAdd k mode sat x y = (if sx = sy then (inf sx, 0) else invalid) ∧
        fpSub k mode sat x y = (if sx = sy then invalid else (inf sx, 0)) ∧ fpDiv k mode sat x y = invalid) ∧
      (k.isInf x → k.isFin y → fpAdd k mode sat x y = (inf sx, 0) ∧ fpSub k mode sat x y = (inf sx, 0) ∧
        fpDiv k mode sat x y = (inf (sx != sy), 0)) ∧
      (k.isFin x → k.isInf y → fpAdd k mode sat x y = (inf sy, 0) ∧ fpSub k mode sat x y = (inf (!sy), 0) ∧
        fpDiv k mode sat x y = (k.zero (sx != sy), 0)) ∧
      (k.isInf x ∧ ¬ k.isNaN y ∨ k.isInf y ∧ ¬ k.isNaN x →
        fpMul k mode sat x y = (if ux = 0 ∨ uy = 0 then invalid else (inf (sx != sy), 0)) ∧
        (¬ k.isNaN d → ∀ n, fma n = if ux = 0 ∨ uy = 0 ∨ (k.mag d = k.maxFin + 1 ∧ k.neg d ≠ (n != (sx != sy))) then invalid else (inf (n != (sx != sy)), 0)))) ∧
    (∀ x : Nat, x < 2 ^ 32 →
      let k := fp32
      (k.isFin x → k.units (k.mag x) ≠ 0 → k.neg x = false →
        Rounds k mode sat false (fun h => compare (h * h) (16 * (k.units (k.mag x) * k.one))) (fpSqrt k mode sat x)) ∧
      (k.units (k.mag x) = 0 → fpSqrt k mode sat x = (x, 0)) ∧
      (k.isInf x → k.neg x = false → fpSqrt k mode sat x = (x, 0)) ∧
      (k.isNaN x ∨ k.neg x = true ∧ k.units (k.mag x) ≠ 0 → fpSqrt k mode sat x = (k.nan, excInvalid))) ∧
    (∀ k ∈ [fp32, fp16, bf16], ∀ x y : Nat, x < 2 ^ k.width → y < 2 ^ k.width →
      let less : Nat → Nat → Prop := fun x y => k.val x < k.val y ∨ k.val x = k.val y ∧ k.neg x = true ∧ k.neg y = false
      let none := k.isNaN x ∨ k.isNaN y
      (k.isNaN x → k.isNaN y → fpMin k x y = k.nan ∧ fpMax k x y = k.nan) ∧
      (k.isNaN x → ¬ k.isNaN y → fpMin k x y = y ∧ fpMax k x y = y) ∧ (¬ k.isNaN x → k.isNaN y → fpMin k x y = x ∧ fpMax k x y = x) ∧
      (¬ none → (less y x → fpMin k x y = y ∧ fpMax k x y = x) ∧ (¬ less y x → fpMin k x y = x ∧ fpMax k x y = y)) ∧
      (fpEq k x y = true ↔ ¬ none ∧ k.val x = k.val y) ∧ (fpLt k x y = true ↔ ¬ none ∧ k.val x < k.val y) ∧
      (fpLe k x y = true ↔ ¬ none ∧ k.val x ≤ k.val y) ∧ (fpUn k x y = true ↔ none)) ∧
    (∀ k ∈ [fp32, fp16, bf16, f8a, f8b, fa40], ∀ t ∈ [fp32, fp16, bf16, f8a, f8b, fa40], ∀ x : Nat, x < 2 ^ k.width →
      let r := fpCvt k t mode sat x
      (k.isFin x → Rounds t mode sat (k.neg x) (fun h => compare (h * k.one) (4 * (k.units (k.mag x) * t.one))) r) ∧
      (k.isNaN x → r = (t.nan, 0)) ∧
      (k.isInf x → r = if t.inf then (t.sign (k.neg x) + (t.maxFin + 1), 0)
        else (if sat then t.sign (k.neg x) + t.maxFin else t.nan, excInvalid))) ∧
    (∀ x : Int, Rounds fp32 mode false (decide (x < 0)) (fun h => compare h (4 * (x.natAbs * fp32.one))) (intToFp fp32 mode x)) ∧
    (∀ (x : Nat) (lo hi : Int), x < 2 ^ 32 → lo ≤ 0 → 0 ≤ hi →
      let k := fp32
      (k.isFin x → ToInt mode lo hi (k.neg x) (k.units (k.mag x)) k.one (numToInt mode lo hi (unpack k x))) ∧
      (k.isNaN x → numToInt mode lo hi (unpack k x) = (0, excInvalid)) ∧
      (k.isInf x → numToInt mode lo hi (unpack k x) = (if k.neg x then lo else hi, excInvalid)))

/-- R127, R129, R133: BR transfers where its condition holds, JMPR always; LOOP starts the hardware loop, skips its body when
the count is 0, and takes LOOP_NEST while a loop is active. -/
def Obligations.TransferResults : Prop :=
  ∀ (s : State) (u : Issue) (p : PReg) (inv : Bool) (st : BitVec 2) (off : BitVec 20) (a : GReg) (la : Bool) (imm : BitVec 13),
    let x := u.n.getG a
    let n := u.n.used (rel1 la a)
    (Clear s u [.p p] [] →
      Completes (.br p inv st off) s u st.toNat u.n (if u.n.getP p = inv then none else some (u.n.pc + 4 * off.signExtend 32))) ∧
    (Clear s u [.g a] [] →
      Completes (.jmpr a la st) s u st.toNat n (some (x &&& 0xFFFFFFFC)) ∧
      (u.n.loopc ≠ 0 → Traps (.loop a la st imm) s u { cause := .loopNest, detail := 0, taddr := 0 }) ∧
      (u.n.loopc = 0 → Completes (.loop a la st imm) s u st.toNat
        { n with loops := u.n.pc + 4, loope := u.n.pc + 4 * imm.zeroExtend 32, loopc := x }
        (if x = 0 then some (u.n.pc + 4 * imm.zeroExtend 32 + 4) else none)))

/-- R19, R128, R129: a call makes the next frame of the region current and writes its own g31 with the address after the call;
with all frames resident it takes WINDOW_OVERFLOW, and in trap mode it is held as a DOUBLE_TRAP (R348). While an interlocked
result is owed to that g31 the cell holds (R28), and under NCTL.CHK an early one is STALL_UNDERSIZED (R29); that trap mode and
WINDOW_OVERFLOW are looked at first is the model's choice (log entry 79). R130, R383: RET goes on
at the g31 of the current frame and gives the frame up. While a result is owed to the frame the cell holds; with no caller's
frame it takes WINDOW_UNDERFLOW; in trap mode it is held as a DOUBLE_TRAP. That the hold comes before WINDOW_UNDERFLOW is the model's
choice (log entry 114). -/
def Obligations.CallReturnResults : Prop :=
  (∀ (s : State) (u : Issue) (p : PReg) (inv : Bool) (st : BitVec 2) (off : BitVec 20) (a : GReg) (la : Bool),
     let forms : List (Instr × Node × Word) :=
       (if u.n.getP p = inv then [] else [(.call p inv st off, u.n, u.n.pc + 4 * off.signExtend 32)]) ++
       [(.callr a la st, u.n.used (rel1 la a), u.n.getG a &&& 0xFFFFFFFC)]
     Clear s u [.p p] [] → Clear s u [.g a] [] →
     (u.n.getP p = inv → Completes (.call p inv st off) s u st.toNat u.n) ∧
     ∀ f ∈ forms,
       (u.n.inTrap = true → exec f.1 s = .next (s.trapUnperformed u { cause := .doubleTrap } 0 true)) ∧
       (u.n.inTrap = false → u.n.res = u.n.frames → Traps f.1 s u { cause := .windowOverflow, detail := 0, taddr := 0 }) ∧
       let link := Loc.region (16 * ((u.n.cur + 1) % u.n.frames) + 15)
       let early := u.n.chk && u.n.fixed.any (fun w => decide (w.write.loc = link))
       (u.n.inTrap = false → u.n.res ≠ u.n.frames → u.n.owes [link] = true →
         ∃ t, exec f.1 s = .next t ∧ t.node? u.p u.i = some u.n ∧ (t.cell u.p).cyc = u.c + 1 ∧ Elsewhere s t u.p u.i) ∧
       (u.n.inTrap = false → u.n.res ≠ u.n.frames → u.n.owes [link] = false → early = true →
         Traps f.1 s u { cause := .stallUndersized, detail := 31, taddr := 0 }) ∧
       (u.n.inTrap = false → u.n.res ≠ u.n.frames → u.n.owes [link] = false → early = false →
         Completes f.1 s u st.toNat
           (({ f.2.1 with cur := (u.n.cur + 1) % u.n.frames, res := u.n.res + 1 } : Node).writeReg (.g 31) (.word (u.n.pc + 4)))
           (some f.2.2))) ∧
  (∀ (s : State) (u : Issue) (st : BitVec 2), Clear s u [] [] →
     let link := (Store.get ({} : RegCell) u.n.region (16 * u.n.cur + 15)).val
     (u.n.inTrap = true → exec (.ret st) s = .next (s.trapUnperformed u { cause := .doubleTrap } 0 true)) ∧
     (u.n.inTrap = false → u.n.frameOwed u.n.cur = true →
       ∃ t, exec (.ret st) s = .next t ∧ t.node? u.p u.i = some u.n ∧ (t.cell u.p).cyc = u.c + 1) ∧
     (u.n.inTrap = false → u.n.frameOwed u.n.cur = false → u.n.res = 1 →
       Traps (.ret st) s u { cause := .windowUnderflow, detail := 0, taddr := 0 }) ∧
     (u.n.inTrap = false → u.n.frameOwed u.n.cur = false → u.n.res ≠ 1 →
       Completes (.ret st) s u st.toNat
         { u.n with cur := (u.n.cur + u.n.frames - 1) % u.n.frames, res := u.n.res - 1 } (some (link &&& 0xFFFFFFFC))))

/-- R131: RTT leaves trap mode and goes on at TIP, with the loop state that the trap saved; a loop that TIP lies outside ends.
Outside trap mode it takes ILLEGAL_ENCODING. A breakpoint does not fire again at TIP (R37). -/
def Obligations.TrapReturnResults : Prop :=
  ∀ (s : State) (u : Issue) (st : BitVec 2), Clear s u [] [] →
    (u.n.inTrap = false → Traps (.rtt st) s u { cause := .illegalEncoding, detail := 2, taddr := 0 }) ∧
    (u.n.inTrap = true →
      let back := u.n.tip &&& 0xFFFFFFFC
      ∃ t m, exec (.rtt st) s = .next t ∧ t.node? u.p u.i = some m ∧ Elsewhere s t u.p u.i ∧
        m.inTrap = false ∧ m.pc = back ∧ m.stt = u.n.stt ∧ m.bkSkip = some back ∧
        m.loopc = (if u.n.tloopc ≠ 0 ∧ (back < u.n.tloops ∨ u.n.tloope < back) then 0 else u.n.tloopc) ∧
        m.loops = u.n.tloops ∧ m.loope = u.n.tloope ∧
        (m.g, m.region, m.bank, m.a, m.p, m.vec) = (u.n.g, u.n.region, u.n.bank, u.n.a, u.n.p, u.n.vec) ∧
        (m.tcause, m.tip, m.taddr, m.nctl, m.flags) = (u.n.tcause, u.n.tip, u.n.taddr, u.n.nctl, u.n.flags))

/-- R26, R36, R82, R83, R107, R134, R362: what completing an instruction does. Its cell's cycle count passes its issue cycles, its stall
count and STALL hint delay the node's next issue, the hints are used up, and the next word is the target of its transfer, the
start of a loop at whose end it stands with passes left, or the word after it. Nothing else of the node or the state changes.
With DBGC.SSTEP the node then takes SINGLE_STEP at that word. R80 to R82: a hint issues in a cycle of its own and waits for the
follower of its run. An ADD that follows CRIT and meets a soft error writes the value of the majority of its three executions, and
SECNT of its cell rises by 1 where one was outvoted; where all three differ it takes TRIPLE_VOTE_DISAGREE, unperformed. So does every
follower of R82, whatever it computes: the voted value takes the place of the value that the instruction gives without a soft error,
and of an instruction of FPS the voted exception set that of its exceptions, the traps of R50 applying to it; a soft error sets no flag
of an instruction of another family (R107). An instruction that waits for its result counts the outvoted execution when that arrives;
that it takes TRIPLE_VOTE_DISAGREE in the step of its issue, where R362 takes the vote at the third result, is the model's reading (log
entry 77). -/
def Obligations.CompletionAdvances : Prop :=
  (∀ (s : State) (u : Issue) (st : Nat) (n : Node) (xfer : Option Word),
     let t := s.finish u st 0 n xfer
     let pc : Word := match xfer with
       | some d => d
       | none => if n.loopc ≠ 0 ∧ n.pc = n.loope ∧ n.loopc ≠ 1 then n.loops else n.pc + 4
     let lc : Word := match xfer with
       | some d => if d < n.loops ∨ n.loope < d then 0 else n.loopc
       | none => if n.loopc ≠ 0 ∧ n.pc = n.loope then n.loopc - 1 else n.loopc
     let cyc := u.c + if n.hints.crit then 3 else 1
     let after : Node := { n with pc := pc, loopc := lc, issueAt := cyc + st + n.hints.stall, hints := {}, bkSkip := none }
     (u.n.singleStep = false → t.node? u.p u.i = some after ∧ (t.cell u.p).cyc = cyc ∧ Elsewhere s t u.p u.i) ∧
     (u.n.singleStep = true → n.inTrap = false → n.notv = false →
       t.node? u.p u.i = some { after with
         tcause := 0x24, tip := pc, taddr := 0, tloopc := lc, tloops := n.loops, tloope := n.loope, loopc := 0, inTrap := true,
         pc := n.tvec &&& 0xFFFFFFFC } ∧ (t.cell u.p).cyc = cyc ∧ Elsewhere s t u.p u.i)) ∧
  (∀ (s : State) (u : Issue) (k : BitVec 8) (hi : BitVec 19) (r : BitVec 3) (sat : Bool), s.issuePoint = some u →
     let h := u.n.hints
     let start := some (h.start.getD u.n.pc)
     let gives : Instr → Hints → Prop := fun i g =>
       ∃ t, exec i s = .next t ∧ (t.cell u.p).cyc = u.c + 1 ∧ Elsewhere s t u.p u.i ∧
         t.node? u.p u.i = some { u.n with hints := g, pc := u.n.pc + 4, issueAt := u.c + 1 }
     gives (.stall k) { h with stall := k.toNat, start := start } ∧ gives (.wide hi) { h with wide := some hi, start := start } ∧
     gives (.mod r sat) { h with mod := some (r, sat), start := start } ∧ gives .crit { h with crit := true, start := start }) ∧
  (∀ (s : State) (u : Issue) (d a b : GReg) (la lb : Bool) (st : BitVec 2) (x : SoftError) (l : List SoftError),
     u.n.hints.crit = true → Clear s u [.g a, .g b] [.g d] → (s.cell u.p).soft = x :: l → (s.cell u.p).secnt < 0xFFFF →
     let sum := u.n.getG a + u.n.getG b
     let r1 : Word := sum ^^^ x.val.1.truncate 32
     let r2 : Word := sum ^^^ x.val.2.1.truncate 32
     let r3 : Word := sum ^^^ x.val.2.2.truncate 32
     let spent := s.setCell u.p { s.cell u.p with soft := l }
     let counted := spent.corrected u.p
     let gives : State → Word → Prop := fun t v => exec (.add d a b la lb st) s =
       .next (t.finish u st.toNat 0 ((u.used (rel2 la lb a b)).writeReg (.g d) (.word v)))
     (r1 = r2 → r2 = r3 → gives spent r1) ∧
     (∀ v, (r1 = v ∧ r2 = v ∧ r3 ≠ v) ∨ (r1 = v ∧ r2 ≠ v ∧ r3 = v) ∨ (r1 ≠ v ∧ r2 = v ∧ r3 = v) → gives counted v) ∧
     (r1 ≠ r2 → r1 ≠ r3 → r2 ≠ r3 → exec (.add d a b la lb st) s = .next (counted.trapUnperformed u { cause := .tripleVoteDisagree } 0 false)) ∧
     (counted.cell u.p).secnt = (s.cell u.p).secnt + 1) ∧
  (∀ (s : State) (u : Issue) (i : Instr) (r : RegName) (rel : List RegName) (st lat : Nat) (v : RegVal) (e : Exc) (x : SoftError)
     (l : List SoftError), s.issuePoint = some u → u.n.hints.crit = true → targetOf i = some (r, rel) → (s.cell u.p).soft = x :: l →
     (match r, v with
       | .g _, .word _ => True
       | .a _, .addr _ => True
       | .p _, .bit _ => True
       | _, _ => False) →
     let calm := s.setCell u.p { s.cell u.p with soft := [] }
     let spent := s.setCell u.p { s.cell u.p with soft := l }
     let n := u.used rel
     let now : RegVal → Exc → Bool → Node := fun v e _ => (n.raise e).writeReg r v
     let later : RegVal → Exc → Bool → Node := fun v e _ => (n.raise e).landing (u.last + lat) r v
     let owed : RegVal → Exc → Bool → Node := fun v e outvoted =>
       n.owe (n.locs [r]) (.value ((n.locs [r]).map (fun d => ⟨d, v⟩))) 0 e true (outvoted := outvoted)
     let divided : RegVal → Exc → Bool → Node := fun v _ outvoted =>
       n.owe (n.locs [r]) (.value ((n.locs [r]).map (fun d => ⟨d, v⟩))) 0 (outvoted := outvoted)
     ∀ put ∈ [(now, false, True), (later, false, True), (owed, true, True), (divided, true, e = 0)], put.2.2 →
       exec i calm = .next (calm.finish u st 0 (put.1 v e false)) →
       let exc : Exc × Exc × Exc := if ofFps i then x.exc else (0, 0, 0)
       (exc = (0, 0, 0) ∨ u.n.flags = 0) →
       let r1 := (flip x.val.1 v, e ^^^ exc.1)
       let r2 := (flip x.val.2.1 v, e ^^^ exc.2.1)
       let r3 := (flip x.val.2.2 v, e ^^^ exc.2.2)
       (∀ w, (r1 = w ∧ r2 = w ∨ r1 = w ∧ r3 = w ∨ r2 = w ∧ r3 = w) →
         let same := r1 = w ∧ r2 = w ∧ r3 = w
         (same → w.2 &&& u.n.fpte = 0 → exec i s = .next (spent.finish u st 0 (put.1 w.1 w.2 false))) ∧
         (¬ same → w.2 &&& u.n.fpte = 0 → exec i s =
           .next ((if put.2.1 then spent else spent.corrected u.p).finish u st 0 (put.1 w.1 w.2 put.2.1))) ∧
         (u.n.flags = 0 → w.2 &&& u.n.fpte ≠ 0 → ∃ q, (same → q = spent) ∧ (¬ same → q = spent.corrected u.p) ∧
           exec i s = .next (q.trapUnperformed u (raisedTrap (w.2 &&& u.n.fpte) w.2) w.2 false))) ∧
       (r1 ≠ r2 → r1 ≠ r3 → r2 ≠ r3 →
         exec i s = .next ((spent.corrected u.p).trapUnperformed u { cause := .tripleVoteDisagree } 0 false)))

/-- R15, R38, R345, R347, R348: taking a trap. A cause for the node's own handler, outside trap mode, saves TCAUSE, TIP and TADDR
and the loop state, ends the loop, enters trap mode and goes on at TVEC; nothing else of the node or the state changes. In trap
mode, or without a vector, the node is held as a DOUBLE_TRAP, and for a held cause as that cause: it is TRAPPED at TIP, its
fixed-latency results all written (R15) and every other register, its trap registers among them, as before; its cell waits until
its stall count has passed; and a report with its registers waits for its die's reeve. Memory, the other nodes and the other
cells are as before. An instruction that trap mode does not allow (CALL, CALLR, RET, OFFER, EVWAIT, PAUSE) is held so too, the second
cause in the report's detail being 0x25 itself and its TADDR 0. R67, R106, R81: an instruction that traps is unperformed: TIP is its
word, or the first hint of its run; the flags alone may have changed. A word that no instruction of the manual encodes takes
ILLEGAL_OPCODE. -/
def Obligations.TrapEntry : Prop :=
  (∀ (s : State) (p i : Nat) (n : Node) (t : Trap) (tip : Word),
    let q := s.takeTrap p i n t tip
    let holds : State → Trap → Cause → BitVec 16 → Prop := fun q x c detail =>
      let written : Node := { n.fixed.foldl (fun m w => m.write w.write) n with fixed := [] }
      q.node? p i = some { written with stt := .trapped, pc := tip, hints := {}, heldFor := some x } ∧
      q.mem = s.mem ∧ q.poison = s.poison ∧ q.insts = s.insts ∧ q.net = s.net ∧ (∀ c, c ≠ p → q.cell c = s.cell c) ∧
      (∀ j, j ≠ i → q.node? p j = s.node? p j) ∧ (q.cell p).running ≠ some i ∧
      n.issueAt ≤ (q.cell p).cyc ∧ (s.cell p).cyc ≤ (q.cell p).cyc ∧ (∀ w ∈ n.fixed, w.land ≤ (q.cell p).cyc) ∧
      ∃ r, (q.ring (dieOf p)).pending = (s.ring (dieOf p)).pending ++ [r] ∧ r.held = true ∧ r.pcell = p ∧
        r.nid = nidOf (s.cell p).lcell i n.gen ∧ r.cause = c ∧ r.tip = tip ∧ r.taddr = x.taddr ∧
        (detail ++ BitVec.ofNat 16 c.code : Word) = r.tcause
    (t.cause.isHeld = false → n.inTrap = false → n.notv = false →
      Elsewhere s q p i ∧
      q.node? p i = some { n with
        tcause := t.detail ++ BitVec.ofNat 16 t.cause.code, tip := tip, taddr := t.taddr,
        tloopc := n.loopc, tloops := n.loops, tloope := n.loope, loopc := 0,
        inTrap := true, pc := n.tvec &&& 0xFFFFFFFC, hints := {} }) ∧
    (t.cause.isHeld = true → holds q t t.cause t.detail ∧ holds (s.takeTrap p i n t tip true) t t.cause t.detail) ∧
    (t.cause.isHeld = false → n.inTrap = true ∨ n.notv = true → holds q t .doubleTrap (BitVec.ofNat 16 t.cause.code)) ∧
    (t.cause.isHeld = false → holds (s.takeTrap p i n t tip true) { cause := .doubleTrap, detail := 0, taddr := 0 } .doubleTrap 0x25)) ∧
  (∀ (s : State) (u : Issue) (t : Trap) (f : BitVec 5), t.cause.isHeld = false → u.n.inTrap = false → u.n.notv = false →
    let q := s.trapUnperformed u t f false
    Elsewhere s q u.p u.i ∧ (q.cell u.p).cyc = u.c + 1 ∧
    q.node? u.p u.i = some { u.n with
      tcause := t.detail ++ BitVec.ofNat 16 t.cause.code, tip := u.n.hints.start.getD u.n.pc, taddr := t.taddr,
      flags := u.n.flags ||| f, tloopc := u.n.loopc, tloops := u.n.loops, tloope := u.n.loope, loopc := 0,
      inTrap := true, pc := u.n.tvec &&& 0xFFFFFFFC, hints := {}, issueAt := u.c + 1 }) ∧
  (∀ (s : State) (u : Issue) (w : Word), s.issuePoint = some u →
    Traps (.wordNotAnInstruction w) s u (opcodeTrap w) ∧ (opcodeTrap w).cause = .illegalOpcode ∧ (opcodeTrap w).taddr = 0)

/-- R27, R28, R29: the scoreboard. A fixed-latency result is read from its landing cycle on and not before. Every instruction that
reads or writes a register still owed to its node holds its cell for a cycle; under NCTL.CHK one that names a register with a
fixed-latency result to come takes STALL_UNDERSIZED, the instruction unperformed, with the number of the first such register in
the detail: the sources before the destinations, in the order of the instruction's operands. That order is the model's (log entry
21), and so is it that a LOOP inside an active body takes STALL_UNDERSIZED before LOOP_NEST (log entry 80). The g31 that a CALL writes
in the frame it pushes is not among the registers named here: what holds for it is CallReturnResults' (log entry 79). -/
def Obligations.Scoreboard : Prop :=
  (∀ (n : Node) (r : RegName) (v : RegVal) (land c : Nat), n.fixed = [] →
    (land ≤ c → ({ (n.landing land r v).landed c with fixed := [] } : Node) = n.writeReg r v) ∧
    (c < land → ({ (n.landing land r v).landed c with fixed := [] } : Node) = n)) ∧
  (∀ (s : State) (u : Issue) (i : Instr) (reads writes : List RegName), usesOf i = some (reads, writes) →
    s.issuePoint = some u → passes i u = true →
    let owed : RegName → Bool := fun r => match u.n.loc r with
      | none => false
      | some l => u.n.owed.any (fun o => o.dests.contains l)
    let toCome : RegName → Bool := fun r => match u.n.loc r with
      | none => false
      | some l => u.n.fixed.any (fun w => decide (w.write.loc = l))
    ((∃ r ∈ reads ++ writes, owed r = true) →
      ∃ t, exec i s = .next t ∧ t.node? u.p u.i = some u.n ∧ (t.cell u.p).cyc = u.c + 1 ∧ Elsewhere s t u.p u.i) ∧
    ((∀ r ∈ reads ++ writes, owed r = false) → u.n.nctl.getLsbD 0 = true →
      ∀ r, (reads ++ writes).find? toCome = some r →
        Traps i s u { cause := .stallUndersized, detail := regNumber r, taddr := 0 }))

/-- R17, R22, R23, R24, R69: register writes and last use. A written register reads as written, under a mask in the bits of the
mask, and is live; every other reads as before, g0 staying 0, p0 1 and k0 all ones. A register released as the last use of a or
of b reads zero and is not live until it is written again; every other reads as before. Nothing but registers changes. -/
def Obligations.RegisterFrames : Prop :=
  ∀ (n : Node),
    (∀ (r : GReg) (w : Word),
      let m := n.writeReg (.g r) (.word w)
      m.getG r = (if r = 0 then 0 else w) ∧ (∀ l, n.loc (.g r) = some l → (m.cellAt l).live = true) ∧
      SameRegs n m [.g r] ∧ SameSystem n m) ∧
    (∀ (r : AReg) (w : Addr), (n.writeReg (.a r) (.addr w)).getA r = w ∧
      SameRegs n (n.writeReg (.a r) (.addr w)) [.a r] ∧ SameSystem n (n.writeReg (.a r) (.addr w))) ∧
    (∀ (r : PReg) (b : Bool), (n.writeReg (.p r) (.bit b)).getP r = (if r = 0 then true else b) ∧
      SameRegs n (n.writeReg (.p r) (.bit b)) [.p r] ∧ SameSystem n (n.writeReg (.p r) (.bit b))) ∧
    (∀ (r : VReg) (v k : Vec), n.vec.isSome →
      let m := n.writeReg (.v r) (.vec v k)
      m.getV r = (n.getV r &&& ~~~k) ||| (v &&& k) ∧
      (∃ c, m.vec = some c ∧ (Store.get ({} : VCell) c.v r.toNat).live = true) ∧
      SameRegs n m [.v r] ∧ SameSystem n m) ∧
    (∀ (r : KReg) (v k : BitVec 16), n.vec.isSome →
      let m := n.writeReg (.k r) (.lanes v k)
      m.getK r = (if r = 0 then 0xFFFF else (n.getK r &&& ~~~k) ||| (v &&& k)) ∧ SameRegs n m [.k r] ∧ SameSystem n m) ∧
    (∀ (a b : GReg) (la lb : Bool),
      let m := n.used (rel2 la lb a b)
      let given : GReg → Prop := fun r => m.getG r = 0 ∧ ∀ l, n.loc (.g r) = some l → (m.cellAt l).live = false
      SameRegs n m (rel2 la lb a b) ∧ SameSystem n m ∧ (la = true → given a) ∧ (lb = true → given b)) ∧
    (∀ (a b : VReg) (la lb : Bool),
      let m := n.used (relV la lb a b)
      let given : VReg → Prop := fun r => m.getV r = 0 ∧ ∀ c, m.vec = some c → (Store.get ({} : VCell) c.v r.toNat).live = false
      SameRegs n m (relV la lb a b) ∧ SameSystem n m ∧ (la = true → given a) ∧ (lb = true → given b))

/-- R105, R106: the frame of the instructions that compute one register from registers. While the node runs on outside a trap,
every register but the destination and the last-use sources reads as before, and so do the memory, the poison, every other cell,
and the node's system registers but the flags. -/
def Obligations.RegisterInstructionFrame : Prop :=
  ∀ (s t : State) (u : Issue) (i : Instr) (d : RegName) (rel : List RegName) (m : Node),
    targetOf i = some (d, rel) → s.issuePoint = some u → exec i s = .next t → t.node? u.p u.i = some m →
    m.stt = .running → m.inTrap = u.n.inTrap →
    SameRegs (if (t.cell u.p).cyc = u.c + 1 then u.n else u.n.atLast u.c) m (d :: rel) ∧ t.mem = s.mem ∧ t.poison = s.poison ∧ t.net = s.net ∧ t.crofts = s.crofts ∧ t.insts = s.insts ∧
    t.host = s.host ∧ t.ports = s.ports ∧ (∀ q, q ≠ u.p → t.cell q = s.cell q) ∧
    (m.dPend, m.dComm, m.nctl, m.param, m.dbgc, m.bka, m.wpa) =
      (u.n.dPend, u.n.dComm, u.n.nctl, u.n.param, u.n.dbgc, u.n.bka, u.n.wpa) ∧
    (m.tcause, m.tip, m.taddr, m.tvec, m.wstk, m.wlim, m.cur, m.res, m.spilled) =
      (u.n.tcause, u.n.tip, u.n.taddr, u.n.tvec, u.n.wstk, u.n.wlim, u.n.cur, u.n.res, u.n.spilled) ∧
    (m.loops, m.loope, m.offer, m.wait, m.resolved) = (u.n.loops, u.n.loope, u.n.offer, u.n.wait, u.n.resolved)

/-- R137, R142, R143, R145: loads. The address is a[x] plus the offset times the access size; an access that fails a check of
R138 traps; one that passes is in flight, and the node is owed the zero- or sign-extended value, a pair, or an address. R137,
R142, R143, R145: stores. The low bytes of the register go on their way to the address that a load of that size would read, and
a last-use source is released. R246, R360: an access that a node sends joins those in flight; memory, poison, cells and instances
stay as they are. In twin mode one that leaves its cell waits for its like instead, and one that stays in the cell holds it while the
station holds an AMO2 of the node with a word there (R163, R249; that the order is kept by a hold is log entry 74). -/
def Obligations.LoadStoreResults : Prop :=
  (∀ (s : State) (u : Issue) (away : Bool), s.ownWaits u away = true ↔
    away = false ∧ ∃ k i, s.instOf u.p = some (k, i) ∧ ∃ t ∈ i.twinq, ∃ y, t.msg = .access y ∧ y.src = .node u.p u.i u.n.gen ∧
      (.cell u.p : Home) ∈ y.homes) ∧
  (∀ (s : State) (u : Issue) (t : GReg) (ta x : AReg) (st : BitVec 2) (off : BitVec 12),
     let loads : Instr → Nat → List RegName → OwedForm → Prop := fun i n dests form =>
       Clear s u [.a x] dests →
       Accesses i s u st.toNat (u.n.getA x + off.signExtend 64 * BitVec.ofNat 64 n) { size := n, rd := true } .load
         [{ pcell := u.p, slot := u.i, gen := u.n.gen, tok := u.n.tok, part := 0 }] (u.n.owe (u.n.locs dests) form 1)
     let word : Nat → Bool → OwedForm := fun n signed => match u.n.loc (.g t) with
       | none => .discard
       | some l => .load l n signed
     loads (.ldb t x st off) 1 [.g t] (word 1 false) ∧ loads (.ldbs t x st off) 1 [.g t] (word 1 true) ∧
     loads (.ldh t x st off) 2 [.g t] (word 2 false) ∧ loads (.ldhs t x st off) 2 [.g t] (word 2 true) ∧
     loads (.ldw t x st off) 4 [.g t] (word 4 false) ∧
     loads (.ldd t x st off) 8 [.g t, .g (t + 1)] (match u.n.loc (.g t), u.n.loc (.g (t + 1)) with
       | some l, some h => .pair l h
       | _, _ => .discard) ∧
     loads (.lda ta x st off) 8 [.a ta] (.areg ta.toNat)) ∧
  (∀ (s : State) (u : Issue) (t : GReg) (ta x : AReg) (lt : Bool) (st : BitVec 2) (off : BitVec 12),
     let stores : Instr → Nat → List RegName → List RegName → Nat → Prop := fun i n srcs rel v =>
       Clear s u ([.a x] ++ srcs) [] →
       Accesses i s u st.toNat (u.n.getA x + off.signExtend 64 * BitVec.ofNat 64 n) { size := n, wr := true, data := some v }
         (.store v) [] (u.n.used rel)
     let v := (u.n.getG t).toNat
     let one : List RegName := if lt then [.g t] else []
     let two : List RegName := if lt then [.g t, .g (t + 1)] else []
     stores (.stb t x lt st off) 1 [.g t] one (v % 2 ^ 8) ∧ stores (.sth t x lt st off) 2 [.g t] one (v % 2 ^ 16) ∧
     stores (.stw t x lt st off) 4 [.g t] one v ∧
     stores (.std t x lt st off) 8 [.g t, .g (t + 1)] two (v + 2 ^ 32 * (u.n.getG (t + 1)).toNat) ∧
     stores (.sta ta x st off) 8 [.a ta] [] (u.n.getA ta).toNat) ∧
  (∀ (s : State) (u : Issue) (pl : Place) (op : AccOp) (k : Acc) (a : Addr) (rets : List Ret),
    let t := sendOne s u pl op k a rets
    t.mem = s.mem ∧ t.poison = s.poison ∧ t.cells = s.cells ∧ t.launches = s.launches ∧ t.pkg = s.pkg ∧ t.host = s.host ∧
    t.ports = s.ports ∧
    ((pl.away = false ∨ ∀ n i, s.instOf u.p = some (n, i) → i.twin = []) →
      t.insts = s.insts ∧
      ∃ x : Access, t.net = s.net ++ [x] ∧ x.src = .node u.p u.i u.n.gen ∧ x.home = pl.home ∧ x.op = op ∧ x.key = pl.key ∧
        x.win = pl.win ∧ x.size = k.size ∧ x.va = a ∧ x.rets = rets) ∧
    (∀ n i, pl.away = true → s.instOf u.p = some (n, i) → i.twin ≠ [] →
      t.net = s.net ∧ ∃ x : Access, x.op = op ∧ x.key = pl.key ∧
        t.inst? n = some { i with twinq := i.twinq ++ [{ second := s.isTwinCell u.p, lcell := (s.cell u.p).lcell, msg := .access x }] }))

/-- R137, R138: the checks of an access, the first that fails deciding: a space or extent that does not exist, space 15 on a
compute cell, an address that is no multiple of the access size, local memory past its end, the window past its end, a remote
cell outside the domain, a store into a code region. The detail describes the access (R139), that of PRIVILEGED too, where R346's row
says 0: by inference, log entry 97. That the checks of a reeve cell take its domain for one of four crofts without a window is an
inference as well (log entry 7). Translated memory and the regions of space 15 are AccessPlaces's. -/
def Obligations.AccessChecks : Prop :=
  ∀ (s : State) (p : Nat) (a : Addr) (k : Acc), k.size ∈ [1, 2, 4, 8, 32, 64] →
    let space := (a.extractLsb' 60 4).toNat
    let low := (a.extractLsb' 0 60).toNat
    let fails : Cause → Prop := fun c => checkAccess s p a k = .error { cause := c, detail := k.detail, taddr := a }
    (space ∉ [0, 1, 2, 8, 15] → fails .addressSpace) ∧
    (space = 0 → 2 ^ 17 ≤ low → fails .addressSpace) ∧ (space = 1 → 2 ^ 28 ≤ low → fails .addressSpace) ∧
    (space = 2 → 2 ^ 32 ≤ low → fails .addressSpace) ∧ (space = 8 → 2 ^ 48 ≤ low → fails .addressSpace) ∧
    (space = 15 → p < 416 → fails .privileged) ∧
    (space = 0 → low < 2 ^ 17 → low % k.size ≠ 0 → fails .misaligned) ∧
    (space = 0 → low < 2 ^ 17 → low % k.size = 0 → 0x18000 ≤ low → fails .addressSpace) ∧
    (space = 0 → low < 0x18000 → low % k.size = 0 → k.wr = true →
      (s.cell p).codeOff < low + k.size → low < (s.cell p).codeOff + (s.cell p).codeLen → fails .pageProtection) ∧
    (space = 0 → low < 0x18000 → low % k.size = 0 →
      (k.wr = false ∨ low + k.size ≤ (s.cell p).codeOff ∨ (s.cell p).codeOff + (s.cell p).codeLen ≤ low) →
      ∃ pl, checkAccess s p a k = .ok pl ∧ pl.key = keyLocal p low ∧ pl.home = .cell p) ∧
    (∀ n i, space = 1 → low < 2 ^ 28 → low % k.size = 0 → low % 2 ^ 17 < 0x18000 → s.instOf p = some (n, i) →
      4 * i.crofts ≤ low / 2 ^ 17 → fails .remoteOutsideDomain) ∧
    (∀ n i, space = 2 → low < 2 ^ 32 → low % k.size = 0 → s.instOf p = some (n, i) → i.windowSize ≤ low → fails .addressSpace)

/-- R137, R138, R212, R244, R245, R260, R311 to R314: where an access that passes its checks lies, and the checks past those of
AccessChecks. In space 1, the memory of the cell that the logical cell is, with the twin's place beside it; a store into its code region
fails. In space 2, the bin of the offset's granule, and in it the storage that the shadow pairs give the offset now (where the bin keeps
it is log entry 8). In space 8, the frame of the leaf that the walk from TROOT finds: a walk that ends at an entry not present or
malformed is the fault of R313, a store to a page without W, or an AMO2 on a host page, PAGE_PROTECTION; a leaf that the station holds
is taken without a walk, and one walked for enters the station, 256 at most, the oldest leaving (log entry 10). A frame beyond its
memory is malformed (log entry 9), and so is a table word in a block whose code detects an error. A launch's TROOT is its record's;
that the reeve domain's is 0 is log entry 7. In space 15, on a reeve cell, the memory of R311's regions; a store into the code region
of a cell with an instance is refused, but for the repair of a poisoned word (log entry 111). -/
def Obligations.AccessPlaces : Prop :=
  ∀ (s : State) (p : Nat) (a : Addr) (k : Acc), k.size ∈ [1, 2, 4, 8, 32, 64] → a.toNat % k.size = 0 →
    let space := a.toNat / 2 ^ 60
    let low := a.toNat % 2 ^ 60
    let fails : Cause → Prop := fun c => checkAccess s p a k = .error { cause := c, detail := k.detail, taddr := a }
    let gives : (Place → Prop) → Prop := fun f => ∃ pl, checkAccess s p a k = .ok pl ∧ f pl
    let offset := low % 2 ^ 17
    let code : Nat → Prop := fun c => (s.cell c).codeOff < offset + k.size ∧ offset < (s.cell c).codeOff + (s.cell c).codeLen
    (∀ n i, s.instOf p = some (n, i) →
      let l := low / 2 ^ 17
      let c := i.pcell l
      (space = 1 → low < 2 ^ 28 → offset < 0x18000 → l < 4 * i.crofts →
        (k.wr = true → code c → fails .pageProtection) ∧
        (¬ (k.wr = true ∧ code c) → gives fun pl => pl.tier = 0 ∧ pl.win = none ∧
          (l = (s.cell p).lcell → pl.key = keyLocal p offset ∧ pl.home = .cell p ∧ pl.away = false) ∧
          (l ≠ (s.cell p).lcell → pl.key = keyLocal c offset ∧ pl.home = .cell c ∧ pl.away = true ∧
            pl.mirror = (if i.twin = [] then none else some (keyLocal (4 * i.twin.getD (l / 4) 0 + l % 4) offset))))) ∧
      (space = 2 → low < i.windowSize → low < 2 ^ 32 →
        let bin : Nat → Nat := fun o => let b := o / 256 % (4 * i.crofts); 4 * i.sites.getD (b / 4) 0 + b % 4
        let place : Nat → Nat := fun o => keyBin (bin o) (o / 256 / (4 * i.crofts) * 256 + o % 256)
        let holds : Nat → Prop := fun j => ∃ q, i.image.shadow[j]? = some q ∧ (q.voff ≤ low ∧ low < q.voff + q.len ∨ q.hoff ≤ low ∧ low < q.hoff + q.len)
        gives fun pl => pl.home = .bin (bin low) ∧ pl.win = some (n, low) ∧ pl.tier = 0 ∧
          ((∀ j ∈ i.flipped, ¬ holds j) → pl.key = place low) ∧
          (∀ j q, j ∈ i.flipped → i.image.shadow[j]? = some q → (∀ m ∈ i.flipped, m ≠ j → ¬ holds m) →
            (q.voff ≤ low → low < q.voff + q.len → pl.key = place (q.hoff + (low - q.voff))) ∧
            (q.hoff ≤ low → low < q.hoff + q.len → (low < q.voff ∨ q.voff + q.len ≤ low) → pl.key = place (q.voff + (low - q.hoff)))))) ∧
    (∀ root, (root = match s.instOf p with
        | some (_, i) => if i.reeve then 0 else match Tab.get? s.launches i.launch with
          | some l => l.troot
          | none => 0
        | none => 0) → space = 8 → low < 2 ^ 48 →
      let tlb := (s.croft (siteOf p)).tlb
      let hit : TlbEntry → Bool := fun t => decide (t.root = root) && decide (t.vpn = low / 2 ^ levelBits t.level)
      let maps : Nat → Nat → Option TlbEntry → Prop := fun l e fill =>
        let w := Pte.of e
        (k.wr = true ∧ w.w = false ∨ k.amo2 = true ∧ w.tier = 2 → fails .pageProtection) ∧
        ((k.wr = true → w.w = true) → (k.amo2 = true → w.tier ≠ 2) → gives fun pl =>
          pl.key = w.tier * 2 ^ 56 + (w.addr + low % 2 ^ levelBits l) ∧ pl.home = (if pl.key / 2 ^ 56 = 2 then .bridge else .chan (pl.key / 256)) ∧
          pl.tier = w.tier + 1 ∧ pl.sysatom = w.sysatom ∧ pl.fill = fill ∧ pl.win = none ∧ pl.mirror = none ∧ pl.away = true)
      let start := root + 8 * levelIndex low 1
      (∀ t, tlb.find? hit = some t → maps t.level t.leaf.toNat none) ∧
      (tlb.find? hit = none →
        (∀ c, Walks s low 1 start (.error c) → fails c) ∧
        (∀ l e, Walks s low 1 start (.ok (l, e)) →
          maps l e (some { root := root, vpn := low / 2 ^ levelBits l, level := l, leaf := BitVec.ofNat 64 e })))) ∧
    (∀ site t, let tlb := (s.croft site).tlb
      ((s.fillTlb site (some t)).croft site).tlb = if t ∈ tlb then tlb else (tlb ++ [t]).drop (tlb.length + 1 - 256)) ∧
    (416 ≤ p → p < 432 → space = 15 →
      let r := low / 2 ^ 56
      let b := low % 2 ^ 56
      let key := r * 2 ^ 56 + b
      let inside := r = 0 ∧ b < 96 * 2 ^ 30 ∨ r = 1 ∧ b < 2 ^ 41 ∨ r = 2 ∨ r = 3 ∧ b < 432 * 2 ^ 17 ∧ offset < 0x18000 ∨ r = 4 ∧ b < 416 * 2 ^ 19
      let cell := b / 2 ^ 17
      let resident := k.wr = true ∧ r = 3 ∧ (s.cell cell).inst.isSome = true ∧ code cell
      let repair := ∃ n ∈ (s.cell cell).nodes, n.2.stt = .trapped ∧ n.2.heldFor.map (·.cause) = some .poisonFetch ∧
        ∃ d m i, k.data = some d ∧ s.instOf cell = some (m, i) ∧ ∀ j, j < k.size →
          (s.cell cell).codeOff ≤ offset + j → offset + j < (s.cell cell).codeOff + (s.cell cell).codeLen →
          let word := (i.image.code.getD ((offset + j - i.image.codeOff) / 4) 0).toNat
          d / 2 ^ (8 * j) % 256 = word / 2 ^ (8 * ((offset + j - i.image.codeOff) % 4)) % 256
      (¬ inside → fails .addressSpace) ∧ (inside → resident → ¬ repair → fails .pageProtection) ∧
      (inside → ¬ resident ∨ repair → gives fun pl => pl.key = key ∧ pl.win = none ∧ pl.mirror = none ∧
        (r ≤ 1 → pl.home = .chan (key / 256) ∧ pl.tier = r + 1) ∧ (r = 2 → pl.home = .bridge ∧ pl.tier = 3) ∧
        (r = 3 → pl.home = .cell cell ∧ pl.away = decide (cell ≠ p)) ∧ (r = 4 → pl.home = .bin (b / 2 ^ 19))))

/-- R140, R141, R247, R249, R354: a store is performed at its home: the stored bytes, lowest first at the address computed, read
as the data, every other byte of memory as before, and doublewords written whole are no longer poisoned. A store narrower than a
poisoned doubleword changes nothing. One whose tail a seal poisoned changes no byte and poisons what it would have written. Accesses of
one source to one home are performed in its order, those of either copy of a twin-mode group among them (R163, R360): one with an earlier
such access waits. -/
def Obligations.StorePerformed : Prop :=
  (∀ (s : State) (j k : Nat) (a b : Access), s.par.i = j → s.net[j]? = some a → k < j → s.net[k]? = some b →
    (∃ c ∈ b.src :: b.src2.toList, c ∈ a.src :: a.src2.toList) → (∃ h ∈ b.homes, h ∈ a.homes) → exec .accessPerformed s = .next s) ∧
  (∀ a : Access, a.home ∈ a.homes ∧ (∀ h, a.home2 = some h → h ∈ a.homes) ∧
    (∀ m, a.mirror = some m ∨ a.mirror2 = some m → .cell (m % 2 ^ 56 / 2 ^ 17) ∈ a.homes)) ∧
  ∀ (s : State) (j : Nat) (a : Access) (d : Nat), s.par.i = j → s.net[j]? = some a → s.mayPerform j = true → a.op = .store d →
    a.mirror = none → a.mirror2 = none → s.sealedHome a.home = false →
    let key := s.keyNow a.key a.win
    s.absentAt key = false → (a.size < 8 → s.Sound key a.size) → a.home2 = none →
    ∃ t, exec .accessPerformed s = .next t ∧
      (a.tail = false → (8 ≤ a.size ∨ poisonedAt s.poison key a.size = false) →
        t.net = s.net.eraseIdx j ∧ t.cells = s.cells ∧ t.insts = s.insts ∧
        (∀ b, b < a.size → Memory.get t.mem (key + b) = BitVec.ofNat 8 (d / 256 ^ b)) ∧
        (∀ b, (b < key ∨ key + a.size ≤ b) → Memory.get t.mem b = Memory.get s.mem b) ∧
        (∀ w, w ∈ t.poison ↔ w ∈ s.poison ∧ ¬ (key ≤ 8 * w ∧ 8 * w + 8 ≤ key + a.size))) ∧
      (a.tail = false → a.size < 8 → poisonedAt s.poison key a.size = true → t.mem = s.mem ∧ t.poison = s.poison) ∧
      (a.tail = true → t.mem = s.mem ∧ t.net = s.net.eraseIdx j ∧ ∀ w ∈ dwords key a.size, w ∈ t.poison)

/-- R28, R141, R142, R247, R350: a load is performed at its home and answers the node that waits for it with the bytes there, or,
where they are poisoned or the home's cell is sealed, with the trap of POISON_CONSUMED; no byte of memory changes. A doubleword of
the package's own storage with an error that its code only detects is found poisoned. -/
def Obligations.LoadPerformed : Prop :=
  ∀ (s : State) (j : Nat) (a : Access) (r : Ret) (n : Node), s.par.i = j → s.net[j]? = some a → s.mayPerform j = true →
    a.op = .load → a.read = none → a.home2 = none → a.rets = [r] → s.node? r.pcell r.slot = some n → n.gen = r.gen →
    let key := s.keyNow a.key a.win
    s.absentAt key = false →
    let trap : List Nat → Trap := fun p =>
      { cause := .poisonConsumed, detail := a.detail,
        taddr := a.va + BitVec.ofNat 64 (if a.size ≤ 8 then 0 else firstPoison p key a.size) }
    (s.Sound key a.size → ∃ t x, exec .accessPerformed s = .next t ∧ t.mem = s.mem ∧ t.poison = s.poison ∧
      t.net = s.net.eraseIdx j ∧ t.node? r.pcell r.slot = some (n.receive r x) ∧ x.data = Memory.num s.mem key a.size ∧
      x.poison = (if s.sealedHome a.home = true ∨ poisonedAt s.poison key a.size = true then some (trap s.poison) else none)) ∧
    (∀ d e, key = 8 * d → a.size = 8 → keyRegion key ∈ [3, 4, 5, 6] → s.flaws = [(d, e)] → 2 ≤ e →
      ∃ t x, exec .accessPerformed s = .next t ∧ t.mem = s.mem ∧ d ∈ t.poison ∧ t.flaws = [] ∧
        t.node? r.pcell r.slot = some (n.receive r x) ∧ x.poison = some (trap t.poison))

/-- R28, R37, R50, R141, R143, R145, R148, R151, R154, R155, R362: an interlocked result arrives: its registers take the value and
its flags are set, a vector load the whole register or its low half, a gather the selected lanes alone; the node then has the
watchpoint of a compare-and-swap that wrote to take at a boundary to come. One that is poisoned writes nothing, and the node has
the trap of its lowest poisoned part to take. One not complete waits. The result of a CRIT follower that outvoted an execution
counts a corrected error of the cell (R350). -/
def Obligations.ResultArrives : Prop :=
  ∀ (s : State) (n : Node) (o : Owed), s.node? s.par.pcell s.par.slot = some n → n.owed[s.par.i]? = some o →
    let m : Node := { n with owed := n.owed.eraseIdx s.par.i }
    let gives : Node → Prop := fun k => o.outvoted = false →
      exec .valueArrival s = .next (s.setNode s.par.pcell s.par.slot k)
    let w : Loc → Nat → RegWrite := fun l v => ⟨l, .word (BitVec.ofNat 32 v)⟩
    (o.got.length < o.need → gives n) ∧
    (∀ ws, o.form = .value ws → o.need = 0 → o.got = [] → gives (ws.foldl Node.write (m.raise o.flags))) ∧
    (∀ (x : Part) (t : Trap), o.got = [x] → o.need ≤ 1 → x.poison = some t → gives { m with pend := m.pend ++ [t] }) ∧
    (∀ (x : Part), o.got = [x] → o.need ≤ 1 → x.n = 0 → x.poison = none → o.flags = 0 →
      let seen : Node → Node := fun k => match o.watch with
        | some t => if x.wrote = true then { k with pend := k.pend ++ [t] } else k
        | none => k
      let puts : Node → Prop := fun k => gives (seen k)
      (∀ l k, o.form = .load l k false → puts (m.write (w l x.data))) ∧
      (∀ l k, o.form = .load l k true → k ∈ [1, 2, 4] → x.data < 2 ^ (8 * k) →
        puts (m.write (w l (if x.data < 2 ^ (8 * k - 1) then x.data else x.data + (2 ^ 32 - 2 ^ (8 * k)))))) ∧
      (∀ l h, o.form = .pair l h → puts ((m.write (w l x.data)).write (w h (x.data / 2 ^ 32)))) ∧
      (∀ k, o.form = .areg k → puts { m with a := Store.set 0 m.a k (BitVec.ofNat 64 x.data) }) ∧
      (∀ l, o.form = .second l → puts (m.write (w l x.data))) ∧
      (∀ k c half, o.form = .vec k half → m.vec = some c →
        let old := (Store.get ({} : VCell) c.v k).val
        let new : Vec := BitVec.ofNat 512 x.data
        ∃ v : Vec, puts { m with vec := some { c with v := Store.set {} c.v k { val := v, live := true } } } ∧
          ∀ j, j < 512 → v.getLsbD j = if half = true ∧ 256 ≤ j then old.getLsbD j else new.getLsbD j) ∧
      (o.form = .discard → puts m)) ∧
    (∀ k c half, o.form = .gather k half → m.vec = some c → o.need ≤ o.got.length → (∀ x ∈ o.got, x.poison = none) → o.flags = 0 →
      o.watch = none →
      let width := if half then 16 else 32
      (∀ x ∈ o.got, x.n < 512 / width ∧ x.data < 2 ^ width) → (o.got.map (·.n)).Nodup →
      let old := (Store.get ({} : VCell) c.v k).val
      ∃ v : Vec, gives { m with vec := some { c with v := Store.set {} c.v k { val := v, live := true } } } ∧
        (∀ x ∈ o.got, v.toNat / 2 ^ (width * x.n) % 2 ^ width = x.data) ∧
        (∀ j, j < 512 → (∀ x ∈ o.got, j / width ≠ x.n) → v.getLsbD j = old.getLsbD j)) ∧
    (∀ (x y : Part) l h, o.got = [x, y] → o.need = 2 → x.n = 0 → y.n = 1 → x.poison = none → y.poison = none → o.flags = 0 →
      o.watch = none → o.form = .two l h → gives ((m.write (w l x.data)).write (w h y.data))) ∧
    (o.outvoted = true → (s.cell s.par.pcell).secnt < 0xFFFF →
      ∃ t, exec .valueArrival s = .next t ∧ (t.cell s.par.pcell).secnt = (s.cell s.par.pcell).secnt + 1)

/-- R148, R149, R151: atomics. The old value is owed to g[d], a pair for the doubleword forms, and the access carries the
function and the operands; DCAS and AMOV2 check both addresses, the first first, and take AMO_ALIAS where they are equal. A
watchpoint of kind store meets a compare-and-swap only when its write is known (R37). The access of the two words joins those in
flight wherever its homes are; in twin mode one that leaves its cell waits for its like instead (R360), and one that stays in the cell
holds it while an earlier AMO2 with a word there so waits (log entry 74). AMO_ALIAS with SECOND 0 is the model's choice (log entry
127). -/
def Obligations.AtomicResults : Prop :=
  ∀ (s : State) (u : Issue) (d b : GReg) (x : AReg) (la lb dw : Bool),
    let val : GReg → Nat := fun r => (u.n.getG r).toNat
    let name : Bool → GReg → List RegName := fun w r => if w then [.g r, .g (r + 1)] else [.g r]
    let num : Bool → GReg → Nat := fun w r => if w then val r + 2 ^ 32 * val (r + 1) else val r
    let back : Nat → Ret := fun part => { pcell := u.p, slot := u.i, gen := u.n.gen, tok := u.n.tok, part := part }
    let rel : Bool → Bool → List Loc := fun w cas =>
      u.n.locs ((if lb then name w b else []) ++ if cas && la then name w d else [])
    let owed : Bool → Bool → OwedForm → Nat → Option Trap → Node := fun w cas form need watch =>
      (u.n.releaseAll (rel w cas)).owe (u.n.locs (name w d)) form need (watch := watch)
    let amo : Instr → Nat → Bool → Bool → Prop := fun i fn w cas =>
      let a := u.n.getA x
      let k : Acc := { size := if w then 8 else 4, rd := true, wr := true }
      let form : OwedForm :=
        match w, u.n.loc (.g d), u.n.loc (.g (d + 1)) with
        | true, some l, some h => .pair l h
        | true, _, _ => .discard
        | false, some l, _ => .load l 4 false
        | false, none, _ => .discard
      let now := (u.n.watch a { k with wr := !cas }).map (fun t => ({ t with detail := k.detail } : Trap))
      let later := (if cas && now.isNone then u.n.watch a { k with rd := false } else none).map
        (fun t => ({ t with detail := k.detail } : Trap))
      Clear s u ([.a x] ++ name w b ++ if cas then name w d else []) (name w d) →
      (∀ t, checkAccess s u.p a k = .error t → Traps i s u t) ∧
      (∀ pl, checkAccess s u.p a k = .ok pl → s.ownWaits u pl.away = true → Holds i s u) ∧
      (∀ pl, checkAccess s u.p a k = .ok pl → s.ownWaits u pl.away = false →
        exec i s = .next ((sendOne s u pl (.amo fn (num w b) (if cas then num w d else 0)) k a [back 0]).complete u.p u.i u.c 0 0
          (owed w cas form 1 later) none now u.n.singleStep))
    let a1 := u.n.getA x
    let a2 := u.n.getA (x + 1)
    let k1 : Acc := { size := 4, rd := true, wr := true, amo2 := true }
    let k2 : Acc := { k1 with second := true }
    let both : Instr → Bool → OwedForm → Nat → AccOp → List Ret → Prop := fun i w form need op rets =>
      Clear s u ([.a x, .a (x + 1)] ++ name w b ++ if w then name w d else []) (name w d) →
      (∀ e, checkAccess s u.p a1 k1 = .error e → Traps i s u e) ∧
      (∀ p1 e, checkAccess s u.p a1 k1 = .ok p1 → checkAccess s u.p a2 k2 = .error e → Traps i s u e) ∧
      (∀ p1 p2, checkAccess s u.p a1 k1 = .ok p1 → checkAccess s u.p a2 k2 = .ok p2 → a1 = a2 →
        Traps i s u { cause := .amoAlias, detail := k1.detail, taddr := a1 }) ∧
      (∀ p1 p2, checkAccess s u.p a1 k1 = .ok p1 → checkAccess s u.p a2 k2 = .ok p2 → a1 ≠ a2 →
        s.ownWaits u (p1.away || p2.away) = true → Holds i s u) ∧
      (∀ p1 p2, checkAccess s u.p a1 k1 = .ok p1 → checkAccess s u.p a2 k2 = .ok p2 → a1 ≠ a2 →
        s.ownWaits u (p1.away || p2.away) = false →
        ∃ (t : State) (later now : Option Trap),
          exec i s = .next (t.complete u.p u.i u.c 0 0 (owed w w form need later) none now u.n.singleStep) ∧
          (u.n.dbgc.extractLsb' 4 2 = 0 ∨ u.n.inTrap = true → later = none ∧ now = none) ∧
          t.mem = s.mem ∧ t.poison = s.poison ∧ t.cells = s.cells ∧
          let sent : Access → Prop := fun y => y.src = .node u.p u.i u.n.gen ∧ (y.home, y.home2) = (p1.home, some p2.home) ∧
            (y.key, y.win, y.va) = (p1.key, p1.win, a1) ∧ (y.key2, y.win2, y.va2) = (p2.key, p2.win, a2) ∧ y.size = 4 ∧ y.op = op ∧
            y.rets = rets
          (p1.away = false ∧ p2.away = false ∨ (∀ k i, s.instOf u.p = some (k, i) → i.twin = []) →
            t.insts = s.insts ∧ ∃ y, sent y ∧ t.net = s.net ++ [y]) ∧
          (∀ k i, p1.away = true ∨ p2.away = true → s.instOf u.p = some (k, i) → i.twin ≠ [] → t.net = s.net ∧ ∃ y, sent y ∧
            t.inst? k = some { i with twinq := i.twinq ++ [{ second := s.isTwinCell u.p, lcell := (s.cell u.p).lcell, msg := .access y }] }))
    amo (.amoadd d x b lb dw) 0 dw false ∧ amo (.amoand d x b lb dw) 1 dw false ∧ amo (.amoor d x b lb dw) 2 dw false ∧
    amo (.amoxor d x b lb dw) 3 dw false ∧ amo (.amomins d x b lb dw) 4 dw false ∧ amo (.amomaxs d x b lb dw) 5 dw false ∧
    amo (.amominu d x b lb dw) 6 dw false ∧ amo (.amomaxu d x b lb dw) 7 dw false ∧ amo (.amoswap d x b lb dw) 8 dw false ∧
    amo (.amocas d x b la lb dw) 9 dw true ∧ amo (.amofadd d x b lb) 10 false false ∧
    both (.dcas d x b la lb) true
      (match u.n.loc (.g d), u.n.loc (.g (d + 1)) with
        | some l, some h => .two l h
        | _, _ => .discard) 2 (.dcas (val b) (val (b + 1)) (val d) (val (d + 1))) [back 0, back 1] ∧
    both (.amov2 d x b lb) false
      (match u.n.loc (.g d) with
        | some l => .second l
        | none => .discard) 1 (.amov2 (val b)) [back 0]

/-- R148, R149, R150, R247, R325: an atomic is performed in one step: the location takes the new value of its function, every
other byte of memory stays, and the old value is answered. At the host bridge it takes two: the bridge reads, by RdOwn for a page
with SYSATOM and else by RdCurr, and a later step writes the new value of what was read, so that a host store to a page without
SYSATOM may come between and be lost; no other access to a line that the bridge holds so, be it that of its second word, is performed
in between. R151: DCAS writes both words if both hold what is expected, else neither; AMOV2 moves the first
word to the second location and writes the first. Both answer the old words, and no other byte of memory changes; in twin mode the words
of the other copy's cells take the same values (R360). An atomic whose tail a seal poisoned changes no byte and poisons its location
(R354; that it does is the model's choice, log entry 125). -/
def Obligations.AtomicPerformed : Prop :=
  (∀ (s : State) (j : Nat) (a : Access) (fn v e : Nat), s.par.i = j → s.net[j]? = some a → s.mayPerform j = true →
    a.op = .amo fn v e →
    (∀ (r : Ret) (n : Node), a.mirror = none → a.tail = false → s.sealedHome a.home = false → a.size ∈ [4, 8] → a.home2 = none →
      a.rets = [r] → s.node? r.pcell r.slot = some n → n.gen = r.gen →
      let key := s.keyNow a.key a.win
      let w := 8 * a.size
      let signed : Nat → Int := fun x => if x < 2 ^ (w - 1) then x else (x : Int) - 2 ^ w
      ∀ old, (a.home ≠ .bridge ∧ a.read = none ∧ old = Memory.num s.mem key a.size ∨ a.read = some (old, none) ∧ old < 2 ^ w) →
      s.absentAt key = false → poisonedAt s.poison key a.size = false → s.Sound key a.size → v < 2 ^ w → e < 2 ^ w →
      ∃ t x, exec .accessPerformed s = .next t ∧ t.net = s.net.eraseIdx j ∧
        t.node? r.pcell r.slot = some (n.receive r x) ∧ x.data = old ∧ x.poison = none ∧
        (∀ b, (b < key ∨ key + a.size ≤ b) → Memory.get t.mem b = Memory.get s.mem b) ∧
        (let new := Memory.num t.mem key a.size
         (fn = 0 → new = (old + v) % 2 ^ w) ∧ (fn = 1 → new = old &&& v) ∧ (fn = 2 → new = old ||| v) ∧ (fn = 3 → new = old ^^^ v) ∧
         (fn = 4 → new = if signed v < signed old then v else old) ∧ (fn = 5 → new = if signed old < signed v then v else old) ∧
         (fn = 6 → new = min old v) ∧ (fn = 7 → new = max old v) ∧ (fn = 8 → new = v) ∧
         (fn = 9 → if old = e then new = v else t.mem = s.mem) ∧
         (fn = 10 → a.size = 4 → new = (fpAdd fp32 0 false old v).1 % 2 ^ 32))) ∧
    (a.tail = true → s.sealedHome a.home = false → a.home ≠ .bridge ∨ a.read.isSome = true → ∃ t, exec .accessPerformed s = .next t ∧
      t.mem = s.mem ∧ ∀ w ∈ dwords (s.keyNow a.key a.win) a.size, w ∈ t.poison) ∧
    (a.home = .bridge → a.read = none →
      ∃ t p, exec .accessPerformed s = .next t ∧ t.mem = s.mem ∧ t.cells = s.cells ∧
        t.net = s.net.set j { a with read := some (Memory.num s.mem a.key a.size, p) } ∧
        t.pkg.cacheReqs = s.pkg.cacheReqs ++
          [{ kind := if a.sysatom = true then .rdOwn else .rdCurr, addr := a.key % 2 ^ 56, n := a.size }])) ∧
  (∀ (s : State) (j : Nat) (a : Access), s.par.i = j → s.net[j]? = some a → s.mayPerform j = true →
    a.mirror = none → a.mirror2 = none → a.tail = false → s.sealedHome a.home = false →
    (∀ h, a.home2 = some h → s.sealedHome h = false) → a.size = 4 → a.read = none →
    let k1 := s.keyNow a.key a.win
    let k2 := s.keyNow a.key2 a.win2
    let w1 := Memory.num s.mem k1 4
    let w2 := Memory.num s.mem k2 4
    s.absentAt k1 = false → s.absentAt k2 = false → poisonedAt s.poison k1 4 = false → poisonedAt s.poison k2 4 = false →
    s.Sound k1 4 → s.Sound k2 4 → (k1 + 4 ≤ k2 ∨ k2 + 4 ≤ k1) →
    ∃ t, exec .accessPerformed s = .next t ∧
      (∀ v1 v2 e1 e2, a.op = .dcas v1 v2 e1 e2 → v1 < 2 ^ 32 → v2 < 2 ^ 32 →
        (∀ b, (b < k1 ∨ k1 + 4 ≤ b) → (b < k2 ∨ k2 + 4 ≤ b) → Memory.get t.mem b = Memory.get s.mem b) ∧
        Memory.num t.mem k1 4 = (if w1 = e1 ∧ w2 = e2 then v1 else w1) ∧
        Memory.num t.mem k2 4 = (if w1 = e1 ∧ w2 = e2 then v2 else w2) ∧
        (∀ r r' n, a.rets = [r, r'] → r.part = 0 → r'.part = 1 → r'.pcell = r.pcell → r'.slot = r.slot → r'.gen = r.gen →
          r'.tok = r.tok → s.node? r.pcell r.slot = some n → n.gen = r.gen →
          ∃ x y : Part, x.data = w1 ∧ y.data = w2 ∧ t.node? r.pcell r.slot = some ((n.receive r x).receive r' y))) ∧
      (∀ v, a.op = .amov2 v → v < 2 ^ 32 →
        (∀ b, (b < k1 ∨ k1 + 4 ≤ b) → (b < k2 ∨ k2 + 4 ≤ b) → Memory.get t.mem b = Memory.get s.mem b) ∧
        Memory.num t.mem k1 4 = v ∧ Memory.num t.mem k2 4 = w1 ∧
        (∀ r n, a.rets = [r] → s.node? r.pcell r.slot = some n → n.gen = r.gen →
          ∃ x : Part, x.data = w2 ∧ t.node? r.pcell r.slot = some (n.receive r x)))) ∧
  (∀ (s : State) (j : Nat) (a : Access) (m1 m2 : Nat), s.par.i = j → s.net[j]? = some a → s.mayPerform j = true →
    a.mirror = some m1 → a.mirror2 = some m2 → a.tail = false → s.sealedHome a.home = false →
    (∀ h, a.home2 = some h → s.sealedHome h = false) → a.size = 4 → a.read = none →
    let k1 := s.keyNow a.key a.win
    let k2 := s.keyNow a.key2 a.win2
    s.absentAt k1 = false → s.absentAt k2 = false → poisonedAt s.poison k1 4 = false → poisonedAt s.poison k2 4 = false → s.flaws = [] →
    [k1, k2, m1, m2].Pairwise (fun x y => x + 4 ≤ y ∨ y + 4 ≤ x) →
    ∃ t, exec .accessPerformed s = .next t ∧
      (∀ v1 v2, a.op = .dcas v1 v2 (Memory.num s.mem k1 4) (Memory.num s.mem k2 4) → v1 < 2 ^ 32 → v2 < 2 ^ 32 →
        (Memory.num t.mem k1 4, Memory.num t.mem k2 4, Memory.num t.mem m1 4, Memory.num t.mem m2 4) = (v1, v2, v1, v2)) ∧
      (∀ v, a.op = .amov2 v → v < 2 ^ 32 → let w := Memory.num s.mem k1 4
        (Memory.num t.mem k1 4, Memory.num t.mem k2 4, Memory.num t.mem m1 4, Memory.num t.mem m2 4) = (v, w, v, w))) ∧
  (∀ (s : State) (j : Nat) (a z : Access), s.par.i = j → s.net[j]? = some a → a.read = none → z ∈ s.net → z.read.isSome = true →
    (keyRegion a.key = 2 ∧ z.key / 64 = a.key / 64 ∨ a.home2.isSome = true ∧ keyRegion a.key2 = 2 ∧ z.key / 64 = a.key2 / 64) →
    exec .accessPerformed s = .next s)

/-- R146, R261, R360: FENCE completes once every earlier access of the node is performed, in twin mode those that its station holds
for the other copy's and those that were performed for both nodes among them; until then its cell holds. -/
def Obligations.FenceResults : Prop :=
  ∀ (s : State) (u : Issue) (st : BitVec 2), Clear s u [] [] →
    let mine : Src := .node u.p u.i u.n.gen
    let packets : TwinPacket → Prop := fun t =>
      (∃ a, t.msg = .access a ∧ a.src = mine) ∨ (∃ n a, t.msg = .tid mine n a) ∨ ∃ n c v, t.msg = .grow mine n c v
    ((∀ a ∈ s.net, a.src ≠ mine ∧ a.src2 ≠ some mine) →
      (∀ k i, s.instOf u.p = some (k, i) → ∀ t ∈ i.twinq, ¬ packets t) →
      Completes (.fence st) s u st.toNat u.n) ∧
    ((∃ a ∈ s.net, a.src = mine ∨ a.src2 = some mine) ∨ (∃ k i, s.instOf u.p = some (k, i) ∧ ∃ t ∈ i.twinq, packets t) →
      ∃ t, exec (.fence st) s = .next t ∧ t.node? u.p u.i = some u.n ∧ (t.cell u.p).cyc = u.c + 1 ∧ Elsewhere s t u.p u.i)

/-- R154, R155, R156: vector loads, stores, gathers and scatters, with a bound context. A gather or scatter checks its selected
lanes in ascending order, and one that passes sends an access for each of them, or holds its cell while one of its lanes that stays there
waits for an AMO2 of the node (R163, log entry 74). -/
def Obligations.VectorMemoryResults : Prop :=
  ∀ (s : State) (u : Issue) (v vi : VReg) (x : AReg) (k : KReg) (sc st : BitVec 2) (off : BitVec 12) (lt : Bool),
    u.n.vec.isSome →
    let a := u.n.getA x + off.signExtend 64 * 64
    let all : Nat := (u.n.getV v).toNat
    let back : Nat → Ret := fun part => { pcell := u.p, slot := u.i, gen := u.n.gen, tok := u.n.tok, part := part }
    let rel : List RegName := if lt then [.v v] else []
    (Clear s u [.a x] [.v v] →
      Accesses (.vld v x st off) s u st.toNat a { size := 64, rd := true, vec := true } .load [back 0]
        (u.n.owe [.v v.toNat] (.vec v.toNat false) 1)) ∧
    (Clear s u [.a x, .v v] [.v v] →
      Accesses (.vldh v x st off) s u st.toNat a { size := 32, rd := true, vec := true } .load [back 0]
        (u.n.owe [.v v.toNat] (.vec v.toNat true) 1)) ∧
    (Clear s u [.a x, .v v] [] →
      Accesses (.vst v x lt st off) s u st.toNat a { size := 64, wr := true, vec := true, data := some all } (.store all) []
        (u.n.used rel) ∧
      Accesses (.vsth v x lt st off) s u st.toNat a { size := 32, wr := true, vec := true, data := some (all % 2 ^ 256) }
        (.store (all % 2 ^ 256)) [] (u.n.used rel)) ∧
    (let addr : Nat → Nat → Addr := fun w i =>
       u.n.getA x + ((BitVec.ofNat w ((u.n.getV vi).toNat / 2 ^ (w * i))).signExtend 64 <<< sc.toNat)
     let lanes : Nat → List Nat := fun w => (List.range (512 / w)).filter (fun i => (u.n.getK k).getLsbD (i * w / 32))
     let go : Instr → Nat → Bool → Bool → Prop := fun i w half load =>
       Clear s u [.a x, .v vi, .k k, .v v] (if load then [.v v] else []) →
       let kind : Nat → Acc := fun j => { size := w / 8, rd := load, wr := !load, vec := true, lane := j }
       (∀ j ∈ lanes w, ∀ t, checkAccess s u.p (addr w j) (kind j) = .error t →
         (∀ j' ∈ lanes w, j' < j → ∃ pl, checkAccess s u.p (addr w j') (kind j') = .ok pl) → Traps i s u t) ∧
       (∀ pl : Nat → Place, (∀ j ∈ lanes w, checkAccess s u.p (addr w j) (kind j) = .ok (pl j)) →
         (∃ j ∈ lanes w, s.ownWaits u (pl j).away = true) → Holds i s u) ∧
       (∀ pl : Nat → Place, (∀ j ∈ lanes w, checkAccess s u.p (addr w j) (kind j) = .ok (pl j)) →
         (∀ j ∈ lanes w, s.ownWaits u (pl j).away = false) →
         exec i s = .next (((lanes w).foldl (fun s j => sendOne s u (pl j)
             (if load then .load else .store ((u.n.getV v).toNat / 2 ^ (w * j) % 2 ^ w)) (kind j) (addr w j)
             (if load then [back j] else [])) s).complete u.p u.i u.c 0 0
           (if load then u.n.owe [.v v.toNat] (.gather v.toNat half) (lanes w).length else u.n) none
           ((lanes w).findSome? (fun j => u.n.watch (addr w j) (kind j))) u.n.singleStep))
     go (.gathw v x vi k sc) 32 false true ∧ go (.gathh v x vi k sc) 16 true true ∧
     go (.scatw v x vi k sc) 32 false false ∧ go (.scath v x vi k sc) 16 true false)

/-- R157, R45: VINT on the selected lanes of 32, 16 or 8 bits, two cycles on; the other lanes of v[d] keep their contents, those
that the instruction read where it also releases v[d] (log entry 23). -/
def Obligations.VectorIntegerResults : Prop :=
  ∀ (s : State) (u : Issue) (w : BitVec 2) (d a b : VReg) (k : KReg) (la lb : Bool) (st : BitVec 2),
    w ≠ 3#2 → u.n.vec.isSome → Steady s u →
    let z : Nat := if w = 0#2 then 32 else if w = 1#2 then 16 else 8
    let x : Nat → BitVec z := fun i => BitVec.ofNat z ((u.n.getV a).toNat / 2 ^ (z * i))
    let y : Nat → BitVec z := fun i => BitVec.ofNat z ((u.n.getV b).toNat / 2 ^ (z * i))
    let clamp : Int → BitVec z := fun v => BitVec.ofInt z (max (-2 ^ (z - 1)) (min (2 ^ (z - 1) - 1) v))
    let gives : Instr → List RegName → (Nat → BitVec z) → Prop := fun i rel f =>
      ∃ v, Completes i s u st.toNat ((u.used rel).landing (u.last + 2) (.v d) v) ∧
        Lanes z (u.n.getK k) (u.n.rest d rel) v (fun i => (f i).toNat)
    let c : Nat → Nat := fun i => (y i).toNat % (2 * z)
    (Clear s u [.v a, .v b, .k k] [.v d] →
      let both : Instr → (Nat → BitVec z) → Prop := fun i f => gives i (relV la lb a b) f
      both (.vadd w d a b k la lb st) (fun i => x i + y i) ∧ both (.vsub w d a b k la lb st) (fun i => x i - y i) ∧
      both (.vmul w d a b k la lb st) (fun i => x i * y i) ∧
      both (.vmulhs w d a b k la lb st) (fun i => BitVec.ofInt z ((x i).toInt * (y i).toInt / 2 ^ z)) ∧
      both (.vand w d a b k la lb st) (fun i => x i &&& y i) ∧ both (.vor w d a b k la lb st) (fun i => x i ||| y i) ∧
      both (.vxor w d a b k la lb st) (fun i => x i ^^^ y i) ∧ both (.vandn w d a b k la lb st) (fun i => x i &&& ~~~(y i)) ∧
      both (.vshl w d a b k la lb st) (fun i => if c i < z then x i <<< c i else 0) ∧
      both (.vshr w d a b k la lb st) (fun i => if c i < z then x i >>> c i else 0) ∧
      both (.vsha w d a b k la lb st) (fun i => (x i).sshiftRight (min (c i) z)) ∧
      both (.vmins w d a b k la lb st) (fun i => if (x i).toInt ≤ (y i).toInt then x i else y i) ∧
      both (.vmaxs w d a b k la lb st) (fun i => if (x i).toInt ≤ (y i).toInt then y i else x i) ∧
      both (.vminu w d a b k la lb st) (fun i => if x i ≤ y i then x i else y i) ∧
      both (.vmaxu w d a b k la lb st) (fun i => if x i ≤ y i then y i else x i) ∧
      both (.vadds w d a b k la lb st) (fun i => clamp ((x i).toInt + (y i).toInt)) ∧
      both (.vsubs w d a b k la lb st) (fun i => clamp ((x i).toInt - (y i).toInt))) ∧
    (Clear s u [.v a, .k k] [.v d] →
      gives (.vabs w d a k la st) (relV la false a 0) (fun i => if (x i).msb then -x i else x i)) ∧
    (w = 0#2 → Clear s u [.v a, .v b, .k k, .v d] [.v d] →
      ∃ v, Completes (.vdot4 d a b k la lb st) s u st.toNat
          ((u.used (relV la lb a b)).landing (u.last + 2) (.v d) v) ∧
        Lanes 32 (u.n.getK k) (u.n.rest d (relV la lb a b)) v (fun i =>
          (BitVec.ofNat 32 ((u.n.getV d).toNat / 2 ^ (32 * i)) +
            ((List.range 4).map (fun j =>
              ((u.n.getV a).extractLsb' (32 * i + 8 * j) 8).signExtend 32 *
                ((u.n.getV b).extractLsb' (32 * i + 8 * j) 8).signExtend 32)).foldl (· + ·) 0).toNat))

/-- R158, R159, R45, R48 to R50: vector floating point and conversions, lane by lane as the scalar operation of the format; the
exceptions of the selected lanes are set together, and where one of them is enabled the instruction writes no register, sets its
flags and traps with the cause of the lowest enabled one and the full set in the detail. VFDIV, VFSQRT are owed. A conversion
takes and gives its narrow elements in the low or the high half of the register. A register that the instruction itself releases
keeps the contents it read in the lanes not selected (log entry 23). That VFDIV and VFSQRT with FPTE not 0 complete at once, where R50
holds the cell until their results arrive, is the model's choice (log entry 99). -/
def Obligations.VectorFloatResults : Prop :=
  ∀ (s : State) (u : Issue) (w : BitVec 2) (d a b : VReg) (k : KReg) (la lb hi : Bool) (st : BitVec 2),
    w ≠ 3#2 → u.n.vec.isSome → Steady s u →
    let q : Fmt := if w = 0#2 then fp32 else if w = 1#2 then fp16 else bf16
    let z := q.width
    let m := u.n.rnd
    let t := u.n.sat
    let el : VReg → Nat → Nat := fun r i => (u.n.getV r).toNat / 2 ^ (z * i) % 2 ^ z
    let kk := u.n.getK k
    let exc : List Nat → (Nat → Nat × Exc) → Exc := fun l f => l.foldl (fun e i => e ||| (f i).2) 0
    let lanes : Nat → List Nat := fun z => (List.range (512 / z)).filter (fun i => kk.getLsbD (i * z / 32))
    let gives : Instr → List RegName → (Nat → Nat × Exc) → Prop := fun i rel f =>
      let e := exc (lanes z) f
      (e &&& u.n.fpte = 0 →
        ∃ v, Completes i s u st.toNat (((u.used rel).raise e).landing (u.last + 4) (.v d) v) ∧
          Lanes z kk (u.n.rest d rel) v (fun i => (f i).1)) ∧
      Raises i s u e
    let owes : Instr → Nat → List RegName → (Nat → Nat × Exc) → Prop := fun i z rel f =>
      let e := exc (lanes z) f
      Raises i s u e ∧
      ∃ v, Lanes z kk (u.n.rest d rel) v (fun i => (f i).1) ∧
        (u.n.fpte = 0 → Completes i s u st.toNat
          ((u.used rel).owe [.v d.toNat] (.value [⟨.v d.toNat, v⟩]) 0 e true)) ∧
        (u.n.fpte ≠ 0 → e &&& u.n.fpte = 0 → Completes i s u st.toNat (((u.used rel).raise e).writeReg (.v d) v))
    let converts : Instr → Nat → Nat → Bool → Bool → (Nat → Nat × Exc) → Prop := fun i sb db shi dhi f =>
      let src : Nat → Nat := fun i => (u.n.getV a).toNat / 2 ^ (sb * (i + if shi then 256 / sb else 0)) % 2 ^ sb
      let e := exc (lanes 32) (fun i => f (src i))
      (e &&& u.n.fpte = 0 →
        ∃ v, Completes i s u st.toNat (((u.used (relV la false a 0)).raise e).landing (u.last + 3) (.v d) v) ∧
          Elements (fun i => db * (i + if dhi then 256 / db else 0)) db 16 (fun i => kk.getLsbD i)
            (u.n.rest d (relV la false a 0)) v (fun i => (f (src i)).1)) ∧
      Raises i s u e
    let two := relV la lb a b
    let one := relV la false a 0
    (Clear s u [.v a, .v b, .k k] [.v d] →
      gives (.vfadd w d a b k la lb st) two (fun i => fpAdd q m t (el a i) (el b i)) ∧
      gives (.vfsub w d a b k la lb st) two (fun i => fpSub q m t (el a i) (el b i)) ∧
      gives (.vfmul w d a b k la lb st) two (fun i => fpMul q m t (el a i) (el b i)) ∧
      gives (.vfmin w d a b k la lb st) two (fun i => (fpMin q (el a i) (el b i), 0)) ∧
      gives (.vfmax w d a b k la lb st) two (fun i => (fpMax q (el a i) (el b i), 0)) ∧
      owes (.vfdiv w d a b k la lb st) z two (fun i => fpDiv q m t (el a i) (el b i))) ∧
    (Clear s u [.v a, .v b, .k k, .v d] [.v d] →
      gives (.vffma w d a b k la lb st) two (fun i => fpFma q m t false (el d i) (el a i) (el b i)) ∧
      gives (.vffms w d a b k la lb st) two (fun i => fpFma q m t true (el d i) (el a i) (el b i))) ∧
    (Clear s u [.v a, .k k] [.v d] →
      gives (.vfabs w d a k la st) one (fun i => (fpAbs q (el a i), 0)) ∧
      gives (.vfneg w d a k la st) one (fun i => (fpNeg q (el a i), 0)) ∧
      owes (.vfsqrt d a k la st) 32 one (fun i => fpSqrt fp32 m t ((u.n.getV a).toNat / 2 ^ (32 * i) % 2 ^ 32)) ∧
      converts (.vcvtf32f16 hi d a k la st) 32 16 false hi (fpCvt fp32 fp16 m t) ∧
      converts (.vcvtf16f32 hi d a k la st) 16 32 hi false (fpCvt fp16 fp32 m t) ∧
      converts (.vcvtf32bf hi d a k la st) 32 16 false hi (fpCvt fp32 bf16 m t) ∧
      converts (.vcvtbff32 hi d a k la st) 16 32 hi false (fpCvt bf16 fp32 m t) ∧
      converts (.vcvtf32f8a hi d a k la st) 32 8 false hi (fpCvt fp32 f8a m t) ∧
      converts (.vcvtf8af32 hi d a k la st) 8 32 hi false (fpCvt f8a fp32 m t) ∧
      converts (.vcvtf32f8b hi d a k la st) 32 8 false hi (fpCvt fp32 f8b m t) ∧
      converts (.vcvtf8bf32 hi d a k la st) 8 32 hi false (fpCvt f8b fp32 m t) ∧
      converts (.vcvtf32i32 d a k la st) 32 32 false false (fun x =>
        let r := numToInt m (-2 ^ 31) (2 ^ 31 - 1) (unpack fp32 x)
        ((BitVec.ofInt 32 r.1).toNat, r.2)) ∧
      converts (.vcvti32f32 d a k la st) 32 32 false false (fun x => intToFp fp32 m (BitVec.ofNat 32 x).toInt) ∧
      converts (.vcvti32i16 hi d a k la st) 32 16 false hi (fun x =>
        ((BitVec.ofInt 16 (max (-2 ^ 15) (min (2 ^ 15 - 1) (BitVec.ofNat 32 x).toInt))).toNat, 0)) ∧
      converts (.vcvti32i8 hi d a k la st) 32 8 false hi (fun x =>
        ((BitVec.ofInt 8 (max (-2 ^ 7) (min (2 ^ 7 - 1) (BitVec.ofNat 32 x).toInt))).toNat, 0)) ∧
      converts (.vcvti8i32 hi d a k la st) 8 32 hi false (fun x => (((BitVec.ofNat 8 x).signExtend 32).toNat, 0)))

/-- R160, R161, R45, R51: VCMP sets the selected bits of a lane mask to a condition on lanes of signed, unsigned or FP32 type
and keeps the others; VLUT3 applies a truth table to the three registers' bits in the selected lanes, and where it also releases v[d]
the lanes not selected keep the contents that it read, the model's reading (log entry 23). -/
def Obligations.VectorCompareResults : Prop :=
  ∀ (s : State) (u : Issue) (ty : BitVec 2) (kd k : KReg) (d a b : VReg) (la lb : Bool) (st : BitVec 2) (tbl : BitVec 8),
    ty ≠ 3#2 → u.n.vec.isSome → Steady s u →
    let x : Nat → Word := fun i => (u.n.getV a).extractLsb' (32 * i) 32
    let y : Nat → Word := fun i => (u.n.getV b).extractLsb' (32 * i) 32
    let nan : Word → Bool := fun x => decide (0x7F800000 < (x &&& 0x7FFFFFFF).toNat)
    let val : Word → Int := fun v =>
      if ty = 0#2 then v.toInt else if ty = 1#2 then v.toNat
      else if v.msb then -((v &&& 0x7FFFFFFF).toNat : Int) else (v &&& 0x7FFFFFFF).toNat
    let un : Nat → Bool := fun i => nan (x i) || nan (y i)
    let ord : Nat → Bool := fun i => decide (ty ≠ 2#2) || !un i
    let gives : Instr → (Nat → Bool) → Prop := fun i f =>
      ∃ v, Completes i s u st.toNat ((u.used (relV la lb a b)).landing (u.last + 2) (.k kd) v) ∧
        ∀ old : BitVec 16, ∀ j, j < 16 → (v.onLanes old).getLsbD j = if (u.n.getK k).getLsbD j then f j else old.getLsbD j
    (Clear s u [.v a, .v b, .k k] [.k kd] →
      gives (.vcmpeq ty kd a b k la lb st) (fun j => ord j && decide (val (x j) = val (y j))) ∧
      gives (.vcmpne ty kd a b k la lb st) (fun j => !(ord j && decide (val (x j) = val (y j)))) ∧
      gives (.vcmplt ty kd a b k la lb st) (fun j => ord j && decide (val (x j) < val (y j))) ∧
      gives (.vcmple ty kd a b k la lb st) (fun j => ord j && decide (val (x j) ≤ val (y j))) ∧
      gives (.vcmpgt ty kd a b k la lb st) (fun j => ord j && decide (val (y j) < val (x j))) ∧
      gives (.vcmpge ty kd a b k la lb st) (fun j => ord j && decide (val (y j) ≤ val (x j))) ∧
      gives (.vcmpun kd a b k la lb st) un) ∧
    (Clear s u [.v a, .v b, .k k, .v d] [.v d] →
      ∃ v, Completes (.vlut3 d a b k la lb tbl) s u 0 ((u.used (relV la lb a b)).landing (u.last + 2) (.v d) v) ∧
        ∀ old : Vec, ∀ j, j < 512 → (v.onVec old).getLsbD j =
          if (u.n.getK k).getLsbD (j / 32) then
            tbl.getLsbD (4 * ((u.n.getV d).getLsbD j).toNat + 2 * ((u.n.getV a).getLsbD j).toNat + ((u.n.getV b).getLsbD j).toNat)
          else (u.n.rest d (relV la lb a b) old).getLsbD j)

/-- R162, R27, R50, R59: the permutes, reductions and mask moves. All but the mask moves are owed; VMOVK and VKMOV land two cycles
on. That VREDFADD with FPTE not 0 completes at once, where R50 holds the cell until its result arrives, is the model's choice (log entry
99). -/
def Obligations.VectorPermuteResults : Prop :=
  ∀ (s : State) (u : Issue) (v vb : VReg) (g : GReg) (n kn : BitVec 6), u.n.vec.isSome → Steady s u → n.toNat < 16 → kn.toNat < 8 →
    let x : Nat → Word := fun i => (u.n.getV vb).extractLsb' (32 * i) 32
    let old : Nat → Word := fun i => (u.n.getV v).extractLsb' (32 * i) 32
    let all : BitVec 16 := 0xFFFF
    let k : KReg := kn.truncate 3
    let vec : Instr → (Nat → Word) → Prop := fun i f =>
      ∃ r, Completes i s u 0 ((u.used []).owing (.v v) r) ∧ Lanes 32 all id r (fun j => (f j).toNat)
    let word : Instr → Word → Prop := fun i w => Completes i s u 0 ((u.used []).owing (.g g) (.word w))
    (Clear s u [.g g] [.v v] →
      vec (.vbcast v g) (fun _ => u.n.getG g) ∧
      ∃ r, Completes (.vins v g n) s u 0 ((u.used []).owing (.v v) r) ∧
        Elements (fun _ => 32 * n.toNat) 32 1 (fun _ => true) id r (fun _ => (u.n.getG g).toNat)) ∧
    (Clear s u [.v v, .v vb] [.v v] → vec (.vshuf v vb) (fun j => x ((old j).toNat % 16))) ∧
    (Clear s u [.v vb] [.v v] →
      vec (.vrot v vb n) (fun j => x ((j + n.toNat) % 16)) ∧
      vec (.vscan v vb) (fun j => ((List.range (j + 1)).map x).foldl (· + ·) 0)) ∧
    (Clear s u [.v vb] [.g g] →
      word (.vext g vb n) (x n.toNat) ∧ word (.vredadd g vb) (((List.range 16).map x).foldl (· + ·) 0) ∧
      word (.vredmax g vb) (BitVec.ofNat 32 ((List.range 15).foldl (fun m i => fpMax fp32 m (x (i + 1)).toNat) (x 0).toNat)) ∧
      word (.vredmin g vb) (BitVec.ofNat 32 ((List.range 15).foldl (fun m i => fpMin fp32 m (x (i + 1)).toNat) (x 0).toNat)) ∧
      (let r := (List.range 15).foldl (fun (acc : Nat × Exc) i =>
          let q := fpAdd fp32 0 u.n.sat acc.1 (x (i + 1)).toNat
          (q.1, acc.2 ||| q.2)) ((x 0).toNat, 0)
       let l := u.n.locs [.g g]
       (u.n.fpte = 0 → Completes (.vredfadd g vb) s u 0
         ((u.used []).owe l (.value (l.map fun q => ⟨q, .word (BitVec.ofNat 32 r.1)⟩)) 0 r.2 true)) ∧
       (u.n.fpte ≠ 0 → r.2 &&& u.n.fpte = 0 → Completes (.vredfadd g vb) s u 0
         (((u.used []).raise r.2).writeReg (.g g) (.word (BitVec.ofNat 32 r.1)))) ∧
       Raises (.vredfadd g vb) s u r.2)) ∧
    (Clear s u [.k k] [.g g] →
      word (.vpopk g kn) (BitVec.ofNat 32 ((List.range 16).countP (fun j => (u.n.getK k).getLsbD j))) ∧
      Completes (.vkmov g kn) s u 0 ((u.used []).landing (u.last + 2) (.g g) (.word ((u.n.getK k).zeroExtend 32)))) ∧
    (Clear s u [.g g] [.k k] →
      Completes (.vmovk kn g) s u 0 ((u.used []).landing (u.last + 2) (.k k) (.lanes ((u.n.getG g).extractLsb' 0 16) all)))

/-- R15, R171, R174: EVTEST and an EVWAIT on a known event write its status; EVWAIT on an event whose status is unknown waits, unless
the node takes part in it and has not offered it, which is a CAUSALITY_CYCLE; its stall count passes before another node of its cell
issues (R15). DLR reads the committed copy, DLW writes the
pending one. -/
def Obligations.EventResults : Prop :=
  ∀ (s : State) (u : Issue) (d a : GReg) (la : Bool) (st : BitVec 2) (r : BitVec 3),
    let e := (u.n.getG a).toNat % 1024
    let n := (u.n.used (rel1 la a))
    (∀ k i, Clear s u [.g a] [.g d] → s.instOf u.p = some (k, i) →
      let code : EvSt → Word := fun x => match x with
        | .unknown => 0
        | .present => 1
        | .absent => 2
        | .faulted => 3
      (i.image.events.length ≤ e →
        Traps (.evtest d a la st) s u { cause := .eventChoiceInvalid, detail := 16, taddr := 0 } ∧
        (u.n.inTrap = false → Traps (.evwait d a la st) s u { cause := .eventChoiceInvalid, detail := 16, taddr := 0 })) ∧
      (e < i.image.events.length → (i.event e).nodePart u.n.ordinal = none →
        Traps (.evtest d a la st) s u { cause := .eventNotParticipant, detail := BitVec.ofNat 16 e, taddr := 0 }) ∧
      (∀ p, e < i.image.events.length → (i.event e).nodePart u.n.ordinal = some p →
        Completes (.evtest d a la st) s u st.toNat (n.writeReg (.g d) (.word (code (i.status e)))) ∧
        (u.n.inTrap = true → exec (.evwait d a la st) s = .next (s.trapUnperformed u { cause := .doubleTrap } 0 true)) ∧
        (u.n.inTrap = false → i.status e ≠ .unknown →
          Completes (.evwait d a la st) s u st.toNat (n.writeReg (.g d) (.word (code (i.status e))))) ∧
        (u.n.inTrap = false → i.status e = .unknown → p.obs = false → e ∉ u.n.made.getD [] →
          Traps (.evwait d a la st) s u { cause := .causalityCycle, detail := BitVec.ofNat 16 e, taddr := 0 }) ∧
        (u.n.inTrap = false → i.status e = .unknown → p.obs = true ∨ e ∈ u.n.made.getD [] →
          ∃ t m w, exec (.evwait d a la st) s = .next t ∧ t.node? u.p u.i = some m ∧ m.stt = .waiting ∧ m.wait = some w ∧
            w.ev = e ∧ w.d = d ∧ m.resolved = none ∧ m.pc = u.n.pc ∧ (t.cell u.p).running ≠ some u.i ∧
            u.c + 1 + st.toNat + u.n.hints.stall ≤ (t.cell u.p).cyc ∧ t.mem = s.mem))) ∧
    (Clear s u [] [.g d] →
      Completes (.dlr d r st) s u st.toNat (u.n.writeReg (.g d) (.word (Store.get 0 u.n.dComm r.toNat)))) ∧
    (Clear s u [.g a] [] →
      let m := u.n.used (rel1 la a)
      ∃ k : Node, Completes (.dlw r a la st) s u st.toNat k ∧ Store.get 0 k.dPend r.toNat = u.n.getG a ∧
        (∀ j, j ≠ r.toNat → Store.get 0 k.dPend j = Store.get 0 u.n.dPend j) ∧ r.toNat ∈ k.dWritten ∧ k.dComm = u.n.dComm ∧
        { k with dPend := [], dWritten := [] } = { m with dPend := [], dWritten := [] })

/-- R15, R37, R166 to R168, R172, R173: OFFER captures its record, once, and holds its cell until the node's earlier accesses are
performed, whatever is written to the record meanwhile; its persist flag is then written to byte 1 of the record and bytes 4 to 15 of
the header are cleared, and the node stops in OFFERING; what the new offer settles at once is R229's, and in twin mode the offer waits
for its like. One that fails a check, or a second one of the instant, traps. That the record is read and captured in one step, once the
node's accesses to its own cell are performed, is the model's choice (log entry 3). PAUSE and RETIRE complete and end the reaction, and
every event that requires a RETIRED node is absent from then on, or faulted by a seal, in the reeve domain as in any (R173, R224, R229); a
breakpoint that RTT had suppressed fires again after PAUSE. In trap mode OFFER and PAUSE are held as a DOUBLE_TRAP. -/
def Obligations.ReactionEnds : Prop :=
  ∀ (s : State) (u : Issue) (d : GReg) (a : AReg) (persist : Bool) (st : BitVec 2) (k : BitVec 5),
    let mine : Src := .node u.p u.i u.n.gen
    let here := s.inFlightTo mine (.cell u.p)
    let forbidden : Instr → Prop := fun i =>
      u.n.inTrap = true → exec i s = .next (s.trapUnperformed u { cause := .doubleTrap } 0 true)
    let holds : Instr → Node → Prop := fun i n =>
      ∃ t, exec i s = .next t ∧ t.node? u.p u.i = some n ∧ (t.cell u.p).cyc = u.c + 1 ∧ Elsewhere s t u.p u.i
    let captured : List OfferEntry → Prop := fun l =>
      u.n.hints.offer = some l ∨ u.n.hints.offer = none ∧ here = false ∧ checkOffer s u (u.n.getA a) = .ok l
    (Clear s u [.a a] [.g d] →
      forbidden (.offer d a persist st) ∧
      (u.n.inTrap = false → u.n.made.isSome → Traps (.offer d a persist st) s u { cause := .eventSecondOffer, detail := 0, taddr := 0 }) ∧
      (u.n.inTrap = false → u.n.made = none → u.n.hints.offer = none →
        (here = true → holds (.offer d a persist st) u.n) ∧
        (∀ t, here = false → checkOffer s u (u.n.getA a) = .error t → Traps (.offer d a persist st) s u t)) ∧
      (∀ l, u.n.inTrap = false → u.n.made = none → captured l → s.inFlight mine = true →
        holds (.offer d a persist st) { u.n with hints := { u.n.hints with offer := some l } }) ∧
      (∀ l, u.n.inTrap = false → u.n.made = none → captured l → s.inFlight mine = false →
        ∃ t m f, exec (.offer d a persist st) s = .next t ∧ t.node? u.p u.i = some m ∧ m.stt = .offering ∧
          m.made = some (l.map (·.ev)) ∧ m.offer = some f ∧ f.entries = l ∧ f.persist = persist ∧ f.d = d ∧
          f.recAddr = (u.n.getA a).toNat % 2 ^ 17 ∧ m.pc = u.n.pc) ∧
      (∀ l k i, u.n.inTrap = false → u.n.made = none → captured l → s.inFlight mine = false → s.instOf u.p = some (k, i) →
        let off := (u.n.getA a).toNat % 2 ^ 17
        let key := keyLocal u.p off
        let f : Offer := { recAddr := off, persist := persist, entries := l, d := d, st := st.toNat }
        ∃ r : State, exec (.offer d a persist st) s = .next
            (if i.twin.isEmpty then r.refresh k
             else r.setInst k { i with twinq := i.twinq ++
               [{ second := s.isTwinCell u.p, lcell := (s.cell u.p).lcell, msg := .offer (s.cell u.p).lcell u.i f }] }) ∧
          (∃ m, r.node? u.p u.i = some m ∧ m.stt = .offering ∧ m.offer = some f ∧ m.resolved = none ∧ m.hints.offer = none) ∧
          Memory.get r.mem (key + 1) = (if persist then 1 else 0) ∧
          (∀ j, 4 ≤ j → j < 16 → Memory.get r.mem (key + j) = 0) ∧
          (∀ b, b ≠ key + 1 → (b < key + 4 ∨ key + 16 ≤ b) → Memory.get r.mem b = Memory.get s.mem b) ∧
          r.insts = s.insts ∧ r.net = s.net ∧ (∀ c, c ≠ u.p → r.cell c = s.cell c))) ∧
    (Clear s u [] [] →
      forbidden (.pause k st) ∧
      (u.n.inTrap = false →
        ∃ t m, exec (.pause k st) s = .next t ∧ t.node? u.p u.i = some m ∧ m.stt = .paused ∧ m.pauseN = k.toNat ∧
          m.pc = (u.n.advance none).pc ∧ m.hints = {} ∧ m.bkSkip = none) ∧
      (s.inFlight mine = false → ∃ t m, exec (.retire st) s = .next t ∧ t.node? u.p u.i = some m ∧ m.stt = .retired ∧
        ∀ k i, s.instOf u.p = some (k, i) → ∃ j, t.inst? k = some j ∧
          ∀ e ∈ i.evs, (∃ q ∈ (i.event e).required, q.pkind = 0 ∧ i.place q.id = some (u.p, u.i)) →
            j.status e ≠ .unknown ∧ j.permanent e ∈ [EvSt.absent, EvSt.faulted] ∧
            (i.status e ≠ .unknown → j.status e = i.status e)) ∧
      (s.inFlight mine = true → holds (.retire st) u.n))

/-- R181, R264: MCLAIM of a FREE operand slot gives it to the node and answers 0, of any other answers 1; MREL by the holder
gives it up, RELEASING while a command names it, and otherwise takes SLOT_NOT_OWNED. On a cell of another role they take
ENGINE_ROLE. R175 to R194: an engine command whose checks pass waits at its second issue cycle for its engine's queue, with the
operands and the order control that its words or its descriptor give; one that fails a check traps, and on a cell of another
role takes ENGINE_ROLE. A CPY or CNV command
has the operands of the descriptor that it reads, in the step in which it issues (log entry 3, a choice of the model), and a
watchpoint that the read touches follows it (R37). In twin mode a command holds its cell while a TIDSET or TIDCLR of its node waits for
the other copy's (R194, R261, log entry 112). -/
def Obligations.EngineInstructions : Prop :=
  (∀ (s : State) (u : Issue) (d a : GReg) (la : Bool) (st : BitVec 2),
     let site := u.p / 4
     let slot := (u.n.getG a).toNat % 16
     let claim := Store.get Claim.free (s.croft site).claims slot
     let set : Claim → State := fun v =>
       s.setCroft site { s.croft site with claims := Store.set .free (s.croft site).claims slot v }
     (416 ≤ u.p ∨ u.p % 4 ≠ 2 → s.issuePoint = some u →
       Traps (.mclaim d a la st) s u { cause := .engineRole, detail := 0, taddr := 0 } ∧
       Traps (.mrel a la st) s u { cause := .engineRole, detail := 0, taddr := 0 }) ∧
     (u.p < 416 → u.p % 4 = 2 →
       (Clear s u [.g a] [.g d] →
         (claim = .free → exec (.mclaim d a la st) s = .next ((set (.held (s.nid u.p u.i))).finish u st.toNat 0
           ((u.n.used (rel1 la a)).owing (.g d) (.word 0)))) ∧
         (claim ≠ .free → exec (.mclaim d a la st) s = .next (s.finish u st.toNat 0
           ((u.n.used (rel1 la a)).owing (.g d) (.word 1))))) ∧
       (Clear s u [.g a] [] →
         (claim ≠ .held (s.nid u.p u.i) →
           Traps (.mrel a la st) s u { cause := .slotNotOwned, detail := BitVec.ofNat 16 slot, taddr := 0 }) ∧
         (claim = .held (s.nid u.p u.i) → exec (.mrel a la st) s = .next
           ((set (if s.slotNamed (s.instAt u.p) site slot then .releasing else .free)).finish u st.toNat 0
             (u.n.used (rel1 la a))))))) ∧
  (∀ (s : State) (u : Issue) (d a b : GReg) (x : AReg) (la lb : Bool) (st : BitVec 2),
     let site := u.p / 4
     let waits : Instr → Nat → List RegName → Cmd → Prop := fun i eng rel m =>
       exec i s = .next ((s.setEngine site eng { s.engine site eng with atIssue := some m }).finish u st.toNat 1 (u.n.used rel))
     let ga := u.n.getG a
     let gb := u.n.getG b
     let gd := u.n.getG d
     let two := rel2 la lb a b
     let holds : Instr → Prop := fun j => ∃ t, exec j s = .next t ∧ t.node? u.p u.i = some u.n ∧ (t.cell u.p).cyc = u.c + 1 ∧
       Elsewhere s t u.p u.i
     let earlier := ∃ k j, s.instOf u.p = some (k, j) ∧ ∃ t ∈ j.twinq, ∃ n y, t.msg = .tid (.node u.p u.i u.n.gen) n y
     let order : Cmd → BitVec 32 → Prop := fun m w =>
       m.wait = w.extractLsb' 0 8 ∧ m.oslot = (w.extractLsb' 8 3).toNat ∧ m.seten = w.getLsbD 11
     let roles : List (Instr × Nat) :=
       [(.mma d a b la lb st, 2), (.mzero d a la st, 2), (.mdrain d a b la lb st, 2), (.copy x st, 0), (.copyg x st, 0),
        (.copyop x st, 0), (.conv x st, 1), (.planes x st, 1), (.sparsify x st, 1), (.scalec x st, 1)]
     (s.issuePoint = some u → ∀ r ∈ roles, (416 ≤ u.p ∨ u.p % 4 ≠ r.2) →
       Traps r.1 s u { cause := .engineRole, detail := 0, taddr := 0 }) ∧
     (u.p < 416 → u.p % 4 = 2 → earlier →
       (Clear s u [.g a, .g b, .g d] [] → holds (.mma d a b la lb st) ∧ holds (.mdrain d a b la lb st)) ∧
       (Clear s u [.g a, .g d] [] → holds (.mzero d a la st))) ∧
     (u.p < 416 → u.p % 4 = 2 → ¬ earlier →
       (Clear s u [.g a, .g b, .g d] [] →
         (∀ t, mmaCommand s u ga gb gd = .error t → Traps (.mma d a b la lb st) s u t) ∧
         (∀ m, mmaCommand s u ga gb gd = .ok m → waits (.mma d a b la lb st) 2 two m ∧ order m gd ∧
           m.op = .mma (ga.toNat % 16) (ga.toNat / 16 % 16) (ga.toNat / 256 % 4) (gb.toNat % 64) (gb.toNat / 256 % 64)
             (gb.getLsbD 16)) ∧
         (∀ t, mdrainCommand s u ga gb gd = .error t → Traps (.mdrain d a b la lb st) s u t) ∧
         (∀ m, mdrainCommand s u ga gb gd = .ok m → waits (.mdrain d a b la lb st) 2 two m ∧ order m gd ∧
           m.op = .mdrain (ga.toNat % 4) (ga.getLsbD 2) (ga.toNat / 256 % 64) (gb.getLsbD 16) ∧
           m.event = (if gb.toNat % 2 ^ 16 = 0xFFFF then none else some (gb.toNat % 2 ^ 16)))) ∧
       (Clear s u [.g a, .g d] [] →
         (∀ t, mzeroCommand s u ga gd = .error t → Traps (.mzero d a la st) s u t) ∧
         (∀ m, mzeroCommand s u ga gd = .ok m → waits (.mzero d a la st) 2 (rel1 la a) m ∧ order m gd ∧
           m.op = .mzero (ga.toNat % 4)))) ∧
     (∀ l, Clear s u [.a x] [] → s.inFlightTo (.node u.p u.i u.n.gen) (.cell u.p) = false →
       let num : Nat → Nat → Nat := fun o k => leNat (slice l o k)
       let int : Nat → Int := fun o => (BitVec.ofNat 32 (num o 4)).toInt
       let bit : Nat → Nat → Bool := fun o j => (num o 1).testBit j
       let event : Cmd → Nat → Prop := fun m o => m.event = if num o 2 = 0xFFFF then none else some (num o 2)
       let reads : Instr → Nat → Nat → Cmd → Prop := fun i eng n m =>
         exec i s = .next ((s.setEngine site eng { s.engine site eng with atIssue := some m }).complete u.p u.i u.c st.toNat 1 u.n
           none (u.n.watch (u.n.getA x) { size := n, rd := true }) u.n.singleStep)
       (u.p < 416 → u.p % 4 = 0 →
         let forms : List (CpyForm × Instr × (CpyDesc → CmdOp)) :=
           [(.copy, .copy x st, .copy), (.copyg, .copyg x st, .copyg), (.copyop, .copyop x st, .copyop)]
         (∀ t, descriptor s u (u.n.getA x) 64 = .error t → ∀ f ∈ forms, Traps f.2.1 s u t) ∧
         (descriptor s u (u.n.getA x) 64 = .ok l → earlier → ∀ f ∈ forms, holds f.2.1) ∧
         (descriptor s u (u.n.getA x) 64 = .ok l → ¬ earlier → ∀ f ∈ forms,
           (∀ t, cpyCommand s f.1 u (u.n.getA x) l = .error t → Traps f.2.1 s u t) ∧
           (∀ m, cpyCommand s f.1 u (u.n.getA x) l = .ok m →
             reads f.2.1 0 64 m ∧ order m (BitVec.ofNat 32 (num 46 2)) ∧ event m 44 ∧
             m.op = f.2.2 { src := BitVec.ofNat 64 (num 0 8), dst := BitVec.ofNat 64 (num 8 8), len0 := num 16 4,
                            count1 := num 20 4, count2 := num 24 4, sstride1 := int 28, sstride2 := int 32, dstride1 := int 36,
                            dstride2 := int 40, dkind := bit 48 0, publish := bit 49 0, cop := num 50 1, ctype := num 51 1,
                            mcast := BitVec.ofNat 32 (num 52 4), idx := BitVec.ofNat 64 (num 56 8) }))) ∧
       (u.p < 416 → u.p % 4 = 1 →
         let forms : List (CnvForm × Instr × (CnvDesc → CmdOp)) :=
           [(.conv, .conv x st, .conv), (.planes, .planes x st, .planes), (.sparsify, .sparsify x st, .sparsify),
            (.scalec, .scalec x st, .scalec)]
         (∀ t, descriptor s u (u.n.getA x) 32 = .error t → ∀ f ∈ forms, Traps f.2.1 s u t) ∧
         (descriptor s u (u.n.getA x) 32 = .ok l → earlier → ∀ f ∈ forms, holds f.2.1) ∧
         (descriptor s u (u.n.getA x) 32 = .ok l → ¬ earlier → ∀ f ∈ forms,
           (∀ t, cnvCommand s f.1 u (u.n.getA x) l = .error t → Traps f.2.1 s u t) ∧
           (∀ m, cnvCommand s f.1 u (u.n.getA x) l = .ok m →
             reads f.2.1 1 32 m ∧ order m (BitVec.ofNat 32 (num 6 2)) ∧ event m 4 ∧
             m.op = f.2.2 { stid := num 0 1, dtid := num 1 1, rnd := num 2 1 % 4, sat := bit 2 2, dslot := bit 2 3,
                            slot := num 3 1 % 16, publish := bit 3 4, row0 := num 8 4, nrows := num 12 4, soff := num 16 4 })))))

/-- R63, R167, R176 to R178, R180, R182, R185 to R193, R274, R382: the checks of MMA, MZERO, MDRAIN, of the copies, of the conversions and
of an OFFER's record, each in its order: the first that fails gives the trap, with its cause, its detail and its address, and with none
failing the command, or the captured entries, result. Reserved bits of a register operand are checked from the lowest up, the fields of
a descriptor by their offset; of an order control the WAIT bit of the command's own SLOT is lower than the reserved bits (R176). The
model's own: the record is read in the step in which OFFER captures it (log entry 3); a record whose header meets the code region, which
no node writes (R260), fails within check 3 (log entry 123); the corners of a tensor or a copy are checked in ascending order of dimension, block, run and byte, and the order of CNV's checks among
those that R191 lists (log entries 36, 37); of a record with a bad COUNT the header and min(COUNT, 8) entries are read for poison
(log entry 101); of COPYG's rows the first alone is checked (log entry 102); the TADDR of a command's EVENT_NOT_PARTICIPANT (log entry
117); the field that a failing PUBLISH (log entry 118) and a write beyond the slot (log entry 119) name; and the fields that the
conversions' checks name, with the places of those that R191 does not order (log entry 120). COPYOP with a CTYPE that is none of three asks no alignment
before that check fails. -/
def Obligations.CommandChecks : Prop :=
  ∀ (s : State) (u : Issue),
    let site := u.p / 4
    let i := s.instAt u.p
    let events := i.image.events.length
    let mine : Cmd → Prop := fun m => m.inst = ((s.instOf u.p).map (·.1)).getD 0
    let tid : Nat → Tid := fun n => Tid.of (Store.get 0 i.tids n)
    let bad : Nat → Nat → Addr → Trap := fun source pos a =>
      { cause := .engineDescriptor, detail := BitVec.ofNat 16 (pos + 256 * source), taddr := a }
    let zero : BitVec 32 → List Nat → Nat → List (Bool × Trap) := fun x bits source =>
      bits.map (fun b => (!x.getLsbD b, bad source b 0))
    let isTid : Nat → Bool × Trap := fun n => ((tid n).valid, { cause := .tidInvalid, detail := BitVec.ofNat 16 n })
    let held : Nat → Bool × Trap := fun n => (decide ((s.croft site).claim n = .held (s.nid u.p u.i)),
      { cause := .slotNotOwned, detail := BitVec.ofNat 16 n })
    let span : Bool → List Int → List (Bool × Trap) := fun wr l => l.map (fun x =>
      match staticCheck s u.p (BitVec.ofInt 64 x) { size := 1, rd := !wr, wr := wr } with
      | .ok _ => (true, bad 0 0 0)
      | .error t => (false, t))
    let rows : Tid → Nat → Nat → Nat → List Int := fun t planes r n =>
      if n = 0 then [] else ([0, planes - 1] : List Nat).flatMap (fun j => ([r, r + n - 1] : List Nat).flatMap (fun k =>
        ([0, t.rowLen - 1] : List Nat).map (fun e => ((t.base + (j * t.rows + k) * t.stride + e : Nat) : Int))))
    let lists : Nat → Nat → (Participant → Bool) → Bool := fun eng e f =>
      (i.event e).parts.any (fun q => decide (q.pkind = eng + 1) && decide (q.id = i.index site) && f q)
    let event : Nat → Nat → Trap → Addr → List (Bool × Trap) := fun eng e t a =>
      [(decide (e = 0xFFFF) || decide (e < events), t),
       (decide (e = 0xFFFF) || lists eng e (fun _ => true), { cause := .eventNotParticipant, detail := BitVec.ofNat 16 e, taddr := a })]
    let contributes : Nat → Nat → Bool := fun eng e => decide (e ≠ 0xFFFF) && lists eng e (fun q => decide (q.role = 1))
    let inPair : Nat → List Int → Bool := fun e l => decide (e ≠ 0xFFFF) &&
      l.all (fun x => decide ((BitVec.ofInt 64 x).toNat / 2 ^ 60 = 2)) &&
      i.image.shadow.any (fun q => decide (q.event = e) && l.all (fun x =>
        let o := (BitVec.ofInt 64 x).toNat % 2 ^ 60
        decide (q.voff ≤ o ∧ o < q.voff + q.len)))
    let self : BitVec 32 → Bool := fun x => !(x.getLsbD 11 && x.getLsbD (x.toNat / 256 % 8))
    let order : BitVec 32 → List (Bool × Trap) := fun x => (self x, bad 3 (x.toNat / 256 % 8) 0) :: zero x (List.range' 12 20) 3
    let field : Nat → Nat → Addr → List (Bool × Trap) := fun x off a =>
      (self (BitVec.ofNat 32 x), bad 0 off a) :: (List.range' 12 4).map (fun b => (!x.testBit b, bad 0 off a))
    (∀ x y oc : BitVec 32,
      let ta := y.toNat % 64
      let tb := y.toNat / 256 % 64
      let a := tid ta
      let b := tid tb
      Checks (zero x (List.range' 10 22) 1 ++ zero y ([6, 7, 14, 15] ++ List.range' 17 15) 2 ++
        [held (x.toNat % 16), held (x.toNat / 16 % 16), isTid ta, isTid tb,
         (decide (a.fmt ∈ [0x12, 0x11, 0x13, 0x14, 0x03, 0x01, 0x20]), bad 2 0 0),
         (decide (a.rows ≤ 128) && (decide (a.fmt ≠ 0x01) || decide (a.cols % 2 = 0)) &&
           (decide (a.fmt ≠ 0x20) || decide (a.cols % 8 = 0)) && (decide (a.sparse = 0) || decide (a.cols % 32 = 0)) &&
           decide ((if a.fmt = 0x20 then 8 else 1) * a.rows * a.rowLen ≤ 32768), bad 2 0 0),
         (if a.fmt = 0x13 ∨ a.fmt = 0x14 then decide (b.fmt = 0x13) || decide (b.fmt = 0x14)
          else decide (b.fmt = if a.fmt = 0x20 then 0x03 else a.fmt), bad 2 8 0),
         (decide (b.rows = a.cols) && decide (b.cols ≤ 128) && decide (b.sparse = 0) && decide (a.cols * b.rowLen ≤ 32768), bad 2 8 0),
         (!y.getLsbD 16 || (decide (i.image.w ≤ 5) && decide (i.image.h ≤ 3)), bad 2 16 0)] ++ order oc)
        (mmaCommand s u x y oc) mine ∧
      Checks (zero x (List.range' 2 30) 1 ++ order oc) (mzeroCommand s u x oc) mine) ∧
    (∀ x y oc : BitVec 32,
      let n := x.toNat / 256 % 64
      let t := tid n
      let e := y.toNat % 2 ^ 16
      let ends := rows t 1 0 t.rows
      Checks (zero x ([3, 4, 5, 6, 7] ++ List.range' 14 18) 1 ++ zero y (List.range' 17 15) 2 ++
        [isTid n,
         (decide (t.fmt ∈ if x.getLsbD 2 then [0x06, 0x03, 0x10, 0x11, 0x12] else [0x10, 0x11, 0x12, 0x13, 0x14]) ||
           (!x.getLsbD 2 && decide (t.fmt = 0x18) && decide (t.smode = 0)), { cause := .tidInvalid, detail := BitVec.ofNat 16 n }),
         (decide (t.rows ≤ 128) && decide (t.cols ≤ 128) && decide (t.sparse = 0), bad 1 8 0)] ++
        span true ends ++ event 2 e (bad 2 0 0) 0 ++ [(!y.getLsbD 16 || inPair e ends, bad 2 16 0)] ++ order oc)
        (mdrainCommand s u x y oc) mine) ∧
    (∀ (form : CpyForm) (a : Addr) (l : List Byte),
      let num : Nat → Nat → Nat := fun o k => leNat (slice l o k)
      let int : Nat → Int := fun o => (BitVec.ofNat 32 (num o 4)).toInt
      let len0 := num 16 4
      let c1 := num 20 4
      let c2 := num 24 4
      let slots := decide (num 48 1 % 2 = 1)
      let publish := decide (num 49 1 % 2 = 1)
      let dst := num 8 8
      let off : Nat := dst / 2 ^ 16 % 2 ^ 15
      let ends : Int → Int → Int → List Int := fun base s1 s2 =>
        ([0, c2 - 1] : List Nat).flatMap (fun j => ([0, c1 - 1] : List Nat).flatMap (fun k =>
          ([0, len0 - 1] : List Nat).map (fun e => base + (j : Int) * s2 + (k : Int) * s1 + (e : Int))))
      let ends2 := ends (if slots then (off : Int) else (dst : Int)) (int 36) (int 40)
      let unit : Int := if num 51 1 = 0x06 ∨ num 51 1 = 0x10 then 4 else if num 51 1 = 0x12 then 2 else 1
      let crofts : List (Nat × Nat) := (if num 52 4 = 0 then [0] else (List.range 32).filter (fun b => (num 52 4).testBit b)).map
        (fun b => (dst / 2 ^ 8 % 16 + b % 8, dst / 2 ^ 12 % 16 + b / 8))
      let t : Nat → Trap := fun o => bad 0 o a
      let multiple : Int → Nat → Bool × Trap := fun x o => (decide (x % unit = 0), t o)
      let e := num 44 2
      Checks ([(decide (1 ≤ len0 ∧ len0 ≤ 2 ^ 24), t 16), (decide (1 ≤ c1 ∧ c1 ≤ 2 ^ 16), t 20),
          (decide (1 ≤ c2 ∧ c2 ≤ 2 ^ 16) && (decide (form ≠ .copyg) || decide (c2 = 1)), t 24), (decide (num 48 1 < 2), t 48),
          (decide (num 49 1 < 2), t 49), (decide (form = .copyop) || decide (num 50 1 = 0), t 50),
          (decide (form = .copyop) || decide (num 51 1 = 0), t 51), (slots || decide (num 52 4 = 0), t 52),
          (decide (form = .copyg) || decide (num 56 8 = 0), t 56)] ++
        (if form = .copyop then
          [(!slots && decide (dst / 2 ^ 60 = 2), t 8), multiple (num 0 8) 0, multiple dst 8, multiple len0 16, multiple (int 28) 28,
           multiple (int 32) 32, multiple (int 36) 36, multiple (int 40) 40, (decide (num 50 1 ≤ 5), t 50),
           (decide (num 51 1 ∈ [0x06, 0x10, 0x12]), t 51)]
         else []) ++
        span false (if form = .copyg then [((num 0 8 : Nat) : Int), ((num 0 8 : Nat) : Int) + len0 - 1] else ends (num 0 8) (int 28) (int 32)) ++
        (if slots then
          [(decide (dst / 2 ^ 4 % 16 = 0) && decide (dst / 2 ^ 31 = 0) && decide (off % 64 = 0), t 8),
           (crofts.all (fun c => decide (c.1 < i.image.w) && decide (c.2 < i.image.h)),
            { cause := .remoteOutsideDomain, detail := 0x0A01, taddr := a }),
           (ends2.all (fun o => decide (0 ≤ o ∧ o ≤ 32767)), t 8)]
         else span true ends2) ++
        event 0 e (t 44) a ++
        [(!(slots && contributes 0 e), t 44), (!publish || (!slots && inPair e ends2), t 49)] ++ field (num 46 2) 46 a)
        (cpyCommand s form u a l) mine) ∧
    (∀ (form : CnvForm) (a : Addr) (l : List Byte),
      let num : Nat → Nat → Nat := fun o k => leNat (slice l o k)
      let t : Nat → Trap := fun o => bad 0 o a
      let x := tid (num 0 1)
      let y := tid (num 1 1)
      let slot := (num 2 1).testBit 3
      let e := num 4 2
      let row := num 8 4
      let n := if num 12 4 = 0 then x.rows - row else num 12 4
      let planes := if y.fmt = 0x20 then 8 else 1
      let ends2 := rows y planes row n
      let pairs : Bool := decide (x.sparse = 0) && decide (x.fmt ≠ 0x20) && match form with
        | .conv => decide (y.sparse = 0) && decide (y.fmt ≠ 0x20)
        | .planes => decide (x.fmt = 0x03) && decide (y.fmt = 0x20)
        | .sparsify => decide (x.fmt ∈ [0x12, 0x11, 0x13, 0x14, 0x03, 0x01]) && decide (y.fmt = x.fmt) && decide (y.sparse ≠ 0)
        | .scalec => decide (x.fmt ∈ [0x10, 0x11, 0x12]) && decide (y.fmt ∈ [0x03, 0x01, 0x13, 0x14]) && decide (y.sparse = 0) &&
            decide (y.smode ≠ 0)
      Checks ([(decide (num 0 1 < 64), t 0), (decide (num 1 1 < 64), t 1), (decide (num 2 1 < 16), t 2),
          (decide (num 3 1 < 32) && (slot || decide (num 3 1 % 16 = 0)), t 3),
          (if slot then decide (num 16 4 % 64 = 0) else decide (num 16 4 = 0), t 16),
          ((List.range' 20 12).all (fun o => decide (num o 1 = 0)), t 20)] ++
        [isTid (num 0 1), isTid (num 1 1), (decide (x.rows = y.rows) && decide (x.cols = y.cols), t 1),
         (decide (row ≤ x.rows) && decide (row + n ≤ x.rows), t 8), (pairs, t 1),
         (decide (form ≠ .scalec) || decide (y.smode ≠ 2) || (decide (row = 0) && decide (n = x.rows)), t 8)] ++
        span false (rows x 1 row n) ++
        (if slot then [(decide (num 16 4 + ((planes - 1) * y.rows + n) * y.rowLen ≤ 32768), t 16)] else span true ends2) ++
        event 1 e (t 4) a ++
        [(!(slot && contributes 1 e), t 4), (!(num 3 1).testBit 4 || (!slot && inPair e ends2), t 3)] ++ field (num 6 2) 6 a)
        (cnvCommand s form u a l) mine) ∧
    (∀ a : Addr,
      let k : Acc := { size := 8, rd := true }
      let low := a.toNat % 2 ^ 17
      let key := keyLocal u.p low
      let num : Nat → Nat → Nat := fun o n => Memory.num s.mem (key + o) n
      let cnt := num 0 1
      let entries := List.range cnt
      let at16 : Nat → Nat := fun j => 16 + 16 * j
      let raw : Nat → OfferEntry := fun j =>
        { ev := num (at16 j) 2 % 2 ^ 10, role := num (at16 j + 2) 1, cbuf := num (at16 j + 4) 4, rbuf := num (at16 j + 8) 4,
          len := num (at16 j + 12) 4 }
      let reason : Nat → Nat → Trap := fun j r =>
        { cause := .eventChoiceInvalid, detail := BitVec.ofNat 16 (j + 8 * r), taddr := a }
      let len : Nat → Bool → Trap := fun j recv =>
        { cause := .eventLength, detail := BitVec.ofNat 16 (j + if recv then 8 else 0), taddr := a }
      let c := s.cell u.p
      let meets : Nat → Nat → Nat → Nat → Bool := fun a n b m => decide (a < b + m) && decide (b < a + n)
      let entry : Nat → List (Bool × Trap) := fun j =>
        let r := raw j
        let v := i.event r.ev
        let q := (v.parts.find? (fun q => decide (q.pkind = 0) && decide (q.id = u.n.ordinal))).getD { id := 0, pkind := 0, role := 0, obs := true }
        let gives := decide (q.role = 1 ∨ q.role = 3)
        let takes := decide (q.role = 2 ∨ q.role = 3)
        let inl := takes && !v.gran
        let room := if v.gran then i.windowSize else localSize
        let need := if v.kind = 3 then v.len * (v.parts.filter (fun q => !q.obs && decide (q.role = 1 ∨ q.role = 3))).length else v.len
        [(decide (num (at16 j) 2 / 2 ^ 10 = 0) && decide (num (at16 j + 3) 1 = 0), reason j 1), (decide (r.ev < events), reason j 2),
         (decide (r.ev ∉ (List.range j).map (fun h => (raw h).ev)), reason j 3),
         (v.parts.any (fun q => decide (q.pkind = 0) && decide (q.id = u.n.ordinal)),
          { cause := .eventNotParticipant, detail := BitVec.ofNat 16 (r.ev + 2 ^ 10 * j), taddr := a }),
         (decide (r.role = q.role), reason j 4),
         ((gives || decide (r.cbuf = 0)) && (inl || decide (r.rbuf = 0)) && (gives || takes || decide (r.len = 0)), reason j 1),
         ((v.gran || (decide (r.cbuf % 8 = 0) && decide (r.rbuf % 8 = 0))) && (!gives || decide (r.cbuf + r.len ≤ room)) &&
           (!inl || decide (r.rbuf + r.len ≤ room)), reason j 5),
         (!(inl && (meets r.rbuf r.len c.codeOff c.codeLen || meets r.rbuf r.len low (16 + 16 * cnt))), reason j 6),
         (decide (q.role ≠ 1) || decide (r.len = v.len), len j false),
         (!takes || (decide (need ≤ r.len) && (v.gran || decide (r.len % 8 = 0))), len j true)]
      (∀ t, checkAccess s u.p a k = .error t → checkOffer s u a = .error t) ∧
      (∀ pl, checkAccess s u.p a k = .ok pl →
        Checks ([(decide (a.toNat / 2 ^ 60 = 0) || (decide (a.toNat / 2 ^ 60 = 1) && decide (a.toNat / 2 ^ 17 % 2 ^ 11 = c.lcell)),
              { cause := .addressSpace, detail := k.detail, taddr := a }),
            (!(meets low 16 c.codeOff c.codeLen), { cause := .pageProtection, detail := 0x601, taddr := a }),
            (decide (a.toNat % 16 = 0), { cause := .misaligned, detail := k.detail, taddr := a })] ++
          (List.range (min (2 + 2 * min cnt 8) ((localSize - low) / 8))).map (fun d =>
            (decide (key / 8 + d ∉ s.poison),
             { cause := .poisonConsumed, detail := k.detail, taddr := a + BitVec.ofNat 64 (8 * d) })) ++
          [(decide (1 ≤ cnt ∧ cnt ≤ 8), reason 0 0), (decide (num 0 4 / 2 ^ 9 = 0), reason 0 1),
           (decide (low + 16 + 16 * cnt ≤ localSize), reason 0 0)] ++ entries.flatMap entry)
          (checkOffer s u a) (fun r => r = entries.map raw)))

/-- R194, R141, R150, R261, R277, R360: TIDCLR clears an entry of the instance's table; TIDSET reads 32 bytes of memory into it, or, where
they are poisoned, leaves it and has the node take POISON_CONSUMED at its next boundary; TIDGET stores an entry's 32 bytes. That
TIDSET reads its bytes and writes the entry in the step in which it issues, holding its cell for the node's accesses to their home,
for the node's earlier requests that wait for a budget, for that of the read, and for an atomic that stands half done at the host
bridge in the line, is the model's choice (log entry 3). In twin mode the write waits at the station for the other copy's, with
the bytes read from the cell's own memory, or with the read, made once, of bytes that lie elsewhere; until it is made the node's
TIDGET holds its cell (log entry 112). -/
def Obligations.TidResults : Prop :=
  ∀ (s : State) (u : Issue) (a : GReg) (b : AReg) (la : Bool) (st : BitVec 2) (k : Nat) (i : Inst),
    s.instOf u.p = some (k, i) →
    let n := (u.n.getG a).toNat % 64
    let m := u.n.used (rel1 la a)
    let x := u.n.getA b
    let rd : Acc := { size := 32, rd := true }
    let set : State → BitVec 256 → State := fun s v => s.setInst k { i with tids := Store.set 0 i.tids n v }
    let mine : Src := .node u.p u.i u.n.gen
    let wait : State → TidImage → State := fun s y => s.setInst k { i with twinq := i.twinq ++
      [{ second := s.isTwinCell u.p, lcell := (s.cell u.p).lcell, msg := .tid mine n y }] }
    let put : State → BitVec 256 → State := fun s v => if i.twin = [] then set s v else wait s (.value v)
    let holds : Instr → Prop := fun j => ∃ t, exec j s = .next t ∧ t.node? u.p u.i = some u.n ∧ (t.cell u.p).cyc = u.c + 1 ∧
      Elsewhere s t u.p u.i
    let earlier := ∃ t ∈ i.twinq, ∃ j y, t.msg = .tid mine j y
    (Clear s u [.g a] [] → exec (.tidclr a la st) s = .next ((put s 0).finish u st.toNat 0 m)) ∧
    (Clear s u [.g a, .a b] [] →
      let v := (Store.get 0 i.tids n).toNat
      (earlier → holds (.tidget a b la st)) ∧
      (¬ earlier → Accesses (.tidget a b la st) s u st.toNat x { size := 32, wr := true, data := some v } (.store v) [] m) ∧
      (∀ t, checkAccess s u.p x rd = .error t → Traps (.tidset a b la st) s u t) ∧
      (∀ pl, checkAccess s u.p x rd = .ok pl →
        let y := nodeAccess u pl .load rd x []
        let away := pl.away = true ∧ i.twin ≠ []
        let key := s.keyNow pl.key pl.win
        let s' := s.fillTlb (siteOf u.p) pl.fill
        let read := s'.readHere y
        let done : State → Node → Prop := fun t m =>
          exec (.tidset a b la st) s = .next (t.complete u.p u.i u.c st.toNat 0 m none (u.n.watch x rd) u.n.singleStep)
        let bad : Node := { m with pend := m.pend ++
          [{ cause := .poisonConsumed, detail := rd.detail, taddr := x + BitVec.ofNat 64 (firstPoison s.poison key 32) }] }
        let poisoned := s.sealedHome pl.home = true ∨ s.absentAt key = true ∨ poisonedAt s.poison key 32 = true
        let behind := ∃ q ∈ s.net, q.src = mine ∧ q.admitted = false
        let busy := keyRegion pl.key = 2 ∧ ∃ q ∈ s.net, q.read.isSome ∧ q.key / 64 = pl.key / 64
        (s.inFlightTo mine pl.home = true ∨ ¬ away ∧ (behind ∨ busy ∨ s.admits (some i) y = false) → holds (.tidset a b la st)) ∧
        (s.inFlightTo mine pl.home = false → away → done (wait s' (.read y)) m) ∧
        (s.inFlightTo mine pl.home = false → ¬ away → ¬ behind → ¬ busy → s.admits (some i) y = true →
          read.mem = s.mem ∧ read.poison = s.poison ∧ read.cells = s.cells ∧ read.insts = s.insts ∧
          (¬ poisoned → done (put read (BitVec.ofNat 256 (Memory.num s.mem key 32))) m) ∧ (poisoned → done read bad))))

/-- R30 to R36, R195: MOVS of a system register is owed the register's value. A read of the low register of a pair captures the
high one, which its next read gives. NSTAT waits for the results of FSQRT and its like (R50). R310, R314, R349, R375: a reeve node
reads the package's registers, each die its own ring and CELLX; write-only registers read 0. What CMAP reads with CMAPX above 95 is
free (log entry 17). -/
def Obligations.SystemRegisterReads : Prop :=
  ∀ (s : State) (u : Issue) (d : GReg) (st : BitVec 2) (k : Nat) (i : Inst), s.instOf u.p = some (k, i) →
    Clear s u [] [.g d] →
    let n := u.n
    let reads : BitVec 10 → Word → Node → Prop := fun idx v m =>
      ∀ j ∈ [Instr.movs d idx st, .pairLowRead d idx st], Completes j s u st.toNat (m.owing (.g d) (.word v))
    let same : BitVec 10 → Word → Prop := fun idx v => reads idx v n
    let low : BitVec 10 → Nat → Word → Word → Prop := fun idx hi v w =>
      reads idx v { n with high := Store.set none n.high hi (some w) }
    let high : BitVec 10 → Word → Prop := fun idx w =>
      (∀ v, Store.get none n.high idx.toNat = some v → reads idx v { n with high := Store.set none n.high idx.toNat none }) ∧
      (Store.get none n.high idx.toNat = none → reads idx w n)
    let lo : Nat → Word := fun x => BitVec.ofNat 32 x
    let hi : Nat → Word := fun x => BitVec.ofNat 32 (x / 2 ^ 32)
    let nstat : Word := BitVec.ofNat 32 (n.flags.toNat + 32 * n.stt.code + if n.inTrap then 512 else 0)
    same 0x000 (s.nid u.p u.i) ∧ same 0x001 (domWord i (s.cell u.p).lcell) ∧ low 0x002 3 (lo i.instant) (hi i.instant) ∧ high 0x003 (hi i.instant) ∧
    low 0x004 5 (lo u.c) (hi u.c) ∧ high 0x005 (hi u.c) ∧ same 0x006 n.nctl ∧
    (n.owed.any (·.fp) = false → same 0x007 nstat ∧ Completes (.nstatAccess false d st) s u st.toNat (n.owing (.g d) (.word nstat))) ∧
    (n.owed.any (·.fp) = true → ∃ t, exec (.nstatAccess false d st) s = .next t ∧ t.node? u.p u.i = some n) ∧
    same 0x008 n.tcause ∧ same 0x009 n.tip ∧ low 0x00A 0xB (n.taddr.extractLsb' 0 32) (n.taddr.extractLsb' 32 32) ∧
    high 0x00B (n.taddr.extractLsb' 32 32) ∧ same 0x00C n.tvec ∧ same 0x00D n.wstk ∧ same 0x00E n.wlim ∧
    same 0x00F (BitVec.ofNat 32 (n.cur + 32 * n.res + 65536 * n.spilled)) ∧ same 0x010 n.loopc ∧ same 0x011 n.loops ∧
    same 0x012 n.loope ∧ same 0x013 n.param ∧ low 0x014 0x15 (lo (i.wear / 1000)) (hi (i.wear / 1000)) ∧ high 0x015 (hi (i.wear / 1000)) ∧
    low 0x016 0x17 (lo i.group) (hi i.group) ∧ high 0x017 (hi i.group) ∧
    (∀ j : Fin 4, same (0x018 + BitVec.ofNat 10 j) (Store.get 0 n.bka j)) ∧
    (∀ j : Fin 2, same (0x01C + BitVec.ofNat 10 j) (Store.get 0 n.wpa j)) ∧ same 0x01E n.dbgc ∧
    (416 ≤ u.p →
      let g := s.pkg
      let ring := s.ring (dieOf u.p)
      let c := s.cell ring.cellx
      let w := (s.cell g.wcellx).wear
      let x := s.island g.islx
      let bit : Bool → Nat := fun b => if b then 1 else 0
      let wear : Word → Word → Word → Word → Word → Prop := fun bl bh el eh sc =>
        low 0x211 0x212 bl bh ∧ high 0x212 bh ∧ low 0x213 0x214 el eh ∧ high 0x214 eh ∧ same 0x215 sc
      same 0x200 (lo g.cmapx) ∧
      (g.cmapx < 96 → same 0x201 (lo (s.siteOfLog g.cmapx + 128 * bit g.cmapFail))) ∧
      (96 ≤ g.cmapx → same 0x201 (lo ((Config.cmapBeyond g.cmapx).toNat + 128 * bit g.cmapFail))) ∧
      same 0x202 0 ∧ same 0x203 0 ∧ same 0x204 (lo (bit (!g.xbusy.isEmpty))) ∧ same 0x205 (lo ring.base) ∧
      same 0x206 (lo ring.head) ∧ same 0x207 (lo ring.tail) ∧ same 0x208 (lo (ring.ovf + 65536 * ring.first)) ∧
      same 0x209 (lo ring.cellx) ∧
      (ring.cellx ≤ 415 → same 0x20A (lo (bit c.isSealed + 2 * bit c.regErr + 65536 * c.secnt))) ∧
      (415 < ring.cellx → same 0x20A 0) ∧ same 0x20B (lo g.sethr) ∧ same 0x210 (lo g.wcellx) ∧
      (g.wcellx ≤ 431 → wear (lo w.wb) (hi w.wb) (lo w.we) (hi w.we) (lo (w.state + 4 * w.cap))) ∧
      (431 < g.wcellx → wear 0 0 0 0 0) ∧ same 0x216 (lo g.islx) ∧
      same 0x217 (lo (x.req + 8 * s.wearCap g.islx + 64 * x.tcap + 512 * min x.req (min (s.wearCap g.islx) x.tcap)
        + 4096 * ((x.tj + 40) % 256).toNat)) ∧
      same 0x218 (lo g.alseq) ∧ same 0x219 0 ∧ same 0x21A (lo (bit g.alBusy + 2 * bit g.alErr)))

/-- R30, R33 to R36, R195: MOVSW of a node's system registers stores the bits the register has; read-only registers keep their
values. An NCTL rounding mode above 3 and a WPOS that no window can have take ILLEGAL_ENCODING. That a write of DBGC is followed by
SINGLE_STEP as DBGC stood at issue is the model's choice (log entry 116). -/
def Obligations.SystemRegisterWrites : Prop :=
  ∀ (s : State) (u : Issue) (d : GReg) (st : BitVec 2), Clear s u [.g d] [] →
    let n := u.n
    let v := n.getG d
    let writes : BitVec 10 → Node → Prop := fun idx m =>
      ∀ j ∈ [Instr.movsw d idx st, .registerWrite d idx st], Completes j s u st.toNat m
    let wrong : Trap := { cause := .illegalEncoding, detail := 2 + 21 * 16, taddr := 0 }
    let cur := (v.extractLsb' 0 5).toNat
    let res := (v.extractLsb' 5 6).toNat
    let window : Node := { n with cur := cur, res := res, spilled := (v.extractLsb' 16 16).toNat }
    (3 < (v.extractLsb' 1 3).toNat → ∀ j ∈ [Instr.movsw d 6 st, .nctlWrite d st], Traps j s u wrong) ∧
    ((v.extractLsb' 1 3).toNat ≤ 3 → ∀ j ∈ [Instr.movsw d 6 st, .nctlWrite d st, .registerWrite d 6 st],
      Completes j s u st.toNat { n with nctl := v &&& 0x3FF }) ∧
    (n.frames ≤ cur ∨ res = 0 ∨ n.frames < res → ∀ j ∈ [Instr.movsw d 15 st, .wposWrite d st], Traps j s u wrong) ∧
    (cur < n.frames → 0 < res → res ≤ n.frames →
      ∀ j ∈ [Instr.movsw d 15 st, .wposWrite d st, .registerWrite d 15 st], Completes j s u st.toNat window) ∧
    (n.owed.any (·.fp) = false →
      writes 0x007 { n with flags := v.extractLsb' 0 5 } ∧
      Completes (.nstatAccess true d st) s u st.toNat { n with flags := v.extractLsb' 0 5 }) ∧
    writes 0x008 { n with tcause := v &&& 0xFFFF003F } ∧ writes 0x009 { n with tip := v } ∧
    writes 0x00A { n with taddr := n.taddr.extractLsb' 32 32 ++ v } ∧ writes 0x00B { n with taddr := v ++ n.taddr.extractLsb' 0 32 } ∧
    writes 0x00C { n with tvec := v &&& 0xFFFFFFFC } ∧ writes 0x00D { n with wstk := v &&& 0xFFFFFFC0 } ∧
    writes 0x00E { n with wlim := v &&& 0xFFFFFFC0 } ∧
    (∀ j : Fin 4, writes (0x018 + BitVec.ofNat 10 j) { n with bka := Store.set 0 n.bka j (v &&& 0xFFFFFFFC) }) ∧
    (∀ j : Fin 2, writes (0x01C + BitVec.ofNat 10 j) { n with wpa := Store.set 0 n.wpa j (v &&& 0xFFFFFFF8) }) ∧
    writes 0x01E { n with dbgc := v &&& 0x1FFF } ∧
    (∀ idx ∈ [0x000, 0x001, 0x002, 0x003, 0x004, 0x005, 0x010, 0x011, 0x012, 0x013, 0x014, 0x015, 0x016, 0x017], writes idx n)

/-- R310, R314, R349, R358, R374, R375: writes of the package's registers by a reeve node, and what they set off: a seal, an unseal
that keeps SECNT, a commit of the Almanac to the older bank, or one more after the commit in progress, and a change of an island's
level, which stalls its clocks. That a write of CMAP with CMAPX above 95, and one of a SITE from 104 to 127, are refused is the model's choice (log entries 17 and 109). -/
def Obligations.ReeveRegisterWrites : Prop :=
  ∀ (s : State) (u : Issue) (d : GReg) (st : BitVec 2), Clear s u [.g d] [] → 416 ≤ u.p →
    let v := u.n.getG d
    let g := s.pkg
    let does : List Instr → State → Prop := fun l t => ∀ j ∈ l, exec j s = .next (t.finish u st.toNat 0 u.n)
    let ring := s.ring (dieOf u.p)
    let tail := (v.extractLsb' 0 16).toNat
    let site := (v.extractLsb' 0 7).toNat
    let allowed := g.cmapx < 96 ∧ site < 104 ∧ s.occupied (s.siteOfLog g.cmapx) = false ∧
      (∀ m, m < 96 → m ≠ g.cmapx → s.siteOfLog m ≠ site) ∧ s.siteRetired site = false
    does [.movsw d 0x200 st, .registerWrite d 0x200 st] { s with pkg := { g with cmapx := (v.extractLsb' 0 7).toNat } } ∧
    (allowed → does [.movsw d 0x201 st, .cmapWrite d st]
      { s with pkg := { g with cmapFail := false, cmap := Store.set 0 g.cmap g.cmapx site } }) ∧
    (¬ allowed → does [.movsw d 0x201 st, .cmapWrite d st] { s with pkg := { g with cmapFail := true } }) ∧
    does [.movsw d 0x202 st, .registerWrite d 0x202 st] { s with pkg := { g with xinvl := v } } ∧
    does [.movsw d 0x203 st, .xinvhWrite d st]
      { s with pkg := { g with xinvh := v, xbusy := g.xbusy ++ [g.xinvl.toNat + 2 ^ 32 * v.toNat] } } ∧
    (let base := 8192 * (v.extractLsb' 13 4).toNat
     let c := s.cell (416 + 4 * dieOf u.p)
     let fits := base + 8192 ≤ 0x18000 ∧ ¬ (base < c.codeOff + c.codeLen ∧ c.codeOff < base + 8192)
     (fits → does [.movsw d 0x205 st, .rqbaseWrite d st] (s.setRing (dieOf u.p) { ring with base := base })) ∧
     (¬ fits → does [.movsw d 0x205 st, .rqbaseWrite d st] s)) ∧
    ((tail + 65536 - ring.tail) % 65536 ≤ (ring.head + 65536 - ring.tail) % 65536 →
      does [.movsw d 0x207 st, .rqtailWrite d st] (s.setRing (dieOf u.p) { ring with tail := tail })) ∧
    ((ring.head + 65536 - ring.tail) % 65536 < (tail + 65536 - ring.tail) % 65536 → does [.movsw d 0x207 st, .rqtailWrite d st] s) ∧
    does [.movsw d 0x208 st, .rqovfWrite d st]
      (s.setRing (dieOf u.p) { ring with ovf := tail, first := if tail = 0 then 0 else ring.first }) ∧
    does [.movsw d 0x209 st, .registerWrite d 0x209 st] (s.setRing (dieOf u.p) { ring with cellx := (v.extractLsb' 0 9).toNat }) ∧
    (let p := ring.cellx
     let c := s.cell p
     let s' := s.setCell p { c with secnt := (v.extractLsb' 16 16).toNat }
     let seals : List Instr := [.movsw d 0x20A st, .cellstSeal d st]
     let unseals : List Instr := [.movsw d 0x20A st, .cellstUnseal d st]
     let free := ∀ r, r < 4 → (s.cell (4 * (p / 4) + r)).inst = none
     (415 < p → does (seals ++ unseals) s) ∧
     (p ≤ 415 → v.getLsbD 0 = true → does seals (s'.sealCell p false)) ∧
     (p ≤ 415 → v.getLsbD 0 = true → c.isSealed = false → SealedAs s' (s'.sealCell p false) p false) ∧
     (p ≤ 415 → c.isSealed = true → s'.sealCell p false = s') ∧
     (p ≤ 415 → v.getLsbD 0 = false → c.isSealed = false → does unseals s') ∧
     (p ≤ 415 → v.getLsbD 0 = false → c.isSealed = true → ¬ free → does unseals s) ∧
     (p ≤ 415 → v.getLsbD 0 = false → c.isSealed = true → free → ∃ q : State, does unseals q ∧
       q.cell p = { c with isSealed := false } ∧ (∀ r, r ≠ p → q.cell r = s.cell r) ∧
       (p % 4 < 3 → (q.engine (p / 4) (p % 4)).dead = false) ∧ q.mem = s.mem ∧ q.pkg = s.pkg)) ∧
    does [.movsw d 0x20B st, .registerWrite d 0x20B st] { s with pkg := { g with sethr := tail } } ∧
    does [.movsw d 0x210 st, .registerWrite d 0x210 st] { s with pkg := { g with wcellx := (v.extractLsb' 0 9).toNat } } ∧
    does [.movsw d 0x216 st, .registerWrite d 0x216 st] { s with pkg := { g with islx := (v.extractLsb' 0 5).toNat } } ∧
    (let x := { s.island g.islx with req := (v.extractLsb' 0 3).toNat }
     let level := min x.req (min (s.wearCap g.islx) x.tcap)
     ∃ q : State, does [.movsw d 0x217 st, .islstWrite d st] q ∧
       q.island g.islx = { x with level := level, stalled := if level = x.level then x.stalled else true } ∧
       (∀ j, j ≠ g.islx → q.island j = s.island j) ∧ q.cells = s.cells ∧ q.mem = s.mem) ∧
    (v.getLsbD 0 = true → g.alBusy = true →
      does [.movsw d 0x219 st, .alcmdCommit d st] { s with pkg := { g with alAgain := true } }) ∧
    (v.getLsbD 0 = true → g.alBusy = false → ∃ (q : State) (b : Bank), does [.movsw d 0x219 st, .alcmdCommit d st] q ∧
      q.pkg.alBusy = true ∧ q.pkg.alBank = some (g.older, b) ∧ b.seq = g.alseq + 1 ∧ b.history = g.history ∧ b.cmap = g.cmap ∧
      (∀ p, Tab.get? b.wear p = (Tab.get? s.cells p).map (·.wear)) ∧ q.cells = s.cells ∧ q.mem = s.mem) ∧
    (v.getLsbD 0 = false → does [.movsw d 0x219 st, .alcmdCommit d st] s)

/-- R67, R195, R200, R201: privilege and context checks. A compute node that names a system register from 0x200 on, or executes LAUNCH, RESTART or
SEAL, takes PRIVILEGED; an index that no register has takes ILLEGAL_ENCODING. R67, R24: every vector instruction (ops 27 to 35) of a
node with no vector context takes VECTOR_NO_CONTEXT. -/
def Obligations.PrivilegeAndContextChecks : Prop :=
  (∀ (s : State) (u : Issue) (d a : GReg) (x : AReg) (la : Bool) (st : BitVec 2) (idx : BitVec 10), s.issuePoint = some u →
     let priv : Trap := { cause := .privileged, detail := 0, taddr := 0 }
     let enc : Trap := { cause := .illegalEncoding, detail := 2 + 11 * 16, taddr := 0 }
     let listed := idx.toNat ≤ 0x1E ∨ (0x200 ≤ idx.toNat ∧ idx.toNat ≤ 0x20B) ∨ (0x210 ≤ idx.toNat ∧ idx.toNat ≤ 0x21A)
     (u.p < 416 →
       (∀ i ∈ [Instr.launch d x st, .restart d x st, .seal a la st, .cmapWrite d st, .xinvhWrite d st, .rqbaseWrite d st,
         .rqtailWrite d st, .rqovfWrite d st, .cellstSeal d st, .cellstUnseal d st, .islstWrite d st, .alcmdCommit d st],
         Traps i s u priv) ∧
       (0x200 ≤ idx.toNat → ∀ i ∈ [Instr.movs d idx st, .movsw d idx st, .registerWrite d idx st, .pairLowRead d idx st],
         Traps i s u priv)) ∧
     (idx.toNat < 0x200 ∨ 416 ≤ u.p → ¬ listed →
       ∀ i ∈ [Instr.movs d idx st, .movsw d idx st, .registerWrite d idx st, .pairLowRead d idx st], Traps i s u enc)) ∧
  (∀ (s : State) (u : Issue) (w : BitVec 2) (d a b : VReg) (k k' : KReg) (la lb h : Bool) (st : BitVec 2) (tab : BitVec 8),
     s.issuePoint = some u → u.n.vec = none →
     ∀ i ∈ [Instr.vadd w d a b k la lb st, .vsub w d a b k la lb st, .vmul w d a b k la lb st,
         .vmulhs w d a b k la lb st, .vand w d a b k la lb st, .vor w d a b k la lb st, .vxor w d a b k la lb st,
         .vandn w d a b k la lb st, .vshl w d a b k la lb st, .vshr w d a b k la lb st, .vsha w d a b k la lb st,
         .vmins w d a b k la lb st, .vmaxs w d a b k la lb st, .vminu w d a b k la lb st, .vmaxu w d a b k la lb st,
         .vadds w d a b k la lb st, .vsubs w d a b k la lb st, .vfadd w d a b k la lb st, .vfsub w d a b k la lb st,
         .vfmul w d a b k la lb st, .vffma w d a b k la lb st, .vffms w d a b k la lb st, .vfmin w d a b k la lb st,
         .vfmax w d a b k la lb st, .vfdiv w d a b k la lb st, .vabs w d a k la st, .vfabs w d a k la st,
         .vfneg w d a k la st, .vcvtf32f16 h d a k la st, .vcvtf16f32 h d a k la st, .vcvtf32bf h d a k la st,
         .vcvtbff32 h d a k la st, .vcvtf32f8a h d a k la st, .vcvtf8af32 h d a k la st, .vcvtf32f8b h d a k la st,
         .vcvtf8bf32 h d a k la st, .vcvti32i16 h d a k la st, .vcvti32i8 h d a k la st, .vcvti8i32 h d a k la st,
         .vfsqrt d a k la st, .vcvtf32i32 d a k la st, .vcvti32f32 d a k la st, .vcmpeq w k a b k' la lb st,
         .vcmpne w k a b k' la lb st, .vcmplt w k a b k' la lb st, .vcmple w k a b k' la lb st,
         .vcmpgt w k a b k' la lb st, .vcmpge w k a b k' la lb st, .vcmpun k a b k' la lb st, .vdot4 d a b k la lb st,
         .vlut3 d a b k la lb tab], Traps i s u { cause := .vectorNoContext, detail := 0, taddr := 0 }) ∧
  (∀ (s : State) (u : Issue) (d a : VReg) (k : KReg) (la : Bool) (st : BitVec 2) (x : AReg) (off : BitVec 12) (sc : BitVec 2)
     (g : GReg) (n : BitVec 6), s.issuePoint = some u → u.n.vec = none →
     ∀ i ∈ [Instr.vld d x st off, .vldh d x st off, .vst d x la st off, .vsth d x la st off, .gathw d x a k sc,
         .gathh d x a k sc, .scatw d x a k sc, .scath d x a k sc, .vbcast d g, .vins d g n, .vext g d n, .vshuf d a,
         .vrot d a n, .vscan d a, .vredadd g a, .vredfadd g a, .vredmax g a, .vredmin g a, .vpopk g n, .vkmov g n,
         .vmovk n g], Traps i s u { cause := .vectorNoContext, detail := 0, taddr := 0 })

/-- R196, R38: TRAP completes and then takes SOFTWARE with its code in the detail, TIP being the word that would execute
next: the word after it, or the start of a loop at whose end it stands with trips remaining; with DBGC.SSTEP set it takes SOFTWARE
too, and no SINGLE_STEP, by the model's choice (log entry 98). R348: in trap mode it is unperformed: the node is held as a
DOUBLE_TRAP, and the report's TIP is the TRAP, or the first hint of its run. -/
def Obligations.SoftwareTrap : Prop :=
  ∀ (s : State) (u : Issue) (code : BitVec 10) (st : BitVec 2), Clear s u [] [] →
    (u.n.inTrap = true → ∃ q m r, exec (.trap code st) s = .next q ∧ q.node? u.p u.i = some m ∧ m.stt = .trapped ∧
      m.pc = u.n.hints.start.getD u.n.pc ∧ (q.ring (dieOf u.p)).pending = (s.ring (dieOf u.p)).pending ++ [r] ∧
      r.cause = .doubleTrap ∧ r.tip = u.n.hints.start.getD u.n.pc ∧ r.pcell = u.p ∧ q.mem = s.mem) ∧
    (u.n.inTrap = false → u.n.notv = false →
      let back := u.n.loopc ≠ 0 ∧ u.n.pc = u.n.loope
      ∃ q m, exec (.trap code st) s = .next q ∧ q.node? u.p u.i = some m ∧ Elsewhere s q u.p u.i ∧
        m.tcause = (code.zeroExtend 16 ++ (0x21 : BitVec 16) : Word) ∧
        m.tip = (if back ∧ u.n.loopc ≠ 1 then u.n.loops else u.n.pc + 4) ∧ m.taddr = 0 ∧ m.inTrap = true ∧
        m.tloopc = (if back then u.n.loopc - 1 else u.n.loopc) ∧ m.loopc = 0 ∧ m.pc = u.n.tvec &&& 0xFFFFFFFC ∧
        (m.g, m.region, m.bank, m.a, m.p, m.vec) = (u.n.g, u.n.region, u.n.bank, u.n.a, u.n.p, u.n.vec))

/-- R19, R197, R383: WSPILL stores the oldest resident frame at WSTK + 64 × SPILLED as sixteen words in flight; WFILL reads the
newest spilled frame back, or, where a word of it is poisoned, takes POISON_CONSUMED. A spill past WLIM, or a fill of nothing, takes
SPILL_AREA_FAULT with the address, or WSTK, in TADDR. A watchpoint that the words touch is taken when the instruction completes
(R37). WSPILL holds its cell while a result is owed to the frame that it would spill (R383), and WFILL while accesses of the node to its
cell are in flight. That the traps of WSPILL come before its hold is the model's choice (log entry 114), and so is that WFILL reads its
sixteen words in the step in which it completes (log entry 3). -/
def Obligations.WindowSpillResults : Prop :=
  ∀ (s : State) (u : Issue) (st : BitVec 2), Clear s u [] [] →
    let n := u.n
    let c := s.cell u.p
    let ok : Nat → Prop := fun a => a + 64 ≤ 0x18000 ∧ ¬ (a < c.codeOff + c.codeLen ∧ c.codeOff < a + 64)
    (n.res = 1 → Traps (.wspill st) s u { cause := .illegalEncoding, detail := 2, taddr := 0 }) ∧
    (n.res = n.frames → Traps (.wfill st) s u { cause := .illegalEncoding, detail := 2, taddr := 0 }) ∧
    (n.res ≠ 1 →
      let a := n.wstk.toNat + 64 * n.spilled
      let f := (n.cur + 1 + n.frames - n.res) % n.frames
      (n.wlim.toNat < a + 64 ∨ ¬ ok a → ∃ t, Traps (.wspill st) s u t ∧ t.cause = .spillAreaFault ∧ t.taddr = BitVec.ofNat 64 a) ∧
      (a + 64 ≤ n.wlim.toNat → ok a → (∃ o ∈ n.owed, ∃ j, j < 16 ∧ Loc.region (16 * f + j) ∈ o.dests) ∨ s.ownWaits u false = true →
        Holds (.wspill st) s u) ∧
      (a + 64 ≤ n.wlim.toNat → ok a → n.frameOwed f = false → s.ownWaits u false = false →
        ∃ (t : State) (l : List Access), exec (.wspill st) s = .next
            (t.complete u.p u.i u.c st.toNat 0 { n with spilled := n.spilled + 1, res := n.res - 1 } none
              (n.watchRange (BitVec.ofNat 64 a) { size := 4, wr := true } 16) n.singleStep) ∧
          t.mem = s.mem ∧ t.cells = s.cells ∧ t.net = s.net ++ l ∧
          l.map (fun x => (x.src, x.home, x.key, x.size, x.op)) = (List.range 16).map (fun j =>
            (Src.node u.p u.i n.gen, Home.cell u.p, keyLocal u.p (a + 4 * j), 4,
              AccOp.store (Store.get ({} : RegCell) n.region (16 * f + j)).val.toNat)))) ∧
    (n.res ≠ n.frames →
      let a := n.wstk.toNat + 64 * (n.spilled - 1)
      let f := (n.cur + n.frames - n.res) % n.frames
      let k : Acc := { size := 64, rd := true }
      let fault : Addr → Trap := fun x => { cause := .spillAreaFault, detail := k.detail, taddr := x }
      (n.spilled = 0 → Traps (.wfill st) s u (fault (BitVec.ofNat 64 n.wstk.toNat))) ∧
      (n.spilled ≠ 0 → ¬ ok a → Traps (.wfill st) s u (fault (BitVec.ofNat 64 a))) ∧
      (n.spilled ≠ 0 → ok a → (∃ y ∈ s.net, y.src = .node u.p u.i n.gen ∧ (.cell u.p : Home) ∈ y.homes) → Holds (.wfill st) s u) ∧
      (n.spilled ≠ 0 → ok a → s.inFlightTo (.node u.p u.i n.gen) (.cell u.p) = false →
        poisonedAt s.poison (keyLocal u.p a) 64 = true →
        let at_ : Addr := BitVec.ofNat 64 (a + firstPoison s.poison (keyLocal u.p a) 64)
        Traps (.wfill st) s u { cause := .poisonConsumed, detail := ({ size := 4, rd := true } : Acc).detail, taddr := at_ }) ∧
      (n.spilled ≠ 0 → ok a → s.inFlightTo (.node u.p u.i n.gen) (.cell u.p) = false →
        poisonedAt s.poison (keyLocal u.p a) 64 = false →
        ∃ m : Node, exec (.wfill st) s = .next (s.complete u.p u.i u.c st.toNat 0 m none
            (n.watchRange (BitVec.ofNat 64 a) { size := 4, rd := true } 16) n.singleStep) ∧
          m.res = n.res + 1 ∧ m.spilled = n.spilled - 1 ∧
          (∀ j, j < 16 → Store.get ({} : RegCell) m.region (16 * f + j) =
            { val := BitVec.ofNat 32 (Memory.num s.mem (keyLocal u.p (a + 4 * j)) 4), live := true }) ∧
          (∀ w, (w < 16 * f ∨ 16 * f + 16 ≤ w) → Store.get ({} : RegCell) m.region w = Store.get ({} : RegCell) n.region w) ∧
          { m with region := [], res := 0, spilled := 0 } = { n with region := [], res := 0, spilled := 0 }))

/-- R198: WIDX is owed a half of a field of the work identifier: the group above the node's ordinal, cut by the field widths of
the launch; a field that the launch does not have reads 0. R199: GROW adds to the COUNT of the node's launch and is owed the
COUNT before; a GROW whose key the launch has recorded is owed the recorded value and adds nothing; one that would pass 2^40
takes GROW_LIMIT. In twin mode a GROW without a recorded key holds its cell, and one packet waits for its like (R360, log entry
112). The reeve domain has no COUNT: there the value is free (log entry 19). -/
def Obligations.WorkAndGrowResults : Prop :=
  (∀ (s : State) (u : Issue) (d : GReg) (half f : BitVec 5) (st : BitVec 2) (k : Nat) (i : Inst),
     s.instOf u.p = some (k, i) → Clear s u [] [.g d] → half.toNat < 2 →
     let id := i.group * 2 ^ i.image.nb + u.n.ordinal
     let below := (i.image.widths.take f.toNat).sum
     let v := match i.image.widths[f.toNat]? with
       | none => 0
       | some w => id / 2 ^ below % 2 ^ w
     Completes (.widx d half f st) s u st.toNat (u.n.owing (.g d) (.word (BitVec.ofNat 32 (v / 2 ^ (32 * half.toNat)))))) ∧
  (∀ (s : State) (u : Issue) (d a : GReg) (la : Bool) (st : BitVec 2), Clear s u [.g a] [.g d] →
     let v := (u.n.getG a).toNat
     let m : Node := { u.n.used (rel1 la a) with grows := u.n.grows + 1 }
     (∀ l g x, s.launchOf u.p = some l → s.groupOf u.p = some g → s.launch? l = some x →
       let key := ((s.nid u.p u.i).extractLsb' 0 16, g, u.n.grows)
       (∀ k ∈ x.grows, (k.nid, k.group, k.count) = key → (∀ j ∈ x.grows, (j.nid, j.group, j.count) = key → j = k) →
         exec (.grow d a la st) s = .next (s.finish u st.toNat 0 (m.owing (.g d) (.word (BitVec.ofNat 32 k.old))))) ∧
       ((∀ k ∈ x.grows, (k.nid, k.group, k.count) ≠ key) → (s.instAt u.p).twin ≠ [] → ∀ j i, s.instOf u.p = some (j, i) →
         let mine : Src := .node u.p u.i u.n.gen
         let wait : TwinMsg := .grow mine key.1 u.n.grows v
         ∃ t, exec (.grow d a la st) s = .next t ∧ t.node? u.p u.i = some u.n ∧ (t.cell u.p).cyc = u.c + 1 ∧ t.mem = s.mem ∧
           t.launches = s.launches ∧ ((∀ y ∈ i.twinq, y.msg ≠ wait) → t.inst? j = some { i with twinq := i.twinq ++
             [{ second := s.isTwinCell u.p, lcell := (s.cell u.p).lcell, msg := wait }] })) ∧
       ((∀ k ∈ x.grows, (k.nid, k.group, k.count) ≠ key) → (s.instAt u.p).twin = [] →
         (2 ^ 40 < x.count + v → Traps (.grow d a la st) s u { cause := .growLimit, detail := 0, taddr := 0 }) ∧
         (x.count + v ≤ 2 ^ 40 → exec (.grow d a la st) s = .next
           (({ s with launches := Tab.set s.launches l { x with
                 count := x.count + v,
                 grows := x.grows ++ [{ group := g, nid := key.1, count := u.n.grows, old := x.count }] } } : State).finish
             u st.toNat 0 (m.owing (.g d) (.word (BitVec.ofNat 32 x.count))))))) ∧
     (s.launchOf u.p = none →
       exec (.grow d a la st) s = .next (s.finish u st.toNat 0 (m.owing (.g d) (.word (Config.growReeve u.p u.i u.n.grows))))))

/-- R200, R201, R309: on a reeve cell LAUNCH and RESTART read a record of 128 bytes at a multiple of 128, hand it to the
dispatcher and are owed its status; a record at another address takes MISALIGNED, and the size in that trap's detail is 64 (log entry
4, DEDUCED). A poisoned record takes POISON_CONSUMED; the cell holds until the node's own accesses to the record's homes are performed
and no atomic stands between its read and its write at the host bridge in a line of the record, and a LAUNCH until none stands there at
all (R150). A restart that does not find its save set as it was sealed meets the errors in what it reads (R350) and changes nothing
else. That the record is read, and taken, in
the step in which the instruction completes is the model's choice (log entry 3), and so is the die of a PATCH_RANGE report (log entry
105). A record accepted (status 0) leaves a launch that dispatches, with the fields of the record, no group placed yet, and its copy in
tier-1 memory (R219; where it is kept is log entry 20); a drained launch restarted dispatches again, the groups of its save set first;
any other status leaves nothing in the dispatcher. SEAL seals the compute cell that g[a] names (R354); a cell already sealed stays as
it is. -/
def Obligations.ReeveInstructions : Prop :=
  ∀ (s : State) (u : Issue) (d a : GReg) (x : AReg) (la : Bool) (st : BitVec 2), 416 ≤ u.p →
    let rd : Acc := { size := 64, rd := true }
    let y := u.n.getA x
    let both : List Instr := [.launch d x st, .restart d x st]
    (∀ t, Clear s u [.a x] [.g d] → checkAccess s u.p y rd = .error t → ∀ i ∈ both, Traps i s u t) ∧
    (∀ p1 t, Clear s u [.a x] [.g d] → checkAccess s u.p y rd = .ok p1 → y.toNat % 128 = 0 →
      checkAccess s u.p (y + 64) rd = .error t → ∀ i ∈ both, Traps i s u t) ∧
    (∀ p1 p2, Clear s u [.a x] [.g d] → checkAccess s u.p y rd = .ok p1 →
      (y.toNat % 128 ≠ 0 → ∀ i ∈ both,
        Traps i s u { cause := .misaligned, detail := rd.detail, taddr := y }) ∧
      (y.toNat % 128 = 0 → checkAccess s u.p (y + 64) rd = .ok p2 →
        let mine : Src := .node u.p u.i u.n.gen
        let q := (s.readHere (nodeAccess u p1 .load rd y [])).readHere (nodeAccess u p2 .load rd (y + 64) [])
        let holds : Instr → Prop := fun i => ∃ t, exec i s = .next t ∧ t.node? u.p u.i = some u.n ∧ (t.cell u.p).cyc = u.c + 1 ∧
          Elsewhere s t u.p u.i
        let bad : Place → Prop := fun p => s.sealedHome p.home = true ∨ s.poisoned (s.keyNow p.key p.win) 64 = true
        let poison : Addr → Place → Trap := fun a p =>
          { cause := .poisonConsumed, detail := rd.detail, taddr := a + BitVec.ofNat 64 (firstPoison s.poison (s.keyNow p.key p.win) 64) }
        let busy : Place → Prop := fun p => keyRegion p.key = 2 ∧ ∃ z ∈ s.net, z.read.isSome ∧ z.key / 64 = p.key / 64
        let ready := s.inFlightTo mine p1.home = false ∧ s.inFlightTo mine p2.home = false ∧ ¬ busy p1 ∧ ¬ busy p2
        let atomic := ∃ z ∈ s.net, z.read ≠ none
        let b := Memory.bytes s.mem (s.keyNow p1.key p1.win) 64 ++ Memory.bytes s.mem (s.keyNow p2.key p2.win) 64
        (¬ ready → ∀ i ∈ both, holds i) ∧
        (ready → bad p1 → ∀ i ∈ both, exec i s = .next (q.trapUnperformed u (poison y p1) 0 false)) ∧
        (ready → ¬ bad p1 → bad p2 → ∀ i ∈ both, exec i s = .next (q.trapUnperformed u (poison (y + 64) p2) 0 false)) ∧
        (ready → ¬ bad p1 → ¬ bad p2 → (q.mem, q.poison, q.cells, q.insts, q.net) = (s.mem, s.poison, s.cells, s.insts, s.net) ∧
          (atomic → holds (.launch d x st)) ∧
          ∀ r ∈ [(Instr.launch d x st, q.submit mine b), (.restart d x st, q.resubmit b)], (r.1 = .launch d x st → ¬ atomic) →
            exec r.1 s = .next (r.2.1.complete u.p u.i u.c st.toNat 0 (u.n.owing (.g d) (.word (BitVec.ofNat 32 r.2.2))) none
              (u.n.watchRange y rd 2) u.n.singleStep)))) ∧
    (∀ (src : Src) (b : List Byte),
      let f : Nat → Nat → Nat := fun o n => leNat (slice b o n)
      let t := (s.submit src b).1
      ((s.submit src b).2 ≤ 4 ∧
       ((s.submit src b).2 = 0 → t.nextLaunch = s.nextLaunch + 1 ∧ t.insts = s.insts ∧ (s.flaws = [] → t.cells = s.cells) ∧ t.net = s.net ∧
         ∃ l at_, t.launch? s.nextLaunch = some l ∧ l.tag = BitVec.ofNat 64 (f 72 8) ∧ l.phase = .dispatching ∧ l.count = f 24 8 ∧
           l.nextG = 0 ∧ l.gdone = 0 ∧ l.again = [] ∧ l.saved = [] ∧ l.grows = [] ∧ l.troot = f 32 8 ∧ l.prio = f 41 1 % 4 ∧
           l.cslot = f 42 1 % 64 ∧ l.drainlim = f 44 4 ∧ l.forcelim = f 48 4 ∧ l.overrun = f 52 4 ∧
           l.budgets = [f 56 4, f 60 4, f 64 4, f 68 4] ∧ l.copyAt = some at_ ∧
           sha256 (Memory.bytes t.mem (keyTier1 at_) l.copyLen) = l.copyDigest ∧
           t.pkg.launchLog = sha256 (s.pkg.launchLog ++ l.copyDigest)) ∧
       ((s.submit src b).2 ≠ 0 → t.nextLaunch = s.nextLaunch ∧ t.mem = s.mem ∧ t.insts = s.insts ∧ t.net = s.net ∧
         t.pkg.launchLog = s.pkg.launchLog ∧ t.launches.map (fun z => (z.1, z.2.tag, z.2.phase)) = s.launches.map (fun z => (z.1, z.2.tag, z.2.phase)) ∧
         (s.flaws = [] → src = .host ∨ (∃ p i g, src = .node p i g ∧ s.launchOf p = none) → t.launches = s.launches)) ∧
       ((s.submit src b).2 = 3 → ∃ r ∈ (t.ring 0).pending, r.cause = .patchRange)) ∧
      ((s.resubmit b).2 ≠ 0 → (s.resubmit b).1 = s ∨ (s.resubmit b).2 = 2 ∧ ∃ k x, s.launchTag (f 72 8) = some (k, x) ∧
        (s.resubmit b).1 = (x.keeps.foldl (fun s r => s.inspect (keyTier1 r.1) r.2) s)) ∧
      ((s.resubmit b).2 ≠ 0 → s.flaws = [] → (s.resubmit b).1 = s) ∧
      (∀ k x, s.launchTag (f 72 8) = some (k, x) → s.launch? k = some x → (s.resubmit b).2 = 0 → x.phase = .ended ∧
        ∃ l, (s.resubmit b).1.launch? k = some l ∧ l.phase = .dispatching ∧ l.again = x.saved.map (·.group) ∧ l.saved = x.saved ∧
        l.count = x.count ∧ l.troot = f 32 8 ∧ l.drainlim = f 44 4 ∧ l.forcelim = f 48 4 ∧ (s.resubmit b).1.mem = s.mem)) ∧
    (Clear s u [.g a] [] →
      let c := (u.n.getG a).toNat % 512
      let m := u.n.used (rel1 la a)
      (c < 416 → (s.cell c).isSealed = false →
        exec (.seal a la st) s = .next ((s.sealCell c false).finish u st.toNat 0 m) ∧ SealedAs s (s.sealCell c false) c false) ∧
      (416 ≤ c ∨ (s.cell c).isSealed = true → Completes (.seal a la st) s u st.toNat m))

/-- R14, R234, R241: NODE_SELECT makes a cell run its READY node of the highest priority, within it the first at or after the
priority's pointer; NODE_RESUME completes the OFFER or the EVWAIT of a resolved node, which competes as READY with its result
written. The stall count of an OFFER runs from there (R168), that of an EVWAIT has run when the node stopped (R15). A node that is not
resolved, or whose delay has not passed while its cell runs another, does not resume (log entry 13); on a cell that a drain has
stopped no delay holds it, since the releases of the instant are completed before the save (R241). A node that resumes lets an
instant of its instance that waits begin (R233, log entry 106). -/
def Obligations.NodeAgents : Prop :=
  (∀ (s : State) (i : Nat) (n : Node),
    let p := s.par.pcell
    let c := s.cell p
    let ready := c.nodes.filter (fun e => decide (e.2.stt = .ready))
    let at_ := Store.get 0 c.rr n.prio
    c.running = none → c.isSealed = false → s.frozen p = false → s.node? p i = some n → n.stt = .ready →
    (∀ e ∈ ready, e.2.prio ≤ n.prio) →
    (∃ d, d < 20 ∧ (at_ + d) % 20 = i ∧ ∀ d', d' < d → ∀ e ∈ ready, e.2.prio = n.prio → e.1 ≠ (at_ + d') % 20) →
    ∃ t, exec .nodeSelect s = .next t ∧ (t.cell p).running = some i ∧ t.node? p i = some { n with stt := .running, begun := true } ∧
      (∀ j, j ≠ i → t.node? p j = s.node? p j) ∧ Store.get 0 (t.cell p).rr n.prio = (i + 1) % 20 ∧
      (∀ q, q ≠ p → t.cell q = s.cell q) ∧ t.mem = s.mem ∧ t.insts = s.insts) ∧
  (∀ (s : State) (n : Node) (w : Word) (f : Offer),
    let p := s.par.pcell
    let i := s.par.slot
    s.node? p i = some n → n.resolved = some w → n.offer = some f → (n.delay ≤ (s.cell p).cyc ∨ (s.cell p).running = none ∨ s.frozen p = true) →
    (∀ k j, (s.cell p).inst = some k → s.inst? k = some j → j.phase ≠ .between) →
    ∃ t m, exec .nodeResume s = .next t ∧ t.node? p i = some m ∧ m.stt = .ready ∧ m.begun = true ∧ m.offer = none ∧
      m.resolved = none ∧ m.getG f.d = (if f.d = 0 then 0 else w) ∧ m.pc = (n.advance none).pc ∧
      m.issueAt = max (max (s.cell p).cyc n.issueAt) n.delay + f.st + n.hints.stall ∧ t.mem = s.mem ∧
      (∀ q, q ≠ p → t.cell q = s.cell q)) ∧
  (∀ (s : State) (n : Node) (w : Word) (x : Wait),
    let p := s.par.pcell
    let i := s.par.slot
    s.node? p i = some n → n.resolved = some w → n.offer = none → n.wait = some x →
    (n.delay ≤ (s.cell p).cyc ∨ (s.cell p).running = none ∨ s.frozen p = true) →
    (∀ k j, (s.cell p).inst = some k → s.inst? k = some j → j.phase ≠ .between) →
    ∃ t m, exec .nodeResume s = .next t ∧ t.node? p i = some m ∧ m.stt = .ready ∧ m.begun = true ∧ m.wait = none ∧
      m.resolved = none ∧ m.getG x.d = (if x.d = 0 then 0 else w) ∧ m.pc = (n.advance none).pc ∧
      (∀ r, .region r ∈ x.rel → n.loc (.g x.d) ≠ some (.region r) →
        Store.get ({} : RegCell) m.region r = { val := 0, live := false }) ∧
      (∀ r, .g r ∈ x.rel → n.loc (.g x.d) ≠ some (.g r) → Store.get ({} : RegCell) m.g r = { val := 0, live := false }) ∧
      m.issueAt = max (max (s.cell p).cyc n.issueAt) n.delay ∧ t.mem = s.mem ∧ (∀ q, q ≠ p → t.cell q = s.cell q)) ∧
  (∀ (s : State) (n : Node) (w : Word) (k : Nat) (j : Inst),
    let p := s.par.pcell
    let i := s.par.slot
    s.node? p i = some n → n.resolved = some w → (n.delay ≤ (s.cell p).cyc ∨ (s.cell p).running = none ∨ s.frozen p = true) →
    (s.cell p).inst = some k → s.inst? k = some j → j.phase = .between →
    exec .nodeResume s = .next ((s.resumeNode (p, i)).tryBegin k) ∧
    (j.stop = false → j.forcing = false → (p, i) ∈ (s.nodesOf j).map (·.1) →
      ∃ t y, exec .nodeResume s = .next t ∧ t.inst? k = some y ∧ y.phase = .running ∧ y.instant = j.instant)) ∧
  (∀ (s : State) (n : Node),
    let p := s.par.pcell
    s.node? p s.par.slot = some n → n.resolved = none ∨ (s.cell p).cyc < n.delay ∧ (s.cell p).running.isSome ∧ s.frozen p = false →
    exec .nodeResume s = .next s)

/-- R228, R230, R231, R233, R239: FAST_COMMIT commits an event all of whose participants have offered it alone, which is then present.
SETTLING_ROUND runs in a quiescent domain: of the events whose participants have all offered, taken in the rotation of the instant,
the first is present if none of its participants has resolved on another event, every one has a status afterwards, and one with a
participant that has resolved on another event is not present; a domain in which no node is left to run, offer or wait ends its
instant. INSTANT_OVERRUN marks the nodes that run, are READY or are resolved, to take the trap at their next boundary; where there is
none, each that waits, or holds a held or a persisting offer, takes it, its EVWAIT or OFFER withdrawn and no offer made in the
instant. The mark taken at the next boundary is log entry 28. The combinations wait for their budgets, which admit one contribution
after another (R277, log entries 82 and 113), and for an atomic that stands half done at the host bridge in a line of a contribution that
the commit reads (R150), and contributions that the two copies of a twin-mode group do not make alike end the instance (R360). Where none of this is due, the step
leaves the state (log entry 13). -/
def Obligations.SheafAgents : Prop :=
  ∀ (s : State) (i : Inst), s.inst? s.par.inst = some i →
    let k := s.par.inst
    let e := s.par.ev
    let c := s.offered k i
    let settled : Participant → Prop := fun p => ∃ n, s.ord i p.id = some n ∧ n.settled.isSome
    let q := s.admitCombine k e
    let r := c.foldl (fun s e => s.admitCombine k e) s
    let due := i.phase = .running ∧ s.quiescent i = true
    let paid := ∀ e ∈ c, r.commits k e = true
    (q.mem = s.mem ∧ q.cells = s.cells ∧ q.net = s.net ∧ (s.share i 4 = none → q.combinePaid k e = true)) ∧
    (∀ v : State, v.commits k e = true ↔ v.combinePaid k e = true ∧ ∀ y, v.inst? k = some y → v.contributionWaits y e = false) ∧
    ((∀ z ∈ s.net, z.read = none) → s.contributionWaits i e = false) ∧
    (∀ (g : Participant) (b : Nat) (x : Standing) (l : Place),
      g ∈ (i.event e).required → g.role = 1 ∨ g.role = 3 → g.pkind = 1 ∨ g.pkind = 2 ∨ g.pkind = 3 →
      s.standingOf i e g false = some x → x.publish = false → b < (i.event e).len → b = 0 ∨ (x.addr.toNat + b) % 64 = 0 →
      checkAccess s (4 * i.engineSite g false + (g.pkind - 1)) (BitVec.ofNat 64 (x.addr.toNat + b)) { size := 1, rd := true } = .ok l →
      keyRegion l.key = 2 → (∃ z ∈ s.net, z.read.isSome ∧ z.key / 64 = l.key / 64) →
      s.contributionWaits i e = true) ∧
    (i.phase = .running → e < i.image.events.length → i.status e = .unknown → i.hostEvent e = false →
      (i.event e).required ≠ [] → (∀ p ∈ (i.event e).required, s.offers k i e true p = true) →
      (q.commits k e = true → s.differing k [e] = none →
        ∃ t j, exec .fastCommit s = .next t ∧ t.inst? k = some j ∧ j.status e = .present ∧ j.image = i.image) ∧
      (q.commits k e = false → s.differing k [e] = none → exec .fastCommit s = .next q) ∧
      (s.differing k [e] ≠ none → ∃ t, exec .fastCommit s = .next t ∧ t.inst? k = none)) ∧
    (i.phase = .running → i.status e ≠ .unknown → exec .fastCommit s = .next s) ∧
    (¬ due → exec .settlingRound s = .next s) ∧
    (due → s.differing k c ≠ none → ∃ t, exec .settlingRound s = .next t ∧ t.inst? k = none) ∧
    (due → s.differing k c = none → ¬ paid → exec .settlingRound s = .next r) ∧
    (due → s.differing k c = none → paid → c ≠ [] → ∃ t j, exec .settlingRound s = .next t ∧ t.inst? k = some j ∧
      (∀ e ∈ c, i.hostEvent e = false → j.status e ≠ .unknown) ∧
      (∀ e l, c = e :: l → i.hostEvent e = false → (∀ p ∈ (i.event e).required, p.pkind = 0 → (∃ n, s.ord i p.id = some n) ∧ ¬ settled p) →
        j.status e = .present) ∧
      (∀ e ∈ c, i.hostEvent e = false → (∃ p ∈ (i.event e).required, p.pkind = 0 ∧ settled p) → j.status e ≠ .present)) ∧
    (due → c = [] → s.refresh k = s →
      (∀ x ∈ s.nodesOf i, x.2.offer = none ∧ (x.2.stt = .paused ∨ x.2.stt = .sleeping ∨ x.2.stt = .retired ∨ x.2.stt = .sealed)) →
      ∃ t j, exec .settlingRound s = .next t ∧ t.inst? k = some j ∧ j.instant = i.instant + 1) ∧
    (s.overrunDue k = false → exec .instantOverrun s = .next s) ∧
    (s.overrunDue k = true →
      let s' := (s.setInst k { i with phase := .running }).refresh k
      ∃ t, exec .instantOverrun s = .next t ∧ ∀ j, s'.inst? k = some j →
        let l := s'.nodesOf j
        let runs : Node → Prop := fun n => n.stt = .running ∨ n.stt = .ready ∨ n.resolved.isSome
        let held : Nat → Prop := fun o => (∃ f, s'.openOffer j o = some f ∧ f.persist = true) ∨ s'.heldOffer k j o = true
        let struck : Nat × Nat → Node → Prop := fun q n => t.node? q.1 q.2 =
          (s'.takeTrap q.1 q.2 { n with stt := .ready, offer := none, wait := none, resolved := none, made := none, settled := none }
            { cause := .instantOverrun, detail := 0, taddr := 0 } n.firstWord).node? q.1 q.2
        ((∃ x ∈ l, runs x.2) → t.mem = s'.mem ∧ t.insts = s'.insts ∧
          (∀ x ∈ l, runs x.2 → t.node? x.1.1 x.1.2 = some { x.2 with overrun := true }) ∧
          (∀ p i, (∀ x ∈ l, runs x.2 → x.1 ≠ (p, i)) → t.node? p i = s'.node? p i)) ∧
        ((∀ x ∈ l, ¬ runs x.2) → (l.map (·.1)).Nodup →
          (∀ x ∈ l, x.2.stt = .waiting → (∀ o ∈ j.ords, x.1 ∈ j.copies o → s'.openOffer j o = none) → struck x.1 x.2) ∧
          (∀ o ∈ j.ords, held o → ∀ x ∈ l, x.1 ∈ j.copies o → x.2.stt = .offering → struck x.1 x.2)))

/-- R65, R150, R175, R177 to R179, R184 to R189, R192, R193, R202, R268, R270, R351, R354: engines. COMMAND_ACCEPTANCE moves the command
at the second issue cycle into its engine's queue of 16, its TID entries captured (at acceptance: log entry 36), with what DTID's SAT and
an NROWS of 0 stand for, a snapshot of the accepted counts of its WAIT taken, and its own count raised. COMMAND_EXECUTION goes on with the
head by one chunk: a row of a tile for MMA, the tile for MZERO, a row for MDRAIN and the conversions (all for per-column scales), and for
a copy the bytes up to the next 64-byte boundary of the destination. Each clause gives what the chunk leaves where it writes, from what the
engine reads in `s0`, in which its accesses are made; a published write goes to the hidden half of its pair. MMA keeps the operand slots
as its first chunk read them. Poison reaches the doublewords of what is derived from it, a poisoned destination of COPYOP and a poisoned
tile element stay so, a doubleword written whole is else clean, a write that a page forbids poisons its words, and a command's first such
fault is reported. A chunk waits for a line that the bridge holds, and for budgets (R277, log entry 113). 0 times a negative scale is -0
by log entry 96; a CONV of FA40 rounds in the descriptor's mode by log entry 100 (R52's row says RNE). In twin mode the two copies' engines
do a chunk together, what they send compared (R360, log entry 35). A page not present holds the engine; a command that stops behind a seal
has every destination that it may write poisoned, and is reported. COMMAND_COMPLETION takes a finished head off, raises the completed count
and offers its event last. GANG_START gives the crofts their times; GANG_STEP_BEGIN begins a step. A step not due leaves the state (log
entry 13). The model's own are a chunk's being one step, and its size but for copies (log entry 31), and the cycle by which a gang step's
delay is told (log entry 51). -/
def Obligations.EngineAgents : Prop :=
  ∀ (s : State),
    let site := s.par.site
    let k := s.par.eng
    let e := s.engine site k
    let c := s.croft site
    let key : Cmd → Nat := fun m => 3 * m.oslot + k
    (∀ m, e.atIssue = some m → e.queue.length < 16 → s.tidHeld site k = false →
      ∃ t m', exec .commandAcceptance s = .next t ∧ (t.engine site k).atIssue = none ∧
        (t.engine site k).queue = e.queue ++ [m'] ∧ (m'.wait, m'.event, m'.inst) = (m.wait, m.event, m.inst) ∧
        (let t1 := m.capture (s.instD m.inst) 0
         let t2 := m.capture (s.instD m.inst) 1
         let x := Tid.of t1
         let y := Tid.of t2
         let resolved : CnvDesc → CnvDesc := fun d =>
           { d with sat := d.sat || y.sat, nrows := if d.nrows = 0 then x.rows - d.row0 else d.nrows }
         (m'.tid1, m'.tid2) = (t1, t2) ∧ (∀ d, m.op = .conv d → m'.op = .conv (resolved d)) ∧
         (∀ d, m.op = .planes d → m'.op = .planes (resolved d)) ∧ (∀ d, m.op = .sparsify d → m'.op = .sparsify (resolved d)) ∧
         (∀ d, m.op = .scalec d → m'.op = .scalec (resolved d)) ∧
         ((∀ d, m.op ≠ .conv d ∧ m.op ≠ .planes d ∧ m.op ≠ .sparsify d ∧ m.op ≠ .scalec d) → m'.op = m.op)) ∧
        (∀ x, x ∈ m'.snap ↔ ∃ b q, b < 8 ∧ m.wait.getLsbD b = true ∧ q < 3 ∧ x = { slot := b, eng := q, count := Store.get 0 c.acc (3 * b + q) }) ∧
        (m.seten = true → Store.get 0 (t.croft site).acc (key m) = Store.get 0 c.acc (key m) + 1) ∧
        (m.seten = false → (t.croft site).acc = c.acc) ∧ t.mem = s.mem ∧ t.cells = s.cells) ∧
    (e.atIssue = none ∨ 16 ≤ e.queue.length ∨ s.tidHeld site k = true → exec .commandAcceptance s = .next s) ∧
    (let s := { s with par := { s.par with lost := none } }
     (s.engineDue site k = false → exec .commandExecution s = .next s) ∧
     (∀ m l, k < 3 → e.queue = m :: l → s.engineDue site k = true → (s.instD m.inst).twin = [] →
       let i := s.instD m.inst
       let p := 4 * site + k
       let c := chunkOf s i site k m e
       let stops := e.begun = false ∧ (e.dead = true ∨ s.gangDead i m = true)
       let a := s.admitChunk i p c e
       let s0 := c.meets (a.1.fillTouches p c.touches)
       let goes : (State → Prop) → Prop := fun q => ∃ t, exec .commandExecution s = .next t ∧ (t.engine site k).begun = true ∧
         (t.engine site k).queue = e.queue ∧ q t
       let at_ : State → Nat → Prop := fun t n => (t.engine site k).prog = n
       let place : Place → Nat := fun pl => match m.pub, pl.win with
         | some ev, some (_, o) => (s0.instAt p).windowKey ((s0.instAt p).hidden ev o)
         | _, _ => s0.keyNow pl.key pl.win
       let x := Tid.of m.tid1
       let y := Tid.of m.tid2
       let reported : State → Prop := fun t => (t.engine site k).faulted = true ∧
         (e.faulted = false → ∃ r ∈ (t.ring (dieOf p)).pending, r.cause = .enginePoison ∧ r.pcell = p)
       let marked : State → Nat → Nat → (Nat → Prop) → Prop := fun t at_ n bad =>
         (∀ j, j < n → bad j → (at_ + j) / 8 ∈ t.poison) ∧ (∀ j, j < n → bad j → reported t) ∧
         (∀ d, at_ ≤ 8 * d → 8 * d + 8 ≤ at_ + n → (∀ j, j < n → (at_ + j) / 8 = d → ¬ bad j) → d ∉ t.poison)
       let touched : Tid → (Nat → Prop) → Nat → Prop := fun t el j => ∃ c, c < t.cols ∧ el c ∧
         fmtBits t.fmt * c < 8 * (j + 1) ∧ 8 * j < fmtBits t.fmt * (c + 1)
       let read : Tid → Nat → Nat → Prop := fun t r c => ∃ j,
         fmtBits t.fmt * c < 8 * (j + 1) ∧ 8 * j < fmtBits t.fmt * (c + 1) ∧
         ((s0.engineBytes p (t.base + r * t.stride) t.rowLen).getD j (0, false)).2 = true
       let scaled : Tid → Nat → Nat → Prop := fun t r c => t.smode ≠ 0 ∧ (s0.engineBytes p (t.scaleAddr r c) 4).bad = true
       let lands : State → Nat → Nat → List Byte → (Nat → Prop) → Prop := fun t a n b bad => parts a n = [(a, n)] → b.length = n →
         (∀ pl, s0.rangePlace p a n true = .ok pl → pl.mirror = none →
           (pl.away = true → s0.isTwinCell p = false ∧ s0.sealedHome pl.home = false) → s0.absentAt (place pl) = false →
           Memory.bytes t.mem (place pl) n = b ∧ marked t (place pl) n bad) ∧
         (∀ f pl, s0.rangePlace p a n true = .error f → f.cause = .pageProtection → s0.rangePlace p a n false = .ok pl →
           (pl.away = true → s0.sealedHome pl.home = false) → s0.absentAt (s0.keyNow pl.key pl.win) = false →
           reported t ∧ ∀ j, j < n → s0.codeDword ((s0.keyNow pl.key pl.win + j) / 8) = false → (s0.keyNow pl.key pl.win + j) / 8 ∈ t.poison)
       let inSlot : State → Nat → Nat → List Byte → (Nat → Prop) → Prop := fun t sl off b bad =>
         Memory.bytes t.mem (keySlot site sl off) b.length = b ∧ marked t (keySlot site sl off) b.length bad
       let row : Tid → Nat → Nat → Nat := fun t r c => elemOf (fmtBits t.fmt) (s0.engineBytes p (t.base + r * t.stride) t.rowLen).bytes c
       let scale : Tid → Nat → Nat → Nat := fun t r c => leNat (s0.engineBytes p (t.scaleAddr r c) 4).bytes
       let pack : Tid → (Nat → Nat) → List Byte := fun t f => packRow (fmtBits t.fmt) ((List.range t.cols).map f)
       let own : Nat → Nat → Prop := fun a n => a < 2 ^ 17 ∧ parts a n = [(a, n)] ∧ ∃ pl, s0.rangePlace p a n true = .ok pl
       let rows : State → CnvDesc → List Nat → Nat → (Nat → Nat → List Byte) → (Nat → Nat → Nat → Prop) → Prop := fun t d l planes f bad =>
         let at_ : Nat → Nat → Nat := fun r j => (y.base + (j * y.rows + r) * y.stride) % 2 ^ 64
         (d.dslot = true → 0 < y.rows → ∀ r ∈ l, ∀ j, j < planes → (f r j).length = y.rowLen →
           inSlot t d.slot (d.soff + (j * y.rows + (r - d.row0)) * y.rowLen) (f r j) (bad r j)) ∧
         (d.dslot = false → y.valid = true → y.rows ≤ 2 ^ 24 → 0 < y.rowLen →
           (∀ r ∈ l, r < y.rows ∧ ∀ j, j < planes → own (at_ r j) y.rowLen) →
           ∀ r ∈ l, ∀ j, j < planes → (f r j).length = y.rowLen → Memory.bytes t.mem (keyLocal p (at_ r j)) y.rowLen = f r j ∧
             marked t (keyLocal p (at_ r j)) y.rowLen (bad r j))
       let sends : State → CnvDesc → Nat → List Byte → (Nat → Prop) → Prop := fun t d r b bad =>
         (d.dslot = true → inSlot t d.slot (d.soff + (r - d.row0) * y.rowLen) b bad) ∧
         (d.dslot = false → lands t ((y.base + r * y.stride) % 2 ^ 64) y.rowLen b bad)
       let placeNow : Option Nat → Place → Nat := fun ev pl => match ev, pl.win with
         | some ev, some (_, o) => (s.instAt p).windowKey ((s.instAt p).hidden ev o)
         | _, _ => s.keyNow pl.key pl.win
       let struck : State → Option Nat → Nat → Nat → Prop := fun t ev a n => ∀ z ∈ parts a n, ∀ pl,
         (∀ l, (∀ d ∈ l, d ∈ t.poison) → ({ s with poison := l } : State).rangePlace p z.1 z.2 true = .ok pl) → pl.mirror = none →
         (pl.away = true → s.isTwinCell p = false ∧ s.sealedHome pl.home = false) → s.absentAt (placeNow ev pl) = false →
         ∀ j, j < z.2 → (placeNow ev pl + j) / 8 ∈ t.poison
       let slotStruck : State → Nat → Nat → Nat → Nat → Prop := fun t q sl off n => ∀ j, j < n → (keySlot q sl off + j) / 8 ∈ t.poison
       ((∀ z ∈ s.net, z.read = none) → s.taintWaits i site k m = false) ∧
       (stops → s.taintWaits i site k m = true → exec .commandExecution s = .next s) ∧
       (stops → s.taintWaits i site k m = false → goes (fun t => at_ t m.total ∧ reported t ∧
         (∀ a b z v w g, m.op = .mma a b z v w g → ∀ r j, r < x.rows → j < y.cols → keyTile site z r j / 8 ∈ t.poison) ∧
         (∀ z, m.op = .mzero z → ∀ r j, r < 128 → j < 128 → keyTile site z r j / 8 ∈ t.poison) ∧
         (s.flaws = [] →
           (∀ z it tid pub, m.op = .mdrain z it tid pub → ∀ r, r < x.rows → struck t m.pub ((x.base + r * x.stride) % 2 ^ 64) x.rowLen) ∧
           (∀ d, m.op = .copy d ∨ m.op = .copyg d ∨ m.op = .copyop d → ∀ r : Nat, r < d.count1 * d.count2 →
             let off : Int := (if d.dkind then (d.slotOff : Int) else d.dst.toNat) + (r / d.count1 : Nat) * d.dstride2 + (r % d.count1 : Nat) * d.dstride1
             (d.dkind = false → struck t m.pub (addrNat off) d.len0) ∧
             (d.dkind = true → ∀ q ∈ d.targetSites i site, slotStruck t q d.slotNo off.toNat d.len0)) ∧
           (∀ d, m.op = .conv d ∨ m.op = .planes d ∨ m.op = .sparsify d ∨ m.op = .scalec d → ∀ r, d.row0 ≤ r → r < d.row0 + d.nrows →
             (∀ j, j < (if y.fmt = 0x20 then 8 else 1) →
               (d.dslot = true → slotStruck t site d.slot (d.soff + (j * y.rows + (r - d.row0)) * y.rowLen) y.rowLen) ∧
               (d.dslot = false → struck t m.pub ((y.base + (j * y.rows + r) * y.stride) % 2 ^ 64) y.rowLen)) ∧
             (m.op = .scalec d → y.smode ∈ [1, 2, 3] → ∀ c, c < y.cols → struck t none (y.scaleAddr r c % 2 ^ 64) 4))))) ∧
       (¬ stops → m.total ≤ e.prog → exec .commandExecution s = .next (s.setEngine site k { e with begun := true })) ∧
       (¬ stops → e.prog < m.total → s.chunkWaits p c = true → exec .commandExecution s = .next s) ∧
       (¬ stops → e.prog < m.total → s.chunkWaits p c = false → e.noFrame = true ∨ s.pageTrap p c.touches = none → s.chunkOpen i p c e = false →
         exec .commandExecution s = .next (a.1.setEngine site k { e with paid := e.paid + a.2 })) ∧
       ((∀ kind, s.share i kind = none) → s.chunkOpen i p c e = true) ∧
       (¬ stops → e.prog < m.total → s.chunkWaits p c = false → e.noFrame = false → ∀ f, s.pageTrap p c.touches = some f →
         goes (fun t => (t.engine site k).heldFor = some f ∧ at_ t e.prog ∧ t.mem = s.mem ∧
           ∃ r ∈ (t.ring (dieOf p)).pending, r.cause = .pageNotPresent ∧ r.pcell = p ∧ r.taddr = f.taddr)) ∧
       (s.flaws = [] → s0.mem = s.mem ∧ s0.poison = s.poison) ∧
       (¬ stops → e.prog < m.total → s.chunkWaits p c = false → e.noFrame = true ∨ s.pageTrap p c.touches = none → s.chunkOpen i p c e = true →
         (∀ a b z v w g, m.op = .mma a b z v w g → y.cols ≤ 128 → goes (fun t => at_ t (e.prog + 1) ∧
           let kept : Operands := s0.operands e site a b
           let v : State := { s0 with mem := kept.mem, poison := kept.poison }
           let bad : Nat → Prop := fun j => badGroups v site a x e.prog = true ∨
             ∃ o ∈ (List.range x.cols).zip (rowA v site a x e.prog), ∃ q, o.2 = some q ∧ (q.2 = true ∨ (elemB v site b y o.1 j).2 = true)
           (t.engine site k).operands = some kept ∧ (∀ o, e.operands = some o → kept = o) ∧
           (e.operands = none → ∀ sl ∈ [a, b], ∀ off, off < 32768 →
             Memory.get kept.mem (keySlot site sl off) = Memory.get s0.mem (keySlot site sl off) ∧
             (keySlot site sl off / 8 ∈ kept.poison ↔ keySlot site sl off / 8 ∈ s0.poison)) ∧
           (e.prog < 128 → z < 4 → ∀ j, j < y.cols →
             (keyTile site z e.prog j / 8 ∈ t.poison ↔ bad j ∨ keyTile site z e.prog j / 8 ∈ s0.poison)) ∧
           (∀ d, (∀ j, j < y.cols → d ≠ keyTile site z e.prog j / 8) → (d ∈ t.poison ↔ d ∈ s0.poison)) ∧
           ((∃ j, j < y.cols ∧ bad j) → reported t) ∧
           (s.flaws = [] → (∀ j, j < y.cols → ¬ bad j) → (t.engine site k).faulted = e.faulted) ∧
           (∀ j, j < y.cols →
             let l := ((List.range x.cols).zip (rowA v site a x e.prog)).filterMap
               (fun o => o.2.map (fun q => (q.1, (elemB v site b y o.1 j).1)))
             let old := s0.tile site z e.prog j
             t.tile site z e.prog j = (if x.fmt = 0x03 ∨ x.fmt = 0x01 ∨ x.fmt = 0x20 then
                 unsgn 40 (sgn 32 (unsgn 32 (l.foldl (fun v o => v + numInt o.1 * numInt o.2) (sgn 32 (old % 2 ^ 32)))))
               else l.foldl addFa40 old) % 2 ^ 40) ∧
           (∀ r j, r < 128 → j < 128 → e.prog < 128 → z < 4 → r ≠ e.prog ∨ y.cols ≤ j → t.tile site z r j = s0.tile site z r j))) ∧
         (∀ z, m.op = .mzero z → goes (fun t => at_ t 1 ∧ ∀ r j, r < 128 → j < 128 → t.tile site z r j = 0 ∧
           keyTile site z r j / 8 ∉ t.poison)) ∧
         (∀ z it tid pub, m.op = .mdrain z it tid pub → goes (fun t => at_ t (e.prog + 1) ∧
           lands t ((x.base + e.prog * x.stride) % 2 ^ 64) x.rowLen (pack x (fun c =>
             drainElem it x (s0.tile site z e.prog c) (if x.smode = 0 then none else some (scale x e.prog c))))
             (touched x (fun c => keyTile site z e.prog c / 8 ∈ s0.poison ∨ scaled x e.prog c)))) ∧
         (∀ d, m.op = .conv d → y.fmt ≠ 0x20 → goes (fun t => at_ t (e.prog + 1) ∧
           let r := d.row0 + e.prog
           sends t d r (pack y (fun c => toElem y.fmt d.rnd d.sat
             (let v := elemNum x.fmt (row x r c)
              if y.smode = 0 then v else (mulNum v (unpack fp32 (scale y r c))).1)))
             (touched y (fun c => read x r c ∨ scaled y r c)) ∨ x.cols ≠ y.cols)) ∧
         (∀ d, m.op = .planes d → y.fmt = 0x20 → x.cols = y.cols → y.sparse = 0 → x.cols % 8 = 0 → goes (fun t => at_ t (e.prog + 1) ∧
           rows t d [d.row0 + e.prog] 8 (fun r j => planeRow j ((List.range x.cols).map (row x r)))
             (fun r _ v => ∃ c, c < x.cols ∧ c / 8 = v ∧ read x r c))) ∧
         (∀ d, m.op = .sparsify d → y.fmt ≠ 0x20 → goes (fun t => at_ t (e.prog + 1) ∧
           let r := d.row0 + e.prog
           sends t d r (sparseRow y (y.cols / 32) ((List.range x.cols).map (row x r)))
             (fun v => ∃ c, c < x.cols ∧ c / 32 = v / y.groupLen ∧ read x r c) ∨ x.cols ≠ y.cols)) ∧
         (∀ d, m.op = .scalec d → y.fmt ≠ 0x20 → y.smode ∈ [1, 2, 3] → x.cols = y.cols → (y.smode = 2 → e.prog = 0) →
           let l : List Nat := if y.smode = 2 then (List.range d.nrows).map (· + d.row0) else [d.row0 + e.prog]
           let group : Nat → Nat → List Nat := fun r c =>
             if y.smode = 1 then (List.range y.cols).map (row x r) else if y.smode = 2 then l.map (fun r => row x r c)
             else (List.range (min 128 (y.cols - c / 128 * 128))).map (fun v => row x r (c / 128 * 128 + v))
           let sc : Nat → Nat → Nat := fun r c => groupScale x.fmt y.fmt d.rnd (group r c)
           let bad : Nat → Nat → Prop := fun r c =>
             if y.smode = 1 then ∃ v, v < y.cols ∧ read x r v else if y.smode = 2 then ∃ r' ∈ l, read x r' c
             else ∃ v, v < y.cols ∧ v / 128 = c / 128 ∧ read x r v
           goes (fun t => at_ t (if y.smode = 2 then d.nrows else e.prog + 1) ∧
             rows t d l 1 (fun r _ => pack y (fun c => quantElem x.fmt y.fmt d.rnd (sc r c) (row x r c))) (fun r _ => touched y (bad r)) ∧
             (d.dslot = true → (∀ r ∈ l, ∀ c, c < y.cols → own (y.scaleAddr r c) 4) → y.sbase % 4 = 0 →
               ∀ r ∈ l, ∀ c, c < y.cols → Memory.num t.mem (keyLocal p (y.scaleAddr r c)) 4 = sc r c % 2 ^ 32 ∧
                 (bad r c → keyLocal p (y.scaleAddr r c) / 8 ∈ t.poison ∧ reported t)))) ∧
         (∀ d, m.op = .copy d ∨ m.op = .copyg d ∨ m.op = .copyop d →
           let r : Nat := e.prog / 2 ^ 25
           let done : Nat := e.prog % 2 ^ 25
           let i1 : Nat := r % d.count1
           let i2 : Nat := r / d.count1
           let index := s.engineBytes p (d.idx.toNat + 4 * i1) 4
           ∀ (j : Nat) (lost : Bool), (e.row = some (j, lost) ∨ (e.row = none ∧ m.op ≠ .copyg d ∧ j = i1 ∧ lost = false) ∨
             (e.row = none ∧ m.op = .copyg d ∧ lost = index.bad ∧ j = leNat index.bytes)) →
           let src := addrNat (d.src.toNat + i2 * d.sstride2 + (j : Int) * d.sstride1 + done)
           let off : Int := (if d.dkind then (d.slotOff : Int) else d.dst.toNat) + i2 * d.dstride2 + i1 * d.dstride1 + done
           let dst : Nat := if d.dkind then off.toNat else addrNat off
           let n : Nat := min (d.len0 - done) (64 - dst % 64)
           let data : Marked := if lost then List.replicate n (0, true) else s0.engineBytes p src n
           let b := data.bytes
           let bad : Nat → Prop := fun v => (data.getD v (0, false)).2 = true
           done < d.len0 → goes (fun t => at_ t (if done + n = d.len0 then (r + 1) * 2 ^ 25 else e.prog + n) ∧
             ((∃ v, bad v) → reported t) ∧
             (s.flaws = [] → m.op ≠ .copyop d → (∀ v, ¬ bad v) → d.dkind = true ∨ (∃ pl, s0.rangePlace p dst n true = .ok pl) →
               (t.engine site k).faulted = e.faulted) ∧
             (m.op ≠ .copyop d → d.dkind = false → lands t dst n b bad) ∧
             (m.op ≠ .copyop d → d.dkind = true → off = (dst : Int) → dst + n ≤ 32768 → ∀ q ∈ d.targetSites i site,
               Memory.bytes t.mem (keySlot q d.slotNo dst) n = b ∧ marked t (keySlot q d.slotNo dst) n bad) ∧
             (m.op = .copyop d → d.dkind = false → dst / 2 ^ 60 = 2 → s0.isTwinCell p = false →
               let w : Nat := elemBytes d.ctype
               let pl : Nat → Except Trap Place := fun v => s0.rangePlace p (dst + v * w) w true
               n % w = 0 → (∀ v, v < n / w → ∃ z, pl v = .ok z) →
               (∀ v z v' z', v < v' → v' < n / w → pl v = .ok z → pl v' = .ok z' → place z + w ≤ place z' ∨ place z' + w ≤ place z) →
               ∀ v z, v < n / w → pl v = .ok z → s0.absentAt z.key = false →
                 Memory.num t.mem (place z) w =
                   opElem d.ctype d.cop (Memory.num s0.mem (place z) w) (leNat (slice b (v * w) w)) % 2 ^ (8 * w) ∧
                 ((∃ u, u < w ∧ (bad (v * w + u) ∨ (place z + u) / 8 ∈ s0.poison)) →
                   reported t ∧ ∃ u, u < w ∧ (place z + u) / 8 ∈ t.poison) ∧
                 (∀ u, u < w → (∃ u', u' < w ∧ bad (v * w + u')) ∨ (place z + u) / 8 ∈ s0.poison → (place z + u) / 8 ∈ t.poison)))))) ∧
     (∀ m l, k < 3 → e.queue = m :: l → s.engineDue site k = true → (s.instD m.inst).twin ≠ [] →
       let i := s.instD m.inst
       let z := i.index site
       let u := i.sites.getD z 0
       let v := i.twin.getD z 0
       let e1 := s.engine u k
       let e2 := s.engine v k
       (s.engineDue u k = false ∨ s.engineDue v k = false → exec .commandExecution s = .next s) ∧
       (∀ m1 l1 m2 l2, s.engineDue u k = true → s.engineDue v k = true → e1.queue = m1 :: l1 → e2.queue = m2 :: l2 → u ≠ v →
         e1.prog < m1.total → e2.prog < m2.total →
         let p := 4 * u + k
         let c1 := chunkOf s i u k m1 e1
         let c2 := chunkOf s i v k m2 e2
         let s0 := c2.meets (c1.meets ((s.fillTouches p c1.touches).fillOwn (4 * v + k) c2.touches))
         let r2 := s0.copyRun m.inst (4 * v + k) c2
         let r1 := r2.1.copyRun m.inst p c1
         let free := s.chunkWaits p c1 = false ∧ (e1.noFrame = true ∨ s.pageTrap p c1.touches = none)
         (s.chunkWaits p c1 = true → exec .commandExecution s = .next s) ∧
         (s.chunkWaits p c1 = false → e1.noFrame = false → ∀ f, s.pageTrap p c1.touches = some f → ∃ t, exec .commandExecution s = .next t ∧
           (t.engine u k).heldFor = some f ∧ (t.engine v k).heldFor = some f ∧ (t.engine u k).prog = e1.prog ∧ t.mem = s.mem) ∧
         (free → r1.2.2.map Packet.hash ≠ r2.2.2.map Packet.hash → s.inst? m.inst = some i → ∃ t, exec .commandExecution s = .next t ∧
           t.inst? m.inst = none ∧ ∃ d, ∃ r ∈ (t.ring d).pending, r.cause = .twinMismatch) ∧
         (free → r1.2.2.map Packet.hash = r2.2.2.map Packet.hash → s.chunkOpen i p c1 e1 = true → ∃ t, exec .commandExecution s = .next t ∧
           t.mem = r1.1.mem ∧ (t.engine u k).prog = c1.next ∧ (t.engine v k).prog = c2.next) ∧
         (free → r1.2.2.map Packet.hash = r2.2.2.map Packet.hash → s.chunkOpen i p c1 e1 = false → ∃ t, exec .commandExecution s = .next t ∧
           t.mem = s.mem ∧ (t.engine u k).prog = e1.prog ∧ t.engine v k = e2)))) ∧
    (∀ m l, e.queue = m :: l → e.begun = true → m.total ≤ e.prog → ∃ t, exec .commandCompletion s = .next t ∧
      (t.engine site k).queue = l ∧ (t.engine site k).begun = false ∧ (t.engine site k).prog = 0 ∧ (t.engine site k).operands = none ∧
      (m.seten = true → Store.get 0 (t.croft site).done (key m) = Store.get 0 c.done (key m) + 1 ∧
        ∀ x, x ≠ key m → Store.get 0 (t.croft site).done x = Store.get 0 c.done x) ∧
      (m.seten = false → (t.croft site).done = c.done) ∧ (t.croft site).acc = c.acc ∧
      (∀ i, s.inst? m.inst = some i → i.phase ≠ .between → t.mem = s.mem ∧
        (t.engine site k).standing = e.standing ++ (match m.event with
          | none => []
          | some ev => if i.permanent ev = .faulted then [] else [{ ev := ev, addr := m.dest.1, publish := m.dest.2 }]))) ∧
    (e.queue = [] ∨ e.begun = false → exec .commandCompletion s = .next s) ∧
    (∀ m l, e.queue = m :: l → e.prog < m.total → exec .commandCompletion s = .next s) ∧
    (∀ i, s.inst? s.par.inst = some i → s.gangDue s.par.inst = true →
      ∃ t j, exec .gangStart s = .next t ∧ t.inst? s.par.inst = some j ∧ j.gangs = i.gangs + 1 ∧
        (∀ x ∈ i.allSites, (t.engine x 2).gangAt = some ((s.cell (4 * x + 2)).cyc + 4 * i.index x / 4 * i.image.step))) ∧
    (s.gangDue s.par.inst = false → exec .gangStart s = .next s) ∧
    (s.gangStepDue site = true → s.gangBegins site = true →
      exec .gangStepBegin s = .next (s.setEngine site 2 { s.engine site 2 with begun := true })) ∧
    (s.gangStepDue site = false ∨ s.gangBegins site = false → exec .gangStepBegin s = .next s)

/-- R39, R40, R53 to R58, R60, R61, R63, R64, R189, R192, R193: the arithmetic of the engines. Elements lie packed from the lowest
bit of a row; an element of a floating format has the value of its pattern, one of an integer format its signed value, UNORM8 its
unsigned one; a scale multiplies it. A value goes to a destination format by one rounding, an integer destination saturating, with 0
for a NaN. A drained element is the tile's own bits where the formats agree and no scale applies, and a rounding to nearest otherwise. A
product added to an FA40 element is rounded once, and an element is never -0 (R56; log entry 132 for a sum that rounds to zero). Plane j of NB holds bit 7 - j of each element, and an element of k planes has the
weight of its high bits, halfway filled. A group of a sparse row gives its element where its mask has the bit, and the mask of a chosen
group has the largest magnitudes, the lower index first among equals (a NaN counts as the largest). A scale of SCALEC is the largest
magnitude of its group over Q, and a quantised element the quotient rounded, with the results of R193 for a scale of zero or a NaN.
Combining is a sum, a minimum, a maximum or a logical operation on the element. R63 makes an entry of the TID table valid, and R64
places its scales. That an integer zero times a negative scale is -0 is log entry 96, and what the infinite scales and quotients of
R193 give is the arithmetic of R42, both the model's reading. -/
def Obligations.EngineFormats : Prop :=
  let flts : List (Nat × Fmt) := [(0x10, fp32), (0x11, fp16), (0x12, bf16), (0x13, f8a), (0x14, f8b), (0x18, fa40)]
  let ints : List (Nat × Nat) := [(0x01, 4), (0x02, 6), (0x03, 8), (0x05, 16), (0x06, 32)]
  let widths : List (Nat × Nat) := ints ++ [(0x04, 8), (0x20, 1)] ++ flts.map (fun x => (x.1, x.2.width))
  let signed : Nat → Nat → Int := fun w x => if x % 2 ^ w < 2 ^ (w - 1) then (x % 2 ^ w : Nat) else ((x % 2 ^ w : Nat) : Int) - 2 ^ w
  let special : Fmt → Bool → Machine.Num → Nat := fun k sat v => match v with
    | .inf s => if k.inf then k.sign s + (k.maxFin + 1) else if sat then k.sign s + k.maxFin else k.nan
    | _ => k.nan
  (∀ (w c : Nat) (b : List Byte), w * (c + 1) ≤ 8 * b.length → elemOf w b c = leNat b / 2 ^ (w * c) % 2 ^ w) ∧
  (∀ (w c x : Nat) (l : List Nat), (∀ y ∈ l, y < 2 ^ w) → l[c]? = some x →
    leNat (packRow w l) / 2 ^ (w * c) % 2 ^ w = x ∧ (packRow w l).length = (w * l.length + 7) / 8) ∧
  (∀ f ∈ flts, ∀ x, x < 2 ^ f.2.width →
    (f.2.isFin x → (elemNum f.1 x).Mag (f.2.neg x) (f.2.units (f.2.mag x)) f.2.one) ∧
    (f.2.isInf x → elemNum f.1 x = .inf (f.2.neg x)) ∧ (f.2.isNaN x → elemNum f.1 x = .nan)) ∧
  (∀ f ∈ ints, ∀ x, numInt (elemNum f.1 x) = signed f.2 x ∧ (elemNum f.1 x).Mag (decide (signed f.2 x < 0)) (signed f.2 x).natAbs 1) ∧
  (∀ x, x < 256 → numInt (elemNum 0x04 x) = x ∧ (elemNum 0x04 x).Mag false x 1) ∧
  (∀ (v : Machine.Num) (s : Bool) (n d sc : Nat), v.Mag s n d → 0 < d → sc < 2 ^ 32 →
    (fp32.isFin sc → (scaleNum v sc).Mag (s != fp32.neg sc) (n * fp32.units (fp32.mag sc)) (d * fp32.one)) ∧
    (fp32.isInf sc → scaleNum v sc = if n = 0 then .nan else .inf (s != fp32.neg sc)) ∧ (fp32.isNaN sc → scaleNum v sc = .nan)) ∧
  (∀ (mode : Nat) (sat : Bool) (v : Machine.Num), mode < 4 →
    (∀ f ∈ flts, (∀ s n d, v.Mag s n d → 0 < d →
        ∃ e, Rounds f.2 mode sat s (fun h => compare (h * d) (4 * (n * f.2.one))) (toElem f.1 mode sat v, e)) ∧
      ((∃ s, v = .inf s) ∨ v = .nan → toElem f.1 mode sat v = special f.2 sat v)) ∧
    (∀ f ∈ ints ++ [(0x04, 8)],
      let lo : Int := if f.1 = 0x04 then 0 else -2 ^ (f.2 - 1)
      let hi : Int := if f.1 = 0x04 then 255 else 2 ^ (f.2 - 1) - 1
      let bits : Int → Nat := fun x => (x % 2 ^ f.2).toNat
      (∀ s n d, v.Mag s n d → 0 < d → ∃ x e, ToInt mode lo hi s n d (x, e) ∧ toElem f.1 mode sat v = bits x) ∧
      (v = .nan → toElem f.1 mode sat v = 0) ∧ (∀ s, v = .inf s → toElem f.1 mode sat v = bits (if s then lo else hi)))) ∧
  (∀ (itype : Bool) (t : Tid) (x : Nat) (sc : Option Nat),
    let y := if itype then x % 2 ^ 32 else x % 2 ^ 40
    let own := if itype then 0x06 else 0x18
    drainElem itype t x sc = match sc with
      | none => if t.fmt = own then y else toElem t.fmt 0 t.sat (elemNum own y)
      | some sc => toElem t.fmt 0 t.sat (scaleNum (elemNum own y) sc)) ∧
  (∀ (acc : Nat) (a b : Machine.Num) (sa sb : Bool) (n d m e : Nat), acc < 2 ^ 40 →
    let r := addFa40 acc (a, b)
    r ≠ 2 ^ 39 ∧
    (a.Mag sa n d → b.Mag sb m e → 0 < d → 0 < e → fa40.isFin acc →
      let p : Int := ((n * m * fa40.one : Nat) : Int) * (if sa = sb then 1 else -1)
      let v : Int := fa40.val acc * ((d * e : Nat) : Int) + p
      let s : Bool := if v = 0 then fa40.neg acc && (sa != sb) else decide (v < 0)
      ∃ y x, Rounds fa40 0 false s (fun h => compare (h * (d * e)) (4 * v.natAbs)) (y, x) ∧ r = if y = 2 ^ 39 then 0 else y) ∧
    (fa40.isNaN acc ∨ a = .nan ∨ b = .nan ∨ (a = .inf sa ∧ b.Mag sb 0 e ∧ 0 < e ∨ b = .inf sb ∧ a.Mag sa 0 d ∧ 0 < d) → r = fa40.nan) ∧
    (a.Mag sa n d → b.Mag sb m e → fa40.isInf acc → r = acc)) ∧
  (∀ (j c q : Nat) (l : List Nat), j < 8 → l[c]? = some q → leNat (planeRow j l) / 2 ^ c % 2 = q / 2 ^ (7 - j) % 2) ∧
  (∀ (s : State) (site sl : Nat) (t : Tid) (r c : Nat), c < t.cols →
    let bytes : Nat → Nat → List Byte := fun off n => (s.readKey (keySlot site sl off) n).map (·.1)
    let vals := (rowA s site sl t r).map (Option.map (·.1))
    (t.fmt ≠ 0x20 → t.sparse = 0 → vals[c]? = some (some (elemNum t.fmt (elemOf (fmtBits t.fmt) (bytes (r * t.rowLen) t.rowLen) c)))) ∧
    (t.fmt = 0x20 → t.sparse = 0 → 2 ≤ t.planes → t.planes ≤ 8 → t.cols % 8 = 0 → ∀ q, q < 256 →
      (∀ j, j < t.planes → leNat (bytes ((j * t.rows + r) * t.rowLen) t.rowLen) / 2 ^ c % 2 = q / 2 ^ (7 - j) % 2) →
      ∃ v, vals[c]? = some (some v) ∧
        numInt v = signed t.planes (q / 2 ^ (8 - t.planes)) * 2 ^ (8 - t.planes) + (if t.planes < 8 then 2 ^ (7 - t.planes) else 0)) ∧
    (t.fmt ≠ 0x20 → t.sparse ∈ [1, 2] → t.cols % 32 = 0 →
      let group := bytes (r * t.rowLen + c / 32 * t.groupLen) t.groupLen
      let mask := leNat (group.take 4)
      let place := ((List.range (c % 32)).filter (fun i => mask.testBit i)).length
      vals[c]? = some (if mask.testBit (c % 32) = true ∧ place < 8 * t.sparse then
        some (elemNum t.fmt (elemOf (fmtBits t.fmt) (group.drop 4) place)) else none))) ∧
  (∀ (s : State) (site sl : Nat) (t : Tid) (k j : Nat),
    (elemB s site sl t k j).1 = elemNum t.fmt (elemOf (fmtBits t.fmt) ((s.readKey (keySlot site sl (k * t.rowLen)) t.rowLen).map (·.1)) j) ∨
      t.cols ≤ j ∨ t.sparse ≠ 0 ∨ t.cols * fmtBits t.fmt % 8 ≠ 0) ∧
  (∀ (t : Tid) (l : List Nat), l.length = 32 → t.sparse ∈ [1, 2] → t.fmt ∈ [0x12, 0x11, 0x13, 0x14, 0x03, 0x01] →
    (∀ x ∈ l, x < 2 ^ fmtBits t.fmt) →
    let n := 8 * t.sparse
    let rank : Nat → Nat := fun i =>
      let x := l.getD i 0
      match flts.find? (fun f => f.1 = t.fmt) with
      | some (_, k) => if k.inf = true ∧ k.mag x > k.maxFin + 1 ∨ k.inf = false ∧ k.mag x > k.maxFin then 2 ^ 40 else k.mag x
      | none => (signed (fmtBits t.fmt) x).natAbs
    let before : Nat → List Nat := fun i =>
      (List.range 32).filter (fun j => decide (rank i < rank j) || (decide (rank j = rank i) && decide (j < i)))
    let kept := (List.range 32).filter (fun i => decide ((before i).length < n))
    let b := sparseRow t 1 l
    kept.length = n ∧ (∀ i, (leNat (b.take 4)).testBit i = decide (i ∈ kept)) ∧
      b.drop 4 = packRow (fmtBits t.fmt) (kept.map (fun i => l.getD i 0))) ∧
  (∀ (t : Tid) (g : Nat) (l : List Nat), sparseRow t (g + 1) l = sparseRow t 1 (l.take 32) ++ sparseRow t g (l.drop 32)) ∧
  (∀ f ∈ [(0x10, fp32), (0x11, fp16), (0x12, bf16)], ∀ t ∈ [(0x03, 127), (0x01, 7), (0x13, 448), (0x14, 57344)], ∀ rnd, rnd < 4 →
    (∀ l : List Nat, (∀ x ∈ l, x < 2 ^ f.2.width) →
      let sc := groupScale f.1 t.1 rnd l
      ((∃ x ∈ l, f.2.isNaN x) → sc = fp32.nan) ∧
      ((∀ x ∈ l, ¬ f.2.isNaN x) → (∃ x ∈ l, f.2.isInf x) → sc = fp32.maxFin + 1) ∧
      ((∀ x ∈ l, f.2.isFin x) → ∀ m, (∀ x ∈ l, f.2.mag x ≤ m) → m = 0 ∨ (∃ x ∈ l, f.2.mag x = m) →
        ∃ e, Rounds fp32 rnd false false (fun h => compare (h * (t.2 * f.2.one)) (4 * (f.2.units m * fp32.one))) (sc, e))) ∧
    (∀ sc x : Nat, sc < 2 ^ 32 → x < 2 ^ f.2.width →
      let y := quantElem f.1 t.1 rnd sc x
      let s := f.2.neg x != fp32.neg sc
      let n := f.2.units (f.2.mag x) * fp32.one
      let d := fp32.units (fp32.mag sc) * f.2.one
      let w := fmtBits t.1
      (fp32.mag sc = 0 → y = 0) ∧
      (fp32.isNaN sc ∨ fp32.mag sc ≠ 0 ∧ f.2.isNaN x ∨ f.2.isInf x ∧ fp32.isInf sc →
        y = if t.1 = 0x13 then f8a.nan else if t.1 = 0x14 then f8b.nan else 0) ∧
      (fp32.isInf sc → f.2.isFin x → y = if t.1 = 0x13 then f8a.zero s else if t.1 = 0x14 then f8b.zero s else 0) ∧
      (fp32.isFin sc → fp32.mag sc ≠ 0 → f.2.isFin x →
        (∀ k : Fmt, (t.1, k) ∈ [(0x13, f8a), (0x14, f8b)] → ∃ e, Rounds k rnd true s (fun h => compare (h * d) (4 * (n * k.one))) (y, e)) ∧
        (t.1 = 0x03 ∨ t.1 = 0x01 → ∃ v e, ToInt rnd (-2 ^ (w - 1)) (2 ^ (w - 1) - 1) s n d (v, e) ∧ y = (v % 2 ^ w).toNat)))) ∧
  (∀ x y : Nat, x < 2 ^ 32 → y < 2 ^ 32 →
    (∀ t, opElem t 3 x y = x &&& y ∧ opElem t 4 x y = x ||| y ∧ opElem t 5 x y = x ^^^ y) ∧
    opElem 0x06 0 x y = (x + y) % 2 ^ 32 ∧ opElem 0x06 1 x y = (if signed 32 y < signed 32 x then y else x) ∧
    opElem 0x06 2 x y = (if signed 32 x < signed 32 y then y else x) ∧
    (∀ t : Nat × Fmt, t ∈ [(0x10, fp32), (0x12, bf16)] →
      opElem t.1 0 x y = (fpAdd t.2 0 false x y).1 ∧ opElem t.1 1 x y = fpMin t.2 x y ∧ opElem t.1 2 x y = fpMax t.2 x y)) ∧
  (∀ t : Tid,
    ((∀ w, (t.fmt, w) ∉ widths) → t.valid = false) ∧
    (∀ w, (t.fmt, w) ∈ widths →
      let len := if t.sparse = 0 then t.cols * w / 8 else t.cols / 32 * (4 + t.sparse * w)
      let unit := if t.sparse ≠ 0 then 4 else if t.fmt ∈ [0x01, 0x02, 0x18, 0x20] then 1 else w / 8
      (t.valid = true ↔ 1 ≤ t.rows ∧ t.rows ≤ 2 ^ 24 ∧ 1 ≤ t.cols ∧ t.cols ≤ 2 ^ 24 ∧ t.mbz = 0 ∧
        (if t.fmt = 0x20 then 2 ≤ t.planes ∧ t.planes ≤ 8 else t.planes = 0) ∧ t.sparse ≤ 2 ∧
        (t.sparse ≠ 0 → t.fmt ∈ [0x12, 0x11, 0x13, 0x14, 0x03, 0x01] ∧ t.cols % 32 = 0) ∧
        (t.fmt = 0x01 → t.cols % 2 = 0) ∧ (t.fmt = 0x02 → t.cols % 4 = 0) ∧ (t.fmt = 0x20 → t.cols % 8 = 0) ∧
        len ≤ t.stride ∧ t.base % unit = 0 ∧ t.stride % unit = 0 ∧ (t.smode ≠ 0 → t.sbase % 4 = 0))) ∧
    (∀ r c, (t.smode = 1 → t.scaleAddr r c = t.sbase + 4 * r) ∧ (t.smode = 2 → t.scaleAddr r c = t.sbase + 4 * c) ∧
      (t.smode = 3 → t.scaleAddr r c = t.sbase + 4 * (r * ((t.cols + 127) / 128) + c / 128))))

/-- R220, R294, R296, R298, R300 to R303, R309, R321: the dispatcher and its saves. A request that the firmware holds is answered with a status
and its TAG. A drain request moves a dispatching launch to DRAINING; DRAINLIM moves it on to STOPPING, in which every resident
instance has its stop request; FORCELIM moves it to FORCING, in which an instance in mid-instant stops and FORCED_SAVE is reported for
each; a drain with no instance left ends, its completion record sent. An instance that ends counts in GDONE, or, restarted, waits to
be placed again; one that is saved stands in the launch's save set, unstarted where its forced save timed out or a seal restarts it.
DISPATCH places or restores one group; a placement leaves neither poison nor an error of the storage in the local memory of its cells
(R220), and none takes a croft while an access is on its way to one of its cells, a reeve's included (R221, R260). The reeve domain does
not end so (R321). That DRAIN_REQUEST is reported in ring 0 is the model's choice (log entry 105), as is that a limit ends by a step of the agenda (log entry 50) and that a
step which is not due leaves the state (log entry 13). -/
def Obligations.LaunchAgents : Prop :=
  ∀ (s : State),
    let slot := s.par.slot
    let h := s.slot slot
    let answers : Instr → List Byte → Nat → (Nat → Prop) → Prop := fun i b tag st =>
      h.request = some b → ∃ t v, exec i s = .next t ∧ st v ∧ (t.slot slot).request = none ∧
        (t.slot slot).answers = h.answers ++ [leBytes 8 v ++ leBytes 8 tag]
    let k := s.par.inst
    let l := s.par.launch
    let lives := s.instsOf l
    let ends : Instr → Launch → Prop := fun a x => x.completed = false →
      ∃ t r, exec a s = .next t ∧ (t.slot x.cslot).completions = (s.slot x.cslot).completions ++ [r] ∧
        (if x.again = [] ∧ x.saved = [] ∧ x.count ≤ x.nextG then t.launch? l = none ∧ leNat (slice r 8 8) = 0
         else (∃ y, t.launch? l = some y ∧ y.phase = .ended ∧ y.completed = true) ∧ leNat (slice r 8 8) = if x.killed then 2 else 1)
    (∀ b : List Byte, (∀ z ∈ s.net, z.read = none) → leNat (slice b 0 1) = 1 →
      answers .hostRequestLaunch b (leNat (slice b 136 8)) (fun v => v ≤ 4)) ∧
    (∀ b : List Byte, leNat (slice b 0 1) = 3 → answers .hostRequestRestore b (leNat (slice b 136 8)) (fun v => v ≤ 2)) ∧
    (∀ b : List Byte, leNat (slice b 0 1) = 4 → answers .hostRequestDiscard b (leNat (slice b 8 8)) (fun v => v ≤ 1)) ∧
    (∀ b : List Byte, leNat (slice b 0 1) = 2 →
      let tag := leNat (slice b 8 8)
      answers .drainRequest b tag (fun v => v ≤ 1) ∧
      (s.launchTag tag = none → answers .drainRequest b tag (fun v => v = 1)) ∧
      (∀ d x, h.request = some b → requestZero b true false = true → s.launchTag tag = some (d, x) → s.launch? d = some x →
        (x.phase = .dispatching → ∃ t r, exec .drainRequest s = .next t ∧ (t.slot slot).answers = h.answers ++ [leBytes 8 0 ++ leBytes 8 tag] ∧
          r ∈ (t.ring 0).pending ∧ r.cause = .drainRequest ∧
          (s.instsOf d ≠ [] → x.drainlim ≠ 0 → t.insts = s.insts ∧ t.cells = s.cells ∧ t.mem = s.mem ∧
            ∃ y, t.launch? d = some y ∧ { y with fcause := x.fcause } = { x with phase := .draining })) ∧
        (x.phase = .draining ∨ x.phase = .stopping ∨ x.phase = .forcing → exec .drainRequest s = .next (s.answer slot 0 tag)) ∧
        (x.phase = .ended → exec .drainRequest s = .next (s.answer slot 1 tag)))) ∧
    (∀ x, s.launch? l = some x →
      (x.phase = .draining → lives = [] → ends .drainLimitExpiry x) ∧
      (x.phase = .draining → lives ≠ [] → x.forcelim ≠ 0 → ∃ t, exec .drainLimitExpiry s = .next t ∧
        t.launch? l = some { x with phase := .stopping } ∧
        (∀ e ∈ lives, ∃ i, s.inst? e.1 = some i ∧ t.inst? e.1 = some { i with stop := true }) ∧
        (∀ n, n ∉ lives.map (·.1) → t.inst? n = s.inst? n) ∧ t.cells = s.cells ∧ t.mem = s.mem) ∧
      (x.phase = .stopping → lives = [] → ends .forceLimitExpiry x) ∧
      (x.phase = .stopping → lives ≠ [] → ∃ t, exec .forceLimitExpiry s = .next t ∧ t.launch? l = some { x with phase := .forcing } ∧
        (∀ e ∈ lives, ∃ i, s.inst? e.1 = some i ∧
          t.inst? e.1 = some { i with forcing := true, phase := if i.phase = .running then .forced else i.phase }) ∧
        (∀ e ∈ lives, ∃ d r, r ∈ (t.ring d).pending ∧ r.cause = .forcedSave ∧ r.group = some e.2.group) ∧
        (∀ n, n ∉ lives.map (·.1) → t.inst? n = s.inst? n) ∧ t.cells = s.cells ∧ t.mem = s.mem)) ∧
    ((∀ x, s.launch? l = some x → x.phase ≠ .draining) → exec .drainLimitExpiry s = .next s) ∧
    ((∀ x, s.launch? l = some x → x.phase ≠ .stopping) → exec .forceLimitExpiry s = .next s) ∧
    (∀ i, s.inst? k = some i →
      let saves : Instr → Nat → Prop := fun a kind => ∃ t, exec a s = .next t ∧ t.inst? k = none ∧
        (∀ p ∈ i.cells, (t.cell p).inst = none) ∧
        ∀ x, s.launch? i.launch = some x → ∃ y v, t.launch? i.launch = some y ∧ v ∈ y.saved ∧ v.group = i.group ∧ v.kind = kind ∧
          (kind ≠ 2 → v.instant = i.instant ∧ v.ev = i.ev ∧ v.tids = i.tids)
      (s.endDue k = true → ∃ t, exec .instanceEnd s = .next t ∧ t.inst? k = none ∧ (∀ p ∈ i.cells, (t.cell p).inst = none) ∧
        (i.reeve = false → ∀ x, s.launch? i.launch = some x →
          (i.restart = true → t.mem = s.mem ∧ ∃ y, t.launch? i.launch = some y ∧ i.group ∈ y.again ∧ y.gdone = x.gdone) ∧
          (i.restart = false → x.phase = .dispatching → x.nextG < x.count →
            t.mem = s.mem ∧ t.launch? i.launch = some { x with gdone := x.gdone + 1 }) ∧
          (i.restart = false → x.again = [] → x.saved = [] → x.count ≤ x.nextG → x.completed = false →
            (∀ e ∈ s.instsOf i.launch, e.1 = k) → t.launch? i.launch = none ∧
            ∃ r, (t.slot x.cslot).completions = (s.slot x.cslot).completions ++ [r] ∧ leNat (slice r 0 8) = x.tag.toNat ∧
              leNat (slice r 8 8) = 0 ∧ leNat (slice r 16 8) = (x.gdone + 1) % 2 ^ 64))) ∧
      (s.cleanDue k = true → saves .cleanSave 0) ∧
      (s.forcedDue k = true → saves .forcedSave (if i.restart then 2 else 1)) ∧
      (i.forcing = true → saves .forcedSaveTimeout 2 ∧
        ∃ t, exec .forcedSaveTimeout s = .next t ∧ ∀ p ∈ i.cells, (t.cell p).isSealed = true) ∧
      (i.forcing = false → exec .forcedSaveTimeout s = .next s)) ∧
    (s.endDue k = false → exec .instanceEnd s = .next s) ∧ (∀ i, s.inst? k = some i → i.reeve = true → exec .instanceEnd s = .next s) ∧
    (∀ log, (∃ a ∈ s.net, ∃ p, p < 416 ∧ p / 4 = s.siteOfLog log ∧ (.cell p : Home) ∈ a.homes) → s.croftFree log = false) ∧
    (s.cleanDue k = false → exec .cleanSave s = .next s) ∧
    (s.forcedDue k = false → exec .forcedSave s = .next s) ∧
    (s.drained = none → s.nextPlacement = none → exec .dispatch s = .next s) ∧
    (∀ l x g a b, s.drained = none → s.nextPlacement = some (l, x, g, a, b) → ∃ t, exec .dispatch s = .next t ∧ t.nextInst = s.nextInst + 1 ∧
      (x.saved = [] → ∃ i, t.inst? s.nextInst = some i ∧ i.launch = l ∧ i.group = g ∧ i.image = x.image ∧ i.sites = a.map s.siteOfLog ∧
        i.twin = b.map s.siteOfLog ∧ ∀ p ∈ i.cells, (t.cell p).inst = some s.nextInst ∧
          ∀ o, o < 0x18000 → keyLocal p o / 8 ∉ t.poison ∧ Store.get 0 t.flaws (keyLocal p o / 8) = 0))

/-- R200, R219, R292 to R294, R309, R337: which request gets which status, and what it leaves. A launch record is refused with status
1 for a bad field, a TAG held, a range that translation cannot read, or an image that does not agree with it; with 2 for NX in the image,
a bad header, signature or layout; with 3 for a patch out of range; with 1 for a .dram range that is not there and writable; with 4 for
want of room; otherwise its status is 0, and ReeveInstructions says what it leaves. A range is read byte by byte through the walk from the
record's own TROOT. A restore takes a drained launch whose save set verifies back to DISPATCHING with the record's priority, slot,
TROOT, limits and budgets, its saved groups first; no such launch is status 1, a set that does not verify status 2. A discard frees a
drained launch with the grants of the port bindings that it kept (log entry 94). What a restore reads of the save set meets the errors
of the storage, and a set with poison in it does not verify (R350). A request with a reserved byte set is status 1 (log
entry 110), and one of another kind is not that agent's. Poison read is status 1 (log entry 42), the order of R219's checks within a file
log entry 41, and that a restore checks TROOT as a launch does log entry 43. That a launch waits while any atomic stands between its two
halves at the host bridge is the model's reading of R150 (log entry 3), and that an agent leaves a request of another kind where it is
log entry 13. -/
def Obligations.HostRequests : Prop :=
  (∀ (s : State) (slot st tag : Nat),
    let h := s.slot slot
    let t := s.answer slot st tag
    t.slot slot = { h with request := none, answers := h.answers ++ [leBytes 8 st ++ leBytes 8 tag] } ∧
    (∀ k, k ≠ slot → t.slot k = s.slot k) ∧ { t with host := [] } = { s with host := [] }) ∧
  (∀ (s : State) (src : Src) (b : List Byte),
    let num : Nat → Nat → Nat := fun o n => leNat (slice b o n)
    let root := num 32 8
    let key : Nat → Nat × Nat → Nat := fun va x =>
      (Pte.of x.2).tier * 2 ^ 56 + ((Pte.of x.2).addr + va % 2 ^ levelBits x.1)
    let start : Nat → Nat := fun va => root + 8 * levelIndex va 1
    (∀ va n, match launchPlaces s root va n with
      | some l => l.length = n ∧ ∀ j x, l[j]? = some x → va + j < 2 ^ 48 ∧
          ∃ y, Walks s (va + j) 1 (start (va + j)) (.ok y) ∧ x = (key (va + j) y, y.2.testBit 6, (Pte.of y.2).w)
      | none => ∃ j, j < n ∧ (2 ^ 48 ≤ va + j ∨ ∃ c, Walks s (va + j) 1 (start (va + j)) (.error c))) ∧
    (∀ l, launchBytes s l = if ∃ x ∈ l, s.absentAt x.1 = true ∨ x.1 / 8 ∈ s.poison then none else some (l.map (fun x => Memory.get s.mem x.1))) ∧
    (s.flaws = [] →
      let st := (s.submit src b).2
      let fields := num 43 1 = 0 ∧ num 80 48 = 0 ∧ num 41 1 < 32 ∧ num 42 1 < 64 ∧ num 41 1 / 4 % 4 ≠ 3 ∧ 1 ≤ num 24 8 ∧ num 24 8 ≤ 2 ^ 40 ∧
        num 0 8 % 8 = 0 ∧ (num 20 4 = 0 ∨ num 8 8 % 8 = 0) ∧ root % 4096 = 0 ∧ root < 96 * 2 ^ 30 ∧
        ∀ x ∈ s.launches, x.2.tag.toNat ≠ num 72 8
      let image := launchPlaces s root (num 0 8) (num 16 4)
      let block := launchPlaces s root (num 8 8) (num 20 4)
      (¬ fields → st = 1) ∧ (image.bind (launchBytes s) = none ∨ block.bind (launchBytes s) = none → st = 1) ∧
      (∀ l f p, fields → image = some l → launchBytes s l = some f → block.bind (launchBytes s) = some p →
        let agrees := leNat (slice f 16 4) = num 16 4 ∧ (headerOk f = true → ∀ x, sect (sectionsOf f) 5 = some x → x.off + 64 ≤ f.length →
          x.flags ≠ 1 → leNat (slice f (x.off + 16) 4) = num 20 4 ∧ (num 40 1 = 0 ∨ leNat (slice f x.off 1) = num 40 1))
        let i := imageOf f
        let dram := launchPlaces s root i.dramVa i.dram.length
        let writable := ∃ l, dram = some l ∧ ∀ x ∈ l, x.2.2 = true ∧ s.absentAt x.1 = false
        (¬ agrees → st = 1) ∧
        (agrees → (∃ x ∈ l, x.2.1 = true) ∨ headerOk f = false ∨ signatureOk s.pkg f = false ∨ layoutOk f = false → st = 2) ∧
        (agrees → (∀ x ∈ l, x.2.1 = false) → headerOk f = true → signatureOk s.pkg f = true → layoutOk f = true →
          (∀ n, patchCode i p i.patches 0 i.code = .error n → st = 3) ∧
          (∀ c, patchCode i p i.patches 0 i.code = .ok c →
            st = if ¬ writable then 1 else if Config.dispatchRoom ≤ s.launches.length then 4 else 0)))) ∧
    (let tag := num 72 8
     let t := (s.resubmit b).1
     (s.launchTag tag = none → s.resubmit b = (s, 1)) ∧
     (∀ k x, s.launchTag tag = some (k, x) → s.launch? k = some x →
       (x.phase ≠ .ended ∨ root % 4096 ≠ 0 ∨ 96 * 2 ^ 30 ≤ root → s.resubmit b = (s, 1)) ∧
       (x.phase = .ended → root % 4096 = 0 → root < 96 * 2 ^ 30 →
         let met : State := x.keeps.foldl (fun s r => s.inspect (keyTier1 r.1) r.2) s
         (s.flaws = [] → met = s) ∧ met.mem = s.mem ∧
         (∀ r d, r ∈ x.keeps → keyTier1 r.1 < 8 * d + 8 → 8 * d < keyTier1 r.1 + r.2 → keyTier1 r.1 + r.2 ≤ 96 * 2 ^ 30 →
           2 ≤ Store.get 0 s.flaws d → d ∈ met.poison ∧ x.verified met = false) ∧
         (x.verified met = false → s.resubmit b = (met, 2)) ∧
         (x.verified met = true → (s.resubmit b).2 = 0 ∧ (∀ n, n ≠ k → t.launch? n = met.launch? n) ∧ { t with launches := [] } = { met with launches := [] } ∧
           ∃ l, t.launch? k = some l ∧ (l.prio, l.cslot, l.troot, l.drainlim, l.forcelim, l.overrun) =
               (num 41 1 % 4, num 42 1 % 64, root, num 44 4, num 48 4, num 52 4) ∧
             l.budgets = [num 56 4, num 60 4, num 64 4, num 68 4] ∧ l.phase = .dispatching ∧ l.again = x.saved.map (·.group) ∧
             l.completed = false ∧ (l.saved, l.image, l.params, l.count, l.nextG, l.gdone, l.grows) =
               (x.saved, x.image, x.params, x.count, x.nextG, x.gdone, x.grows)))))) ∧
  (∀ (s : State) (b : List Byte), (s.slot s.par.slot).request = some b →
    let slot := s.par.slot
    let num : Nat → Nat → Nat := fun o n => leNat (slice b o n)
    let rest := num 1 7 = 0 ∧ num 16 48 = 0 ∧ num 192 64 = 0
    let tag := num 8 8
    let atomic := ∃ z ∈ s.net, z.read ≠ none
    (num 0 1 = 1 → (atomic → exec .hostRequestLaunch s = .next s) ∧
      (¬ atomic → rest → tag = 0 → exec .hostRequestLaunch s = .next
        ((s.submit .host (slice b 64 128)).1.answer slot (s.submit .host (slice b 64 128)).2 (num 136 8))) ∧
      (¬ atomic → ¬ (rest ∧ tag = 0) → exec .hostRequestLaunch s = .next (s.answer slot 1 (num 136 8)))) ∧
    (num 0 1 = 3 →
      (rest → tag = 0 → exec .hostRequestRestore s = .next
        ((s.resubmit (slice b 64 128)).1.answer slot (s.resubmit (slice b 64 128)).2 (num 136 8))) ∧
      (¬ (rest ∧ tag = 0) → exec .hostRequestRestore s = .next (s.answer slot 1 (num 136 8)))) ∧
    (num 0 1 = 4 →
      (s.launchTag tag = none ∨ (∃ k x, s.launchTag tag = some (k, x) ∧ x.phase ≠ .ended) ∨ ¬ (rest ∧ num 64 128 = 0) →
        exec .hostRequestDiscard s = .next (s.answer slot 1 tag)) ∧
      (∀ k x, s.launchTag tag = some (k, x) → x.phase = .ended → rest → num 64 128 = 0 →
        ∃ r : State, exec .hostRequestDiscard s = .next (r.answer slot 0 tag) ∧ r.launch? k = none ∧ (∀ n, n ≠ k → r.launch? n = s.launch? n) ∧
          { r with launches := [], ports := [] } = { s with launches := [], ports := [] } ∧
          ∀ n, r.port n = if ∃ v ∈ x.saved, v.keeps n = true then { s.port n with grant := [] } else s.port n)) ∧
    (num 0 1 ∉ [1, 3, 4] → ∀ i ∈ [Instr.hostRequestLaunch, .hostRequestRestore, .hostRequestDiscard], exec i s = .next s))

/-- R150, R277, R314, R315, R345, R346, R349, R350, R352, R355, R360, R364, R365, R367: containment. A register parity error seals its cell. The
patrol scrub corrects errors, each counted in SECNT, with a report at each multiple of SETHR, and poisons what it only detects. A
report is written to its ring and the head moves; while the ring is full, one without a held node is dropped and counted, and a held
node's waits, its node with it. A held node goes on once its cause is dealt with, or retires: a poisoned word is rewritten from the
launch's copy, a page not found or a walk error becomes PAGE_PROTECTION at the node's handler, and a DOUBLE_TRAP does not resume; that
it competes as READY is log entry 87. Invalidation drops the entries of the roots named. Packets of the twin copies with one hash go
out once, a word of an AMO2 in the node's own cell in both copies (R151), and a mismatch or a missing one ends the instance, its group to run again (what a packet's hash is taken over is log entry
15); a TIDSET and a GROW on which the copies agree are then performed once, the read of a TIDSET once its budget, the node's earlier
requests and the bridge allow it (R150, R277, log entry 112); the engines of the two copies answer together (log entry 35). A load or an
atomic that gets no response is answered with poison, and a store is dropped. A silent cell's croft is sealed, a silent bin's launches fail; that
seal, and the one at a cell's second CORRECTED_THRESHOLD, are the default policy's (log entry 73). The model's own are the report of
DOMAIN_KILL beside every cause (log entry 39), HELD_RESUME as the page service that gives no frame (log entry 25), which launches use a
silent bin (log entry 89), and the cell that the patrol scrub counts an error for (log entry 84). An abort of the host ends every launch, with the
grants that its port bindings kept (log entry 94), and leaves the reeve domain (log entry 124). A step that is not due leaves the state (log entry 13). -/
def Obligations.ContainmentAgents : Prop :=
  ∀ (s : State),
    let p := s.par.pcell
    let i := s.par.slot
    let k := s.par.inst
    let die := s.par.die
    let g := s.ring die
    let n := s.par.n
    let reports : State → Cause → Prop := fun t c => ∃ d r, r ∈ (t.ring d).pending ∧ r.cause = c
    ((s.cell p).isSealed = false → ∃ t, exec .registerParityError s = .next t ∧ (t.cell p).isSealed = true ∧ (p < 416 → SealedAs s t p true)) ∧
    ((s.cell p).isSealed = true → exec .registerParityError s = .next s) ∧
    (∀ x, s.inst? k = some x →
      (x.restart = true → x.phase = .running → ∃ t, exec .sealForcelimExpiry s = .next t ∧ t.inst? k = none ∧ reports t .domainKill ∧
        ∀ l, s.launch? x.launch = some l → ∃ y, t.launch? x.launch = some y ∧ x.group ∈ y.again) ∧
      (x.restart = false ∨ x.phase ≠ .running → exec .sealForcelimExpiry s = .next s)) ∧
    ((s.cell p).secnt ≤ 0xFFFF → (∀ x ∈ s.flaws, ownerOf (8 * x.1) ≠ some p) →
      let now := min 0xFFFF ((s.cell p).secnt + n)
      let told := if s.pkg.sethr = 0 then 0 else now / s.pkg.sethr - (s.cell p).secnt / s.pkg.sethr
      ∃ t l, exec .patrolScrub s = .next t ∧ (t.cell p).secnt = now ∧ t.mem = s.mem ∧ t.poison = s.poison ∧
        (t.cell p).thresholds = (s.cell p).thresholds + told ∧ (t.ring (dieOf p)).pending = (s.ring (dieOf p)).pending ++ l ∧
        l.length = told ∧ ∀ r ∈ l, r.cause = .correctedThreshold ∧ r.pcell = p ∧ r.held = false) ∧
    (∃ t, exec .patrolScrub s = .next t ∧ t.mem = s.mem ∧ ∀ d, ownerOf (8 * d) = some p →
      Store.get 0 t.flaws d = 0 ∧ (2 ≤ Store.get 0 s.flaws d → d ∈ t.poison)) ∧
    (let sealed := ∀ j, j < 4 → (s.cell (416 + 4 * die + j)).isSealed = true
     let full := (g.head + 65536 - g.tail) % 65536 = 256
     (sealed → exec .reportWrite s = .next s) ∧
     (¬ sealed → ¬ full → g.pending = [] → exec .reportWrite s = .next s) ∧
     (¬ sealed → full → (∀ r ∈ g.pending, r.held = true) → exec .reportWrite s = .next s) ∧
     (¬ sealed → full → ∀ l r l', g.pending = l ++ r :: l' → (∀ r ∈ l, r.held = true) → r.held = false →
       exec .reportWrite s = .next (s.setRing die { g with
         pending := l ++ l', ovf := min 0xFFFF (g.ovf + 1), first := if g.ovf = 0 then r.cause.code else g.first })) ∧
     (¬ sealed → ¬ full → ∀ r l, g.pending = r :: l → ∃ t, exec .reportWrite s = .next t ∧ (t.ring die).head = (g.head + 1) % 65536 ∧
       (r.cause = .correctedThreshold → 2 ≤ (s.cell r.pcell).thresholds → (t.cell r.pcell).isSealed = true) ∧
       (r.cause ≠ .correctedThreshold ∨ (s.cell r.pcell).thresholds < 2 → (t.ring die).pending = l ∧
         Memory.bytes t.mem (keyLocal (416 + 4 * die) (g.base + 32 * (g.head % 256))) 32 = r.bytes))) ∧
    (∀ n, s.node? p i = some n →
      (n.stt ≠ .trapped ∨ s.reportWaits p i = true → exec .heldResume s = .next s ∧ exec .heldRetire s = .next s) ∧
      (n.stt = .trapped → s.reportWaits p i = false →
        (∃ t m, exec .heldRetire s = .next t ∧ t.node? p i = some m ∧ m.stt = .retired ∧ m.heldFor = none) ∧
        ∀ x, n.heldFor = some x →
          let m : Node := { n with stt := .ready, heldFor := none }
          (x.cause = .poisonFetch → ∀ h j, s.instOf p = some (h, j) →
            let off := x.taddr.toNat / 8 * 8
            ∃ t, exec .heldResume s = .next t ∧ t.node? p i = some m ∧ Memory.bytes t.mem (keyLocal p off) 8 = j.codeDword off ∧
              keyLocal p off / 8 ∉ t.poison) ∧
          (x.cause = .pageNotPresent ∨ x.cause = .translationWalkError →
            exec .heldResume s = .next (s.takeTrap p i m { x with cause := .pageProtection } n.pc)) ∧
          (x.cause ≠ .poisonFetch → x.cause ≠ .pageNotPresent → x.cause ≠ .translationWalkError → exec .heldResume s = .next s))) ∧
    (s.par.entry + 8 ≤ 96 * 2 ^ 30 → s.par.entry % 8 = 0 →
      let v := s.par.value
      let u := s.par.unit
      let s' : State := s.writeKey (keyTier1 s.par.entry) ((leBytes 8 v.toNat).map (fun b => (b, false)))
      Memory.num s'.mem (keyTier1 s.par.entry) 8 = v.toNat ∧
      (∀ m x, s.par.engine = false → s.node? u i = some m → m.stt = .trapped → m.heldFor = some x → x.cause = .pageNotPresent →
        (s'.pageThere u x.taddr = true → s.reportWaits u i = false →
          exec .pageServiceResume s = .next (s'.setNode u i { m with stt := .ready, heldFor := none })) ∧
        (s'.pageThere u x.taddr = false ∨ s.reportWaits u i = true → exec .pageServiceResume s = .next s')) ∧
      (∀ x, s.par.engine = true → (s.engine u i).heldFor = some x →
        (v.getLsbD 0 = true → s'.pageThere (4 * u + i) x.taddr = false → exec .pageServiceResume s = .next s') ∧
        (v.getLsbD 0 = false ∨ s'.pageThere (4 * u + i) x.taddr = true → ∃ t, exec .pageServiceResume s = .next t ∧
          ∀ q ∈ s.enginePair u i, (t.engine q i).heldFor = none ∧ (t.engine q i).noFrame = !v.getLsbD 0))) ∧
    (∃ t, exec .invalidationComplete s = .next t ∧ t.pkg.xbusy = [] ∧
      ∀ site, ∀ e ∈ (t.croft site).tlb, e ∈ (s.croft site).tlb ∧ e.root ∉ s.pkg.xbusy) ∧
    (∀ x, s.inst? k = some x →
      let l := s.par.lcell
      let ended : Instr → Prop := fun a => ∃ t, exec a s = .next t ∧ t.inst? k = none ∧ reports t .twinMismatch ∧ reports t .domainKill ∧
        ∀ l, s.launch? x.launch = some l → ∃ y, t.launch? x.launch = some y ∧ x.group ∈ y.again
      let uneven := (s.twinOffers x (l / 4) (l % 4)).2 = true ∨
        (s.engine (x.sites.getD (l / 4) 0) (l % 4)).queue.length ≠ (s.engine (x.twin.getD (l / 4) 0) (l % 4)).queue.length
      (s.par.engine = false →
        (∀ a b, x.packet false l = some (.access a) → x.packet true l = some (.access b) → (a.op, a.size, a.va, a.va2) = (b.op, b.size, b.va, b.va2) →
          ∃ t y, exec .twinHashCompare s = .next t ∧ t.net = s.net ++ [y] ∧ y.op = a.op ∧ y.key = a.key ∧ y.rets = a.rets ++ b.rets ∧
            y.src = a.src ∧ y.src2 = some b.src ∧ y.mirror = (if a.home = .cell a.src.cell then some b.key else a.mirror) ∧
            y.mirror2 = (if a.home2 = some (.cell a.src.cell) then some b.key2 else a.mirror2)) ∧
        (∀ a b m m' v y, x.packet false l = some (.tid a m (.value v)) → x.packet true l = some (.tid b m' y) →
          (TwinMsg.tid a m (.value v)).same (.tid b m' y) = true →
          ∃ t j, exec .twinHashCompare s = .next t ∧ t.inst? k = some j ∧ Store.get 0 j.tids m = v) ∧
        (∀ a b m m' r y, x.packet false l = some (.tid a m (.read r)) → x.packet true l = some (.tid b m' y) →
          (TwinMsg.tid a m (.read r)).same (.tid b m' y) = true →
          let behind := ∃ q ∈ s.net, q.src = a ∧ q.admitted = false
          let key := s.keyNow r.key r.win
          let busy := keyRegion key = 2 ∧ ∃ q ∈ s.net, q.read.isSome = true ∧ q.key / 64 = key / 64
          (s.admits (some x) r = false ∨ behind ∨ busy → exec .twinHashCompare s = .next s) ∧
          (s.admits (some x) r = true → ¬ behind → ¬ busy → s.Sound (s.keyNow r.key r.win) 32 → s.sealedHome r.home = false → r.size = 32 →
            s.poisoned (s.keyNow r.key r.win) 32 = false → ∃ t j, exec .twinHashCompare s = .next t ∧ t.inst? k = some j ∧
              Store.get 0 j.tids m = BitVec.ofNat 256 (Memory.num s.mem (s.keyNow r.key r.win) 32))) ∧
        (∀ a b nid count v y, x.packet false l = some (.grow a nid count v) → x.packet true l = some y →
          (TwinMsg.grow a nid count v).same y = true → y = .grow b nid count v → ∀ c, s.launch? x.launch = some c →
          (∀ g ∈ c.grows, (g.group, g.nid, g.count) ≠ (x.group, nid, count)) →
          (c.count + v ≤ 2 ^ 40 → ∃ t, exec .twinHashCompare s = .next t ∧ t.launch? x.launch = some { c with
            count := c.count + v, grows := c.grows ++ [{ group := x.group, nid := nid, count := count, old := c.count }] }) ∧
          (2 ^ 40 < c.count + v → ∃ t, exec .twinHashCompare s = .next t ∧ t.launches = s.launches)) ∧
        (∀ a b, x.packet false l = some a → x.packet true l = some b → a.same b = false → ended .twinHashCompare) ∧
        (x.packet false l = none ∨ x.packet true l = none → exec .twinHashCompare s = .next s) ∧
        ((x.packet false l).isSome ≠ (x.packet true l).isSome → ended .twinMatchTimeout) ∧
        ((x.packet false l).isSome = (x.packet true l).isSome → exec .twinMatchTimeout s = .next s)) ∧
      (s.par.engine = true → x.twin ≠ [] →
        ((s.twinOffers x (l / 4) (l % 4)).1 = true → ended .twinHashCompare) ∧
        ((s.twinOffers x (l / 4) (l % 4)).1 = false → exec .twinHashCompare s = .next s) ∧
        (uneven → ended .twinMatchTimeout) ∧ (¬ uneven → exec .twinMatchTimeout s = .next s))) ∧
    (s.par.engine = false →
      ((∀ a, s.net[s.par.i]? = some a → a.admitted = false) → exec .remoteTimeout s = .next s) ∧
      (∀ a, s.net[s.par.i]? = some a → a.admitted = true →
        let q := a.src.cell
        let two := s.par.second = true ∧ a.home2.isSome = true
        let home := if two then a.home2.getD a.home else a.home
        let va := if two then a.va2 else a.va
        let detail : BitVec 16 := if two then a.detail ||| 256 else a.detail
        let poison : Part → Prop := fun x => x.poison = some { cause := .poisonConsumed, detail := detail, taddr := va }
        let users := ((s.launchOf q).toList ++ s.usersOf home).eraseDups
        (∃ v : State, exec .remoteTimeout s = .next (v.silence q home va users) ∧ v.net = s.net.eraseIdx s.par.i ∧ v.mem = s.mem ∧
          (a.rets = [] → v.cells = s.cells) ∧
          (∀ r n, a.rets = [r] → s.node? r.pcell r.slot = some n → n.gen = r.gen →
            ∃ x, poison x ∧ v.node? r.pcell r.slot = some (n.receive r x) ∧
              (home = .bridge → (v.silence q home va users).node? r.pcell r.slot = some (n.receive r x))) ∧
          (∀ r r' n, a.rets = [r, r'] → s.node? r.pcell r.slot = some n → n.gen = r.gen →
            r'.pcell = r.pcell → r'.slot = r.slot → r'.gen = r.gen →
            ∃ x y, poison x ∧ poison y ∧ v.node? r.pcell r.slot = some ((n.receive r x).receive r' y))) ∧
        (∀ q, home = .cell q → q < 416 →
          ∃ t, exec .remoteTimeout s = .next t ∧ reports t .remoteTimeout ∧ ∀ r, r < 4 → (t.cell (4 * (q / 4) + r)).isSealed = true) ∧
        (∀ b, home = .bin b → b < 416 → ∃ t, exec .remoteTimeout s = .next t ∧ reports t .remoteTimeout ∧
          (∀ r, r < 4 → (t.cell (4 * (b / 4) + r)).isSealed = true) ∧
          ∀ l x, l ∈ (s.launchOf q).toList ++ s.usersOf home → s.launch? l = some x → x.completed = false →
            t.launch? l = none ∧ ∃ r ∈ (t.slot x.cslot).completions, leNat (slice r 0 8) = x.tag.toNat ∧ leNat (slice r 8 8) = 3) ∧
        (home = .bridge → ∃ t r, exec .remoteTimeout s = .next t ∧ (∀ c, (t.cell c).isSealed = (s.cell c).isSealed) ∧
          (t.ring (dieOf q)).pending = (s.ring (dieOf q)).pending ++ [r] ∧ r.cause = .remoteTimeout ∧ r.taddr = va ∧
          t.net = s.net.eraseIdx s.par.i ∧ t.mem = s.mem ∧ (∀ l, (t.launch? l).map (·.phase) = (s.launch? l).map (·.phase))))) ∧
    (∃ t, exec .hostAbort s = .next t ∧ t.launches = [] ∧ t.host = [] ∧ t.pkg.linkUp = false ∧ t.pkg.spdm = [] ∧ reports t .hostAbort ∧
      (∀ e ∈ t.insts, e.2.reeve = true) ∧ t.pkg.cmap = s.pkg.cmap ∧ t.pkg.banks = s.pkg.banks ∧
      ∀ x ∈ s.launches, ∀ v ∈ x.2.saved, ∀ n, v.keeps n = true → (t.port n).grant = [])

/-- R277, R310, R363, R368 to R374: heat, wear and the Almanac. A hot island loses a level of its thermal cap and a cool one gains it;
at 115 °C it is powered off, its instances killed and their launches complete with status 3. A reading of the wear monitor, converted
through the cell's calibration constants, is added to the counters and charged to the instance; the state and the cap follow the worn
share under the policy's thresholds and move only down the table, each move reported. A budget period admits waiting requests and
loses none. A failed unoccupied site's croft moves to a spare. An Almanac commit writes the older bank with the next SEQ, which stands
only if it verifies; one asked for meanwhile begins then, and an orderly shutdown of a part that has come up asks for one. R371: the cap falls while the sensor reads 105 °C or more and on down to
100 °C. That the clocks count a microsecond in each step of theirs, and the conversion of a reading, are the model's (log entry 49); a
step that is not due leaves the state (log entry 13). -/
def Obligations.WearAgents : Prop :=
  ∀ (s : State),
    let i := s.par.isl
    let x := s.island i
    let tj := s.par.tj
    let p := s.par.pcell
    let w := (s.cell p).wear
    let g := s.pkg
    let shut : Instr → Prop := fun a => ∃ t, exec a s = .next t ∧ (t.island i).off = true ∧ (t.island i).tj = tj ∧
      ∀ k y, s.inst? k = some y → y.reeve = false → (∃ site ∈ y.allSites, islandOf site = i) → t.inst? k = none ∧
        ∀ l, s.launch? y.launch = some l → l.completed = false → t.launch? y.launch = none ∧
          ∃ r ∈ (t.slot l.cslot).completions, leNat (slice r 0 8) = l.tag.toNat ∧ leNat (slice r 8 8) = 3
    let changes : State → Cause → Prop := fun t c => ∃ d r, r ∈ (t.ring d).pending ∧ r.cause = c
    (exec .islandClockStallEnd s = .next (s.setIsland i { x with stalled := false })) ∧
    (tj < 115 → 105 ≤ tj ∨ x.hot = true ∧ 100 ≤ tj →
      ∃ t, exec .thermalDerate s = .next t ∧ (t.island i).tcap = x.tcap - 1 ∧ (t.island i).hot = true ∧ (t.island i).tj = tj ∧
        (t.island i).level = t.effective i ∧ changes t .thermalDerate) ∧
    (tj < 100 ∨ x.hot = false ∧ tj < 105 → exec .thermalDerate s = .next (s.setIsland i { x with tj := tj, hot := false })) ∧
    (115 ≤ tj → shut .thermalDerate ∧ shut .thermalShutdown) ∧ (tj < 115 → exec .thermalShutdown s = .next s) ∧
    (tj < 90 → ∃ t, exec .thermalCapRise s = .next t ∧ (t.island i).tcap = min 7 (x.tcap + 1) ∧ (t.island i).tj = tj ∧
      (t.island i).level = t.effective i) ∧
    (90 ≤ tj → exec .thermalCapRise s = .next s) ∧
    (416 ≤ p ∨ (s.island (islandOf (p / 4))).off = false →
      let b := Config.wearUnits w.calb s.par.bti
      let m := Config.wearUnits w.cale s.par.em
      let worn := 100 * max (w.wb + b) (w.we + m)
      let life := 220000000 * 1000000
      let below : Nat → Prop := fun share => worn < share * life
      let r := g.rules
      ∃ t v c, exec .wearMonitorRead s = .next t ∧
        (t.cell p).wear = { w with wb := w.wb + b, we := w.we + m, micros := w.micros + 1, state := max w.state v, cap := min w.cap c } ∧
        (below r.derate → v = 0 ∧ c = 7) ∧
        (¬ below r.derate → below r.drain → v = 1 ∧ c = 6 - (worn - r.derate * life) / (5 * life)) ∧
        (¬ below r.derate → ¬ below r.drain → below r.retire → v = 2 ∧ c = 4) ∧
        (¬ below r.derate → ¬ below r.drain → ¬ below r.retire → v = 3 ∧ c = 4) ∧
        (∀ k y, p < 416 → s.instOf p = some (k, y) → y.reeve = false → ∃ z, t.inst? k = some z ∧ z.wear = y.wear + max b m ∧
          ∀ l, s.launch? y.launch = some l → ∃ q, t.launch? y.launch = some q ∧ q.wear = l.wear + max b m) ∧
        (w.state < v → changes t (if v = 1 then .wearDerate else if v = 2 then .wearDrain else .wearRetire)) ∧
        (w.state = 1 → v = 1 → c < w.cap → changes t .wearDerate)) ∧
    (p < 416 → (s.island (islandOf (p / 4))).off = true → exec .wearMonitorRead s = .next s) ∧
    (∃ t, exec .budgetPeriod s = .next t ∧ t.pkg.micros = (if g.alseq = 0 then g.micros else g.micros + 1) ∧ t.mem = s.mem ∧
      t.net.map (fun a : Access => { a with admitted := true }) = s.net.map (fun a : Access => { a with admitted := true }) ∧
      (∀ (j : Nat) (a : Access), s.net[j]? = some a → a.admitted = true → t.net[j]? = some a) ∧
      (g.booted = true → ∀ j, j < 32 → (s.island j).off = false → Store.get 0 (t.island j).time (s.island j).level =
        Store.get 0 (s.island j).time (s.island j).level + 1)) ∧
    (∀ new, s.par.log < 96 → s.occupied (s.siteOfLog s.par.log) = false → s.siteFailed (s.siteOfLog s.par.log) = true →
      s.spareFor (s.siteOfLog s.par.log) = some new →
      ∃ t, exec .sparePromoted s = .next t ∧ t.siteOfLog s.par.log = new ∧ changes t .sparePromoted ∧
        ∀ l, l ≠ s.par.log → t.siteOfLog l = s.siteOfLog l) ∧
    (96 ≤ s.par.log ∨ s.occupied (s.siteOfLog s.par.log) = true ∨ s.siteFailed (s.siteOfLog s.par.log) = false ∨
      s.spareFor (s.siteOfLog s.par.log) = none → exec .sparePromoted s = .next s) ∧
    (g.booted = false → exec .almanacCommit s = .next s) ∧
    (g.booted = true → g.alBusy = true → exec .almanacCommit s = .next { s with pkg := { g with alAgain := true } }) ∧
    (g.booted = true → g.alBusy = false →
      ∃ t b, exec .almanacCommit s = .next t ∧ t.pkg.alBusy = true ∧ t.pkg.alBank = some (g.older, b) ∧ b.seq = g.alseq + 1 ∧
        b.micros = g.micros) ∧
    (g.alBank = none → exec .almanacCommitDone s = .next s) ∧
    (∀ n b, g.alBank = some (n, b) → g.alAgain = false → s.par.ok = true →
      ∃ t, exec .almanacCommitDone s = .next t ∧ t.pkg.alBusy = false ∧ t.pkg.alErr = false ∧ t.pkg.alseq = b.seq ∧
        Tab.get? t.pkg.banks n = some b ∧ ∀ c, (t.cell c).thresholds = 0) ∧
    (∀ n b, g.alBank = some (n, b) → g.alAgain = false → s.par.ok = false →
      ∃ t, exec .almanacCommitDone s = .next t ∧ t.pkg.alBusy = false ∧ t.pkg.alErr = true ∧ t.pkg.alseq = g.alseq ∧
        t.pkg.banks = g.banks) ∧
    (∀ n b, g.alBank = some (n, b) → g.alAgain = true →
      ∃ t o c, exec .almanacCommitDone s = .next t ∧ t.pkg.alBusy = true ∧ t.pkg.alAgain = false ∧ t.pkg.alErr = !s.par.ok ∧
        t.pkg.alBank = some (o, c) ∧ c.seq = (if s.par.ok then b.seq else g.alseq) + 1) ∧
    (g.booted = true → ∃ t, exec .powerDownRequest s = .next t ∧ t.pkg.powerDown = true ∧ t.pkg.alBusy = true ∧
      (g.alBusy = true → t.pkg.alAgain = true)) ∧
    (g.booted = false → exec .powerDownRequest s = .next { s with pkg := { g with powerDown := true } })

/-- R317 to R325, R374, R376, R377: steps at the host port. A write to SOFFER makes the offer of an event that the slot takes part in,
which may settle at once or let an instant begin (R225, R233), and with one standing, or for another event, sets ERR; a write of an aligned doubleword to tier-1 memory stores it and nothing else, a
read answers the bytes there; the host stores to its own memory unless the bridge holds the line for a SYSATOM atomic; a snoop is
answered as a miss (log entry 60); a measurement is answered and signed over the responses so far and the requester's nonce. The codes
and the layout of SPDM are the model's (log entry 54). POWER_ON boots a part whose firmware and policy verify and are not rolled back:
the policy's version is checked against the same counter as the firmware's (log entry 52), the valid bank with the higher SEQ is
taken, with its counters for every cell (none for one that it does not list), and the reeve domain is placed; that the policy in flash comes into force then is the model's choice (log entry 90); POWER_LOSS
leaves the flash, the fuses and the banks. A read of BAR0 comes by HOST_MEM_ACCESS (log entry 62). While the link is down, or the package has
booted already, nothing happens (log entries 13, 61). -/
def Obligations.HostAgents : Prop :=
  ∀ (s : State),
    let g := s.pkg
    let w := s.par
    let h := s.slot w.slot
    let e := w.value.toNat % 1024
    let img : Image := (s.reeveInst.map (·.2.image)).getD {}
    let named := ∃ v, img.events[e]? = some v ∧ ∃ p ∈ v.parts, p.pkind = 5 ∧ p.id = w.slot
    (g.linkUp = true → w.slot < 64 → h.offered.isSome ∨ ¬ named →
      ∃ t, exec .sofferWrite s = .next t ∧ t.slot w.slot = { h with err := true } ∧ (∀ j, j ≠ w.slot → t.slot j = s.slot j)) ∧
    (g.linkUp = true → w.slot < 64 → h.offered = none → named →
      ∃ k i, s.reeveInst = some (k, i) ∧
        let q := s.setSlot w.slot { h with offered := some e, done := false, fault := false, taint := false, dlen := 0 }
        exec .sofferWrite s = .next ((q.refresh k).tryBegin k)) ∧
    (g.linkUp = false ∨ 64 ≤ w.slot → exec .sofferWrite s = .next s) ∧
    (g.linkUp = false → exec .snoop s = .next s ∧ exec .spdmRequest s = .next s ∧ (w.hostMem = false → exec .hostMemAccess s = .next s)) ∧
    (g.linkUp = true → w.hostMem = false → w.bar = false → w.write = true → w.decoder = false → w.off + 8 ≤ 96 * 2 ^ 30 →
      w.off % 8 = 0 → w.data.length = 8 →
      ∃ t, exec .hostMemAccess s = .next t ∧ Memory.bytes t.mem (keyTier1 w.off) 8 = w.data ∧ keyTier1 w.off / 8 ∉ t.poison ∧
        (∀ b, (b < keyTier1 w.off ∨ keyTier1 w.off + 8 ≤ b) → Memory.get t.mem b = Memory.get s.mem b)) ∧
    (g.linkUp = true → w.hostMem = false → w.bar = false → w.write = false → w.decoder = false → w.off + w.data.length ≤ 96 * 2 ^ 30 →
      0 < w.data.length → w.off % 64 + w.data.length ≤ 64 →
      ∃ t b, exec .hostMemAccess s = .next t ∧ t.mem = s.mem ∧
        t.pkg.hostReads = g.hostReads ++ [(Memory.bytes s.mem (keyTier1 w.off) w.data.length, b)] ∧
        (s.flaws = [] → b = poisonedAt s.poison (keyTier1 w.off) w.data.length)) ∧
    (w.hostMem = true → w.write = true → w.off % 64 + w.data.length ≤ 64 → 0 < w.data.length → w.off + w.data.length ≤ 2 ^ 56 →
      let n := w.data.length
      let k := keyHost w.off
      (s.lineHeld k = true → exec .hostMemAccess s = .next s) ∧
      (s.lineHeld k = false → ∃ t, exec .hostMemAccess s = .next t ∧
        Memory.num t.mem k n = (if w.atomic then (Memory.num s.mem k n + leNat w.data) % 2 ^ (8 * n) else leNat w.data) ∧
        (∀ b, (b < k ∨ k + n ≤ b) → Memory.get t.mem b = Memory.get s.mem b))) ∧
    (g.linkUp = true → w.hostMem = false → w.bar = true → w.write = false → 0 < w.data.length → w.off % 64 + w.data.length ≤ 64 →
      w.off + w.data.length ≤ 0x4000 → exec .hostMemAccess s = .next { s with pkg := { g with hostReads := g.hostReads ++
        [((List.range w.data.length).map (fun j => Store.get 0 (s.slot ((w.off + j) / 256)).window ((w.off + j) % 256)), false)] } }) ∧
    (g.linkUp = true → s.lineHeld (keyHost (64 * w.line)) = false →
      ∃ t, exec .snoop s = .next t ∧ t.pkg.snoops = g.snoops ++ [w.line] ∧ t.mem = s.mem) ∧
    (g.linkUp = true → s.lineHeld (keyHost (64 * w.line)) = true → exec .snoop s = .next s) ∧
    (g.booted = true → ∃ t, exec .hostLinkUp s = .next t ∧ t.pkg.linkUp = true) ∧
    (g.booted = false → exec .hostLinkUp s = .next s) ∧
    (g.linkUp = true → w.code = 0xE0 →
      ∀ m ∈ [(2, sha256 g.firmware), (3, sha256 g.policy), (5, g.bankDigest), (6, g.launchLog)], w.arg = m.1 →
        let own := Config.spdmNonce g.spdm.length
        ∃ t, exec .spdmRequest s = .next t ∧ t.pkg.spdm = g.spdm ++
          [m.2 ++ own ++ identitySign (sha256 (g.spdm.flatten ++ w.data ++ m.2 ++ own))]) ∧
    (g.linkUp = true → w.code = 0xE4 →
      let body := Config.spdmBody w.code w.arg (g.spdm.flatten ++ w.data)
      let own := Config.spdmNonce g.spdm.length
      ∃ t, exec .spdmRequest s = .next t ∧ t.pkg.spdm = g.spdm ++
        [body ++ own ++ identitySign (sha256 (g.spdm.flatten ++ w.data ++ body ++ own))]) ∧
    (g.booted = true → exec .powerOn s = .next s) ∧
    (g.booted = false → g.fuseCount ≤ g.fwVersion → g.fuseCount ≤ g.flash.version →
      if blobOk g.firmware = true ∧ blobOk g.policy = true then
        ∃ t, exec .powerOn s = .next t ∧ t.pkg.booted = true ∧ t.pkg.launchLog = List.replicate 32 0 ∧ t.pkg.rules = g.flash ∧
          (∀ p, 416 ≤ p → p < 432 → (t.cell p).inst = some s.nextInst) ∧
          (∃ i, t.inst? s.nextInst = some i ∧ i.reeve = true ∧ i.image = reeveImage g.firmware) ∧
          (g.chosen = none → t.pkg.noBank = true) ∧
          (∀ b, g.chosen = some b → t.pkg.alseq = b.seq ∧ t.pkg.cmap = b.cmap ∧ t.pkg.history = b.history ∧
            ((b.wear.map (·.1)).Nodup → ∀ p, let v := Tab.getD b.wear p {}
              ((t.cell p).wear.wb, (t.cell p).wear.we, (t.cell p).wear.seals, (t.cell p).wear.setot) = (v.wb, v.we, v.seals, v.setot)))
      else exec .powerOn s = .next s) ∧
    (g.booted = false → g.fwVersion < g.fuseCount ∨ g.flash.version < g.fuseCount → exec .powerOn s = .next s) ∧
    (∃ t, exec .powerLoss s = .next t ∧ t.mem = [] ∧ t.cells = [] ∧ t.insts = [] ∧ t.launches = [] ∧ t.net = [] ∧
      t.pkg.booted = false ∧ t.pkg.banks = g.banks ∧ t.pkg.firmware = g.firmware ∧ t.pkg.fuseCount = g.fuseCount ∧
      t.pkg.policy = g.policy ∧ t.pkg.flash = g.flash)

/-- R277, R321, R328 to R335, R378: steps of a Fjargeton port. A frame whose tag fails is dropped and counted, before its SEQ is looked at
(log entry 56), and the 64th in a row takes the port down; a DATA frame of the next SEQ joins its message at its MOFF and the last one
completes it, a message of another length than its event's (R335), or by inference of a channel that no event receives (log entry 65),
being dropped and counted; an older one is acknowledged again, a later one is answered by a NAK; an ACK frees frames, a NAK has the frames from its
SEQ on sent again, an ALLOW gives the channel's GRANT as a total, whatever it was before (R333, log entry 58); a DATA frame sent is held in the retry
window, whose frames a timeout sends again, and the port fails when the oldest has been sent 8 times, the first sending counted (log entry 57); a key
exchange with an accepted chain and signature brings the port up, every exchange of a number of its own, and binds it to the reeve
domain where that domain's events name it (R321, R335, log entry 44). The layout of the KEYX payload
is the model's (log entry 55), and so is that the messages which a port that fails has not begun to send are gone (log entry 45). What a
certificate chain is worth, and the key in it, are free values of Config (log entry 5). A port that is down does none of this (log entry
13). -/
def Obligations.LinkAgents : Prop :=
  ∀ (s : State),
    let w := s.par
    let n := w.port
    let q := s.port n
    let opened : Nat → Option (List Byte) := fun type =>
      q.open_ type (if type = 0 then w.first else false) (if type = 0 then w.last else false)
        (if type = 0 ∨ type = 3 then w.chan else 0) (if type = 0 ∨ type = 1 ∨ type = 2 then w.seq else 0)
        (if type = 0 then 0 else w.ctl) (if type = 0 then w.moff else 0) (if type = 0 ∨ type = 3 then w.data else []) w.tag
    let fails : State → Prop := fun t => (t.port n).up = false ∧ (t.port n).window = [] ∧ (t.port n).outbox = [] ∧ (t.port n).sending = none
    let drops : Instr → Prop := fun i =>
      (q.tagFails < 63 → ∃ t, exec i s = .next t ∧ (t.port n).tagFails = q.tagFails + 1 ∧
        (t.port n).rxNext = q.rxNext ∧ (t.port n).inbox = q.inbox ∧ (t.port n).window = q.window) ∧
      (63 ≤ q.tagFails → q.bound = none → ∃ t, exec i s = .next t ∧ fails t)
    (q.up = false → ∀ i ∈ [Instr.dataFrame, .ackFrame, .nakFrame, .allowFrame, .frameSend, .retransmitTimeout, .linkPeerLost,
      .ackIntervalExpiry], exec i s = .next s) ∧
    (q.up = true →
      (8192 < w.data.length → exec .dataFrame s = .next (s.setPort n { q with dropped := q.dropped + 1 })) ∧
      (w.data.length ≤ 8192 →
        match opened 0 with
        | none => drops .dataFrame
        | some load =>
          let bytes := placeAt (if w.first then [] else Store.get [] q.partial_ w.chan) w.moff load
          (w.seq < q.rxNext → ∃ t, exec .dataFrame s = .next t ∧ (t.port n).rxNext = q.rxNext ∧ (t.port n).sinceAck = 0 ∧
            (t.port n).inbox = q.inbox ∧ (t.port n).wire.length = q.wire.length + 1) ∧
          (q.rxNext < w.seq → ∃ t, exec .dataFrame s = .next t ∧ (t.port n).rxNext = q.rxNext ∧ (t.port n).sinceAck = q.sinceAck ∧
            (t.port n).inbox = q.inbox ∧ (t.port n).wire.length = q.wire.length + 1) ∧
          (w.seq = q.rxNext → w.last = false → ∃ t, exec .dataFrame s = .next t ∧ (t.port n).rxNext = q.rxNext + 1 ∧
            (t.port n).tagFails = 0 ∧ (t.port n).inbox = q.inbox ∧ Store.get [] (t.port n).partial_ w.chan = bytes) ∧
          (w.seq = q.rxNext → w.last = true → q.bound = none → s.expects n w.chan = some bytes.length →
            ∃ t, exec .dataFrame s = .next t ∧ (t.port n).rxNext = q.rxNext + 1 ∧
              (t.port n).inbox = q.inbox ++ [{ chan := w.chan, bytes := bytes }] ∧ (t.port n).dropped = q.dropped) ∧
          (w.seq = q.rxNext → w.last = true → s.expects n w.chan ≠ some bytes.length →
            ∃ t, exec .dataFrame s = .next t ∧ (t.port n).rxNext = q.rxNext + 1 ∧
              (t.port n).inbox = q.inbox ∧ (t.port n).dropped = q.dropped + 1)) ∧
      (match opened 1 with
        | none => drops .ackFrame
        | some _ => ∃ t, exec .ackFrame s = .next t ∧ (t.port n).tagFails = 0 ∧
            (t.port n).window.map (·.seq) = (q.window.map (·.seq)).filter (fun x => decide (w.seq < x))) ∧
      (match opened 2 with
        | none => drops .nakFrame
        | some _ =>
          (q.window = [] → ∃ t, exec .nakFrame s = .next t ∧ (t.port n).tagFails = 0 ∧ (t.port n).wire = q.wire) ∧
          (∀ o l, q.window = o :: l → ¬ (w.seq ≤ o.seq ∧ 8 ≤ o.sends) → ∃ t, exec .nakFrame s = .next t ∧ (t.port n).tagFails = 0 ∧
            (t.port n).window = q.window.map (fun f => if w.seq ≤ f.seq then { f with sends := f.sends + 1 } else f) ∧
            (t.port n).wire.length = q.wire.length + (q.window.filter (fun f => decide (w.seq ≤ f.seq))).length) ∧
          (∀ o l, q.window = o :: l → w.seq ≤ o.seq → 8 ≤ o.sends → q.bound = none → ∃ t, exec .nakFrame s = .next t ∧ fails t)) ∧
      (match opened 3 with
        | none => drops .allowFrame
        | some load => q.bound = none → ∃ t, exec .allowFrame s = .next t ∧
            Store.get 0 (t.port n).grant w.chan = leNat (slice load 0 8)) ∧
      (2 ^ 47 ≤ q.txSeq + 1 → ∃ t, exec .frameSend s = .next t ∧ (t.port n).keyxSent = true ∧ (t.port n).window = q.window) ∧
      (q.txSeq + 1 < 2 ^ 47 → q.sending = none → q.outbox = [] → exec .frameSend s = .next s) ∧
      (∀ c b off beg, q.txSeq + 1 < 2 ^ 47 → q.sending = some (c, b, off, beg) →
        (s.frameOpen n c = false → exec .frameSend s = .next s) ∧
        (s.frameOpen n c = true → q.held + 32 + 8192 ≤ 384 * 2 ^ 20 →
          ∃ t, exec .frameSend s = .next t ∧ (t.port n).txSeq = q.txSeq + 1 ∧ (t.port n).wire.length = q.wire.length + 1 ∧
            (t.port n).sending = (if b.length ≤ off + 8192 then none else some (c, b, off + 8192, true)) ∧
            (t.port n).window = q.window ++
              [{ chan := c, seq := q.txSeq, first := !beg, last := decide (b.length ≤ off + 8192), moff := off,
                 payload := (b.drop off).take 8192 }])) ∧
      (∀ f l, q.window = f :: l → f.sends < 8 → ∃ t, exec .retransmitTimeout s = .next t ∧
        (t.port n).window = q.window.map (fun f => { f with sends := f.sends + 1 }) ∧
        (t.port n).wire.length = q.wire.length + q.window.length) ∧
      (∀ f l, q.window = f :: l → 8 ≤ f.sends → q.bound = none → ∃ t, exec .retransmitTimeout s = .next t ∧ fails t) ∧
      (0 < q.sinceAck → ∃ t, exec .ackIntervalExpiry s = .next t ∧ (t.port n).sinceAck = 0 ∧
        (t.port n).wire.length = q.wire.length + 1) ∧
      (q.sinceAck = 0 → exec .ackIntervalExpiry s = .next s) ∧
      (q.bound = none → ∃ t, exec .linkPeerLost s = .next t ∧ fails t)) ∧
    (exec .otherEthertypeFrame s = .next (s.setPort n { q with dropped := q.dropped + 1 })) ∧
    (s.pkg.booted = false → exec .portRetrained s = .next s ∧ exec .keyxFrame s = .next s) ∧
    (s.pkg.booted = true → n < 12 → q.up = false → q.keyxSent = false →
      ∃ t, exec .portRetrained s = .next t ∧ (t.port n).keyxSent = true ∧ (t.port n).exchanges = q.exchanges + 1 ∧
        (t.port n).wire.length = q.wire.length + 1) ∧
    (s.pkg.booted = true → n < 12 → q.up = false → q.keyxSent = true → ∃ t, exec .portRetrained s = .next t ∧ t.port n = q) ∧
    (s.pkg.booted = true → n < 12 → 160 ≤ w.data.length →
      let body := w.data.take (w.data.length - 64)
      if Config.chainAccepted s.pkg.rules.authorities (body.drop 96) = true ∧
          ecdsaVerify (Config.chainKey (body.drop 96)) (sha256 body) (w.data.drop (w.data.length - 64)) = true then
        ∃ t, exec .keyxFrame s = .next t ∧ (t.port n).up = true ∧ (t.port n).rxNext = 0 ∧ (t.port n).txSeq = q.window.length ∧
          (t.port n).keyxSent = false ∧ (t.port n).exchanges = (if q.keyxSent then q.exchanges else q.exchanges + 1) ∧
          (t.port n).window.map (·.payload) = q.window.map (·.payload) ∧ (t.port n).window.map (·.seq) = List.range q.window.length ∧
          (q.bound = none → ∀ k i, s.insts.find? (fun x => x.2.reeve && x.2.image.ports.contains n) = some (k, i) → (t.port n).bound = some k) ∧
          (q.bound.isSome = true ∨ (∀ x ∈ s.insts, x.2.reeve = true → n ∉ x.2.image.ports) → (t.port n).bound = q.bound)
      else q.bound = none → ∃ t, exec .keyxFrame s = .next t ∧ fails t) ∧
    (s.pkg.booted = true → n < 12 → w.data.length < 160 → q.bound = none → ∃ t, exec .keyxFrame s = .next t ∧ fails t)

/-- R66 to R68 and the encoding tables: an instruction's word decodes to the instruction, with every operand at every value that
the encoding admits. The family is every constructor that is an instruction word; those that are events have no word. -/
def Obligations.DecodeOfEncode : Prop :=
  ∀ (i : Instr) (w : Word), i.wf = true → encode i = some w → decode w = .ok i

/-- The other direction: a word that decodes is the word of the instruction it decodes to, which is well formed, or is no
instruction of the manual. -/
def Obligations.EncodeOfDecode : Prop :=
  ∀ (i : Instr) (w : Word), decode w = .ok i → i = .wordNotAnInstruction w ∨ (i.wf = true ∧ encode i = some w)

/-- Words written out from the spec's encodings, field by field from bit 31 down, decode to the instructions they stand for. -/
def Obligations.DecodeWords : Prop :=
  decode 0b000001_10001_01000_01001_0_0_00_0000000 = .ok (.add 17 8 9 false false 0) ∧
  decode 0b000001_00101_00110_00111_0_1_10_0011011 = .ok (.sel 5 3 6 7 false true 2) ∧
  decode 0b000010_10010_01001_0_00_1111111111011 = .ok (.addi 18 9 false 0 (-5)) ∧
  decode 0b000110_10010_00000_0_01_0111111111111 = .ok (.movi 18 1 4095) ∧
  decode 0b001000_11000_01000_01001_0_1_10_0000110 = .ok (.cmpltu 6 0 8 9 false true 2) ∧
  decode 0b001001_10011_10111_1_00_0000100101100 = .ok (.cmpiltu 4 23 true 0 300) ∧
  decode 0b001010_00111_01111_11100_1_0_11_0000011 = .ok (.rotli 7 15 28 true 3) ∧
  decode 0b001010_00111_01111_00000_1_0_11_0000111 = .ok (.brev 7 15 true 3) ∧
  decode 0b001010_10111_01000_01001_0_1_10_0001011 = .ok (.bfi 23 8 9 false true 2) ∧
  decode 0b001010_00011_01010_01111_1_0_01_0110011 = .ok (.fshl 3 10 15 true false 1 19) ∧
  decode 0b001011_10100_10010_10001_0_0_10010110_0 = .ok (.lut3 20 18 17 false false 0x96) ∧
  decode 0b001100_01011_10011_11000_1_1_11_0000011 = .ok (.divs 11 19 24 true true 3) ∧
  decode 0b001101_01100_01101_01110_1_1_11_0000011 = .ok (.ffma 12 13 14 true true 3) ∧
  decode 0b001101_10000_01100_01111_0_0_10_0010010 = .ok (.fcmplt 4 12 15 false false 2) ∧
  decode 0b001110_00111_00010_11110_0_1_11_0010110 = .ok (.addas 7 2 30 true 3 6) ∧
  decode 0b001110_00001_01101_01110_1_0_00_0000011 = .ok (.movga 1 13 14 true false 0) ∧
  decode 0b001111_00110_00001_0_10_1000000000000 = .ok (.addai 6 1 2 (-4096)) ∧
  decode 0b010000_011_1_00_11111111111111111010 = .ok (.br 3 true 0 (-6)) ∧
  decode 0b010011_00000_01011_1_10_0000000001100 = .ok (.loop 11 true 2 12) ∧
  decode 0b010100_10110_111_0_01_101_000000001000 = .ok (.ldd 22 7 1 8) ∧
  decode 0b010101_11000_010_0_01_101_011111111010 = .ok (.std 24 2 false 1 2042) ∧
  decode 0b010111_00110_111_0_10_101_000000001001 = .ok (.sta 6 7 2 9) ∧
  decode 0b011000_10010_001_00_10100_0_0_1_0_0000001 = .ok (.amoand 18 1 20 false true) ∧
  decode 0b011000_00110_011_00_01000_1_1_1_0_0001001 = .ok (.amocas 6 3 8 true true true) ∧
  decode 0b011001_01010_010_00_01100_1_0_0_0_0000000 = .ok (.dcas 10 2 12 true false) ∧
  decode 0b011010_01001_00000_10101_0_0_01_0000001 = .ok (.movs 9 0x015 1) ∧
  decode 0b011010_00000_11111_11111_0_0_11_0000011 = .ok (.trap 1023 3) ∧
  decode 0b011010_01101_00001_00100_0_0_00_0000110 = .ok (.widx 13 1 4 0) ∧
  decode 0b011011_1001_0_011_0_01_000_111111111111 = .ok (.vld 9 3 1 (-1)) ∧
  decode 0b011101_1100_101_0110_011_00_000_0000000 = .ok (.gathw 12 5 6 3 0) ∧
  decode 0b011110_0111_1010_1101_111_1_1_11_0100111 = .ok (.vandn 1 7 10 13 7 true true 3) ∧
  decode 0b011110_0100_0101_0000_110_1_0_01_0110001 = .ok (.vabs 1 4 5 6 true 1) ∧
  decode 0b011111_0011_0100_0101_011_1_1_11_0000011 = .ok (.vffma 0 3 4 5 3 true true 3) ∧
  decode 0b100000_0010_1101_0000_010_0_0_10_1000010 = .ok (.vcvtf32bf true 2 13 2 false 2) ∧
  decode 0b100001_0111_10011_0000_001101_0000001 = .ok (.vins 7 19 13) ∧
  decode 0b100001_0000_00100_0000_000110_0001011 = .ok (.vmovk 6 4) ∧
  decode 0b100010_0011_0100_0101_010_1_0_10_1000010 = .ok (.vcmplt 2 3 4 5 2 true false 2) ∧
  decode 0b100011_1011_0010_0111_100_1_0_11001010_0 = .ok (.vlut3 11 2 7 4 true false 0xCA) ∧
  decode 0b100101_01001_00100_00001_0_0_10_0000000 = .ok (.offer 9 4 true 2) ∧
  decode 0b100101_00000_01101_00111_1_0_10_0000101 = .ok (.dlw 7 13 true 2) ∧
  decode 0b100110_01100_01101_01110_1_0_11_0000010 = .ok (.mma 12 13 14 true false 3) ∧
  decode 0b100111_00000_00101_00000_0_0_10_0000010 = .ok (.copyop 5 2) ∧
  decode 0b101000_00000_00100_00000_0_0_11_0000011 = .ok (.scalec 4 3) ∧
  decode 0b101010_01000_01001_00000_1_0_01_0000000 = .ok (.grow 8 9 true 1) ∧
  decode 0b101010_00000_11001_00000_1_0_00_0000011 = .ok (.seal 25 true 0) ∧
  decode 0b111111_00_000000000000000000000101 = .ok (.stall 5) ∧
  decode 0b111111_10_000000000000000000001010 = .ok (.mod 2 true) ∧
  decode 0x52284003 = .ok (.ldw 17 2 0 3) ∧
  decode 0xFD00000C = .ok (.wide 0xC) ∧
  decode 0x0A4906A0 = .ok (.addi 18 9 false 0 0x6A0) ∧
  decode 0x066A5A00 = .ok (.add 19 10 11 false true 0) ∧
  decode 0x21928802 = .ok (.cmplt 3 0 18 17 false false 0) ∧
  decode 0x2E92892C = .ok (.lut3 20 18 17 false false 0x96) ∧
  decode 0x41CFFFFA = .ok (.br 3 true 0 (-6))

/-- R66, R132, R14, R350: a step whose choice is a cell executes the instruction that its running node's word decodes to, the cell's
clock running, no engine command waiting, nothing to take at the boundary and no breakpoint set off; inside a run of hints, the
next word of the run. The words of the run, then the record that an instruction reads as it issues, then the table words that its walks
read, are read from the storage first, and an error in them is corrected or makes poison (log entry 84); with no error in the storage
the instruction executes in the state of the step. A step whose choice is an event carries the event out. The choices are the agenda's, or the model's own order
(log entry 14). A step never stops: in every state it answers a next state, a step of an agent that is not due leaving the state (log
entry 13) and one with no choice left to make leaving it as it is. -/
def Obligations.StepRunsDecoded : Prop :=
  (∀ (s t : State) (p i : Nat) (n : Node) (x : Instr),
    ((s.agenda = [] ∧ s.defaultChoice = some (.issue p) ∧ t = { s with cur := p }) ∨
      (∃ l, s.agenda = .issue p :: l ∧ t = { s with agenda := l, cur := p })) →
    let r := t.readCode
    let w : Word := BitVec.ofNat 32 (Memory.num r.mem (keyLocal p n.pc.toNat) 4)
    r.run? = some (i, n) → r.clockOn p = true → r.awaits p = false → n.boundary = none → decode w = .ok x →
    n.hints.start.isSome ∨
      (r.frozen p = false ∧ breaks r p n = false ∧
        (r.cell p).codeOff ≤ n.pc.toNat ∧ n.pc.toNat < (r.cell p).codeOff + (r.cell p).codeLen ∧
        poisonedAt r.poison (keyLocal p n.pc.toNat) 4 = false ∧ w.extractLsb' 26 6 ≠ 0x3F) →
    step s = exec x ((r.readRecord x).meetWalks (exec x (r.readRecord x))) ∧ (t.flaws = [] → step s = exec x t)) ∧
  (∀ (s : State) (e : Instr) (x : Params) (l : List Choice), s.agenda = .event e x :: l → e ∈ agents →
    step s = exec e { s with agenda := l, par := x }) ∧
  (∀ s : State, ∃ t, step s = .next t)

/-- The memory keeps its canonical form in every step: addresses strictly rise, and no byte that is 0 is listed. -/
def Obligations.StepKeepsMemory : Prop :=
 ∀ s t : State, s.MemOk → step s = .next t → t.MemOk

/-- R8, R12, R13, R33, R349, R374: reset. No cell holds an instance or a node, no memory and no launch is listed, and the
registers have the values that the manual's maps give: a node slot is IDLE, the report ring begins at 0x16000, SETHR is 64, the
islands ask for level 7. The other values are the model's (log entry 1). The memory of the machine right after reset is in
canonical form. -/
def Obligations.ResetValues : Prop :=
  (let s := State.reset
   s.mem = [] ∧ s.poison = [] ∧ s.net = [] ∧ s.launches = [] ∧ s.insts = [] ∧ s.pkg.booted = false ∧ s.pkg.linkUp = false ∧
   (∀ p, (s.cell p).inst = none ∧ (s.cell p).running = none ∧ (s.cell p).isSealed = false ∧ (s.cell p).secnt = 0) ∧
   (∀ p i, s.node? p i = none) ∧
   (∀ d, (s.ring d).base = 0x16000 ∧ (s.ring d).head = 0 ∧ (s.ring d).tail = 0) ∧ s.pkg.sethr = 64 ∧
   (∀ i, (s.island i).req = 7 ∧ (s.island i).tcap = 7 ∧ (s.island i).off = false) ∧
   (∀ n, (s.port n).up = false)) ∧
  (State.reset.MemOk)
end

