-- ==== Sys2Proof/Laws/Data.lean ====
section
/-! SUPPORT. Laws of records by number, of sparse arrays and of the memory: reading after writing, and the canonical form. -/

namespace Sys2Proof.Machine

-- One proof at a time: a thread for each would pass the limit of memory.
set_option Elab.async false

/-! ### Records by number -/

section Tab
variable {α : Type}

@[simp] theorem Tab.get?_set_self (t : Tab α) (k : Nat) (v : α) : Tab.get? (Tab.set t k v) k = some v := by
  induction t with
  | nil => simp [Tab.set, Tab.get?]
  | cons e t ih =>
    obtain ⟨j, w⟩ := e
    simp only [Tab.set]
    split
    · simp [Tab.get?]
    · split
      · simp [Tab.get?]
      · simp only [Tab.get?]; rw [if_neg (by omega)]; exact ih

theorem Tab.get?_set_ne (t : Tab α) {k j : Nat} (v : α) (h : j ≠ k) : Tab.get? (Tab.set t k v) j = Tab.get? t j := by
  induction t with
  | nil => simp [Tab.set, Tab.get?, Ne.symm h]
  | cons e t ih =>
    obtain ⟨i, w⟩ := e
    simp only [Tab.set]
    split
    · next e => subst e; simp [Tab.get?, Ne.symm h]
    · split
      · simp [Tab.get?, Ne.symm h]
      · simp only [Tab.get?]; split
        · rfl
        · exact ih

@[simp] theorem Tab.getD_set_self (t : Tab α) (k : Nat) (v d : α) : Tab.getD (Tab.set t k v) k d = v := by
  simp [Tab.getD]
theorem Tab.getD_set_ne (t : Tab α) {k j : Nat} (v d : α) (h : j ≠ k) :
    Tab.getD (Tab.set t k v) j d = Tab.getD t j d := by simp [Tab.getD, Tab.get?_set_ne t v h]

@[simp] theorem Tab.get?_erase_self (t : Tab α) (k : Nat) : Tab.get? (Tab.erase t k) k = none := by
  induction t with
  | nil => rfl
  | cons e t ih =>
    obtain ⟨j, w⟩ := e
    by_cases h : j = k
    · subst h; simpa [Tab.erase, List.filter] using ih
    · have : (j != k) = true := by simpa using h
      simp only [Tab.erase, List.filter, this, Tab.get?, if_neg h]; exact ih

theorem Tab.get?_erase_ne (t : Tab α) {k j : Nat} (h : j ≠ k) : Tab.get? (Tab.erase t k) j = Tab.get? t j := by
  induction t with
  | nil => rfl
  | cons e t ih =>
    obtain ⟨i, w⟩ := e
    by_cases hi : i = k
    · subst hi
      have : (i != i) = false := by simp
      simp only [Tab.erase, List.filter, this, Tab.get?, if_neg (Ne.symm h)]; exact ih
    · have : (i != k) = true := by simpa using hi
      simp only [Tab.erase, List.filter, this, Tab.get?]
      split
      · rfl
      · exact ih

end Tab

/-! ### Sparse arrays -/

section Store
variable {α : Type} [DecidableEq α]

omit [DecidableEq α] in
@[simp] theorem Store.get_nil (d : α) (k : Nat) : Store.get d [] k = d := rfl

@[simp] theorem Store.get_set_self (d : α) (t : Store α) (k : Nat) (v : α) : Store.get d (Store.set d t k v) k = v := by
  unfold Store.set Store.get
  split
  · next h => simp [h]
  · simp

theorem Store.get_set_ne (d : α) (t : Store α) {k j : Nat} (v : α) (h : j ≠ k) :
    Store.get d (Store.set d t k v) j = Store.get d t j := by
  unfold Store.set Store.get
  split
  · rw [Tab.get?_erase_ne t h]
  · rw [Tab.get?_set_ne t v h]

theorem Store.get_set (d : α) (t : Store α) (k j : Nat) (v : α) :
    Store.get d (Store.set d t k v) j = if j = k then v else Store.get d t j := by
  split
  · next h => subst h; simp
  · next h => exact Store.get_set_ne d t v h

/-! ### The canonical form -/

theorem keysRise_iff (l : List Nat) : keysRise l = true ↔ l.Pairwise (· < ·) := by
  induction l with
  | nil => simp [keysRise]
  | cons a t ih =>
    cases t with
    | nil => simp [keysRise]
    | cons b t =>
      simp only [keysRise, Bool.and_eq_true, decide_eq_true_eq, ih]
      constructor
      · rintro ⟨h1, h2⟩
        refine List.pairwise_cons.mpr ⟨fun x hx => ?_, h2⟩
        rcases List.mem_cons.mp hx with rfl | hx
        · exact h1
        · exact Nat.lt_trans h1 ((List.pairwise_cons.mp h2).1 x hx)
      · intro h
        obtain ⟨h1, h2⟩ := List.pairwise_cons.mp h
        exact ⟨h1 b (by simp), h2⟩

theorem Tab.keys_set {α : Type} (t : Tab α) (k : Nat) (v : α) :
    ∀ x ∈ (Tab.set t k v).map (·.1), x = k ∨ x ∈ t.map (·.1) := by
  induction t with
  | nil => simp [Tab.set]
  | cons e t ih =>
    obtain ⟨j, w⟩ := e
    simp only [Tab.set]
    intro x hx
    split at hx
    · next h => subst h; simp at hx ⊢; tauto
    · split at hx
      · simp at hx ⊢; tauto
      · simp only [List.map_cons, List.mem_cons] at hx ⊢
        rcases hx with rfl | hx
        · exact .inr (.inl rfl)
        · rcases ih x hx with h | h
          · exact .inl h
          · exact .inr (.inr h)

theorem Tab.set_rise {α : Type} (t : Tab α) (k : Nat) (v : α) (h : (t.map (·.1)).Pairwise (· < ·)) :
    ((Tab.set t k v).map (·.1)).Pairwise (· < ·) := by
  induction t with
  | nil => simp [Tab.set]
  | cons e t ih =>
    obtain ⟨j, w⟩ := e
    obtain ⟨h1, h2⟩ := List.pairwise_cons.mp h
    simp only [Tab.set]
    split
    · next e => subst e; exact h
    · split
      · next hlt =>
        refine List.pairwise_cons.mpr ⟨fun x hx => ?_, h⟩
        rcases List.mem_cons.mp hx with rfl | hx
        · exact hlt
        · exact Nat.lt_trans hlt (h1 x hx)
      · next hne hle =>
        refine List.pairwise_cons.mpr ⟨fun x hx => ?_, ih h2⟩
        rcases Tab.keys_set t k v x hx with rfl | hx
        · show j < x; omega
        · exact h1 x hx

theorem Tab.mem_set {α : Type} (t : Tab α) (k : Nat) (v : α) : ∀ e ∈ Tab.set t k v, e = (k, v) ∨ e ∈ t := by
  induction t with
  | nil => simp [Tab.set]
  | cons x t ih =>
    obtain ⟨j, w⟩ := x
    simp only [Tab.set]
    intro e he
    split at he
    · simp at he ⊢; tauto
    · split at he
      · simp at he ⊢; tauto
      · simp only [List.mem_cons] at he ⊢
        rcases he with rfl | he
        · exact .inr (.inl rfl)
        · rcases ih e he with h | h
          · exact .inl h
          · exact .inr (.inr h)

/-- A part of a canonical store is canonical. -/
theorem Store.canon_filter (d : α) (t : Store α) (f : Nat × α → Bool) (h : Store.canon d t = true) :
    Store.canon d (t.filter f) = true := by
  simp only [Store.canon, Bool.and_eq_true, keysRise_iff, List.all_eq_true] at h ⊢
  refine ⟨?_, fun e he => h.2 e (List.mem_filter.mp he).1⟩
  exact h.1.sublist (List.Sublist.map _ (List.filter_sublist))

/-- A write keeps the canonical form. -/
theorem Store.canon_set (d : α) (t : Store α) (k : Nat) (v : α) (h : Store.canon d t = true) :
    Store.canon d (Store.set d t k v) = true := by
  unfold Store.set
  split
  · exact Store.canon_filter d t _ h
  · next hv =>
    simp only [Store.canon, Bool.and_eq_true, keysRise_iff, List.all_eq_true] at h ⊢
    refine ⟨Tab.set_rise t k v h.1, fun e he => ?_⟩
    rcases Tab.mem_set t k v e he with rfl | he
    · simpa using hv
    · exact h.2 e he

@[simp] theorem Store.canon_nil (d : α) : Store.canon d [] = true := rfl

end Store

/-! ### The memory -/

namespace Memory

@[simp] theorem get_set_self (m : Memory) (k : Nat) (b : Byte) : Memory.get (Memory.set m k b) k = b :=
  Store.get_set_self ..
theorem get_set_ne (m : Memory) {k j : Nat} (b : Byte) (h : j ≠ k) : Memory.get (Memory.set m k b) j = Memory.get m j :=
  Store.get_set_ne _ _ _ h

/-- Bytes written from `k` on: what every byte reads after. -/
theorem get_setBytes (m : Memory) (k : Nat) (l : List Byte) (j : Nat) :
    Memory.get (Memory.setBytes m k l) j = if k ≤ j ∧ j < k + l.length then l.getD (j - k) 0 else Memory.get m j := by
  induction l generalizing m k with
  | nil => rw [if_neg (by simp only [List.length_nil]; omega)]; rfl
  | cons b t ih =>
    rw [Memory.setBytes, ih]
    simp only [List.length_cons]
    by_cases h1 : k + 1 ≤ j ∧ j < k + 1 + t.length
    · rw [if_pos h1, if_pos (by omega)]
      obtain ⟨i, rfl⟩ : ∃ i, j = k + 1 + i := ⟨j - (k + 1), by omega⟩
      rw [show k + 1 + i - k = i + 1 by omega, show k + 1 + i - (k + 1) = i by omega, List.getD_cons_succ]
    · rw [if_neg h1]
      by_cases h2 : j = k
      · subst h2; rw [if_pos (by omega)]; simp
      · rw [get_set_ne m b h2, if_neg (by omega)]

/-- A byte outside those written is as before. -/
theorem get_setBytes_out (m : Memory) (k : Nat) (l : List Byte) {j : Nat} (h : j < k ∨ k + l.length ≤ j) :
    Memory.get (Memory.setBytes m k l) j = Memory.get m j := by
  rw [get_setBytes, if_neg (by omega)]

theorem leBytes_length (n x : Nat) : (leBytes n x).length = n := by
  induction n generalizing x with
  | zero => rfl
  | succ n ih => simp [leBytes, ih]

/-- A byte outside a number stored is as before. -/
theorem get_setNum_out (m : Memory) (k n x : Nat) {j : Nat} (h : j < k ∨ k + n ≤ j) :
    Memory.get (Memory.setNum m k n x) j = Memory.get m j :=
  get_setBytes_out m k _ (by rw [leBytes_length]; exact h)

theorem bytes_setBytes_self (m : Memory) (k : Nat) (l : List Byte) :
    Memory.bytes (Memory.setBytes m k l) k l.length = l := by
  have : ∀ (n i : Nat), i + n = l.length → Memory.bytes (Memory.setBytes m k l) (k + i) n = l.drop i := by
    intro n
    induction n with
    | zero => intro i h; have : l.length ≤ i := by omega
              rw [List.drop_of_length_le this]; rfl
    | succ n ih =>
      intro i h
      rw [Memory.bytes, Nat.add_assoc, ih (i + 1) (by omega), get_setBytes, if_pos (by omega), Nat.add_sub_cancel_left]
      have hi : i < l.length := by omega
      rw [List.drop_eq_getElem_cons hi]
      congr 1
      rw [List.getD_eq_getElem?_getD, List.getElem?_eq_getElem hi]; rfl
  have h := this l.length 0 (by omega)
  simpa using h

/-- A range of bytes outside those written is as before. -/
theorem bytes_setBytes_out (m : Memory) (k : Nat) (l : List Byte) (n : Nat) {j : Nat} (h : j + n ≤ k ∨ k + l.length ≤ j) :
    Memory.bytes (Memory.setBytes m k l) j n = Memory.bytes m j n := by
  induction n generalizing j with
  | zero => rfl
  | succ n ih => rw [Memory.bytes, Memory.bytes, ih (by omega), get_setBytes_out m k l (by omega)]

theorem leNat_leBytes (n x : Nat) : leNat (leBytes n x) = x % 256 ^ n := by
  induction n generalizing x with
  | zero => simp [leBytes, leNat, Nat.mod_one]
  | succ n ih =>
    rw [leBytes, leNat, ih, BitVec.toNat_ofNat, show (2 : Nat) ^ 8 = 256 by rfl, Nat.pow_succ, Nat.mul_comm (256 ^ n) 256,
      Nat.mod_mul]

/-- A number stored reads back, modulo its width (R4). -/
theorem num_setNum_self (m : Memory) (k n x : Nat) : Memory.num (Memory.setNum m k n x) k n = x % 256 ^ n := by
  have h := bytes_setBytes_self m k (leBytes n x)
  rw [leBytes_length] at h
  rw [Memory.num, Memory.setNum, h, leNat_leBytes]

@[simp] theorem wf_nil : Memory.wf [] = true := rfl
theorem wf_set {m : Memory} (k : Nat) (b : Byte) (h : m.wf = true) : (Memory.set m k b).wf = true :=
  Store.canon_set _ _ _ _ h
theorem wf_setBytes {m : Memory} (k : Nat) (l : List Byte) (h : m.wf = true) : (Memory.setBytes m k l).wf = true := by
  induction l generalizing m k with
  | nil => exact h
  | cons b t ih => exact ih _ (wf_set k b h)
theorem wf_setNum {m : Memory} (k n x : Nat) (h : m.wf = true) : (Memory.setNum m k n x).wf = true := wf_setBytes _ _ h
theorem wf_filter {m : Memory} (f : Host.Cell → Bool) (h : m.wf = true) : Memory.wf (m.filter f) = true :=
  Store.canon_filter _ _ _ h
theorem wf_clear {m : Memory} (k n : Nat) (h : m.wf = true) : (Memory.clear m k n).wf = true := wf_filter _ h
theorem wf_insertAll {m : Memory} (k : Nat) (l : List (Nat × Byte)) (h : m.wf = true) : (Memory.insertAll m k l).wf = true := by
  induction l generalizing m with
  | nil => exact h
  | cons e t ih => obtain ⟨o, b⟩ := e; exact ih (wf_set _ _ h)

end Memory

/-! ### Signatures -/

theorem beList_length (n x : Nat) : (beList n x).length = n := by
  rw [beList, List.length_reverse, Memory.leBytes_length]

theorem ecdsaSign_length (secret k : Nat) (d : List Byte) : (ecdsaSign secret k d).length = 64 := by
  simp only [ecdsaSign, List.length_append, beList_length]

theorem identitySign_length (d : List Byte) : (identitySign d).length = 64 := ecdsaSign_length _ _ _

/-- A signature of the identity key's own verifies. -/
theorem identityVerify_own (d : List Byte) : identityVerify d (identitySign d) = true := by simp [identityVerify]

end Sys2Proof.Machine
end

