-- ==== Sys2Proof/Laws/State.lean ====
section
/-! SUPPORT. What each update of the state and of a node leaves: one lemma for each field of each update, so that no proof
unfolds a record update. -/

namespace Sys2Proof.Machine

-- One proof at a time: a thread for each would pass the limit of memory.
set_option Elab.async false

/-! ### Fields of the state under each update -/

@[simp] theorem State.setCell_mem (s : State) (p : Nat) (c : Cell) : (s.setCell p c).mem = s.mem := rfl
@[simp] theorem State.setCell_poison (s : State) (p : Nat) (c : Cell) : (s.setCell p c).poison = s.poison := rfl
@[simp] theorem State.setCell_flaws (s : State) (p : Nat) (c : Cell) : (s.setCell p c).flaws = s.flaws := rfl
@[simp] theorem State.setCell_crofts (s : State) (p : Nat) (c : Cell) : (s.setCell p c).crofts = s.crofts := rfl
@[simp] theorem State.setCell_insts (s : State) (p : Nat) (c : Cell) : (s.setCell p c).insts = s.insts := rfl
@[simp] theorem State.setCell_nextInst (s : State) (p : Nat) (c : Cell) : (s.setCell p c).nextInst = s.nextInst := rfl
@[simp] theorem State.setCell_launches (s : State) (p : Nat) (c : Cell) : (s.setCell p c).launches = s.launches := rfl
@[simp] theorem State.setCell_nextLaunch (s : State) (p : Nat) (c : Cell) : (s.setCell p c).nextLaunch = s.nextLaunch := rfl
@[simp] theorem State.setCell_net (s : State) (p : Nat) (c : Cell) : (s.setCell p c).net = s.net := rfl
@[simp] theorem State.setCell_pkg (s : State) (p : Nat) (c : Cell) : (s.setCell p c).pkg = s.pkg := rfl
@[simp] theorem State.setCell_host (s : State) (p : Nat) (c : Cell) : (s.setCell p c).host = s.host := rfl
@[simp] theorem State.setCell_ports (s : State) (p : Nat) (c : Cell) : (s.setCell p c).ports = s.ports := rfl
@[simp] theorem State.setCell_cur (s : State) (p : Nat) (c : Cell) : (s.setCell p c).cur = s.cur := rfl
@[simp] theorem State.setCell_par (s : State) (p : Nat) (c : Cell) : (s.setCell p c).par = s.par := rfl
@[simp] theorem State.setCell_agenda (s : State) (p : Nat) (c : Cell) : (s.setCell p c).agenda = s.agenda := rfl

@[simp] theorem State.setNode_mem (s : State) (p i : Nat) (n : Node) : (s.setNode p i n).mem = s.mem := rfl
@[simp] theorem State.setNode_poison (s : State) (p i : Nat) (n : Node) : (s.setNode p i n).poison = s.poison := rfl
@[simp] theorem State.setNode_flaws (s : State) (p i : Nat) (n : Node) : (s.setNode p i n).flaws = s.flaws := rfl
@[simp] theorem State.setNode_crofts (s : State) (p i : Nat) (n : Node) : (s.setNode p i n).crofts = s.crofts := rfl
@[simp] theorem State.setNode_insts (s : State) (p i : Nat) (n : Node) : (s.setNode p i n).insts = s.insts := rfl
@[simp] theorem State.setNode_nextInst (s : State) (p i : Nat) (n : Node) : (s.setNode p i n).nextInst = s.nextInst := rfl
@[simp] theorem State.setNode_launches (s : State) (p i : Nat) (n : Node) : (s.setNode p i n).launches = s.launches := rfl
@[simp] theorem State.setNode_nextLaunch (s : State) (p i : Nat) (n : Node) : (s.setNode p i n).nextLaunch = s.nextLaunch := rfl
@[simp] theorem State.setNode_net (s : State) (p i : Nat) (n : Node) : (s.setNode p i n).net = s.net := rfl
@[simp] theorem State.setNode_pkg (s : State) (p i : Nat) (n : Node) : (s.setNode p i n).pkg = s.pkg := rfl
@[simp] theorem State.setNode_host (s : State) (p i : Nat) (n : Node) : (s.setNode p i n).host = s.host := rfl
@[simp] theorem State.setNode_ports (s : State) (p i : Nat) (n : Node) : (s.setNode p i n).ports = s.ports := rfl
@[simp] theorem State.setNode_cur (s : State) (p i : Nat) (n : Node) : (s.setNode p i n).cur = s.cur := rfl
@[simp] theorem State.setNode_par (s : State) (p i : Nat) (n : Node) : (s.setNode p i n).par = s.par := rfl
@[simp] theorem State.setNode_agenda (s : State) (p i : Nat) (n : Node) : (s.setNode p i n).agenda = s.agenda := rfl

@[simp] theorem State.setInst_mem (s : State) (k : Nat) (i : Inst) : (s.setInst k i).mem = s.mem := rfl
@[simp] theorem State.setInst_poison (s : State) (k : Nat) (i : Inst) : (s.setInst k i).poison = s.poison := rfl
@[simp] theorem State.setInst_flaws (s : State) (k : Nat) (i : Inst) : (s.setInst k i).flaws = s.flaws := rfl
@[simp] theorem State.setInst_cells (s : State) (k : Nat) (i : Inst) : (s.setInst k i).cells = s.cells := rfl
@[simp] theorem State.setInst_crofts (s : State) (k : Nat) (i : Inst) : (s.setInst k i).crofts = s.crofts := rfl
@[simp] theorem State.setInst_nextInst (s : State) (k : Nat) (i : Inst) : (s.setInst k i).nextInst = s.nextInst := rfl
@[simp] theorem State.setInst_launches (s : State) (k : Nat) (i : Inst) : (s.setInst k i).launches = s.launches := rfl
@[simp] theorem State.setInst_nextLaunch (s : State) (k : Nat) (i : Inst) : (s.setInst k i).nextLaunch = s.nextLaunch := rfl
@[simp] theorem State.setInst_net (s : State) (k : Nat) (i : Inst) : (s.setInst k i).net = s.net := rfl
@[simp] theorem State.setInst_pkg (s : State) (k : Nat) (i : Inst) : (s.setInst k i).pkg = s.pkg := rfl
@[simp] theorem State.setInst_host (s : State) (k : Nat) (i : Inst) : (s.setInst k i).host = s.host := rfl
@[simp] theorem State.setInst_ports (s : State) (k : Nat) (i : Inst) : (s.setInst k i).ports = s.ports := rfl
@[simp] theorem State.setInst_cur (s : State) (k : Nat) (i : Inst) : (s.setInst k i).cur = s.cur := rfl
@[simp] theorem State.setInst_par (s : State) (k : Nat) (i : Inst) : (s.setInst k i).par = s.par := rfl
@[simp] theorem State.setInst_agenda (s : State) (k : Nat) (i : Inst) : (s.setInst k i).agenda = s.agenda := rfl

@[simp] theorem State.setCroft_mem (s : State) (x : Nat) (c : Croft) : (s.setCroft x c).mem = s.mem := rfl
@[simp] theorem State.setCroft_poison (s : State) (x : Nat) (c : Croft) : (s.setCroft x c).poison = s.poison := rfl
@[simp] theorem State.setCroft_flaws (s : State) (x : Nat) (c : Croft) : (s.setCroft x c).flaws = s.flaws := rfl
@[simp] theorem State.setCroft_cells (s : State) (x : Nat) (c : Croft) : (s.setCroft x c).cells = s.cells := rfl
@[simp] theorem State.setCroft_insts (s : State) (x : Nat) (c : Croft) : (s.setCroft x c).insts = s.insts := rfl
@[simp] theorem State.setCroft_nextInst (s : State) (x : Nat) (c : Croft) : (s.setCroft x c).nextInst = s.nextInst := rfl
@[simp] theorem State.setCroft_launches (s : State) (x : Nat) (c : Croft) : (s.setCroft x c).launches = s.launches := rfl
@[simp] theorem State.setCroft_nextLaunch (s : State) (x : Nat) (c : Croft) : (s.setCroft x c).nextLaunch = s.nextLaunch := rfl
@[simp] theorem State.setCroft_net (s : State) (x : Nat) (c : Croft) : (s.setCroft x c).net = s.net := rfl
@[simp] theorem State.setCroft_pkg (s : State) (x : Nat) (c : Croft) : (s.setCroft x c).pkg = s.pkg := rfl
@[simp] theorem State.setCroft_host (s : State) (x : Nat) (c : Croft) : (s.setCroft x c).host = s.host := rfl
@[simp] theorem State.setCroft_ports (s : State) (x : Nat) (c : Croft) : (s.setCroft x c).ports = s.ports := rfl
@[simp] theorem State.setCroft_cur (s : State) (x : Nat) (c : Croft) : (s.setCroft x c).cur = s.cur := rfl
@[simp] theorem State.setCroft_par (s : State) (x : Nat) (c : Croft) : (s.setCroft x c).par = s.par := rfl
@[simp] theorem State.setCroft_agenda (s : State) (x : Nat) (c : Croft) : (s.setCroft x c).agenda = s.agenda := rfl

@[simp] theorem State.setEngine_mem (s : State) (x k : Nat) (e : Engine) : (s.setEngine x k e).mem = s.mem := rfl
@[simp] theorem State.setEngine_poison (s : State) (x k : Nat) (e : Engine) : (s.setEngine x k e).poison = s.poison := rfl
@[simp] theorem State.setEngine_flaws (s : State) (x k : Nat) (e : Engine) : (s.setEngine x k e).flaws = s.flaws := rfl
@[simp] theorem State.setEngine_cells (s : State) (x k : Nat) (e : Engine) : (s.setEngine x k e).cells = s.cells := rfl
@[simp] theorem State.setEngine_insts (s : State) (x k : Nat) (e : Engine) : (s.setEngine x k e).insts = s.insts := rfl
@[simp] theorem State.setEngine_nextInst (s : State) (x k : Nat) (e : Engine) : (s.setEngine x k e).nextInst = s.nextInst := rfl
@[simp] theorem State.setEngine_launches (s : State) (x k : Nat) (e : Engine) : (s.setEngine x k e).launches = s.launches := rfl
@[simp] theorem State.setEngine_nextLaunch (s : State) (x k : Nat) (e : Engine) : (s.setEngine x k e).nextLaunch = s.nextLaunch := rfl
@[simp] theorem State.setEngine_net (s : State) (x k : Nat) (e : Engine) : (s.setEngine x k e).net = s.net := rfl
@[simp] theorem State.setEngine_pkg (s : State) (x k : Nat) (e : Engine) : (s.setEngine x k e).pkg = s.pkg := rfl
@[simp] theorem State.setEngine_host (s : State) (x k : Nat) (e : Engine) : (s.setEngine x k e).host = s.host := rfl
@[simp] theorem State.setEngine_ports (s : State) (x k : Nat) (e : Engine) : (s.setEngine x k e).ports = s.ports := rfl
@[simp] theorem State.setEngine_cur (s : State) (x k : Nat) (e : Engine) : (s.setEngine x k e).cur = s.cur := rfl
@[simp] theorem State.setEngine_par (s : State) (x k : Nat) (e : Engine) : (s.setEngine x k e).par = s.par := rfl
@[simp] theorem State.setEngine_agenda (s : State) (x k : Nat) (e : Engine) : (s.setEngine x k e).agenda = s.agenda := rfl

@[simp] theorem State.setSlot_mem (s : State) (k : Nat) (h : HostSlot) : (s.setSlot k h).mem = s.mem := rfl
@[simp] theorem State.setSlot_poison (s : State) (k : Nat) (h : HostSlot) : (s.setSlot k h).poison = s.poison := rfl
@[simp] theorem State.setSlot_flaws (s : State) (k : Nat) (h : HostSlot) : (s.setSlot k h).flaws = s.flaws := rfl
@[simp] theorem State.setSlot_cells (s : State) (k : Nat) (h : HostSlot) : (s.setSlot k h).cells = s.cells := rfl
@[simp] theorem State.setSlot_crofts (s : State) (k : Nat) (h : HostSlot) : (s.setSlot k h).crofts = s.crofts := rfl
@[simp] theorem State.setSlot_insts (s : State) (k : Nat) (h : HostSlot) : (s.setSlot k h).insts = s.insts := rfl
@[simp] theorem State.setSlot_nextInst (s : State) (k : Nat) (h : HostSlot) : (s.setSlot k h).nextInst = s.nextInst := rfl
@[simp] theorem State.setSlot_launches (s : State) (k : Nat) (h : HostSlot) : (s.setSlot k h).launches = s.launches := rfl
@[simp] theorem State.setSlot_nextLaunch (s : State) (k : Nat) (h : HostSlot) : (s.setSlot k h).nextLaunch = s.nextLaunch := rfl
@[simp] theorem State.setSlot_net (s : State) (k : Nat) (h : HostSlot) : (s.setSlot k h).net = s.net := rfl
@[simp] theorem State.setSlot_pkg (s : State) (k : Nat) (h : HostSlot) : (s.setSlot k h).pkg = s.pkg := rfl
@[simp] theorem State.setSlot_ports (s : State) (k : Nat) (h : HostSlot) : (s.setSlot k h).ports = s.ports := rfl
@[simp] theorem State.setSlot_cur (s : State) (k : Nat) (h : HostSlot) : (s.setSlot k h).cur = s.cur := rfl
@[simp] theorem State.setSlot_par (s : State) (k : Nat) (h : HostSlot) : (s.setSlot k h).par = s.par := rfl
@[simp] theorem State.setSlot_agenda (s : State) (k : Nat) (h : HostSlot) : (s.setSlot k h).agenda = s.agenda := rfl

@[simp] theorem State.setPort_mem (s : State) (k : Nat) (q : Port) : (s.setPort k q).mem = s.mem := rfl
@[simp] theorem State.setPort_poison (s : State) (k : Nat) (q : Port) : (s.setPort k q).poison = s.poison := rfl
@[simp] theorem State.setPort_flaws (s : State) (k : Nat) (q : Port) : (s.setPort k q).flaws = s.flaws := rfl
@[simp] theorem State.setPort_cells (s : State) (k : Nat) (q : Port) : (s.setPort k q).cells = s.cells := rfl
@[simp] theorem State.setPort_crofts (s : State) (k : Nat) (q : Port) : (s.setPort k q).crofts = s.crofts := rfl
@[simp] theorem State.setPort_insts (s : State) (k : Nat) (q : Port) : (s.setPort k q).insts = s.insts := rfl
@[simp] theorem State.setPort_nextInst (s : State) (k : Nat) (q : Port) : (s.setPort k q).nextInst = s.nextInst := rfl
@[simp] theorem State.setPort_launches (s : State) (k : Nat) (q : Port) : (s.setPort k q).launches = s.launches := rfl
@[simp] theorem State.setPort_nextLaunch (s : State) (k : Nat) (q : Port) : (s.setPort k q).nextLaunch = s.nextLaunch := rfl
@[simp] theorem State.setPort_net (s : State) (k : Nat) (q : Port) : (s.setPort k q).net = s.net := rfl
@[simp] theorem State.setPort_pkg (s : State) (k : Nat) (q : Port) : (s.setPort k q).pkg = s.pkg := rfl
@[simp] theorem State.setPort_host (s : State) (k : Nat) (q : Port) : (s.setPort k q).host = s.host := rfl
@[simp] theorem State.setPort_cur (s : State) (k : Nat) (q : Port) : (s.setPort k q).cur = s.cur := rfl
@[simp] theorem State.setPort_par (s : State) (k : Nat) (q : Port) : (s.setPort k q).par = s.par := rfl
@[simp] theorem State.setPort_agenda (s : State) (k : Nat) (q : Port) : (s.setPort k q).agenda = s.agenda := rfl

@[simp] theorem State.setRing_mem (s : State) (d : Nat) (g : Ring) : (s.setRing d g).mem = s.mem := rfl
@[simp] theorem State.setRing_poison (s : State) (d : Nat) (g : Ring) : (s.setRing d g).poison = s.poison := rfl
@[simp] theorem State.setRing_flaws (s : State) (d : Nat) (g : Ring) : (s.setRing d g).flaws = s.flaws := rfl
@[simp] theorem State.setRing_cells (s : State) (d : Nat) (g : Ring) : (s.setRing d g).cells = s.cells := rfl
@[simp] theorem State.setRing_crofts (s : State) (d : Nat) (g : Ring) : (s.setRing d g).crofts = s.crofts := rfl
@[simp] theorem State.setRing_insts (s : State) (d : Nat) (g : Ring) : (s.setRing d g).insts = s.insts := rfl
@[simp] theorem State.setRing_nextInst (s : State) (d : Nat) (g : Ring) : (s.setRing d g).nextInst = s.nextInst := rfl
@[simp] theorem State.setRing_launches (s : State) (d : Nat) (g : Ring) : (s.setRing d g).launches = s.launches := rfl
@[simp] theorem State.setRing_nextLaunch (s : State) (d : Nat) (g : Ring) : (s.setRing d g).nextLaunch = s.nextLaunch := rfl
@[simp] theorem State.setRing_net (s : State) (d : Nat) (g : Ring) : (s.setRing d g).net = s.net := rfl
@[simp] theorem State.setRing_host (s : State) (d : Nat) (g : Ring) : (s.setRing d g).host = s.host := rfl
@[simp] theorem State.setRing_ports (s : State) (d : Nat) (g : Ring) : (s.setRing d g).ports = s.ports := rfl
@[simp] theorem State.setRing_cur (s : State) (d : Nat) (g : Ring) : (s.setRing d g).cur = s.cur := rfl
@[simp] theorem State.setRing_par (s : State) (d : Nat) (g : Ring) : (s.setRing d g).par = s.par := rfl
@[simp] theorem State.setRing_agenda (s : State) (d : Nat) (g : Ring) : (s.setRing d g).agenda = s.agenda := rfl

@[simp] theorem State.setIsland_mem (s : State) (i : Nat) (x : Island) : (s.setIsland i x).mem = s.mem := rfl
@[simp] theorem State.setIsland_poison (s : State) (i : Nat) (x : Island) : (s.setIsland i x).poison = s.poison := rfl
@[simp] theorem State.setIsland_flaws (s : State) (i : Nat) (x : Island) : (s.setIsland i x).flaws = s.flaws := rfl
@[simp] theorem State.setIsland_cells (s : State) (i : Nat) (x : Island) : (s.setIsland i x).cells = s.cells := rfl
@[simp] theorem State.setIsland_crofts (s : State) (i : Nat) (x : Island) : (s.setIsland i x).crofts = s.crofts := rfl
@[simp] theorem State.setIsland_insts (s : State) (i : Nat) (x : Island) : (s.setIsland i x).insts = s.insts := rfl
@[simp] theorem State.setIsland_nextInst (s : State) (i : Nat) (x : Island) : (s.setIsland i x).nextInst = s.nextInst := rfl
@[simp] theorem State.setIsland_launches (s : State) (i : Nat) (x : Island) : (s.setIsland i x).launches = s.launches := rfl
@[simp] theorem State.setIsland_nextLaunch (s : State) (i : Nat) (x : Island) : (s.setIsland i x).nextLaunch = s.nextLaunch := rfl
@[simp] theorem State.setIsland_net (s : State) (i : Nat) (x : Island) : (s.setIsland i x).net = s.net := rfl
@[simp] theorem State.setIsland_host (s : State) (i : Nat) (x : Island) : (s.setIsland i x).host = s.host := rfl
@[simp] theorem State.setIsland_ports (s : State) (i : Nat) (x : Island) : (s.setIsland i x).ports = s.ports := rfl
@[simp] theorem State.setIsland_cur (s : State) (i : Nat) (x : Island) : (s.setIsland i x).cur = s.cur := rfl
@[simp] theorem State.setIsland_par (s : State) (i : Nat) (x : Island) : (s.setIsland i x).par = s.par := rfl
@[simp] theorem State.setIsland_agenda (s : State) (i : Nat) (x : Island) : (s.setIsland i x).agenda = s.agenda := rfl

@[simp] theorem State.reportTo_mem (s : State) (d : Nat) (r : Report) : (s.reportTo d r).mem = s.mem := rfl
@[simp] theorem State.reportTo_poison (s : State) (d : Nat) (r : Report) : (s.reportTo d r).poison = s.poison := rfl
@[simp] theorem State.reportTo_flaws (s : State) (d : Nat) (r : Report) : (s.reportTo d r).flaws = s.flaws := rfl
@[simp] theorem State.reportTo_cells (s : State) (d : Nat) (r : Report) : (s.reportTo d r).cells = s.cells := rfl
@[simp] theorem State.reportTo_crofts (s : State) (d : Nat) (r : Report) : (s.reportTo d r).crofts = s.crofts := rfl
@[simp] theorem State.reportTo_insts (s : State) (d : Nat) (r : Report) : (s.reportTo d r).insts = s.insts := rfl
@[simp] theorem State.reportTo_nextInst (s : State) (d : Nat) (r : Report) : (s.reportTo d r).nextInst = s.nextInst := rfl
@[simp] theorem State.reportTo_launches (s : State) (d : Nat) (r : Report) : (s.reportTo d r).launches = s.launches := rfl
@[simp] theorem State.reportTo_nextLaunch (s : State) (d : Nat) (r : Report) : (s.reportTo d r).nextLaunch = s.nextLaunch := rfl
@[simp] theorem State.reportTo_net (s : State) (d : Nat) (r : Report) : (s.reportTo d r).net = s.net := rfl
@[simp] theorem State.reportTo_host (s : State) (d : Nat) (r : Report) : (s.reportTo d r).host = s.host := rfl
@[simp] theorem State.reportTo_ports (s : State) (d : Nat) (r : Report) : (s.reportTo d r).ports = s.ports := rfl
@[simp] theorem State.reportTo_cur (s : State) (d : Nat) (r : Report) : (s.reportTo d r).cur = s.cur := rfl
@[simp] theorem State.reportTo_par (s : State) (d : Nat) (r : Report) : (s.reportTo d r).par = s.par := rfl
@[simp] theorem State.reportTo_agenda (s : State) (d : Nat) (r : Report) : (s.reportTo d r).agenda = s.agenda := rfl

/-! ### What is read back -/

@[simp] theorem State.cell_setCell_self (s : State) (p : Nat) (c : Cell) : (s.setCell p c).cell p = c := Tab.getD_set_self _ _ _ _
theorem State.cell_setCell_ne (s : State) {p q : Nat} (c : Cell) (h : q ≠ p) : (s.setCell p c).cell q = s.cell q :=
  Tab.getD_set_ne _ _ _ h
@[simp] theorem State.cell_setNode_self (s : State) (p i : Nat) (n : Node) :
    (s.setNode p i n).cell p = (s.cell p).setNode i n := State.cell_setCell_self _ _ _
theorem State.cell_setNode_ne (s : State) {p q : Nat} (i : Nat) (n : Node) (h : q ≠ p) :
    (s.setNode p i n).cell q = s.cell q := State.cell_setCell_ne _ _ h
@[simp] theorem Cell.node?_setNode_self (c : Cell) (i : Nat) (n : Node) : (c.setNode i n).node? i = some n :=
  Tab.get?_set_self _ _ _
theorem Cell.node?_setNode_ne (c : Cell) {i j : Nat} (n : Node) (h : j ≠ i) : (c.setNode i n).node? j = c.node? j :=
  Tab.get?_set_ne _ _ h
@[simp] theorem State.node?_setNode_self (s : State) (p i : Nat) (n : Node) : (s.setNode p i n).node? p i = some n := by
  simp [State.node?]
theorem State.node?_setNode_slot (s : State) (p : Nat) {i j : Nat} (n : Node) (h : j ≠ i) :
    (s.setNode p i n).node? p j = s.node? p j := by
  simp [State.node?, Cell.node?_setNode_ne _ _ h]
theorem State.node?_setNode_cell (s : State) {p q : Nat} (i j : Nat) (n : Node) (h : q ≠ p) :
    (s.setNode p i n).node? q j = s.node? q j := by
  simp [State.node?, State.cell_setNode_ne _ _ _ h]
theorem State.node?_setCell (s : State) (p i : Nat) (c : Cell) : (s.setCell p c).node? p i = c.node? i := by
  simp [State.node?]
@[simp] theorem State.inst?_setInst_self (s : State) (k : Nat) (i : Inst) : (s.setInst k i).inst? k = some i :=
  Tab.get?_set_self _ _ _
theorem State.inst?_setInst_ne (s : State) {k j : Nat} (i : Inst) (h : j ≠ k) : (s.setInst k i).inst? j = s.inst? j :=
  Tab.get?_set_ne _ _ h
@[simp] theorem State.croft_setCroft_self (s : State) (x : Nat) (c : Croft) : (s.setCroft x c).croft x = c :=
  Tab.getD_set_self _ _ _ _
theorem State.croft_setCroft_ne (s : State) {x y : Nat} (c : Croft) (h : y ≠ x) : (s.setCroft x c).croft y = s.croft y :=
  Tab.getD_set_ne _ _ _ h
@[simp] theorem State.slot_setSlot_self (s : State) (k : Nat) (h : HostSlot) : (s.setSlot k h).slot k = h :=
  Tab.getD_set_self _ _ _ _
@[simp] theorem State.port_setPort_self (s : State) (k : Nat) (q : Port) : (s.setPort k q).port k = q :=
  Tab.getD_set_self _ _ _ _
theorem State.port_setPort_ne (s : State) {k j : Nat} (q : Port) (h : j ≠ k) : (s.setPort k q).port j = s.port j :=
  Tab.getD_set_ne _ _ _ h
@[simp] theorem State.ring_setRing_self (s : State) (d : Nat) (g : Ring) : (s.setRing d g).ring d = g :=
  Tab.getD_set_self _ _ _ _
theorem State.ring_setRing_ne (s : State) {d e : Nat} (g : Ring) (h : e ≠ d) : (s.setRing d g).ring e = s.ring e :=
  Tab.getD_set_ne _ _ _ h
@[simp] theorem State.ring_reportTo_self (s : State) (d : Nat) (r : Report) :
    (s.reportTo d r).ring d = { s.ring d with pending := (s.ring d).pending ++ [r] } := Tab.getD_set_self _ _ _ _
@[simp] theorem State.island_setIsland_self (s : State) (i : Nat) (x : Island) : (s.setIsland i x).island i = x :=
  Tab.getD_set_self _ _ _ _
@[simp] theorem State.engine_setEngine_self (s : State) (x k : Nat) (e : Engine) : (s.setEngine x k e).engine x k = e := by
  simp [State.engine, State.setEngine]
theorem State.engine_setEngine_ne (s : State) (x : Nat) {k j : Nat} (e : Engine) (h : j ≠ k) :
    (s.setEngine x k e).engine x j = s.engine x j := by
  simp [State.engine, State.setEngine, Tab.getD_set_ne _ _ _ h]

/-! ### Fields of a node's cell under a node's update -/

@[simp] theorem Cell.setNode_cyc (c : Cell) (i : Nat) (n : Node) : (c.setNode i n).cyc = c.cyc := rfl
@[simp] theorem Cell.setNode_inst (c : Cell) (i : Nat) (n : Node) : (c.setNode i n).inst = c.inst := rfl
@[simp] theorem Cell.setNode_lcell (c : Cell) (i : Nat) (n : Node) : (c.setNode i n).lcell = c.lcell := rfl
@[simp] theorem Cell.setNode_codeOff (c : Cell) (i : Nat) (n : Node) : (c.setNode i n).codeOff = c.codeOff := rfl
@[simp] theorem Cell.setNode_codeLen (c : Cell) (i : Nat) (n : Node) : (c.setNode i n).codeLen = c.codeLen := rfl
@[simp] theorem Cell.setNode_codeTag (c : Cell) (i : Nat) (n : Node) : (c.setNode i n).codeTag = c.codeTag := rfl
@[simp] theorem Cell.setNode_running (c : Cell) (i : Nat) (n : Node) : (c.setNode i n).running = c.running := rfl
@[simp] theorem Cell.setNode_rr (c : Cell) (i : Nat) (n : Node) : (c.setNode i n).rr = c.rr := rfl
@[simp] theorem Cell.setNode_isSealed (c : Cell) (i : Nat) (n : Node) : (c.setNode i n).isSealed = c.isSealed := rfl
@[simp] theorem Cell.setNode_regErr (c : Cell) (i : Nat) (n : Node) : (c.setNode i n).regErr = c.regErr := rfl
@[simp] theorem Cell.setNode_secnt (c : Cell) (i : Nat) (n : Node) : (c.setNode i n).secnt = c.secnt := rfl
@[simp] theorem Cell.setNode_thresholds (c : Cell) (i : Nat) (n : Node) : (c.setNode i n).thresholds = c.thresholds := rfl
@[simp] theorem Cell.setNode_sealsOn (c : Cell) (i : Nat) (n : Node) : (c.setNode i n).sealsOn = c.sealsOn := rfl
@[simp] theorem Cell.setNode_discarded (c : Cell) (i : Nat) (n : Node) : (c.setNode i n).discarded = c.discarded := rfl
@[simp] theorem Cell.setNode_wear (c : Cell) (i : Nat) (n : Node) : (c.setNode i n).wear = c.wear := rfl
@[simp] theorem Cell.setNode_soft (c : Cell) (i : Nat) (n : Node) : (c.setNode i n).soft = c.soft := rfl

/-! ### Fields of a node under register writes, releases and owed results -/

@[simp] theorem Node.write_stt (n : Node) (w : RegWrite) : (n.write w).stt = n.stt := by
  unfold Node.write; split <;> (try split) <;> rfl
@[simp] theorem Node.write_gen (n : Node) (w : RegWrite) : (n.write w).gen = n.gen := by
  unfold Node.write; split <;> (try split) <;> rfl
@[simp] theorem Node.write_ordinal (n : Node) (w : RegWrite) : (n.write w).ordinal = n.ordinal := by
  unfold Node.write; split <;> (try split) <;> rfl
@[simp] theorem Node.write_prio (n : Node) (w : RegWrite) : (n.write w).prio = n.prio := by
  unfold Node.write; split <;> (try split) <;> rfl
@[simp] theorem Node.write_notv (n : Node) (w : RegWrite) : (n.write w).notv = n.notv := by
  unfold Node.write; split <;> (try split) <;> rfl
@[simp] theorem Node.write_base (n : Node) (w : RegWrite) : (n.write w).base = n.base := by
  unfold Node.write; split <;> (try split) <;> rfl
@[simp] theorem Node.write_size (n : Node) (w : RegWrite) : (n.write w).size = n.size := by
  unfold Node.write; split <;> (try split) <;> rfl
@[simp] theorem Node.write_dPend (n : Node) (w : RegWrite) : (n.write w).dPend = n.dPend := by
  unfold Node.write; split <;> (try split) <;> rfl
@[simp] theorem Node.write_dComm (n : Node) (w : RegWrite) : (n.write w).dComm = n.dComm := by
  unfold Node.write; split <;> (try split) <;> rfl
@[simp] theorem Node.write_dWritten (n : Node) (w : RegWrite) : (n.write w).dWritten = n.dWritten := by
  unfold Node.write; split <;> (try split) <;> rfl
@[simp] theorem Node.write_nctl (n : Node) (w : RegWrite) : (n.write w).nctl = n.nctl := by
  unfold Node.write; split <;> (try split) <;> rfl
@[simp] theorem Node.write_flags (n : Node) (w : RegWrite) : (n.write w).flags = n.flags := by
  unfold Node.write; split <;> (try split) <;> rfl
@[simp] theorem Node.write_inTrap (n : Node) (w : RegWrite) : (n.write w).inTrap = n.inTrap := by
  unfold Node.write; split <;> (try split) <;> rfl
@[simp] theorem Node.write_tcause (n : Node) (w : RegWrite) : (n.write w).tcause = n.tcause := by
  unfold Node.write; split <;> (try split) <;> rfl
@[simp] theorem Node.write_tip (n : Node) (w : RegWrite) : (n.write w).tip = n.tip := by
  unfold Node.write; split <;> (try split) <;> rfl
@[simp] theorem Node.write_taddr (n : Node) (w : RegWrite) : (n.write w).taddr = n.taddr := by
  unfold Node.write; split <;> (try split) <;> rfl
@[simp] theorem Node.write_tvec (n : Node) (w : RegWrite) : (n.write w).tvec = n.tvec := by
  unfold Node.write; split <;> (try split) <;> rfl
@[simp] theorem Node.write_wstk (n : Node) (w : RegWrite) : (n.write w).wstk = n.wstk := by
  unfold Node.write; split <;> (try split) <;> rfl
@[simp] theorem Node.write_wlim (n : Node) (w : RegWrite) : (n.write w).wlim = n.wlim := by
  unfold Node.write; split <;> (try split) <;> rfl
@[simp] theorem Node.write_cur (n : Node) (w : RegWrite) : (n.write w).cur = n.cur := by
  unfold Node.write; split <;> (try split) <;> rfl
@[simp] theorem Node.write_res (n : Node) (w : RegWrite) : (n.write w).res = n.res := by
  unfold Node.write; split <;> (try split) <;> rfl
@[simp] theorem Node.write_spilled (n : Node) (w : RegWrite) : (n.write w).spilled = n.spilled := by
  unfold Node.write; split <;> (try split) <;> rfl
@[simp] theorem Node.write_loopc (n : Node) (w : RegWrite) : (n.write w).loopc = n.loopc := by
  unfold Node.write; split <;> (try split) <;> rfl
@[simp] theorem Node.write_loops (n : Node) (w : RegWrite) : (n.write w).loops = n.loops := by
  unfold Node.write; split <;> (try split) <;> rfl
@[simp] theorem Node.write_loope (n : Node) (w : RegWrite) : (n.write w).loope = n.loope := by
  unfold Node.write; split <;> (try split) <;> rfl
@[simp] theorem Node.write_tloopc (n : Node) (w : RegWrite) : (n.write w).tloopc = n.tloopc := by
  unfold Node.write; split <;> (try split) <;> rfl
@[simp] theorem Node.write_tloops (n : Node) (w : RegWrite) : (n.write w).tloops = n.tloops := by
  unfold Node.write; split <;> (try split) <;> rfl
@[simp] theorem Node.write_tloope (n : Node) (w : RegWrite) : (n.write w).tloope = n.tloope := by
  unfold Node.write; split <;> (try split) <;> rfl
@[simp] theorem Node.write_param (n : Node) (w : RegWrite) : (n.write w).param = n.param := by
  unfold Node.write; split <;> (try split) <;> rfl
@[simp] theorem Node.write_bka (n : Node) (w : RegWrite) : (n.write w).bka = n.bka := by
  unfold Node.write; split <;> (try split) <;> rfl
@[simp] theorem Node.write_wpa (n : Node) (w : RegWrite) : (n.write w).wpa = n.wpa := by
  unfold Node.write; split <;> (try split) <;> rfl
@[simp] theorem Node.write_dbgc (n : Node) (w : RegWrite) : (n.write w).dbgc = n.dbgc := by
  unfold Node.write; split <;> (try split) <;> rfl
@[simp] theorem Node.write_high (n : Node) (w : RegWrite) : (n.write w).high = n.high := by
  unfold Node.write; split <;> (try split) <;> rfl
@[simp] theorem Node.write_pc (n : Node) (w : RegWrite) : (n.write w).pc = n.pc := by
  unfold Node.write; split <;> (try split) <;> rfl
@[simp] theorem Node.write_hints (n : Node) (w : RegWrite) : (n.write w).hints = n.hints := by
  unfold Node.write; split <;> (try split) <;> rfl
@[simp] theorem Node.write_issueAt (n : Node) (w : RegWrite) : (n.write w).issueAt = n.issueAt := by
  unfold Node.write; split <;> (try split) <;> rfl
@[simp] theorem Node.write_fixed (n : Node) (w : RegWrite) : (n.write w).fixed = n.fixed := by
  unfold Node.write; split <;> (try split) <;> rfl
@[simp] theorem Node.write_owed (n : Node) (w : RegWrite) : (n.write w).owed = n.owed := by
  unfold Node.write; split <;> (try split) <;> rfl
@[simp] theorem Node.write_tok (n : Node) (w : RegWrite) : (n.write w).tok = n.tok := by
  unfold Node.write; split <;> (try split) <;> rfl
@[simp] theorem Node.write_pend (n : Node) (w : RegWrite) : (n.write w).pend = n.pend := by
  unfold Node.write; split <;> (try split) <;> rfl
@[simp] theorem Node.write_bkSkip (n : Node) (w : RegWrite) : (n.write w).bkSkip = n.bkSkip := by
  unfold Node.write; split <;> (try split) <;> rfl
@[simp] theorem Node.write_begun (n : Node) (w : RegWrite) : (n.write w).begun = n.begun := by
  unfold Node.write; split <;> (try split) <;> rfl
@[simp] theorem Node.write_made (n : Node) (w : RegWrite) : (n.write w).made = n.made := by
  unfold Node.write; split <;> (try split) <;> rfl
@[simp] theorem Node.write_settled (n : Node) (w : RegWrite) : (n.write w).settled = n.settled := by
  unfold Node.write; split <;> (try split) <;> rfl
@[simp] theorem Node.write_offer (n : Node) (w : RegWrite) : (n.write w).offer = n.offer := by
  unfold Node.write; split <;> (try split) <;> rfl
@[simp] theorem Node.write_wait (n : Node) (w : RegWrite) : (n.write w).wait = n.wait := by
  unfold Node.write; split <;> (try split) <;> rfl
@[simp] theorem Node.write_resolved (n : Node) (w : RegWrite) : (n.write w).resolved = n.resolved := by
  unfold Node.write; split <;> (try split) <;> rfl
@[simp] theorem Node.write_delay (n : Node) (w : RegWrite) : (n.write w).delay = n.delay := by
  unfold Node.write; split <;> (try split) <;> rfl
@[simp] theorem Node.write_pauseN (n : Node) (w : RegWrite) : (n.write w).pauseN = n.pauseN := by
  unfold Node.write; split <;> (try split) <;> rfl
@[simp] theorem Node.write_sleep (n : Node) (w : RegWrite) : (n.write w).sleep = n.sleep := by
  unfold Node.write; split <;> (try split) <;> rfl
@[simp] theorem Node.write_grows (n : Node) (w : RegWrite) : (n.write w).grows = n.grows := by
  unfold Node.write; split <;> (try split) <;> rfl
@[simp] theorem Node.write_heldFor (n : Node) (w : RegWrite) : (n.write w).heldFor = n.heldFor := by
  unfold Node.write; split <;> (try split) <;> rfl
@[simp] theorem Node.write_overrun (n : Node) (w : RegWrite) : (n.write w).overrun = n.overrun := by
  unfold Node.write; split <;> (try split) <;> rfl
@[simp] theorem Node.writeReg_stt (n : Node) (r : RegName) (v : RegVal) : (n.writeReg r v).stt = n.stt := by
  unfold Node.writeReg; split <;> simp
@[simp] theorem Node.writeReg_gen (n : Node) (r : RegName) (v : RegVal) : (n.writeReg r v).gen = n.gen := by
  unfold Node.writeReg; split <;> simp
@[simp] theorem Node.writeReg_ordinal (n : Node) (r : RegName) (v : RegVal) : (n.writeReg r v).ordinal = n.ordinal := by
  unfold Node.writeReg; split <;> simp
@[simp] theorem Node.writeReg_prio (n : Node) (r : RegName) (v : RegVal) : (n.writeReg r v).prio = n.prio := by
  unfold Node.writeReg; split <;> simp
@[simp] theorem Node.writeReg_notv (n : Node) (r : RegName) (v : RegVal) : (n.writeReg r v).notv = n.notv := by
  unfold Node.writeReg; split <;> simp
@[simp] theorem Node.writeReg_base (n : Node) (r : RegName) (v : RegVal) : (n.writeReg r v).base = n.base := by
  unfold Node.writeReg; split <;> simp
@[simp] theorem Node.writeReg_size (n : Node) (r : RegName) (v : RegVal) : (n.writeReg r v).size = n.size := by
  unfold Node.writeReg; split <;> simp
@[simp] theorem Node.writeReg_dPend (n : Node) (r : RegName) (v : RegVal) : (n.writeReg r v).dPend = n.dPend := by
  unfold Node.writeReg; split <;> simp
@[simp] theorem Node.writeReg_dComm (n : Node) (r : RegName) (v : RegVal) : (n.writeReg r v).dComm = n.dComm := by
  unfold Node.writeReg; split <;> simp
@[simp] theorem Node.writeReg_dWritten (n : Node) (r : RegName) (v : RegVal) : (n.writeReg r v).dWritten = n.dWritten := by
  unfold Node.writeReg; split <;> simp
@[simp] theorem Node.writeReg_nctl (n : Node) (r : RegName) (v : RegVal) : (n.writeReg r v).nctl = n.nctl := by
  unfold Node.writeReg; split <;> simp
@[simp] theorem Node.writeReg_flags (n : Node) (r : RegName) (v : RegVal) : (n.writeReg r v).flags = n.flags := by
  unfold Node.writeReg; split <;> simp
@[simp] theorem Node.writeReg_inTrap (n : Node) (r : RegName) (v : RegVal) : (n.writeReg r v).inTrap = n.inTrap := by
  unfold Node.writeReg; split <;> simp
@[simp] theorem Node.writeReg_tcause (n : Node) (r : RegName) (v : RegVal) : (n.writeReg r v).tcause = n.tcause := by
  unfold Node.writeReg; split <;> simp
@[simp] theorem Node.writeReg_tip (n : Node) (r : RegName) (v : RegVal) : (n.writeReg r v).tip = n.tip := by
  unfold Node.writeReg; split <;> simp
@[simp] theorem Node.writeReg_taddr (n : Node) (r : RegName) (v : RegVal) : (n.writeReg r v).taddr = n.taddr := by
  unfold Node.writeReg; split <;> simp
@[simp] theorem Node.writeReg_tvec (n : Node) (r : RegName) (v : RegVal) : (n.writeReg r v).tvec = n.tvec := by
  unfold Node.writeReg; split <;> simp
@[simp] theorem Node.writeReg_wstk (n : Node) (r : RegName) (v : RegVal) : (n.writeReg r v).wstk = n.wstk := by
  unfold Node.writeReg; split <;> simp
@[simp] theorem Node.writeReg_wlim (n : Node) (r : RegName) (v : RegVal) : (n.writeReg r v).wlim = n.wlim := by
  unfold Node.writeReg; split <;> simp
@[simp] theorem Node.writeReg_cur (n : Node) (r : RegName) (v : RegVal) : (n.writeReg r v).cur = n.cur := by
  unfold Node.writeReg; split <;> simp
@[simp] theorem Node.writeReg_res (n : Node) (r : RegName) (v : RegVal) : (n.writeReg r v).res = n.res := by
  unfold Node.writeReg; split <;> simp
@[simp] theorem Node.writeReg_spilled (n : Node) (r : RegName) (v : RegVal) : (n.writeReg r v).spilled = n.spilled := by
  unfold Node.writeReg; split <;> simp
@[simp] theorem Node.writeReg_loopc (n : Node) (r : RegName) (v : RegVal) : (n.writeReg r v).loopc = n.loopc := by
  unfold Node.writeReg; split <;> simp
@[simp] theorem Node.writeReg_loops (n : Node) (r : RegName) (v : RegVal) : (n.writeReg r v).loops = n.loops := by
  unfold Node.writeReg; split <;> simp
@[simp] theorem Node.writeReg_loope (n : Node) (r : RegName) (v : RegVal) : (n.writeReg r v).loope = n.loope := by
  unfold Node.writeReg; split <;> simp
@[simp] theorem Node.writeReg_tloopc (n : Node) (r : RegName) (v : RegVal) : (n.writeReg r v).tloopc = n.tloopc := by
  unfold Node.writeReg; split <;> simp
@[simp] theorem Node.writeReg_tloops (n : Node) (r : RegName) (v : RegVal) : (n.writeReg r v).tloops = n.tloops := by
  unfold Node.writeReg; split <;> simp
@[simp] theorem Node.writeReg_tloope (n : Node) (r : RegName) (v : RegVal) : (n.writeReg r v).tloope = n.tloope := by
  unfold Node.writeReg; split <;> simp
@[simp] theorem Node.writeReg_param (n : Node) (r : RegName) (v : RegVal) : (n.writeReg r v).param = n.param := by
  unfold Node.writeReg; split <;> simp
@[simp] theorem Node.writeReg_bka (n : Node) (r : RegName) (v : RegVal) : (n.writeReg r v).bka = n.bka := by
  unfold Node.writeReg; split <;> simp
@[simp] theorem Node.writeReg_wpa (n : Node) (r : RegName) (v : RegVal) : (n.writeReg r v).wpa = n.wpa := by
  unfold Node.writeReg; split <;> simp
@[simp] theorem Node.writeReg_dbgc (n : Node) (r : RegName) (v : RegVal) : (n.writeReg r v).dbgc = n.dbgc := by
  unfold Node.writeReg; split <;> simp
@[simp] theorem Node.writeReg_high (n : Node) (r : RegName) (v : RegVal) : (n.writeReg r v).high = n.high := by
  unfold Node.writeReg; split <;> simp
@[simp] theorem Node.writeReg_pc (n : Node) (r : RegName) (v : RegVal) : (n.writeReg r v).pc = n.pc := by
  unfold Node.writeReg; split <;> simp
@[simp] theorem Node.writeReg_hints (n : Node) (r : RegName) (v : RegVal) : (n.writeReg r v).hints = n.hints := by
  unfold Node.writeReg; split <;> simp
@[simp] theorem Node.writeReg_issueAt (n : Node) (r : RegName) (v : RegVal) : (n.writeReg r v).issueAt = n.issueAt := by
  unfold Node.writeReg; split <;> simp
@[simp] theorem Node.writeReg_fixed (n : Node) (r : RegName) (v : RegVal) : (n.writeReg r v).fixed = n.fixed := by
  unfold Node.writeReg; split <;> simp
@[simp] theorem Node.writeReg_owed (n : Node) (r : RegName) (v : RegVal) : (n.writeReg r v).owed = n.owed := by
  unfold Node.writeReg; split <;> simp
@[simp] theorem Node.writeReg_tok (n : Node) (r : RegName) (v : RegVal) : (n.writeReg r v).tok = n.tok := by
  unfold Node.writeReg; split <;> simp
@[simp] theorem Node.writeReg_pend (n : Node) (r : RegName) (v : RegVal) : (n.writeReg r v).pend = n.pend := by
  unfold Node.writeReg; split <;> simp
@[simp] theorem Node.writeReg_bkSkip (n : Node) (r : RegName) (v : RegVal) : (n.writeReg r v).bkSkip = n.bkSkip := by
  unfold Node.writeReg; split <;> simp
@[simp] theorem Node.writeReg_begun (n : Node) (r : RegName) (v : RegVal) : (n.writeReg r v).begun = n.begun := by
  unfold Node.writeReg; split <;> simp
@[simp] theorem Node.writeReg_made (n : Node) (r : RegName) (v : RegVal) : (n.writeReg r v).made = n.made := by
  unfold Node.writeReg; split <;> simp
@[simp] theorem Node.writeReg_settled (n : Node) (r : RegName) (v : RegVal) : (n.writeReg r v).settled = n.settled := by
  unfold Node.writeReg; split <;> simp
@[simp] theorem Node.writeReg_offer (n : Node) (r : RegName) (v : RegVal) : (n.writeReg r v).offer = n.offer := by
  unfold Node.writeReg; split <;> simp
@[simp] theorem Node.writeReg_wait (n : Node) (r : RegName) (v : RegVal) : (n.writeReg r v).wait = n.wait := by
  unfold Node.writeReg; split <;> simp
@[simp] theorem Node.writeReg_resolved (n : Node) (r : RegName) (v : RegVal) : (n.writeReg r v).resolved = n.resolved := by
  unfold Node.writeReg; split <;> simp
@[simp] theorem Node.writeReg_delay (n : Node) (r : RegName) (v : RegVal) : (n.writeReg r v).delay = n.delay := by
  unfold Node.writeReg; split <;> simp
@[simp] theorem Node.writeReg_pauseN (n : Node) (r : RegName) (v : RegVal) : (n.writeReg r v).pauseN = n.pauseN := by
  unfold Node.writeReg; split <;> simp
@[simp] theorem Node.writeReg_sleep (n : Node) (r : RegName) (v : RegVal) : (n.writeReg r v).sleep = n.sleep := by
  unfold Node.writeReg; split <;> simp
@[simp] theorem Node.writeReg_grows (n : Node) (r : RegName) (v : RegVal) : (n.writeReg r v).grows = n.grows := by
  unfold Node.writeReg; split <;> simp
@[simp] theorem Node.writeReg_heldFor (n : Node) (r : RegName) (v : RegVal) : (n.writeReg r v).heldFor = n.heldFor := by
  unfold Node.writeReg; split <;> simp
@[simp] theorem Node.writeReg_overrun (n : Node) (r : RegName) (v : RegVal) : (n.writeReg r v).overrun = n.overrun := by
  unfold Node.writeReg; split <;> simp
@[simp] theorem Node.release_stt (n : Node) (l : Loc) : (n.release l).stt = n.stt := by
  unfold Node.release; split <;> (try split) <;> rfl
@[simp] theorem Node.release_gen (n : Node) (l : Loc) : (n.release l).gen = n.gen := by
  unfold Node.release; split <;> (try split) <;> rfl
@[simp] theorem Node.release_ordinal (n : Node) (l : Loc) : (n.release l).ordinal = n.ordinal := by
  unfold Node.release; split <;> (try split) <;> rfl
@[simp] theorem Node.release_prio (n : Node) (l : Loc) : (n.release l).prio = n.prio := by
  unfold Node.release; split <;> (try split) <;> rfl
@[simp] theorem Node.release_notv (n : Node) (l : Loc) : (n.release l).notv = n.notv := by
  unfold Node.release; split <;> (try split) <;> rfl
@[simp] theorem Node.release_base (n : Node) (l : Loc) : (n.release l).base = n.base := by
  unfold Node.release; split <;> (try split) <;> rfl
@[simp] theorem Node.release_size (n : Node) (l : Loc) : (n.release l).size = n.size := by
  unfold Node.release; split <;> (try split) <;> rfl
@[simp] theorem Node.release_a (n : Node) (l : Loc) : (n.release l).a = n.a := by
  unfold Node.release; split <;> (try split) <;> rfl
@[simp] theorem Node.release_p (n : Node) (l : Loc) : (n.release l).p = n.p := by
  unfold Node.release; split <;> (try split) <;> rfl
@[simp] theorem Node.release_dPend (n : Node) (l : Loc) : (n.release l).dPend = n.dPend := by
  unfold Node.release; split <;> (try split) <;> rfl
@[simp] theorem Node.release_dComm (n : Node) (l : Loc) : (n.release l).dComm = n.dComm := by
  unfold Node.release; split <;> (try split) <;> rfl
@[simp] theorem Node.release_dWritten (n : Node) (l : Loc) : (n.release l).dWritten = n.dWritten := by
  unfold Node.release; split <;> (try split) <;> rfl
@[simp] theorem Node.release_nctl (n : Node) (l : Loc) : (n.release l).nctl = n.nctl := by
  unfold Node.release; split <;> (try split) <;> rfl
@[simp] theorem Node.release_flags (n : Node) (l : Loc) : (n.release l).flags = n.flags := by
  unfold Node.release; split <;> (try split) <;> rfl
@[simp] theorem Node.release_inTrap (n : Node) (l : Loc) : (n.release l).inTrap = n.inTrap := by
  unfold Node.release; split <;> (try split) <;> rfl
@[simp] theorem Node.release_tcause (n : Node) (l : Loc) : (n.release l).tcause = n.tcause := by
  unfold Node.release; split <;> (try split) <;> rfl
@[simp] theorem Node.release_tip (n : Node) (l : Loc) : (n.release l).tip = n.tip := by
  unfold Node.release; split <;> (try split) <;> rfl
@[simp] theorem Node.release_taddr (n : Node) (l : Loc) : (n.release l).taddr = n.taddr := by
  unfold Node.release; split <;> (try split) <;> rfl
@[simp] theorem Node.release_tvec (n : Node) (l : Loc) : (n.release l).tvec = n.tvec := by
  unfold Node.release; split <;> (try split) <;> rfl
@[simp] theorem Node.release_wstk (n : Node) (l : Loc) : (n.release l).wstk = n.wstk := by
  unfold Node.release; split <;> (try split) <;> rfl
@[simp] theorem Node.release_wlim (n : Node) (l : Loc) : (n.release l).wlim = n.wlim := by
  unfold Node.release; split <;> (try split) <;> rfl
@[simp] theorem Node.release_cur (n : Node) (l : Loc) : (n.release l).cur = n.cur := by
  unfold Node.release; split <;> (try split) <;> rfl
@[simp] theorem Node.release_res (n : Node) (l : Loc) : (n.release l).res = n.res := by
  unfold Node.release; split <;> (try split) <;> rfl
@[simp] theorem Node.release_spilled (n : Node) (l : Loc) : (n.release l).spilled = n.spilled := by
  unfold Node.release; split <;> (try split) <;> rfl
@[simp] theorem Node.release_loopc (n : Node) (l : Loc) : (n.release l).loopc = n.loopc := by
  unfold Node.release; split <;> (try split) <;> rfl
@[simp] theorem Node.release_loops (n : Node) (l : Loc) : (n.release l).loops = n.loops := by
  unfold Node.release; split <;> (try split) <;> rfl
@[simp] theorem Node.release_loope (n : Node) (l : Loc) : (n.release l).loope = n.loope := by
  unfold Node.release; split <;> (try split) <;> rfl
@[simp] theorem Node.release_tloopc (n : Node) (l : Loc) : (n.release l).tloopc = n.tloopc := by
  unfold Node.release; split <;> (try split) <;> rfl
@[simp] theorem Node.release_tloops (n : Node) (l : Loc) : (n.release l).tloops = n.tloops := by
  unfold Node.release; split <;> (try split) <;> rfl
@[simp] theorem Node.release_tloope (n : Node) (l : Loc) : (n.release l).tloope = n.tloope := by
  unfold Node.release; split <;> (try split) <;> rfl
@[simp] theorem Node.release_param (n : Node) (l : Loc) : (n.release l).param = n.param := by
  unfold Node.release; split <;> (try split) <;> rfl
@[simp] theorem Node.release_bka (n : Node) (l : Loc) : (n.release l).bka = n.bka := by
  unfold Node.release; split <;> (try split) <;> rfl
@[simp] theorem Node.release_wpa (n : Node) (l : Loc) : (n.release l).wpa = n.wpa := by
  unfold Node.release; split <;> (try split) <;> rfl
@[simp] theorem Node.release_dbgc (n : Node) (l : Loc) : (n.release l).dbgc = n.dbgc := by
  unfold Node.release; split <;> (try split) <;> rfl
@[simp] theorem Node.release_high (n : Node) (l : Loc) : (n.release l).high = n.high := by
  unfold Node.release; split <;> (try split) <;> rfl
@[simp] theorem Node.release_pc (n : Node) (l : Loc) : (n.release l).pc = n.pc := by
  unfold Node.release; split <;> (try split) <;> rfl
@[simp] theorem Node.release_hints (n : Node) (l : Loc) : (n.release l).hints = n.hints := by
  unfold Node.release; split <;> (try split) <;> rfl
@[simp] theorem Node.release_issueAt (n : Node) (l : Loc) : (n.release l).issueAt = n.issueAt := by
  unfold Node.release; split <;> (try split) <;> rfl
@[simp] theorem Node.release_fixed (n : Node) (l : Loc) : (n.release l).fixed = n.fixed := by
  unfold Node.release; split <;> (try split) <;> rfl
@[simp] theorem Node.release_owed (n : Node) (l : Loc) : (n.release l).owed = n.owed := by
  unfold Node.release; split <;> (try split) <;> rfl
@[simp] theorem Node.release_tok (n : Node) (l : Loc) : (n.release l).tok = n.tok := by
  unfold Node.release; split <;> (try split) <;> rfl
@[simp] theorem Node.release_pend (n : Node) (l : Loc) : (n.release l).pend = n.pend := by
  unfold Node.release; split <;> (try split) <;> rfl
@[simp] theorem Node.release_bkSkip (n : Node) (l : Loc) : (n.release l).bkSkip = n.bkSkip := by
  unfold Node.release; split <;> (try split) <;> rfl
@[simp] theorem Node.release_begun (n : Node) (l : Loc) : (n.release l).begun = n.begun := by
  unfold Node.release; split <;> (try split) <;> rfl
@[simp] theorem Node.release_made (n : Node) (l : Loc) : (n.release l).made = n.made := by
  unfold Node.release; split <;> (try split) <;> rfl
@[simp] theorem Node.release_settled (n : Node) (l : Loc) : (n.release l).settled = n.settled := by
  unfold Node.release; split <;> (try split) <;> rfl
@[simp] theorem Node.release_offer (n : Node) (l : Loc) : (n.release l).offer = n.offer := by
  unfold Node.release; split <;> (try split) <;> rfl
@[simp] theorem Node.release_wait (n : Node) (l : Loc) : (n.release l).wait = n.wait := by
  unfold Node.release; split <;> (try split) <;> rfl
@[simp] theorem Node.release_resolved (n : Node) (l : Loc) : (n.release l).resolved = n.resolved := by
  unfold Node.release; split <;> (try split) <;> rfl
@[simp] theorem Node.release_delay (n : Node) (l : Loc) : (n.release l).delay = n.delay := by
  unfold Node.release; split <;> (try split) <;> rfl
@[simp] theorem Node.release_pauseN (n : Node) (l : Loc) : (n.release l).pauseN = n.pauseN := by
  unfold Node.release; split <;> (try split) <;> rfl
@[simp] theorem Node.release_sleep (n : Node) (l : Loc) : (n.release l).sleep = n.sleep := by
  unfold Node.release; split <;> (try split) <;> rfl
@[simp] theorem Node.release_grows (n : Node) (l : Loc) : (n.release l).grows = n.grows := by
  unfold Node.release; split <;> (try split) <;> rfl
@[simp] theorem Node.release_heldFor (n : Node) (l : Loc) : (n.release l).heldFor = n.heldFor := by
  unfold Node.release; split <;> (try split) <;> rfl
@[simp] theorem Node.release_overrun (n : Node) (l : Loc) : (n.release l).overrun = n.overrun := by
  unfold Node.release; split <;> (try split) <;> rfl
@[simp] theorem Node.releaseAll_stt (n : Node) (r : List Loc) : (n.releaseAll r).stt = n.stt := by
  unfold Node.releaseAll
  induction r generalizing n with
  | nil => rfl
  | cons a t ih => rw [List.foldl_cons, ih, Node.release_stt]
@[simp] theorem Node.releaseAll_gen (n : Node) (r : List Loc) : (n.releaseAll r).gen = n.gen := by
  unfold Node.releaseAll
  induction r generalizing n with
  | nil => rfl
  | cons a t ih => rw [List.foldl_cons, ih, Node.release_gen]
@[simp] theorem Node.releaseAll_ordinal (n : Node) (r : List Loc) : (n.releaseAll r).ordinal = n.ordinal := by
  unfold Node.releaseAll
  induction r generalizing n with
  | nil => rfl
  | cons a t ih => rw [List.foldl_cons, ih, Node.release_ordinal]
@[simp] theorem Node.releaseAll_prio (n : Node) (r : List Loc) : (n.releaseAll r).prio = n.prio := by
  unfold Node.releaseAll
  induction r generalizing n with
  | nil => rfl
  | cons a t ih => rw [List.foldl_cons, ih, Node.release_prio]
@[simp] theorem Node.releaseAll_notv (n : Node) (r : List Loc) : (n.releaseAll r).notv = n.notv := by
  unfold Node.releaseAll
  induction r generalizing n with
  | nil => rfl
  | cons a t ih => rw [List.foldl_cons, ih, Node.release_notv]
@[simp] theorem Node.releaseAll_base (n : Node) (r : List Loc) : (n.releaseAll r).base = n.base := by
  unfold Node.releaseAll
  induction r generalizing n with
  | nil => rfl
  | cons a t ih => rw [List.foldl_cons, ih, Node.release_base]
@[simp] theorem Node.releaseAll_size (n : Node) (r : List Loc) : (n.releaseAll r).size = n.size := by
  unfold Node.releaseAll
  induction r generalizing n with
  | nil => rfl
  | cons a t ih => rw [List.foldl_cons, ih, Node.release_size]
@[simp] theorem Node.releaseAll_a (n : Node) (r : List Loc) : (n.releaseAll r).a = n.a := by
  unfold Node.releaseAll
  induction r generalizing n with
  | nil => rfl
  | cons a t ih => rw [List.foldl_cons, ih, Node.release_a]
@[simp] theorem Node.releaseAll_p (n : Node) (r : List Loc) : (n.releaseAll r).p = n.p := by
  unfold Node.releaseAll
  induction r generalizing n with
  | nil => rfl
  | cons a t ih => rw [List.foldl_cons, ih, Node.release_p]
@[simp] theorem Node.releaseAll_dPend (n : Node) (r : List Loc) : (n.releaseAll r).dPend = n.dPend := by
  unfold Node.releaseAll
  induction r generalizing n with
  | nil => rfl
  | cons a t ih => rw [List.foldl_cons, ih, Node.release_dPend]
@[simp] theorem Node.releaseAll_dComm (n : Node) (r : List Loc) : (n.releaseAll r).dComm = n.dComm := by
  unfold Node.releaseAll
  induction r generalizing n with
  | nil => rfl
  | cons a t ih => rw [List.foldl_cons, ih, Node.release_dComm]
@[simp] theorem Node.releaseAll_dWritten (n : Node) (r : List Loc) : (n.releaseAll r).dWritten = n.dWritten := by
  unfold Node.releaseAll
  induction r generalizing n with
  | nil => rfl
  | cons a t ih => rw [List.foldl_cons, ih, Node.release_dWritten]
@[simp] theorem Node.releaseAll_nctl (n : Node) (r : List Loc) : (n.releaseAll r).nctl = n.nctl := by
  unfold Node.releaseAll
  induction r generalizing n with
  | nil => rfl
  | cons a t ih => rw [List.foldl_cons, ih, Node.release_nctl]
@[simp] theorem Node.releaseAll_flags (n : Node) (r : List Loc) : (n.releaseAll r).flags = n.flags := by
  unfold Node.releaseAll
  induction r generalizing n with
  | nil => rfl
  | cons a t ih => rw [List.foldl_cons, ih, Node.release_flags]
@[simp] theorem Node.releaseAll_inTrap (n : Node) (r : List Loc) : (n.releaseAll r).inTrap = n.inTrap := by
  unfold Node.releaseAll
  induction r generalizing n with
  | nil => rfl
  | cons a t ih => rw [List.foldl_cons, ih, Node.release_inTrap]
@[simp] theorem Node.releaseAll_tcause (n : Node) (r : List Loc) : (n.releaseAll r).tcause = n.tcause := by
  unfold Node.releaseAll
  induction r generalizing n with
  | nil => rfl
  | cons a t ih => rw [List.foldl_cons, ih, Node.release_tcause]
@[simp] theorem Node.releaseAll_tip (n : Node) (r : List Loc) : (n.releaseAll r).tip = n.tip := by
  unfold Node.releaseAll
  induction r generalizing n with
  | nil => rfl
  | cons a t ih => rw [List.foldl_cons, ih, Node.release_tip]
@[simp] theorem Node.releaseAll_taddr (n : Node) (r : List Loc) : (n.releaseAll r).taddr = n.taddr := by
  unfold Node.releaseAll
  induction r generalizing n with
  | nil => rfl
  | cons a t ih => rw [List.foldl_cons, ih, Node.release_taddr]
@[simp] theorem Node.releaseAll_tvec (n : Node) (r : List Loc) : (n.releaseAll r).tvec = n.tvec := by
  unfold Node.releaseAll
  induction r generalizing n with
  | nil => rfl
  | cons a t ih => rw [List.foldl_cons, ih, Node.release_tvec]
@[simp] theorem Node.releaseAll_wstk (n : Node) (r : List Loc) : (n.releaseAll r).wstk = n.wstk := by
  unfold Node.releaseAll
  induction r generalizing n with
  | nil => rfl
  | cons a t ih => rw [List.foldl_cons, ih, Node.release_wstk]
@[simp] theorem Node.releaseAll_wlim (n : Node) (r : List Loc) : (n.releaseAll r).wlim = n.wlim := by
  unfold Node.releaseAll
  induction r generalizing n with
  | nil => rfl
  | cons a t ih => rw [List.foldl_cons, ih, Node.release_wlim]
@[simp] theorem Node.releaseAll_cur (n : Node) (r : List Loc) : (n.releaseAll r).cur = n.cur := by
  unfold Node.releaseAll
  induction r generalizing n with
  | nil => rfl
  | cons a t ih => rw [List.foldl_cons, ih, Node.release_cur]
@[simp] theorem Node.releaseAll_res (n : Node) (r : List Loc) : (n.releaseAll r).res = n.res := by
  unfold Node.releaseAll
  induction r generalizing n with
  | nil => rfl
  | cons a t ih => rw [List.foldl_cons, ih, Node.release_res]
@[simp] theorem Node.releaseAll_spilled (n : Node) (r : List Loc) : (n.releaseAll r).spilled = n.spilled := by
  unfold Node.releaseAll
  induction r generalizing n with
  | nil => rfl
  | cons a t ih => rw [List.foldl_cons, ih, Node.release_spilled]
@[simp] theorem Node.releaseAll_loopc (n : Node) (r : List Loc) : (n.releaseAll r).loopc = n.loopc := by
  unfold Node.releaseAll
  induction r generalizing n with
  | nil => rfl
  | cons a t ih => rw [List.foldl_cons, ih, Node.release_loopc]
@[simp] theorem Node.releaseAll_loops (n : Node) (r : List Loc) : (n.releaseAll r).loops = n.loops := by
  unfold Node.releaseAll
  induction r generalizing n with
  | nil => rfl
  | cons a t ih => rw [List.foldl_cons, ih, Node.release_loops]
@[simp] theorem Node.releaseAll_loope (n : Node) (r : List Loc) : (n.releaseAll r).loope = n.loope := by
  unfold Node.releaseAll
  induction r generalizing n with
  | nil => rfl
  | cons a t ih => rw [List.foldl_cons, ih, Node.release_loope]
@[simp] theorem Node.releaseAll_tloopc (n : Node) (r : List Loc) : (n.releaseAll r).tloopc = n.tloopc := by
  unfold Node.releaseAll
  induction r generalizing n with
  | nil => rfl
  | cons a t ih => rw [List.foldl_cons, ih, Node.release_tloopc]
@[simp] theorem Node.releaseAll_tloops (n : Node) (r : List Loc) : (n.releaseAll r).tloops = n.tloops := by
  unfold Node.releaseAll
  induction r generalizing n with
  | nil => rfl
  | cons a t ih => rw [List.foldl_cons, ih, Node.release_tloops]
@[simp] theorem Node.releaseAll_tloope (n : Node) (r : List Loc) : (n.releaseAll r).tloope = n.tloope := by
  unfold Node.releaseAll
  induction r generalizing n with
  | nil => rfl
  | cons a t ih => rw [List.foldl_cons, ih, Node.release_tloope]
@[simp] theorem Node.releaseAll_param (n : Node) (r : List Loc) : (n.releaseAll r).param = n.param := by
  unfold Node.releaseAll
  induction r generalizing n with
  | nil => rfl
  | cons a t ih => rw [List.foldl_cons, ih, Node.release_param]
@[simp] theorem Node.releaseAll_bka (n : Node) (r : List Loc) : (n.releaseAll r).bka = n.bka := by
  unfold Node.releaseAll
  induction r generalizing n with
  | nil => rfl
  | cons a t ih => rw [List.foldl_cons, ih, Node.release_bka]
@[simp] theorem Node.releaseAll_wpa (n : Node) (r : List Loc) : (n.releaseAll r).wpa = n.wpa := by
  unfold Node.releaseAll
  induction r generalizing n with
  | nil => rfl
  | cons a t ih => rw [List.foldl_cons, ih, Node.release_wpa]
@[simp] theorem Node.releaseAll_dbgc (n : Node) (r : List Loc) : (n.releaseAll r).dbgc = n.dbgc := by
  unfold Node.releaseAll
  induction r generalizing n with
  | nil => rfl
  | cons a t ih => rw [List.foldl_cons, ih, Node.release_dbgc]
@[simp] theorem Node.releaseAll_high (n : Node) (r : List Loc) : (n.releaseAll r).high = n.high := by
  unfold Node.releaseAll
  induction r generalizing n with
  | nil => rfl
  | cons a t ih => rw [List.foldl_cons, ih, Node.release_high]
@[simp] theorem Node.releaseAll_pc (n : Node) (r : List Loc) : (n.releaseAll r).pc = n.pc := by
  unfold Node.releaseAll
  induction r generalizing n with
  | nil => rfl
  | cons a t ih => rw [List.foldl_cons, ih, Node.release_pc]
@[simp] theorem Node.releaseAll_hints (n : Node) (r : List Loc) : (n.releaseAll r).hints = n.hints := by
  unfold Node.releaseAll
  induction r generalizing n with
  | nil => rfl
  | cons a t ih => rw [List.foldl_cons, ih, Node.release_hints]
@[simp] theorem Node.releaseAll_issueAt (n : Node) (r : List Loc) : (n.releaseAll r).issueAt = n.issueAt := by
  unfold Node.releaseAll
  induction r generalizing n with
  | nil => rfl
  | cons a t ih => rw [List.foldl_cons, ih, Node.release_issueAt]
@[simp] theorem Node.releaseAll_fixed (n : Node) (r : List Loc) : (n.releaseAll r).fixed = n.fixed := by
  unfold Node.releaseAll
  induction r generalizing n with
  | nil => rfl
  | cons a t ih => rw [List.foldl_cons, ih, Node.release_fixed]
@[simp] theorem Node.releaseAll_owed (n : Node) (r : List Loc) : (n.releaseAll r).owed = n.owed := by
  unfold Node.releaseAll
  induction r generalizing n with
  | nil => rfl
  | cons a t ih => rw [List.foldl_cons, ih, Node.release_owed]
@[simp] theorem Node.releaseAll_tok (n : Node) (r : List Loc) : (n.releaseAll r).tok = n.tok := by
  unfold Node.releaseAll
  induction r generalizing n with
  | nil => rfl
  | cons a t ih => rw [List.foldl_cons, ih, Node.release_tok]
@[simp] theorem Node.releaseAll_pend (n : Node) (r : List Loc) : (n.releaseAll r).pend = n.pend := by
  unfold Node.releaseAll
  induction r generalizing n with
  | nil => rfl
  | cons a t ih => rw [List.foldl_cons, ih, Node.release_pend]
@[simp] theorem Node.releaseAll_bkSkip (n : Node) (r : List Loc) : (n.releaseAll r).bkSkip = n.bkSkip := by
  unfold Node.releaseAll
  induction r generalizing n with
  | nil => rfl
  | cons a t ih => rw [List.foldl_cons, ih, Node.release_bkSkip]
@[simp] theorem Node.releaseAll_begun (n : Node) (r : List Loc) : (n.releaseAll r).begun = n.begun := by
  unfold Node.releaseAll
  induction r generalizing n with
  | nil => rfl
  | cons a t ih => rw [List.foldl_cons, ih, Node.release_begun]
@[simp] theorem Node.releaseAll_made (n : Node) (r : List Loc) : (n.releaseAll r).made = n.made := by
  unfold Node.releaseAll
  induction r generalizing n with
  | nil => rfl
  | cons a t ih => rw [List.foldl_cons, ih, Node.release_made]
@[simp] theorem Node.releaseAll_settled (n : Node) (r : List Loc) : (n.releaseAll r).settled = n.settled := by
  unfold Node.releaseAll
  induction r generalizing n with
  | nil => rfl
  | cons a t ih => rw [List.foldl_cons, ih, Node.release_settled]
@[simp] theorem Node.releaseAll_offer (n : Node) (r : List Loc) : (n.releaseAll r).offer = n.offer := by
  unfold Node.releaseAll
  induction r generalizing n with
  | nil => rfl
  | cons a t ih => rw [List.foldl_cons, ih, Node.release_offer]
@[simp] theorem Node.releaseAll_wait (n : Node) (r : List Loc) : (n.releaseAll r).wait = n.wait := by
  unfold Node.releaseAll
  induction r generalizing n with
  | nil => rfl
  | cons a t ih => rw [List.foldl_cons, ih, Node.release_wait]
@[simp] theorem Node.releaseAll_resolved (n : Node) (r : List Loc) : (n.releaseAll r).resolved = n.resolved := by
  unfold Node.releaseAll
  induction r generalizing n with
  | nil => rfl
  | cons a t ih => rw [List.foldl_cons, ih, Node.release_resolved]
@[simp] theorem Node.releaseAll_delay (n : Node) (r : List Loc) : (n.releaseAll r).delay = n.delay := by
  unfold Node.releaseAll
  induction r generalizing n with
  | nil => rfl
  | cons a t ih => rw [List.foldl_cons, ih, Node.release_delay]
@[simp] theorem Node.releaseAll_pauseN (n : Node) (r : List Loc) : (n.releaseAll r).pauseN = n.pauseN := by
  unfold Node.releaseAll
  induction r generalizing n with
  | nil => rfl
  | cons a t ih => rw [List.foldl_cons, ih, Node.release_pauseN]
@[simp] theorem Node.releaseAll_sleep (n : Node) (r : List Loc) : (n.releaseAll r).sleep = n.sleep := by
  unfold Node.releaseAll
  induction r generalizing n with
  | nil => rfl
  | cons a t ih => rw [List.foldl_cons, ih, Node.release_sleep]
@[simp] theorem Node.releaseAll_grows (n : Node) (r : List Loc) : (n.releaseAll r).grows = n.grows := by
  unfold Node.releaseAll
  induction r generalizing n with
  | nil => rfl
  | cons a t ih => rw [List.foldl_cons, ih, Node.release_grows]
@[simp] theorem Node.releaseAll_heldFor (n : Node) (r : List Loc) : (n.releaseAll r).heldFor = n.heldFor := by
  unfold Node.releaseAll
  induction r generalizing n with
  | nil => rfl
  | cons a t ih => rw [List.foldl_cons, ih, Node.release_heldFor]
@[simp] theorem Node.releaseAll_overrun (n : Node) (r : List Loc) : (n.releaseAll r).overrun = n.overrun := by
  unfold Node.releaseAll
  induction r generalizing n with
  | nil => rfl
  | cons a t ih => rw [List.foldl_cons, ih, Node.release_overrun]
@[simp] theorem Node.owe_stt (n : Node) (d : List Loc) (f : OwedForm) (k : Nat) (e : Exc) (b : Bool) (w : Option Trap) :
    (n.owe d f k e b w).stt = n.stt := rfl
@[simp] theorem Node.owe_gen (n : Node) (d : List Loc) (f : OwedForm) (k : Nat) (e : Exc) (b : Bool) (w : Option Trap) :
    (n.owe d f k e b w).gen = n.gen := rfl
@[simp] theorem Node.owe_ordinal (n : Node) (d : List Loc) (f : OwedForm) (k : Nat) (e : Exc) (b : Bool) (w : Option Trap) :
    (n.owe d f k e b w).ordinal = n.ordinal := rfl
@[simp] theorem Node.owe_prio (n : Node) (d : List Loc) (f : OwedForm) (k : Nat) (e : Exc) (b : Bool) (w : Option Trap) :
    (n.owe d f k e b w).prio = n.prio := rfl
@[simp] theorem Node.owe_notv (n : Node) (d : List Loc) (f : OwedForm) (k : Nat) (e : Exc) (b : Bool) (w : Option Trap) :
    (n.owe d f k e b w).notv = n.notv := rfl
@[simp] theorem Node.owe_base (n : Node) (d : List Loc) (f : OwedForm) (k : Nat) (e : Exc) (b : Bool) (w : Option Trap) :
    (n.owe d f k e b w).base = n.base := rfl
@[simp] theorem Node.owe_size (n : Node) (d : List Loc) (f : OwedForm) (k : Nat) (e : Exc) (b : Bool) (w : Option Trap) :
    (n.owe d f k e b w).size = n.size := rfl
@[simp] theorem Node.owe_g (n : Node) (d : List Loc) (f : OwedForm) (k : Nat) (e : Exc) (b : Bool) (w : Option Trap) :
    (n.owe d f k e b w).g = n.g := rfl
@[simp] theorem Node.owe_region (n : Node) (d : List Loc) (f : OwedForm) (k : Nat) (e : Exc) (b : Bool) (w : Option Trap) :
    (n.owe d f k e b w).region = n.region := rfl
@[simp] theorem Node.owe_bank (n : Node) (d : List Loc) (f : OwedForm) (k : Nat) (e : Exc) (b : Bool) (w : Option Trap) :
    (n.owe d f k e b w).bank = n.bank := rfl
@[simp] theorem Node.owe_a (n : Node) (d : List Loc) (f : OwedForm) (k : Nat) (e : Exc) (b : Bool) (w : Option Trap) :
    (n.owe d f k e b w).a = n.a := rfl
@[simp] theorem Node.owe_p (n : Node) (d : List Loc) (f : OwedForm) (k : Nat) (e : Exc) (b : Bool) (w : Option Trap) :
    (n.owe d f k e b w).p = n.p := rfl
@[simp] theorem Node.owe_dPend (n : Node) (d : List Loc) (f : OwedForm) (k : Nat) (e : Exc) (b : Bool) (w : Option Trap) :
    (n.owe d f k e b w).dPend = n.dPend := rfl
@[simp] theorem Node.owe_dComm (n : Node) (d : List Loc) (f : OwedForm) (k : Nat) (e : Exc) (b : Bool) (w : Option Trap) :
    (n.owe d f k e b w).dComm = n.dComm := rfl
@[simp] theorem Node.owe_dWritten (n : Node) (d : List Loc) (f : OwedForm) (k : Nat) (e : Exc) (b : Bool) (w : Option Trap) :
    (n.owe d f k e b w).dWritten = n.dWritten := rfl
@[simp] theorem Node.owe_vec (n : Node) (d : List Loc) (f : OwedForm) (k : Nat) (e : Exc) (b : Bool) (w : Option Trap) :
    (n.owe d f k e b w).vec = n.vec := rfl
@[simp] theorem Node.owe_nctl (n : Node) (d : List Loc) (f : OwedForm) (k : Nat) (e : Exc) (b : Bool) (w : Option Trap) :
    (n.owe d f k e b w).nctl = n.nctl := rfl
@[simp] theorem Node.owe_flags (n : Node) (d : List Loc) (f : OwedForm) (k : Nat) (e : Exc) (b : Bool) (w : Option Trap) :
    (n.owe d f k e b w).flags = n.flags := rfl
@[simp] theorem Node.owe_inTrap (n : Node) (d : List Loc) (f : OwedForm) (k : Nat) (e : Exc) (b : Bool) (w : Option Trap) :
    (n.owe d f k e b w).inTrap = n.inTrap := rfl
@[simp] theorem Node.owe_tcause (n : Node) (d : List Loc) (f : OwedForm) (k : Nat) (e : Exc) (b : Bool) (w : Option Trap) :
    (n.owe d f k e b w).tcause = n.tcause := rfl
@[simp] theorem Node.owe_tip (n : Node) (d : List Loc) (f : OwedForm) (k : Nat) (e : Exc) (b : Bool) (w : Option Trap) :
    (n.owe d f k e b w).tip = n.tip := rfl
@[simp] theorem Node.owe_taddr (n : Node) (d : List Loc) (f : OwedForm) (k : Nat) (e : Exc) (b : Bool) (w : Option Trap) :
    (n.owe d f k e b w).taddr = n.taddr := rfl
@[simp] theorem Node.owe_tvec (n : Node) (d : List Loc) (f : OwedForm) (k : Nat) (e : Exc) (b : Bool) (w : Option Trap) :
    (n.owe d f k e b w).tvec = n.tvec := rfl
@[simp] theorem Node.owe_wstk (n : Node) (d : List Loc) (f : OwedForm) (k : Nat) (e : Exc) (b : Bool) (w : Option Trap) :
    (n.owe d f k e b w).wstk = n.wstk := rfl
@[simp] theorem Node.owe_wlim (n : Node) (d : List Loc) (f : OwedForm) (k : Nat) (e : Exc) (b : Bool) (w : Option Trap) :
    (n.owe d f k e b w).wlim = n.wlim := rfl
@[simp] theorem Node.owe_cur (n : Node) (d : List Loc) (f : OwedForm) (k : Nat) (e : Exc) (b : Bool) (w : Option Trap) :
    (n.owe d f k e b w).cur = n.cur := rfl
@[simp] theorem Node.owe_res (n : Node) (d : List Loc) (f : OwedForm) (k : Nat) (e : Exc) (b : Bool) (w : Option Trap) :
    (n.owe d f k e b w).res = n.res := rfl
@[simp] theorem Node.owe_spilled (n : Node) (d : List Loc) (f : OwedForm) (k : Nat) (e : Exc) (b : Bool) (w : Option Trap) :
    (n.owe d f k e b w).spilled = n.spilled := rfl
@[simp] theorem Node.owe_loopc (n : Node) (d : List Loc) (f : OwedForm) (k : Nat) (e : Exc) (b : Bool) (w : Option Trap) :
    (n.owe d f k e b w).loopc = n.loopc := rfl
@[simp] theorem Node.owe_loops (n : Node) (d : List Loc) (f : OwedForm) (k : Nat) (e : Exc) (b : Bool) (w : Option Trap) :
    (n.owe d f k e b w).loops = n.loops := rfl
@[simp] theorem Node.owe_loope (n : Node) (d : List Loc) (f : OwedForm) (k : Nat) (e : Exc) (b : Bool) (w : Option Trap) :
    (n.owe d f k e b w).loope = n.loope := rfl
@[simp] theorem Node.owe_tloopc (n : Node) (d : List Loc) (f : OwedForm) (k : Nat) (e : Exc) (b : Bool) (w : Option Trap) :
    (n.owe d f k e b w).tloopc = n.tloopc := rfl
@[simp] theorem Node.owe_tloops (n : Node) (d : List Loc) (f : OwedForm) (k : Nat) (e : Exc) (b : Bool) (w : Option Trap) :
    (n.owe d f k e b w).tloops = n.tloops := rfl
@[simp] theorem Node.owe_tloope (n : Node) (d : List Loc) (f : OwedForm) (k : Nat) (e : Exc) (b : Bool) (w : Option Trap) :
    (n.owe d f k e b w).tloope = n.tloope := rfl
@[simp] theorem Node.owe_param (n : Node) (d : List Loc) (f : OwedForm) (k : Nat) (e : Exc) (b : Bool) (w : Option Trap) :
    (n.owe d f k e b w).param = n.param := rfl
@[simp] theorem Node.owe_bka (n : Node) (d : List Loc) (f : OwedForm) (k : Nat) (e : Exc) (b : Bool) (w : Option Trap) :
    (n.owe d f k e b w).bka = n.bka := rfl
@[simp] theorem Node.owe_wpa (n : Node) (d : List Loc) (f : OwedForm) (k : Nat) (e : Exc) (b : Bool) (w : Option Trap) :
    (n.owe d f k e b w).wpa = n.wpa := rfl
@[simp] theorem Node.owe_dbgc (n : Node) (d : List Loc) (f : OwedForm) (k : Nat) (e : Exc) (b : Bool) (w : Option Trap) :
    (n.owe d f k e b w).dbgc = n.dbgc := rfl
@[simp] theorem Node.owe_high (n : Node) (d : List Loc) (f : OwedForm) (k : Nat) (e : Exc) (b : Bool) (w : Option Trap) :
    (n.owe d f k e b w).high = n.high := rfl
@[simp] theorem Node.owe_pc (n : Node) (d : List Loc) (f : OwedForm) (k : Nat) (e : Exc) (b : Bool) (w : Option Trap) :
    (n.owe d f k e b w).pc = n.pc := rfl
@[simp] theorem Node.owe_hints (n : Node) (d : List Loc) (f : OwedForm) (k : Nat) (e : Exc) (b : Bool) (w : Option Trap) :
    (n.owe d f k e b w).hints = n.hints := rfl
@[simp] theorem Node.owe_issueAt (n : Node) (d : List Loc) (f : OwedForm) (k : Nat) (e : Exc) (b : Bool) (w : Option Trap) :
    (n.owe d f k e b w).issueAt = n.issueAt := rfl
@[simp] theorem Node.owe_fixed (n : Node) (d : List Loc) (f : OwedForm) (k : Nat) (e : Exc) (b : Bool) (w : Option Trap) :
    (n.owe d f k e b w).fixed = n.fixed := rfl
@[simp] theorem Node.owe_pend (n : Node) (d : List Loc) (f : OwedForm) (k : Nat) (e : Exc) (b : Bool) (w : Option Trap) :
    (n.owe d f k e b w).pend = n.pend := rfl
@[simp] theorem Node.owe_bkSkip (n : Node) (d : List Loc) (f : OwedForm) (k : Nat) (e : Exc) (b : Bool) (w : Option Trap) :
    (n.owe d f k e b w).bkSkip = n.bkSkip := rfl
@[simp] theorem Node.owe_begun (n : Node) (d : List Loc) (f : OwedForm) (k : Nat) (e : Exc) (b : Bool) (w : Option Trap) :
    (n.owe d f k e b w).begun = n.begun := rfl
@[simp] theorem Node.owe_made (n : Node) (d : List Loc) (f : OwedForm) (k : Nat) (e : Exc) (b : Bool) (w : Option Trap) :
    (n.owe d f k e b w).made = n.made := rfl
@[simp] theorem Node.owe_settled (n : Node) (d : List Loc) (f : OwedForm) (k : Nat) (e : Exc) (b : Bool) (w : Option Trap) :
    (n.owe d f k e b w).settled = n.settled := rfl
@[simp] theorem Node.owe_offer (n : Node) (d : List Loc) (f : OwedForm) (k : Nat) (e : Exc) (b : Bool) (w : Option Trap) :
    (n.owe d f k e b w).offer = n.offer := rfl
@[simp] theorem Node.owe_wait (n : Node) (d : List Loc) (f : OwedForm) (k : Nat) (e : Exc) (b : Bool) (w : Option Trap) :
    (n.owe d f k e b w).wait = n.wait := rfl
@[simp] theorem Node.owe_resolved (n : Node) (d : List Loc) (f : OwedForm) (k : Nat) (e : Exc) (b : Bool) (w : Option Trap) :
    (n.owe d f k e b w).resolved = n.resolved := rfl
@[simp] theorem Node.owe_delay (n : Node) (d : List Loc) (f : OwedForm) (k : Nat) (e : Exc) (b : Bool) (w : Option Trap) :
    (n.owe d f k e b w).delay = n.delay := rfl
@[simp] theorem Node.owe_pauseN (n : Node) (d : List Loc) (f : OwedForm) (k : Nat) (e : Exc) (b : Bool) (w : Option Trap) :
    (n.owe d f k e b w).pauseN = n.pauseN := rfl
@[simp] theorem Node.owe_sleep (n : Node) (d : List Loc) (f : OwedForm) (k : Nat) (e : Exc) (b : Bool) (w : Option Trap) :
    (n.owe d f k e b w).sleep = n.sleep := rfl
@[simp] theorem Node.owe_grows (n : Node) (d : List Loc) (f : OwedForm) (k : Nat) (e : Exc) (b : Bool) (w : Option Trap) :
    (n.owe d f k e b w).grows = n.grows := rfl
@[simp] theorem Node.owe_heldFor (n : Node) (d : List Loc) (f : OwedForm) (k : Nat) (e : Exc) (b : Bool) (w : Option Trap) :
    (n.owe d f k e b w).heldFor = n.heldFor := rfl
@[simp] theorem Node.owe_overrun (n : Node) (d : List Loc) (f : OwedForm) (k : Nat) (e : Exc) (b : Bool) (w : Option Trap) :
    (n.owe d f k e b w).overrun = n.overrun := rfl
@[simp] theorem Node.raise_stt (n : Node) (e : Exc) : (n.raise e).stt = n.stt := rfl
@[simp] theorem Node.raise_gen (n : Node) (e : Exc) : (n.raise e).gen = n.gen := rfl
@[simp] theorem Node.raise_ordinal (n : Node) (e : Exc) : (n.raise e).ordinal = n.ordinal := rfl
@[simp] theorem Node.raise_prio (n : Node) (e : Exc) : (n.raise e).prio = n.prio := rfl
@[simp] theorem Node.raise_notv (n : Node) (e : Exc) : (n.raise e).notv = n.notv := rfl
@[simp] theorem Node.raise_base (n : Node) (e : Exc) : (n.raise e).base = n.base := rfl
@[simp] theorem Node.raise_size (n : Node) (e : Exc) : (n.raise e).size = n.size := rfl
@[simp] theorem Node.raise_g (n : Node) (e : Exc) : (n.raise e).g = n.g := rfl
@[simp] theorem Node.raise_region (n : Node) (e : Exc) : (n.raise e).region = n.region := rfl
@[simp] theorem Node.raise_bank (n : Node) (e : Exc) : (n.raise e).bank = n.bank := rfl
@[simp] theorem Node.raise_a (n : Node) (e : Exc) : (n.raise e).a = n.a := rfl
@[simp] theorem Node.raise_p (n : Node) (e : Exc) : (n.raise e).p = n.p := rfl
@[simp] theorem Node.raise_dPend (n : Node) (e : Exc) : (n.raise e).dPend = n.dPend := rfl
@[simp] theorem Node.raise_dComm (n : Node) (e : Exc) : (n.raise e).dComm = n.dComm := rfl
@[simp] theorem Node.raise_dWritten (n : Node) (e : Exc) : (n.raise e).dWritten = n.dWritten := rfl
@[simp] theorem Node.raise_vec (n : Node) (e : Exc) : (n.raise e).vec = n.vec := rfl
@[simp] theorem Node.raise_nctl (n : Node) (e : Exc) : (n.raise e).nctl = n.nctl := rfl
@[simp] theorem Node.raise_inTrap (n : Node) (e : Exc) : (n.raise e).inTrap = n.inTrap := rfl
@[simp] theorem Node.raise_tcause (n : Node) (e : Exc) : (n.raise e).tcause = n.tcause := rfl
@[simp] theorem Node.raise_tip (n : Node) (e : Exc) : (n.raise e).tip = n.tip := rfl
@[simp] theorem Node.raise_taddr (n : Node) (e : Exc) : (n.raise e).taddr = n.taddr := rfl
@[simp] theorem Node.raise_tvec (n : Node) (e : Exc) : (n.raise e).tvec = n.tvec := rfl
@[simp] theorem Node.raise_wstk (n : Node) (e : Exc) : (n.raise e).wstk = n.wstk := rfl
@[simp] theorem Node.raise_wlim (n : Node) (e : Exc) : (n.raise e).wlim = n.wlim := rfl
@[simp] theorem Node.raise_cur (n : Node) (e : Exc) : (n.raise e).cur = n.cur := rfl
@[simp] theorem Node.raise_res (n : Node) (e : Exc) : (n.raise e).res = n.res := rfl
@[simp] theorem Node.raise_spilled (n : Node) (e : Exc) : (n.raise e).spilled = n.spilled := rfl
@[simp] theorem Node.raise_loopc (n : Node) (e : Exc) : (n.raise e).loopc = n.loopc := rfl
@[simp] theorem Node.raise_loops (n : Node) (e : Exc) : (n.raise e).loops = n.loops := rfl
@[simp] theorem Node.raise_loope (n : Node) (e : Exc) : (n.raise e).loope = n.loope := rfl
@[simp] theorem Node.raise_tloopc (n : Node) (e : Exc) : (n.raise e).tloopc = n.tloopc := rfl
@[simp] theorem Node.raise_tloops (n : Node) (e : Exc) : (n.raise e).tloops = n.tloops := rfl
@[simp] theorem Node.raise_tloope (n : Node) (e : Exc) : (n.raise e).tloope = n.tloope := rfl
@[simp] theorem Node.raise_param (n : Node) (e : Exc) : (n.raise e).param = n.param := rfl
@[simp] theorem Node.raise_bka (n : Node) (e : Exc) : (n.raise e).bka = n.bka := rfl
@[simp] theorem Node.raise_wpa (n : Node) (e : Exc) : (n.raise e).wpa = n.wpa := rfl
@[simp] theorem Node.raise_dbgc (n : Node) (e : Exc) : (n.raise e).dbgc = n.dbgc := rfl
@[simp] theorem Node.raise_high (n : Node) (e : Exc) : (n.raise e).high = n.high := rfl
@[simp] theorem Node.raise_pc (n : Node) (e : Exc) : (n.raise e).pc = n.pc := rfl
@[simp] theorem Node.raise_hints (n : Node) (e : Exc) : (n.raise e).hints = n.hints := rfl
@[simp] theorem Node.raise_issueAt (n : Node) (e : Exc) : (n.raise e).issueAt = n.issueAt := rfl
@[simp] theorem Node.raise_fixed (n : Node) (e : Exc) : (n.raise e).fixed = n.fixed := rfl
@[simp] theorem Node.raise_owed (n : Node) (e : Exc) : (n.raise e).owed = n.owed := rfl
@[simp] theorem Node.raise_tok (n : Node) (e : Exc) : (n.raise e).tok = n.tok := rfl
@[simp] theorem Node.raise_pend (n : Node) (e : Exc) : (n.raise e).pend = n.pend := rfl
@[simp] theorem Node.raise_bkSkip (n : Node) (e : Exc) : (n.raise e).bkSkip = n.bkSkip := rfl
@[simp] theorem Node.raise_begun (n : Node) (e : Exc) : (n.raise e).begun = n.begun := rfl
@[simp] theorem Node.raise_made (n : Node) (e : Exc) : (n.raise e).made = n.made := rfl
@[simp] theorem Node.raise_settled (n : Node) (e : Exc) : (n.raise e).settled = n.settled := rfl
@[simp] theorem Node.raise_offer (n : Node) (e : Exc) : (n.raise e).offer = n.offer := rfl
@[simp] theorem Node.raise_wait (n : Node) (e : Exc) : (n.raise e).wait = n.wait := rfl
@[simp] theorem Node.raise_resolved (n : Node) (e : Exc) : (n.raise e).resolved = n.resolved := rfl
@[simp] theorem Node.raise_delay (n : Node) (e : Exc) : (n.raise e).delay = n.delay := rfl
@[simp] theorem Node.raise_pauseN (n : Node) (e : Exc) : (n.raise e).pauseN = n.pauseN := rfl
@[simp] theorem Node.raise_sleep (n : Node) (e : Exc) : (n.raise e).sleep = n.sleep := rfl
@[simp] theorem Node.raise_grows (n : Node) (e : Exc) : (n.raise e).grows = n.grows := rfl
@[simp] theorem Node.raise_heldFor (n : Node) (e : Exc) : (n.raise e).heldFor = n.heldFor := rfl
@[simp] theorem Node.raise_overrun (n : Node) (e : Exc) : (n.raise e).overrun = n.overrun := rfl

end Sys2Proof.Machine
end

