-- ==== Sys2Proof/Laws/Ops.lean ====
section
/-! SUPPORT. What the shared operations do: the issue of an instruction, and the one shape of an instruction that computes a
register from registers. -/

namespace Sys2Proof.Machine

-- One proof at a time: a thread for each would pass the limit of memory.
set_option Elab.async false

/-! ### Issue -/

/-- The issue point is that of the running node. -/
theorem issuePoint_run {s : State} {u : Issue} (h : s.issuePoint = some u) :
    ∃ n0, s.run? = some (u.i, n0) ∧
      u = ⟨s.cur, u.i, max (s.cell s.cur).cyc n0.issueAt, n0.landed (max (s.cell s.cur).cyc n0.issueAt)⟩ := by
  unfold State.issuePoint at h
  cases hr : s.run? with
  | none => rw [hr] at h; cases h
  | some r => rw [hr] at h; cases h; exact ⟨r.2, rfl, rfl⟩

/-- An instruction of a running node is answered with a next state. -/
theorem issue_next (s : State) (nd : Need) (pre : Issue → Option Trap) (body : Issue → Res) (h : s.run?.isSome) :
    ∃ t, issue s nd pre body = .next t := by
  unfold issue
  cases hr : s.run? with
  | none => rw [hr] at h; cases h
  | some r => exact ⟨_, rfl⟩

/-- What the issue of an instruction comes to: a check's trap, a hold, an early register's trap, or its body. -/
theorem issue_at {s : State} {u : Issue} (nd : Need) (pre : Issue → Option Trap) (body : Issue → Res)
    (h : s.issuePoint = some u) :
    issue s nd pre body = .next
      (match pre u with
       | some t => s.trapUnperformed u t 0 false
       | none =>
         if u.n.owes (u.n.locs nd.reads ++ u.n.locs nd.writes) then s.holdCell u
         else match u.n.early (nd.reads ++ nd.writes) with
           | some t => s.trapUnperformed u t 0 false
           | none => s.conclude u nd (body u)) := by
  obtain ⟨n0, hr, hu⟩ := issuePoint_run h
  obtain ⟨p, i, c, n⟩ := u
  obtain ⟨rfl, -, rfl, rfl⟩ := Issue.mk.inj hu
  unfold issue
  rw [hr] <;> rfl

/-- With the scoreboard clear and no check failing, the body decides. -/
theorem issue_clear {s : State} {u : Issue} {nd : Need} {pre : Issue → Option Trap} (body : Issue → Res)
    (h : Clear s u nd.reads nd.writes) (hp : pre u = none) :
    issue s nd pre body = .next (s.conclude u nd (body u)) := by
  rw [issue_at nd pre body h.point, hp]
  simp only [h.free, h.inTime, Bool.false_eq_true, if_false]

/-- A check of R67 that fails traps, the instruction unperformed. -/
theorem issue_pre {s : State} {u : Issue} {nd : Need} {pre : Issue → Option Trap} {t : Trap} (body : Issue → Res)
    (h : s.issuePoint = some u) (hp : pre u = some t) :
    issue s nd pre body = .next (s.trapUnperformed u t 0 false) := by
  rw [issue_at nd pre body h, hp]

/-- A body that performs completes the instruction. -/
theorem issue_done {s t : State} {u : Issue} {nd : Need} {pre : Issue → Option Trap} {body : Issue → Res} {n : Node}
    {x : Option Word} (h : Clear s u nd.reads nd.writes) (hp : pre u = none) (hb : body u = .done t n x none) :
    issue s nd pre body = .next (t.finish u nd.st nd.extra n x) := by
  rw [issue_clear body h hp, hb]; rfl

/-- A body that traps leaves the instruction unperformed. -/
theorem issue_trap {s : State} {u : Issue} {nd : Need} {pre : Issue → Option Trap} {body : Issue → Res} {t : Trap}
    {f : BitVec 5} (h : Clear s u nd.reads nd.writes) (hp : pre u = none) (hb : body u = .trap t f) :
    issue s nd pre body = .next (s.trapUnperformed u t f false) := by
  rw [issue_clear body h hp, hb]; rfl

/-! ### Instructions from registers to a register -/

@[simp] theorem Node.raise_zero (n : Node) : n.raise 0 = n := by
  unfold Node.raise; rw [show n.flags ||| 0 = n.flags from BitVec.or_zero]

/-- Landed writes change registers alone: what every register write keeps is kept. -/
theorem Node.landed_keeps {α : Type} (f : Node → α) (hw : ∀ n w, f (n.write w) = f n)
    (hf : ∀ n l, f { n with fixed := l } = f n) (n : Node) (c : Nat) : f (n.landed c) = f n := by
  have go : ∀ l m, f (landGo c l m).1 = f m := by
    intro l
    induction l with
    | nil => intro m; rfl
    | cons w t ih => intro m; unfold landGo; split <;> simp [ih, hw]
  unfold Node.landed
  split
  · rfl
  · dsimp only; rw [hf, go]
@[simp] theorem Node.landed_hints (n : Node) (c : Nat) : (n.landed c).hints = n.hints :=
  Node.landed_keeps (·.hints) (by simp) (fun _ _ => rfl) n c
@[simp] theorem Node.landed_nctl (n : Node) (c : Nat) : (n.landed c).nctl = n.nctl :=
  Node.landed_keeps (·.nctl) (by simp) (fun _ _ => rfl) n c
@[simp] theorem Node.landed_inTrap (n : Node) (c : Nat) : (n.landed c).inTrap = n.inTrap :=
  Node.landed_keeps (·.inTrap) (by simp) (fun _ _ => rfl) n c
@[simp] theorem Node.landed_cur (n : Node) (c : Nat) : (n.landed c).cur = n.cur :=
  Node.landed_keeps (·.cur) (by simp) (fun _ _ => rfl) n c

/-- A word or a vector with no bit flipped is as it was. -/
@[simp] theorem flip_zero (v : RegVal) : flip 0#64 v = v := by
  cases v <;> simp [flip]

/-- With no error the vote gives what was computed. -/
@[simp] theorem SoftError.vote_none (v : RegVal) (e : Exc) : ({} : SoftError).vote v e = some ((v, e), true) := by
  show Machine.vote (flip 0 v, e ^^^ 0) (flip 0 v, e ^^^ 0) (flip 0 v, e ^^^ 0) = _
  simp [Machine.vote]

/-- No error shows no more in one family than in another. -/
@[simp] theorem SoftError.seen_none (fps : Bool) : ({} : SoftError).seen fps = {} := by cases fps <;> rfl
/-- FPS shows the whole of a soft error, and every other family its value alone (R362). -/
@[simp] theorem SoftError.seen_true (x : SoftError) : x.seen true = x := rfl
@[simp] theorem SoftError.seen_false (x : SoftError) : x.seen false = { x with exc := (0, 0, 0) } := rfl

/-- A soft error that does not wait is not spent. -/
theorem spendSoft_none {s : State} {p : Nat} (h : (s.cell p).soft = []) : s.spendSoft p = s := by
  unfold State.spendSoft; rw [h]

/-- A CRIT follower that no soft error meets is as another instruction. -/
theorem voted_steady {s : State} {u : Issue} (x : Simple) (v : RegVal) (e : Exc) (h : (s.cell u.p).soft = []) :
    x.voted s u v e = (match u.n.fpTrap e with
      | some t => .left (s.trapUnperformed u t e false)
      | none => .done s (x.perform u.c u.n v e)) := by
  unfold Simple.voted State.softError
  rw [h, spendSoft_none h]
  (simp only [List.headD_nil, SoftError.seen_none, SoftError.vote_none, if_true, Bool.not_true, ite_self]) <;> (cases u.n.fpTrap e <;> rfl)

/-- The check of R67 that a simple instruction makes passes. -/
theorem simple_pre {u : Issue} (x : Simple) (hv : x.vec = true → u.n.vec.isSome = true) :
    (if x.vec = true then preVector else preNone) u = none := by
  split
  · next hx =>
    unfold preVector
    have := hv hx
    cases hh : u.n.vec <;> simp_all
  · rfl

/-- What the body of a simple instruction comes to when no soft error meets it. -/
theorem simple_concl {s : State} {u : Issue} (x : Simple) {v : RegVal} {e : Exc} (h : Clear s u x.reads [x.dest])
    (hs : Steady s u) (hv : x.vec = true → u.n.vec.isSome = true) (hf : x.f u.n = .ok (v, e)) :
    simple x s = .next (match u.n.fpTrap e with
      | some t => s.trapUnperformed u t e false
      | none => s.finish u x.st 0 (x.perform u.c u.n v e)) := by
  unfold simple
  rw [issue_clear (nd := x.need) _ h (simple_pre x hv)]
  unfold Simple.body
  rw [hf]
  dsimp only
  split
  · next hc => rw [voted_steady x v e (hs hc)]; cases u.n.fpTrap e <;> rfl
  · cases u.n.fpTrap e <;> rfl

/-- A simple instruction whose value is known and raises no enabled exception completes with that value delivered. -/
theorem simple_ok {s : State} {u : Issue} (x : Simple) {v : RegVal} {e : Exc} (h : Clear s u x.reads [x.dest])
    (hs : Steady s u) (hv : x.vec = true → u.n.vec.isSome = true) (hf : x.f u.n = .ok (v, e)) (he : e &&& u.n.fpte = 0) :
    simple x s = .next (s.finish u x.st 0 (x.perform u.c u.n v e)) := by
  rw [simple_concl x h hs hv hf]
  have ht : u.n.fpTrap e = none := by unfold Node.fpTrap; rw [if_pos he]
  rw [ht]

/-- How a simple result of latency 1 is delivered. -/
theorem deliver_one {x : Simple} {c : Nat} {n : Node} {v : RegVal} {e : Exc} {o : Bool} (h : x.lat = some 1) :
    x.deliver c n v e o = (n.raise e).writeReg x.dest v := by
  unfold Simple.deliver Node.writeReg
  rw [h]
  dsimp only
  cases (n.raise e).loc x.dest <;> rfl

/-- How a simple result of a longer fixed latency is delivered. -/
theorem deliver_fixed {x : Simple} {c l : Nat} {n : Node} {v : RegVal} {e : Exc} {o : Bool} (h : x.lat = some l) (hl : 1 < l) :
    x.deliver c n v e o = (n.raise e).landing ((if n.hints.crit then c + 2 else c) + l) x.dest v := by
  unfold Simple.deliver Node.landing
  rw [h]
  dsimp only
  cases (n.raise e).loc x.dest with
  | none => rfl
  | some d => exact if_neg (by omega)

/-- How a simple interlocked result is delivered. -/
theorem deliver_owed {x : Simple} {c : Nat} {n : Node} {v : RegVal} {e : Exc} (h : x.lat = none) (hl : x.late = false) :
    x.deliver c n v e = n.owing x.dest v := by
  unfold Simple.deliver Node.owing
  rw [h, hl]
  (simp only [Bool.false_and, Bool.false_eq_true, if_false]) <;> (cases n.loc x.dest <;> rfl)

/-- What a simple instruction of latency 1 leaves of the node. -/
theorem perform_one {x : Simple} {u : Issue} {v : RegVal} {e : Exc} (h : x.lat = some 1) :
    x.perform u.c u.n v e = ((u.used x.rel).raise e).writeReg x.dest (u.n.keepLanes x.dest x.rel v) := deliver_one h

/-- The last execution of an instruction finds the same hints. -/
theorem Issue.used_hints (u : Issue) (rel : List RegName) : (u.used rel).hints = u.n.hints := by
  unfold Issue.used Node.atLast
  split <;> simp

/-- What a simple instruction of a longer latency leaves of the node. -/
theorem perform_fixed {x : Simple} {u : Issue} {l : Nat} {v : RegVal} {e : Exc} (h : x.lat = some l) (hl : 1 < l) :
    x.perform u.c u.n v e =
      ((u.used x.rel).raise e).landing (u.last + l) x.dest (u.n.keepLanes x.dest x.rel v) := by
  unfold Simple.perform
  rw [deliver_fixed h hl]
  rw [show ((u.n.atLast u.c).releaseAll (u.n.locs x.rel)).hints = u.n.hints from u.used_hints x.rel]
  rfl

/-- What a simple interlocked instruction leaves of the node. -/
theorem perform_owed {x : Simple} {u : Issue} {v : RegVal} {e : Exc} (h : x.lat = none) (hl : x.late = false) :
    x.perform u.c u.n v e = (u.used x.rel).owing x.dest (u.n.keepLanes x.dest x.rel v) := deliver_owed h hl

/-- A simple instruction of latency 1 completes with its destination written. -/
theorem simple_one {s : State} {u : Issue} {st : Nat} (x : Simple) {v : RegVal} (h : Clear s u x.reads [x.dest])
    (hs : Steady s u) (hv : x.vec = true → u.n.vec.isSome = true) (hf : x.f u.n = .ok (v, 0)) (hl : x.lat = some 1)
    (hst : x.st = st) :
    simple x s = .next (s.finish u st 0 ((u.used x.rel).writeReg x.dest (u.n.keepLanes x.dest x.rel v))) := by
  subst hst
  rw [simple_ok x h hs hv hf (by simp), perform_one hl, Node.raise_zero]

/-- A simple instruction of a longer latency completes with its result on its way. -/
theorem simple_fixed {s : State} {u : Issue} {st : Nat} (l : Nat) (x : Simple) {v : RegVal} {e : Exc}
    (h : Clear s u x.reads [x.dest]) (hs : Steady s u) (hv : x.vec = true → u.n.vec.isSome = true)
    (hf : x.f u.n = .ok (v, e)) (hl : x.lat = some l) (h1 : 1 < l) (he : e &&& u.n.fpte = 0) (hst : x.st = st) :
    simple x s = .next (s.finish u st 0
      (((u.used x.rel).raise e).landing (u.last + l) x.dest (u.n.keepLanes x.dest x.rel v))) := by
  subst hst
  rw [simple_ok x h hs hv hf he, perform_fixed hl h1]

/-- A simple interlocked instruction completes with its result owed. -/
theorem simple_owed {s : State} {u : Issue} {st : Nat} (x : Simple) {v : RegVal} {e : Exc}
    (h : Clear s u x.reads [x.dest]) (hs : Steady s u) (hv : x.vec = true → u.n.vec.isSome = true)
    (hf : x.f u.n = .ok (v, e)) (hl : x.lat = none) (h1 : x.late = false) (he : e &&& u.n.fpte = 0) (hst : x.st = st) :
    simple x s = .next (s.finish u st 0 ((u.used x.rel).owing x.dest (u.n.keepLanes x.dest x.rel v))) := by
  subst hst
  rw [simple_ok x h hs hv hf he, perform_owed hl h1]

/-- A simple instruction whose value is a trap is unperformed. -/
theorem simple_trap {s : State} {u : Issue} (x : Simple) {t : Trap} (h : Clear s u x.reads [x.dest])
    (hv : x.vec = true → u.n.vec.isSome = true) (hf : x.f u.n = .error t) :
    simple x s = .next (s.trapUnperformed u t 0 false) := by
  unfold simple
  rw [issue_clear (nd := x.need) _ h (simple_pre x hv)]
  unfold Simple.body
  rw [hf]
  rfl

/-- A simple instruction that raises an enabled exception sets its flags and traps. -/
theorem simple_fpTrap {s : State} {u : Issue} (x : Simple) {v : RegVal} {e : Exc} (h : Clear s u x.reads [x.dest])
    (hs : Steady s u) (hv : x.vec = true → u.n.vec.isSome = true) (hf : x.f u.n = .ok (v, e)) (he : e &&& u.n.fpte ≠ 0) :
    simple x s =
      .next (s.trapUnperformed u { cause := excCause (e &&& u.n.fpte), detail := e.zeroExtend 16 } e false) := by
  rw [simple_concl x h hs hv hf]
  have ht : u.n.fpTrap e = some { cause := excCause (e &&& u.n.fpte), detail := e.zeroExtend 16 } := by
    unfold Node.fpTrap; rw [if_neg he]
  rw [ht]

/-- Releasing registers moves no name. -/
theorem Node.releaseAll_loc (n : Node) (rel : List Loc) : (n.releaseAll rel).loc = n.loc := by
  funext r; unfold Node.loc; simp

/-- The last execution of an instruction finds the enabled exceptions and the names of the registers as the first did. -/
theorem Issue.used_fpte (u : Issue) (rel : List RegName) : (u.used rel).fpte = u.n.fpte := by
  unfold Issue.used Node.atLast Node.fpte
  split <;> simp
theorem Issue.used_loc (u : Issue) (rel : List RegName) : (u.used rel).loc = u.n.loc := by
  unfold Issue.used
  rw [Node.releaseAll_loc]
  unfold Node.atLast
  split
  · funext r; unfold Node.loc; simp
  · rfl

/-- A register that is no vector register is written whole. -/
theorem Node.keepLanes_word (n : Node) (d : RegName) (rel : List RegName) (v : RegVal) (h : ∀ r, d ≠ .v r) :
    n.keepLanes d rel v = v := by
  cases d with
  | v r => exact absurd rfl (h r)
  | _ => rfl
@[simp] theorem Node.keepLanes_g (n : Node) (r : GReg) (rel : List RegName) (v : RegVal) : n.keepLanes (.g r) rel v = v := rfl
@[simp] theorem Node.keepLanes_a (n : Node) (r : AReg) (rel : List RegName) (v : RegVal) : n.keepLanes (.a r) rel v = v := rfl
@[simp] theorem Node.keepLanes_p (n : Node) (r : PReg) (rel : List RegName) (v : RegVal) : n.keepLanes (.p r) rel v = v := rfl
@[simp] theorem Node.keepLanes_k (n : Node) (r : KReg) (rel : List RegName) (v : RegVal) : n.keepLanes (.k r) rel v = v := rfl
/-- So is a vector register that the instruction does not release. -/
theorem Node.keepLanes_kept (n : Node) (d : RegName) (rel : List RegName) (v : RegVal) (h : rel.contains d = false) :
    n.keepLanes d rel v = v := by
  unfold Node.keepLanes
  split
  · rw [h]; rfl
  · rfl

/-- An instruction whose flags come with its result, no exception being enabled: result and flags are owed together. -/
theorem simple_late {s : State} {u : Issue} {st : Nat} (x : Simple) {v : RegVal} {e : Exc}
    (h : Clear s u x.reads [x.dest]) (hs : Steady s u) (hv : x.vec = true → u.n.vec.isSome = true)
    (hf : x.f u.n = .ok (v, e)) (hl : x.lat = none) (h1 : x.late = true) (hz : u.n.fpte = 0) (hst : x.st = st) :
    simple x s = .next (s.finish u st 0 ((u.used x.rel).owe (u.n.locs [x.dest])
      (.value ((u.n.locs [x.dest]).map (fun d => ⟨d, u.n.keepLanes x.dest x.rel v⟩))) 0 e true)) := by
  subst hst
  rw [simple_ok x h hs hv hf (by rw [hz]; exact BitVec.and_zero)]
  congr 2
  unfold Simple.perform Simple.deliver
  rw [hl, h1]
  have hf : ((u.n.atLast u.c).releaseAll (u.n.locs x.rel)).fpte = 0 := (u.used_fpte x.rel).trans hz
  have hn : ((u.n.atLast u.c).releaseAll (u.n.locs x.rel)).locs [x.dest] = u.n.locs [x.dest] := by
    show (u.used x.rel).locs [x.dest] = _
    unfold Node.locs
    rw [u.used_loc]
  rw [hn]
  exact if_pos (by simp [hf])

/-- The same with an exception enabled that it does not raise: its cell held for the result, which is written. -/
theorem simple_late_fpte {s : State} {u : Issue} {st : Nat} (x : Simple) {v : RegVal} {e : Exc}
    (h : Clear s u x.reads [x.dest]) (hs : Steady s u) (hv : x.vec = true → u.n.vec.isSome = true)
    (hf : x.f u.n = .ok (v, e)) (hl : x.lat = none) (h1 : x.late = true) (hz : u.n.fpte ≠ 0) (he : e &&& u.n.fpte = 0)
    (hst : x.st = st) :
    simple x s = .next (s.finish u st 0
      (((u.used x.rel).raise e).writeReg x.dest (u.n.keepLanes x.dest x.rel v))) := by
  subst hst
  rw [simple_ok x h hs hv hf he]
  congr 2
  unfold Simple.perform Simple.deliver
  rw [hl, h1]
  have hf : ((u.n.atLast u.c).releaseAll (u.n.locs x.rel)).fpte ≠ 0 := fun h => hz ((u.used_fpte x.rel).symm.trans h)
  dsimp only
  rw [if_neg (by simpa using hf), if_pos rfl]
  rfl

end Sys2Proof.Machine
end

