-- ==== Sys2Proof/Laws/Control.lean ====
section
/-! SUPPORT. What completing an instruction, taking a trap and holding a cell leave of the state: each once, in the terms of the
fields that change. -/

namespace Sys2Proof.Machine

-- One proof at a time: a thread for each would pass the limit of memory.
set_option Elab.async false

/-- Two updates of one cell. -/
theorem State.setCell_setNode (s : State) (p i : Nat) (c : Cell) (n : Node) :
    (s.setCell p c).setNode p i n = s.setCell p (c.setNode i n) := by
  unfold State.setNode
  rw [State.cell_setCell_self]
  unfold State.setCell
  dsimp only
  congr 1
  generalize s.cells = t
  generalize c.setNode i n = d
  induction t with
  | nil => simp [Tab.set]
  | cons a l ih =>
    obtain ⟨k, w⟩ := a
    simp only [Tab.set]
    split
    · simp [Tab.set]
    · split
      · simp [Tab.set]
      · next h1 h2 => simp only [Tab.set, if_neg h1, if_neg h2, ih]

/-- A node written in a cell of which only the time, the nodes and the choice of a running node change. -/
theorem elsewhere_setNode (s : State) (p i : Nat) (c : Cell) (n : Node)
    (hc : { c with cyc := 0, nodes := [], running := none } = { s.cell p with cyc := 0, nodes := [], running := none })
    (hn : ∀ j, j ≠ i → c.node? j = s.node? p j) : Elsewhere s (s.setCell p (c.setNode i n)) p i := by
  constructor <;> try rfl
  · intro q hq; exact State.cell_setCell_ne _ _ hq
  · intro j hj; rw [State.node?_setCell, Cell.node?_setNode_ne _ _ hj]; exact hn j hj
  · rw [State.cell_setCell_self]; exact hc

/-- The next word and the loop count, field by field (R134). -/
theorem Node.advance_eq (n : Node) (x : Option Word) : n.advance x = { n with
    pc := match x with
      | some d => d
      | none => if n.loopc ≠ 0 ∧ n.pc = n.loope ∧ n.loopc ≠ 1 then n.loops else n.pc + 4
    loopc := match x with
      | some d => if d < n.loops ∨ n.loope < d then 0 else n.loopc
      | none => if n.loopc ≠ 0 ∧ n.pc = n.loope then n.loopc - 1 else n.loopc } := by
  unfold Node.advance
  cases x with
  | some d =>
    dsimp only
    by_cases h0 : n.loopc = 0
    · rw [if_neg (by simp [h0])]
      simp only [h0, ite_self]
    · by_cases h : d < n.loops ∨ n.loope < d
      · rw [if_pos ⟨h0, h⟩, if_pos h]
      · rw [if_neg (fun k => h k.2), if_neg h]
  | none =>
    dsimp only
    by_cases h : n.loopc ≠ 0 ∧ n.pc = n.loope
    · rw [if_pos h, if_pos h]
      by_cases h1 : n.loopc = 1
      · have e : ¬ (n.loopc - 1 ≠ 0) := by rw [h1]; decide
        rw [if_neg e, if_neg (fun k => k.2.2 h1), ← h.2, h1]; rfl
      · rw [if_pos, if_pos ⟨h.1, h.2, h1⟩]
        intro k; apply h1; have := BitVec.sub_eq_iff_eq_add.mp k; simpa using this
    · rw [if_neg h, if_neg h, if_neg (fun k => h ⟨k.1, k.2.1⟩)]

/-- Completion without a trap after it. -/
theorem State.finish_eq {s : State} {u : Issue} {st extra : Nat} {n : Node} {x : Option Word} (h : u.n.singleStep = false) :
    s.finish u st extra n x = s.setCell u.p (({ s.cell u.p with cyc := u.c + n.slots extra } : Cell).setNode u.i
      { n.advance x with issueAt := u.c + n.slots extra + st + n.hints.stall, hints := {}, bkSkip := none }) := by
  unfold State.finish State.complete
  rw [h]
  simp only [Bool.false_eq_true, if_false]
  rw [State.setCell_setNode]

/-- A trap that the node's own handler takes. -/
theorem State.takeTrap_own {s : State} {p i : Nat} {n : Node} {t : Trap} (tip : Word) (h : t.cause.isHeld = false)
    (h1 : n.inTrap = false) (h2 : n.notv = false) : s.takeTrap p i n t tip = s.setNode p i (n.enterTrap t tip) := by
  unfold State.takeTrap
  simp only [h, h1, h2, Bool.or_self, Bool.false_eq_true, if_false]

/-- Completion with SINGLE_STEP after it (R37). -/
theorem State.finish_step {s : State} {u : Issue} {st extra : Nat} {n : Node} {x : Option Word} (h : u.n.singleStep = true)
    (h1 : n.inTrap = false) (h2 : n.notv = false) :
    s.finish u st extra n x = s.setCell u.p (({ s.cell u.p with cyc := u.c + n.slots extra } : Cell).setNode u.i
      (({ n.advance x with issueAt := u.c + n.slots extra + st + n.hints.stall, hints := {}, bkSkip := none } : Node).enterTrap
        { cause := .singleStep } (n.advance x).pc)) := by
  unfold State.finish State.complete
  rw [h]
  simp only [if_true]
  rw [State.takeTrap_own (h := rfl) (h1 := by rw [Node.advance_eq]; exact h1) (h2 := by rw [Node.advance_eq]; exact h2),
    State.setCell_setNode]

/-- An unperformed instruction whose trap the node's own handler takes. -/
theorem State.trapUnperformed_own {s : State} {u : Issue} {t : Trap} {f : BitVec 5} (h : t.cause.isHeld = false)
    (h1 : u.n.inTrap = false) (h2 : u.n.notv = false) :
    s.trapUnperformed u t f false = s.setCell u.p (({ s.cell u.p with cyc := u.c + 1 } : Cell).setNode u.i
      (({ u.n with flags := u.n.flags ||| f, issueAt := u.c + 1 } : Node).enterTrap t u.n.firstWord)) := by
  unfold State.trapUnperformed
  dsimp only
  rw [State.takeTrap_own (h := h) (h1 := by exact h1) (h2 := by exact h2), State.setCell_setNode]

/-- A held cell (R28). -/
theorem State.holdCell_eq (s : State) (u : Issue) :
    s.holdCell u = s.setCell u.p (({ s.cell u.p with cyc := u.c + 1 } : Cell).setNode u.i u.n) := by
  unfold State.holdCell
  rw [State.setCell_setNode]

/-- What holding a cell leaves. -/
theorem State.holdCell_spec (s : State) (u : Issue) :
    (s.holdCell u).node? u.p u.i = some u.n ∧ ((s.holdCell u).cell u.p).cyc = u.c + 1 ∧ Elsewhere s (s.holdCell u) u.p u.i := by
  rw [State.holdCell_eq]
  refine ⟨?_, ?_, elsewhere_setNode _ _ _ _ _ rfl (fun _ _ => rfl)⟩
  · rw [State.node?_setCell, Cell.node?_setNode_self]
  · rw [State.cell_setCell_self]; rfl

end Sys2Proof.Machine
end

