-- ==== Sys2Proof/Laws/Layout.lean ====
section
/-! SUPPORT. A word as the sum of its fields: what the decoder's field operations read from such a sum. -/

namespace Sys2Proof.Laws

-- One proof at a time: a thread for each would pass the limit of memory.
set_option Elab.async false

/-- The sum of fields (lowest bit, width, value). -/
def packs : List (Nat × Nat × Nat) → Nat
  | [] => 0
  | (lo, _, v) :: t => v * 2 ^ lo + packs t

/-- Fields from bit `k` up, ascending and disjoint, each value within its width, and none beyond bit 31. -/
def Layout : Nat → List (Nat × Nat × Nat) → Prop
  | k, [] => k ≤ 32
  | k, (lo, w, v) :: t => k ≤ lo ∧ v < 2 ^ w ∧ Layout (lo + w) t

/-- A layout field by field: a number that fits its width, a field of a bit vector, a flag, and the end. -/
theorem Layout.lit {k lo w v : Nat} {t : List (Nat × Nat × Nat)} (h : (Nat.ble k lo && Nat.blt v (2 ^ w)) = true)
    (r : Layout (lo + w) t) : Layout k ((lo, w, v) :: t) := by
  rw [Bool.and_eq_true] at h
  exact ⟨Nat.le_of_ble_eq_true h.1, Nat.le_of_ble_eq_true h.2, r⟩
theorem Layout.val {k lo w : Nat} {t : List (Nat × Nat × Nat)} (x : BitVec w) (h : Nat.ble k lo = true)
    (r : Layout (lo + w) t) : Layout k ((lo, w, x.toNat) :: t) := ⟨Nat.le_of_ble_eq_true h, x.isLt, r⟩
theorem Layout.flag {k lo : Nat} {t : List (Nat × Nat × Nat)} (b : Bool) (h : Nat.ble k lo = true)
    (r : Layout (lo + 1) t) : Layout k ((lo, 1, b.toNat) :: t) := ⟨Nat.le_of_ble_eq_true h, b.toNat_lt, r⟩
theorem Layout.done {k : Nat} (h : Nat.ble k 32 = true) : Layout k [] := Nat.le_of_ble_eq_true h

/-- The value of the field at `lo` of width `w`. -/
def look : List (Nat × Nat × Nat) → Nat → Nat → Option Nat
  | [], _, _ => none
  | (lo', w', v) :: t, lo, w => if lo' = lo ∧ w' = w then some v else look t lo w

theorem packs_dvd : ∀ {l : List (Nat × Nat × Nat)} {k : Nat}, Layout k l → 2 ^ k ∣ packs l
  | [], _, _ => by simp [packs]
  | (lo, w, v) :: t, k, h => by
    have h2 := packs_dvd h.2.2
    simp only [packs]
    exact Nat.dvd_add (Dvd.dvd.mul_left (Nat.pow_dvd_pow 2 h.1) _)
      (Nat.dvd_trans (Nat.pow_dvd_pow 2 (by have := h.1; omega)) h2)

theorem fld_look : ∀ {l : List (Nat × Nat × Nat)} {k lo w v : Nat}, Layout k l → look l lo w = some v →
    fld (packs l) lo w = v
  | [], _, _, _, _, _, h => by simp [look] at h
  | (lo', w', v') :: t, k, lo, w, v, hl, h => by
    obtain ⟨c, hc⟩ := packs_dvd hl.2.2
    simp only [look] at h
    split at h
    · next e =>
      obtain ⟨rfl, rfl⟩ := e
      obtain rfl : v' = v := by simpa using h
      have hv := hl.2.1
      simp only [fld, packs, hc]
      rw [Nat.pow_add, show v' * 2 ^ lo' + 2 ^ lo' * 2 ^ w' * c = 2 ^ lo' * (v' + 2 ^ w' * c) by ring,
        Nat.mul_div_cancel_left _ (by positivity), Nat.add_mul_mod_self_left, Nat.mod_eq_of_lt hv]
    · have h2 := fld_look hl.2.2 h
      have hlo : lo' + w' ≤ lo := look_ge hl.2.2 h
      have hv := hl.2.1
      simp only [fld, packs] at *
      rw [← h2]
      congr 1
      obtain ⟨j, rfl⟩ := Nat.exists_eq_add_of_le hlo
      have e : (2 : Nat) ^ (lo' + w' + j) = 2 ^ (lo' + w') * 2 ^ j := Nat.pow_add ..
      rw [e, ← Nat.div_div_eq_div_mul, ← Nat.div_div_eq_div_mul, hc]
      congr 1
      have hlt : v' * 2 ^ lo' < 2 ^ (lo' + w') := by
        rw [Nat.pow_add, Nat.mul_comm]; exact Nat.mul_lt_mul_of_pos_left hv (by positivity)
      rw [Nat.add_comm, Nat.mul_add_div (by positivity), Nat.div_eq_of_lt hlt, Nat.mul_div_cancel_left _ (by positivity)]
      rfl
where
  look_ge : ∀ {l : List (Nat × Nat × Nat)} {k lo w v : Nat}, Layout k l → look l lo w = some v → k ≤ lo
    | [], _, _, _, _, _, h => by simp [look] at h
    | (lo', w', v') :: t, k, lo, w, v, hl, h => by
      simp only [look] at h
      split at h
      · next e => exact e.1 ▸ hl.1
      · have := look_ge hl.2.2 h; have := hl.1; omega

theorem layout_le : ∀ {l : List (Nat × Nat × Nat)} {k : Nat}, Layout k l → k ≤ 32
  | [], _, h => h
  | (lo, w, _) :: _, _, h => by have := layout_le h.2.2; have := h.1; omega

theorem packs_lt : ∀ {l : List (Nat × Nat × Nat)} {k : Nat}, Layout k l → packs l < 2 ^ 32
  | [], _, _ => by simp [packs]
  | (lo, w, v) :: t, k, hl => by
    have h1 := layout_le hl.2.2
    have h2 := packs_lt hl.2.2
    obtain ⟨c, hc⟩ := packs_dvd hl.2.2
    have hlt : v * 2 ^ lo < 2 ^ (lo + w) := by
      rw [Nat.pow_add, Nat.mul_comm]; exact Nat.mul_lt_mul_of_pos_left hl.2.1 (by positivity)
    obtain ⟨j, hj⟩ := Nat.exists_eq_add_of_le h1
    have hc2 : c < 2 ^ j := by
      refine Nat.lt_of_mul_lt_mul_left (a := 2 ^ (lo + w)) ?_
      rw [← Nat.pow_add, ← hj, ← hc]; exact h2
    rw [packs, hc, hj, Nat.pow_add 2 (lo + w) j]
    calc v * 2 ^ lo + 2 ^ (lo + w) * c < 2 ^ (lo + w) + 2 ^ (lo + w) * c := by omega
      _ = 2 ^ (lo + w) * (c + 1) := by ring
      _ ≤ 2 ^ (lo + w) * 2 ^ j := Nat.mul_le_mul_left _ hc2

/-- The word of an instruction that encodes to a sum of fields: a number whose fields are those of the sum. -/
theorem word_of {l : List (Nat × Nat × Nat)} {i : Instr} {w : Word} {m : Nat} (hw : encode i = some w) (hl : Layout 0 l)
    (hm : encodeNat i = some m) (hn : m = packs l) :
    ∃ n, decode w = decodeNat n ∧ ∀ lo k v, look l lo k = some v → fld n lo k = v := by
  refine ⟨packs l, ?_, fun lo k v h => fld_look hl h⟩
  rw [encode, hm, hn, Option.map_some, Option.some.injEq] at hw
  rw [← hw, decode, BitVec.toNat_ofNat, Nat.mod_eq_of_lt (packs_lt hl)]

section
variable {n : Nat} {l : List (Nat × Nat × Nat)} (hf : ∀ lo k v, look l lo k = some v → fld n lo k = v)
include hf

/-- A field as a bit vector. -/
theorem bf_of {w : Nat} (lo : Nat) (x : BitVec w) (h : look l lo w = some x.toNat) : bf n lo w = x := by
  apply BitVec.eq_of_toNat_eq
  rw [bf, BitVec.toNat_ofNat]
  exact hf _ _ _ h

/-- A field of one bit as a truth value. -/
theorem flag_of (lo : Nat) (b : Bool) (h : look l lo 1 = some b.toNat) : flag n lo = b := by
  have := hf _ _ _ h
  simp only [fld] at this
  simp only [flag]
  cases b <;> simp at this ⊢ <;> omega

end

/-- Two fields that touch, as one. -/
theorem fld_cat {n lo w w' x y : Nat} (hx : fld n lo w = x) (hy : fld n (lo + w) w' = y) :
    fld n lo (w + w') = x + 2 ^ w * y := by
  subst hx hy
  simp only [fld]
  rw [Nat.pow_add 2 lo w, ← Nat.div_div_eq_div_mul, Nat.pow_add 2 w w', Nat.mod_mul]

/-- The checks of `form`, one by one. -/
def zeros (n : Nat) : List (Nat × Nat) → Prop
  | [] => True
  | f :: t => fld n f.1 f.2 = 0 ∧ zeros n t
def noneBad : List (Nat × Bool) → Prop
  | [] => True
  | b :: t => b.2 = false ∧ noneBad t
def pairsOk (n : Nat) : List Nat → Prop
  | [] => True
  | p :: t => (fld n p 5 % 2 = 0 ∧ fld n p 5 ≠ 0) ∧ pairsOk n t
def parOk (n : Nat) : Option (Nat × Nat × Nat) → Prop
  | none => True
  | some (hi, lo, k) => fld n hi k % 2 ≠ fld n lo k % 2 ∨ (k ≠ 4 ∧ (fld n hi k = 0 ∨ fld n lo k = 0))

theorem zeros_find {n : Nat} : ∀ {m : List (Nat × Nat)}, zeros n m → m.find? (fun f => fld n f.1 f.2 != 0) = none
  | [], _ => rfl
  | f :: t, h => by rw [List.find?_cons_of_neg (by simp [h.1])]; exact zeros_find h.2
theorem bad_find : ∀ {m : List (Nat × Bool)}, noneBad m → m.find? (fun b => b.2) = none
  | [], _ => rfl
  | f :: t, h => by rw [List.find?_cons_of_neg (by simp [h.1])]; exact bad_find h.2
theorem pairs_find {n : Nat} : ∀ {m : List Nat}, pairsOk n m →
    m.find? (fun p => fld n p 5 % 2 == 1 || fld n p 5 == 0) = none
  | [], _ => rfl
  | f :: t, h => by
    have := h.1
    rw [List.find?_cons_of_neg (by simp only [Bool.or_eq_true, beq_iff_eq]; omega)]; exact pairs_find h.2

/-- Check 4 passes: every field that must be zero is, no field has a value that is not allowed, every pair field is even and
not zero, and the parity rule holds. -/
theorem form_ok {n : Nat} {mbz : List (Nat × Nat)} {bad : List (Nat × Bool)} {pairs : List Nat}
    {par : Option (Nat × Nat × Nat)} {i : Instr} (h1 : zeros n mbz) (h2 : noneBad bad)
    (h3 : pairsOk n pairs) (h4 : parOk n par) : form n mbz bad pairs par i = .ok i := by
  unfold form
  rw [zeros_find h1]
  simp only []
  rw [bad_find h2]
  simp only []
  rw [pairs_find h3]
  cases par with
  | none => rfl
  | some q =>
    obtain ⟨hi, lo, k⟩ := q
    simp only [parOk] at h4 ⊢
    rw [if_neg]
    simp only [Bool.and_eq_true, beq_iff_eq, Bool.or_eq_true, bne_iff_ne]
    omega

theorem wf_head {x y : Bool} (h : (x && y) = true) : x = true := by cases x <;> simp_all
theorem wf_tail {x y : Bool} (h : (x && y) = true) : y = true := by cases x <;> simp_all
theorem ne_three {x : BitVec 2} (h : (x != 3#2) = true) : x.toNat ≠ 3 := by
  intro e; simp only [bne_iff_ne] at h; exact h (BitVec.eq_of_toNat_eq e)

section
variable {n : Nat} {l : List (Nat × Nat × Nat)} (hf : ∀ lo k v, look l lo k = some v → fld n lo k = v)
include hf

/-- The fields that must be zero are, as the layout has them. -/
theorem zeros_at : ∀ {m : List (Nat × Nat)}, m.all (fun f => (look l f.1 f.2).any (Nat.beq 0)) = true → zeros n m
  | [], _ => trivial
  | f :: t, h => by
    rw [List.all_cons, Bool.and_eq_true, Option.any_eq_true] at h
    obtain ⟨⟨v, hv, h0⟩, hr⟩ := h
    exact ⟨(hf _ _ _ hv).trans (Nat.eq_of_beq_eq_true h0).symm, zeros_at hr⟩

theorem parity_at {hi lo : Nat} {a b : GReg} (ha : look l hi 5 = some a.toNat) (hb : look l lo 5 = some b.toNat)
    (h : parityOk a b = true) : parOk n (some (hi, lo, 5)) := by
  simp only [parOk, hf _ _ _ ha, hf _ _ _ hb]
  simp only [parityOk, Bool.or_eq_true, beq_iff_eq, bne_iff_ne] at h
  obtain (rfl | rfl) | h := h <;> simp_all

theorem vparity_at {hi lo : Nat} {a b : VReg} (ha : look l hi 4 = some a.toNat) (hb : look l lo 4 = some b.toNat)
    (h : vparityOk a b = true) : parOk n (some (hi, lo, 4)) := by
  simp only [parOk, hf _ _ _ ha, hf _ _ _ hb]
  simp only [vparityOk, bne_iff_ne] at h
  exact .inl h

theorem pair_at {lo : Nat} {a : GReg} (ha : look l lo 5 = some a.toNat) (h : pairOk a = true) :
    fld n lo 5 % 2 = 0 ∧ fld n lo 5 ≠ 0 := by
  simp only [pairOk, Bool.and_eq_true, beq_iff_eq, bne_iff_ne] at h
  rw [hf _ _ _ ha]
  exact ⟨h.1, fun e => h.2 (BitVec.eq_of_toNat_eq (by simpa using e))⟩

theorem pairs_dw {d b : GReg} {dw : Bool} (hb : look l 11 5 = some b.toNat) (hd : look l 21 5 = some d.toNat)
    (h : (!dw || (pairOk d && pairOk b)) = true) : pairsOk n (if dw = true then [11, 21] else []) := by
  cases dw with
  | false => trivial
  | true =>
    have h' : (pairOk d && pairOk b) = true := by simpa using h
    exact ⟨pair_at hf hb (wf_tail h'), pair_at hf hd (wf_head h'), trivial⟩

theorem bad_comb {lo : Nat} {c : BitVec 2} (hc : look l lo 2 = some c.toNat) (h : (c != 3#2) = true) :
    (fld n lo 2 == 3) = false := by
  rw [hf _ _ _ hc]; simpa using ne_three h

theorem bad_never {p : PReg} {b : Bool} (hp : look l 23 3 = some p.toNat) (hb : look l 22 1 = some b.toNat)
    (h : (!(p == 0#3 && b)) = true) : (fld n 23 3 == 0 && fld n 22 1 == 1) = false := by
  rw [hf _ _ _ hp, hf _ _ _ hb]
  cases b with
  | false => simp
  | true =>
    simp only [Bool.and_true, Bool.not_eq_true', beq_eq_false_iff_ne] at h
    have : p.toNat ≠ 0 := fun e => h (BitVec.eq_of_toNat_eq (by simpa using e))
    simpa using this

theorem bad_loop {imm : BitVec 13} (hi : look l 0 13 = some imm.toNat)
    (h : (imm != 0#13 && decide (imm.toNat < 4096)) = true) : (fld n 0 13 == 0 || fld n 12 1 == 1) = false := by
  have h0 := hf _ _ _ hi
  have h1 : imm.toNat ≠ 0 := fun e => (bne_iff_ne.mp (wf_head h)) (BitVec.eq_of_toNat_eq (by simpa using e))
  have h2 := of_decide_eq_true (wf_tail h)
  simp only [fld] at h0 ⊢
  simp only [Bool.or_eq_false_iff, beq_eq_false_iff_ne]
  omega

theorem bad_one {lo : Nat} (h0 : look l lo 1 = some 0) : (fld n lo 1 == 1) = false := by
  rw [hf _ _ _ h0]; rfl

theorem bad_odd {lo : Nat} {x : AReg} (hx : look l lo 3 = some x.toNat) (h : (x.toNat % 2 == 0) = true) :
    (fld n lo 1 == 1) = false := by
  have h0 := hf _ _ _ hx
  simp only [fld, beq_iff_eq, beq_eq_false_iff_ne] at *
  omega

theorem bad_gt {lo w k : Nat} {x : BitVec w} (hx : look l lo w = some x.toNat) (h : x.toNat ≤ k) :
    decide (k < fld n lo w) = false := by
  rw [hf _ _ _ hx]; simpa using h

theorem bad_k {x : BitVec 6} (hx : look l 7 6 = some x.toNat) (h : x.toNat ≤ 7) (h' : (x != 0#6) = true) :
    (decide (7 < fld n 7 6) || fld n 7 6 == 0) = false := by
  have : x.toNat ≠ 0 := fun e => (bne_iff_ne.mp h') (BitVec.eq_of_toNat_eq (by simpa using e))
  rw [hf _ _ _ hx]; simpa using ⟨h, this⟩

end

theorem wf_dcas_x {x d b : Bool} (h : (x && d && b) = true) : x = true := wf_head (wf_head h)
theorem wf_dcas_d {x d b : Bool} (h : (x && d && b) = true) : d = true := wf_tail (wf_head h)
theorem wf_dcas_b {x d b : Bool} (h : (x && d && b) = true) : b = true := wf_tail h

end Sys2Proof.Laws
end

