-- ==== Sys2Proof/Laws/PerInstr.lean ====
section
/-! SUPPORT. Decoding what an instruction encodes to gives the instruction back: the statement of one instruction, and its
lemma for every constructor. -/

namespace Sys2Proof.Laws

-- One proof at a time: a thread for each would pass the limit of memory.
set_option Elab.async false

/-- Decoding the word of a well-formed instruction gives the instruction. -/
def RoundTrip.Statement (i : Instr) : Prop := ∀ w : Word, i.wf = true → encode i = some w → decode w = .ok i

theorem RoundTrip.add (d : GReg) (a : GReg) (b : GReg) (la : Bool) (lb : Bool) (st : BitVec 2) : RoundTrip.Statement (.add d a b la lb st) := by
  intro wd h he
  obtain ⟨num, hd, hf⟩ := word_of (l := [(0, 7, 0), (7, 2, st.toNat), (9, 1, lb.toNat), (10, 1, la.toNat), (11, 5, b.toNat), (16, 5, a.toNat), (21, 5, d.toNat), (26, 6, 1)]) he
    (.lit rfl <| .val st rfl <| .flag lb rfl <| .flag la rfl <| .val b rfl <| .val a rfl <| .val d rfl <| .lit rfl <| .done rfl)
    (show _ = enc1 0x04000000 d a b la lb st from rfl) (by simp only [packs]; omega)
  rw [hd, decodeNat, hf 26 6 1 rfl]
  show decodeInt num = _
  rw [decodeInt, hf 0 7 0 rfl]
  show form _ _ _ _ _ _ = _
  rw [bf_of hf 21 d rfl, bf_of hf 16 a rfl, bf_of hf 11 b rfl, flag_of hf 10 la rfl, flag_of hf 9 lb rfl, bf_of hf 7 st rfl]
  exact form_ok trivial trivial trivial (parity_at hf rfl rfl (h))

theorem RoundTrip.sub (d : GReg) (a : GReg) (b : GReg) (la : Bool) (lb : Bool) (st : BitVec 2) : RoundTrip.Statement (.sub d a b la lb st) := by
  intro wd h he
  obtain ⟨num, hd, hf⟩ := word_of (l := [(0, 7, 1), (7, 2, st.toNat), (9, 1, lb.toNat), (10, 1, la.toNat), (11, 5, b.toNat), (16, 5, a.toNat), (21, 5, d.toNat), (26, 6, 1)]) he
    (.lit rfl <| .val st rfl <| .flag lb rfl <| .flag la rfl <| .val b rfl <| .val a rfl <| .val d rfl <| .lit rfl <| .done rfl)
    (show _ = enc1 0x04000001 d a b la lb st from rfl) (by simp only [packs]; omega)
  rw [hd, decodeNat, hf 26 6 1 rfl]
  show decodeInt num = _
  rw [decodeInt, hf 0 7 1 rfl]
  show form _ _ _ _ _ _ = _
  rw [bf_of hf 21 d rfl, bf_of hf 16 a rfl, bf_of hf 11 b rfl, flag_of hf 10 la rfl, flag_of hf 9 lb rfl, bf_of hf 7 st rfl]
  exact form_ok trivial trivial trivial (parity_at hf rfl rfl (h))

theorem RoundTrip.and (d : GReg) (a : GReg) (b : GReg) (la : Bool) (lb : Bool) (st : BitVec 2) : RoundTrip.Statement (.and d a b la lb st) := by
  intro wd h he
  obtain ⟨num, hd, hf⟩ := word_of (l := [(0, 7, 2), (7, 2, st.toNat), (9, 1, lb.toNat), (10, 1, la.toNat), (11, 5, b.toNat), (16, 5, a.toNat), (21, 5, d.toNat), (26, 6, 1)]) he
    (.lit rfl <| .val st rfl <| .flag lb rfl <| .flag la rfl <| .val b rfl <| .val a rfl <| .val d rfl <| .lit rfl <| .done rfl)
    (show _ = enc1 0x04000002 d a b la lb st from rfl) (by simp only [packs]; omega)
  rw [hd, decodeNat, hf 26 6 1 rfl]
  show decodeInt num = _
  rw [decodeInt, hf 0 7 2 rfl]
  show form _ _ _ _ _ _ = _
  rw [bf_of hf 21 d rfl, bf_of hf 16 a rfl, bf_of hf 11 b rfl, flag_of hf 10 la rfl, flag_of hf 9 lb rfl, bf_of hf 7 st rfl]
  exact form_ok trivial trivial trivial (parity_at hf rfl rfl (h))

theorem RoundTrip.andn (d : GReg) (a : GReg) (b : GReg) (la : Bool) (lb : Bool) (st : BitVec 2) : RoundTrip.Statement (.andn d a b la lb st) := by
  intro wd h he
  obtain ⟨num, hd, hf⟩ := word_of (l := [(0, 7, 3), (7, 2, st.toNat), (9, 1, lb.toNat), (10, 1, la.toNat), (11, 5, b.toNat), (16, 5, a.toNat), (21, 5, d.toNat), (26, 6, 1)]) he
    (.lit rfl <| .val st rfl <| .flag lb rfl <| .flag la rfl <| .val b rfl <| .val a rfl <| .val d rfl <| .lit rfl <| .done rfl)
    (show _ = enc1 0x04000003 d a b la lb st from rfl) (by simp only [packs]; omega)
  rw [hd, decodeNat, hf 26 6 1 rfl]
  show decodeInt num = _
  rw [decodeInt, hf 0 7 3 rfl]
  show form _ _ _ _ _ _ = _
  rw [bf_of hf 21 d rfl, bf_of hf 16 a rfl, bf_of hf 11 b rfl, flag_of hf 10 la rfl, flag_of hf 9 lb rfl, bf_of hf 7 st rfl]
  exact form_ok trivial trivial trivial (parity_at hf rfl rfl (h))

theorem RoundTrip.or (d : GReg) (a : GReg) (b : GReg) (la : Bool) (lb : Bool) (st : BitVec 2) : RoundTrip.Statement (.or d a b la lb st) := by
  intro wd h he
  obtain ⟨num, hd, hf⟩ := word_of (l := [(0, 7, 4), (7, 2, st.toNat), (9, 1, lb.toNat), (10, 1, la.toNat), (11, 5, b.toNat), (16, 5, a.toNat), (21, 5, d.toNat), (26, 6, 1)]) he
    (.lit rfl <| .val st rfl <| .flag lb rfl <| .flag la rfl <| .val b rfl <| .val a rfl <| .val d rfl <| .lit rfl <| .done rfl)
    (show _ = enc1 0x04000004 d a b la lb st from rfl) (by simp only [packs]; omega)
  rw [hd, decodeNat, hf 26 6 1 rfl]
  show decodeInt num = _
  rw [decodeInt, hf 0 7 4 rfl]
  show form _ _ _ _ _ _ = _
  rw [bf_of hf 21 d rfl, bf_of hf 16 a rfl, bf_of hf 11 b rfl, flag_of hf 10 la rfl, flag_of hf 9 lb rfl, bf_of hf 7 st rfl]
  exact form_ok trivial trivial trivial (parity_at hf rfl rfl (h))

theorem RoundTrip.orn (d : GReg) (a : GReg) (b : GReg) (la : Bool) (lb : Bool) (st : BitVec 2) : RoundTrip.Statement (.orn d a b la lb st) := by
  intro wd h he
  obtain ⟨num, hd, hf⟩ := word_of (l := [(0, 7, 5), (7, 2, st.toNat), (9, 1, lb.toNat), (10, 1, la.toNat), (11, 5, b.toNat), (16, 5, a.toNat), (21, 5, d.toNat), (26, 6, 1)]) he
    (.lit rfl <| .val st rfl <| .flag lb rfl <| .flag la rfl <| .val b rfl <| .val a rfl <| .val d rfl <| .lit rfl <| .done rfl)
    (show _ = enc1 0x04000005 d a b la lb st from rfl) (by simp only [packs]; omega)
  rw [hd, decodeNat, hf 26 6 1 rfl]
  show decodeInt num = _
  rw [decodeInt, hf 0 7 5 rfl]
  show form _ _ _ _ _ _ = _
  rw [bf_of hf 21 d rfl, bf_of hf 16 a rfl, bf_of hf 11 b rfl, flag_of hf 10 la rfl, flag_of hf 9 lb rfl, bf_of hf 7 st rfl]
  exact form_ok trivial trivial trivial (parity_at hf rfl rfl (h))

theorem RoundTrip.xor (d : GReg) (a : GReg) (b : GReg) (la : Bool) (lb : Bool) (st : BitVec 2) : RoundTrip.Statement (.xor d a b la lb st) := by
  intro wd h he
  obtain ⟨num, hd, hf⟩ := word_of (l := [(0, 7, 6), (7, 2, st.toNat), (9, 1, lb.toNat), (10, 1, la.toNat), (11, 5, b.toNat), (16, 5, a.toNat), (21, 5, d.toNat), (26, 6, 1)]) he
    (.lit rfl <| .val st rfl <| .flag lb rfl <| .flag la rfl <| .val b rfl <| .val a rfl <| .val d rfl <| .lit rfl <| .done rfl)
    (show _ = enc1 0x04000006 d a b la lb st from rfl) (by simp only [packs]; omega)
  rw [hd, decodeNat, hf 26 6 1 rfl]
  show decodeInt num = _
  rw [decodeInt, hf 0 7 6 rfl]
  show form _ _ _ _ _ _ = _
  rw [bf_of hf 21 d rfl, bf_of hf 16 a rfl, bf_of hf 11 b rfl, flag_of hf 10 la rfl, flag_of hf 9 lb rfl, bf_of hf 7 st rfl]
  exact form_ok trivial trivial trivial (parity_at hf rfl rfl (h))

theorem RoundTrip.xnor (d : GReg) (a : GReg) (b : GReg) (la : Bool) (lb : Bool) (st : BitVec 2) : RoundTrip.Statement (.xnor d a b la lb st) := by
  intro wd h he
  obtain ⟨num, hd, hf⟩ := word_of (l := [(0, 7, 7), (7, 2, st.toNat), (9, 1, lb.toNat), (10, 1, la.toNat), (11, 5, b.toNat), (16, 5, a.toNat), (21, 5, d.toNat), (26, 6, 1)]) he
    (.lit rfl <| .val st rfl <| .flag lb rfl <| .flag la rfl <| .val b rfl <| .val a rfl <| .val d rfl <| .lit rfl <| .done rfl)
    (show _ = enc1 0x04000007 d a b la lb st from rfl) (by simp only [packs]; omega)
  rw [hd, decodeNat, hf 26 6 1 rfl]
  show decodeInt num = _
  rw [decodeInt, hf 0 7 7 rfl]
  show form _ _ _ _ _ _ = _
  rw [bf_of hf 21 d rfl, bf_of hf 16 a rfl, bf_of hf 11 b rfl, flag_of hf 10 la rfl, flag_of hf 9 lb rfl, bf_of hf 7 st rfl]
  exact form_ok trivial trivial trivial (parity_at hf rfl rfl (h))

theorem RoundTrip.shl (d : GReg) (a : GReg) (b : GReg) (la : Bool) (lb : Bool) (st : BitVec 2) : RoundTrip.Statement (.shl d a b la lb st) := by
  intro wd h he
  obtain ⟨num, hd, hf⟩ := word_of (l := [(0, 7, 8), (7, 2, st.toNat), (9, 1, lb.toNat), (10, 1, la.toNat), (11, 5, b.toNat), (16, 5, a.toNat), (21, 5, d.toNat), (26, 6, 1)]) he
    (.lit rfl <| .val st rfl <| .flag lb rfl <| .flag la rfl <| .val b rfl <| .val a rfl <| .val d rfl <| .lit rfl <| .done rfl)
    (show _ = enc1 0x04000008 d a b la lb st from rfl) (by simp only [packs]; omega)
  rw [hd, decodeNat, hf 26 6 1 rfl]
  show decodeInt num = _
  rw [decodeInt, hf 0 7 8 rfl]
  show form _ _ _ _ _ _ = _
  rw [bf_of hf 21 d rfl, bf_of hf 16 a rfl, bf_of hf 11 b rfl, flag_of hf 10 la rfl, flag_of hf 9 lb rfl, bf_of hf 7 st rfl]
  exact form_ok trivial trivial trivial (parity_at hf rfl rfl (h))

theorem RoundTrip.shr (d : GReg) (a : GReg) (b : GReg) (la : Bool) (lb : Bool) (st : BitVec 2) : RoundTrip.Statement (.shr d a b la lb st) := by
  intro wd h he
  obtain ⟨num, hd, hf⟩ := word_of (l := [(0, 7, 9), (7, 2, st.toNat), (9, 1, lb.toNat), (10, 1, la.toNat), (11, 5, b.toNat), (16, 5, a.toNat), (21, 5, d.toNat), (26, 6, 1)]) he
    (.lit rfl <| .val st rfl <| .flag lb rfl <| .flag la rfl <| .val b rfl <| .val a rfl <| .val d rfl <| .lit rfl <| .done rfl)
    (show _ = enc1 0x04000009 d a b la lb st from rfl) (by simp only [packs]; omega)
  rw [hd, decodeNat, hf 26 6 1 rfl]
  show decodeInt num = _
  rw [decodeInt, hf 0 7 9 rfl]
  show form _ _ _ _ _ _ = _
  rw [bf_of hf 21 d rfl, bf_of hf 16 a rfl, bf_of hf 11 b rfl, flag_of hf 10 la rfl, flag_of hf 9 lb rfl, bf_of hf 7 st rfl]
  exact form_ok trivial trivial trivial (parity_at hf rfl rfl (h))

theorem RoundTrip.sha (d : GReg) (a : GReg) (b : GReg) (la : Bool) (lb : Bool) (st : BitVec 2) : RoundTrip.Statement (.sha d a b la lb st) := by
  intro wd h he
  obtain ⟨num, hd, hf⟩ := word_of (l := [(0, 7, 10), (7, 2, st.toNat), (9, 1, lb.toNat), (10, 1, la.toNat), (11, 5, b.toNat), (16, 5, a.toNat), (21, 5, d.toNat), (26, 6, 1)]) he
    (.lit rfl <| .val st rfl <| .flag lb rfl <| .flag la rfl <| .val b rfl <| .val a rfl <| .val d rfl <| .lit rfl <| .done rfl)
    (show _ = enc1 0x0400000A d a b la lb st from rfl) (by simp only [packs]; omega)
  rw [hd, decodeNat, hf 26 6 1 rfl]
  show decodeInt num = _
  rw [decodeInt, hf 0 7 10 rfl]
  show form _ _ _ _ _ _ = _
  rw [bf_of hf 21 d rfl, bf_of hf 16 a rfl, bf_of hf 11 b rfl, flag_of hf 10 la rfl, flag_of hf 9 lb rfl, bf_of hf 7 st rfl]
  exact form_ok trivial trivial trivial (parity_at hf rfl rfl (h))

theorem RoundTrip.rotl (d : GReg) (a : GReg) (b : GReg) (la : Bool) (lb : Bool) (st : BitVec 2) : RoundTrip.Statement (.rotl d a b la lb st) := by
  intro wd h he
  obtain ⟨num, hd, hf⟩ := word_of (l := [(0, 7, 11), (7, 2, st.toNat), (9, 1, lb.toNat), (10, 1, la.toNat), (11, 5, b.toNat), (16, 5, a.toNat), (21, 5, d.toNat), (26, 6, 1)]) he
    (.lit rfl <| .val st rfl <| .flag lb rfl <| .flag la rfl <| .val b rfl <| .val a rfl <| .val d rfl <| .lit rfl <| .done rfl)
    (show _ = enc1 0x0400000B d a b la lb st from rfl) (by simp only [packs]; omega)
  rw [hd, decodeNat, hf 26 6 1 rfl]
  show decodeInt num = _
  rw [decodeInt, hf 0 7 11 rfl]
  show form _ _ _ _ _ _ = _
  rw [bf_of hf 21 d rfl, bf_of hf 16 a rfl, bf_of hf 11 b rfl, flag_of hf 10 la rfl, flag_of hf 9 lb rfl, bf_of hf 7 st rfl]
  exact form_ok trivial trivial trivial (parity_at hf rfl rfl (h))

theorem RoundTrip.mins (d : GReg) (a : GReg) (b : GReg) (la : Bool) (lb : Bool) (st : BitVec 2) : RoundTrip.Statement (.mins d a b la lb st) := by
  intro wd h he
  obtain ⟨num, hd, hf⟩ := word_of (l := [(0, 7, 12), (7, 2, st.toNat), (9, 1, lb.toNat), (10, 1, la.toNat), (11, 5, b.toNat), (16, 5, a.toNat), (21, 5, d.toNat), (26, 6, 1)]) he
    (.lit rfl <| .val st rfl <| .flag lb rfl <| .flag la rfl <| .val b rfl <| .val a rfl <| .val d rfl <| .lit rfl <| .done rfl)
    (show _ = enc1 0x0400000C d a b la lb st from rfl) (by simp only [packs]; omega)
  rw [hd, decodeNat, hf 26 6 1 rfl]
  show decodeInt num = _
  rw [decodeInt, hf 0 7 12 rfl]
  show form _ _ _ _ _ _ = _
  rw [bf_of hf 21 d rfl, bf_of hf 16 a rfl, bf_of hf 11 b rfl, flag_of hf 10 la rfl, flag_of hf 9 lb rfl, bf_of hf 7 st rfl]
  exact form_ok trivial trivial trivial (parity_at hf rfl rfl (h))

theorem RoundTrip.maxs (d : GReg) (a : GReg) (b : GReg) (la : Bool) (lb : Bool) (st : BitVec 2) : RoundTrip.Statement (.maxs d a b la lb st) := by
  intro wd h he
  obtain ⟨num, hd, hf⟩ := word_of (l := [(0, 7, 13), (7, 2, st.toNat), (9, 1, lb.toNat), (10, 1, la.toNat), (11, 5, b.toNat), (16, 5, a.toNat), (21, 5, d.toNat), (26, 6, 1)]) he
    (.lit rfl <| .val st rfl <| .flag lb rfl <| .flag la rfl <| .val b rfl <| .val a rfl <| .val d rfl <| .lit rfl <| .done rfl)
    (show _ = enc1 0x0400000D d a b la lb st from rfl) (by simp only [packs]; omega)
  rw [hd, decodeNat, hf 26 6 1 rfl]
  show decodeInt num = _
  rw [decodeInt, hf 0 7 13 rfl]
  show form _ _ _ _ _ _ = _
  rw [bf_of hf 21 d rfl, bf_of hf 16 a rfl, bf_of hf 11 b rfl, flag_of hf 10 la rfl, flag_of hf 9 lb rfl, bf_of hf 7 st rfl]
  exact form_ok trivial trivial trivial (parity_at hf rfl rfl (h))

theorem RoundTrip.minu (d : GReg) (a : GReg) (b : GReg) (la : Bool) (lb : Bool) (st : BitVec 2) : RoundTrip.Statement (.minu d a b la lb st) := by
  intro wd h he
  obtain ⟨num, hd, hf⟩ := word_of (l := [(0, 7, 14), (7, 2, st.toNat), (9, 1, lb.toNat), (10, 1, la.toNat), (11, 5, b.toNat), (16, 5, a.toNat), (21, 5, d.toNat), (26, 6, 1)]) he
    (.lit rfl <| .val st rfl <| .flag lb rfl <| .flag la rfl <| .val b rfl <| .val a rfl <| .val d rfl <| .lit rfl <| .done rfl)
    (show _ = enc1 0x0400000E d a b la lb st from rfl) (by simp only [packs]; omega)
  rw [hd, decodeNat, hf 26 6 1 rfl]
  show decodeInt num = _
  rw [decodeInt, hf 0 7 14 rfl]
  show form _ _ _ _ _ _ = _
  rw [bf_of hf 21 d rfl, bf_of hf 16 a rfl, bf_of hf 11 b rfl, flag_of hf 10 la rfl, flag_of hf 9 lb rfl, bf_of hf 7 st rfl]
  exact form_ok trivial trivial trivial (parity_at hf rfl rfl (h))

theorem RoundTrip.maxu (d : GReg) (a : GReg) (b : GReg) (la : Bool) (lb : Bool) (st : BitVec 2) : RoundTrip.Statement (.maxu d a b la lb st) := by
  intro wd h he
  obtain ⟨num, hd, hf⟩ := word_of (l := [(0, 7, 15), (7, 2, st.toNat), (9, 1, lb.toNat), (10, 1, la.toNat), (11, 5, b.toNat), (16, 5, a.toNat), (21, 5, d.toNat), (26, 6, 1)]) he
    (.lit rfl <| .val st rfl <| .flag lb rfl <| .flag la rfl <| .val b rfl <| .val a rfl <| .val d rfl <| .lit rfl <| .done rfl)
    (show _ = enc1 0x0400000F d a b la lb st from rfl) (by simp only [packs]; omega)
  rw [hd, decodeNat, hf 26 6 1 rfl]
  show decodeInt num = _
  rw [decodeInt, hf 0 7 15 rfl]
  show form _ _ _ _ _ _ = _
  rw [bf_of hf 21 d rfl, bf_of hf 16 a rfl, bf_of hf 11 b rfl, flag_of hf 10 la rfl, flag_of hf 9 lb rfl, bf_of hf 7 st rfl]
  exact form_ok trivial trivial trivial (parity_at hf rfl rfl (h))

theorem RoundTrip.adds (d : GReg) (a : GReg) (b : GReg) (la : Bool) (lb : Bool) (st : BitVec 2) : RoundTrip.Statement (.adds d a b la lb st) := by
  intro wd h he
  obtain ⟨num, hd, hf⟩ := word_of (l := [(0, 7, 16), (7, 2, st.toNat), (9, 1, lb.toNat), (10, 1, la.toNat), (11, 5, b.toNat), (16, 5, a.toNat), (21, 5, d.toNat), (26, 6, 1)]) he
    (.lit rfl <| .val st rfl <| .flag lb rfl <| .flag la rfl <| .val b rfl <| .val a rfl <| .val d rfl <| .lit rfl <| .done rfl)
    (show _ = enc1 0x04000010 d a b la lb st from rfl) (by simp only [packs]; omega)
  rw [hd, decodeNat, hf 26 6 1 rfl]
  show decodeInt num = _
  rw [decodeInt, hf 0 7 16 rfl]
  show form _ _ _ _ _ _ = _
  rw [bf_of hf 21 d rfl, bf_of hf 16 a rfl, bf_of hf 11 b rfl, flag_of hf 10 la rfl, flag_of hf 9 lb rfl, bf_of hf 7 st rfl]
  exact form_ok trivial trivial trivial (parity_at hf rfl rfl (h))

theorem RoundTrip.subs (d : GReg) (a : GReg) (b : GReg) (la : Bool) (lb : Bool) (st : BitVec 2) : RoundTrip.Statement (.subs d a b la lb st) := by
  intro wd h he
  obtain ⟨num, hd, hf⟩ := word_of (l := [(0, 7, 17), (7, 2, st.toNat), (9, 1, lb.toNat), (10, 1, la.toNat), (11, 5, b.toNat), (16, 5, a.toNat), (21, 5, d.toNat), (26, 6, 1)]) he
    (.lit rfl <| .val st rfl <| .flag lb rfl <| .flag la rfl <| .val b rfl <| .val a rfl <| .val d rfl <| .lit rfl <| .done rfl)
    (show _ = enc1 0x04000011 d a b la lb st from rfl) (by simp only [packs]; omega)
  rw [hd, decodeNat, hf 26 6 1 rfl]
  show decodeInt num = _
  rw [decodeInt, hf 0 7 17 rfl]
  show form _ _ _ _ _ _ = _
  rw [bf_of hf 21 d rfl, bf_of hf 16 a rfl, bf_of hf 11 b rfl, flag_of hf 10 la rfl, flag_of hf 9 lb rfl, bf_of hf 7 st rfl]
  exact form_ok trivial trivial trivial (parity_at hf rfl rfl (h))

theorem RoundTrip.sel (d : GReg) (p : PReg) (a : GReg) (b : GReg) (la : Bool) (lb : Bool) (st : BitVec 2) : RoundTrip.Statement (.sel d p a b la lb st) := by
  intro wd h he
  obtain ⟨num, hd, hf⟩ := word_of (l := [(0, 3, p.toNat), (3, 4, 3), (7, 2, st.toNat), (9, 1, lb.toNat), (10, 1, la.toNat), (11, 5, b.toNat), (16, 5, a.toNat), (21, 5, d.toNat), (26, 6, 1)]) he
    (.val p rfl <| .lit rfl <| .val st rfl <| .flag lb rfl <| .flag la rfl <| .val b rfl <| .val a rfl <| .val d rfl <| .lit rfl <| .done rfl)
    (show _ = enc2 0x04000018 d p a b la lb st from rfl) (by simp only [packs]; omega)
  rw [hd, decodeNat, hf 26 6 1 rfl]
  show decodeInt num = _
  have h7 : fld num 0 7 = p.toNat + 8 * 3 := fld_cat (hf 0 3 _ rfl) (hf 3 4 3 rfl)
  have := p.isLt
  unfold decodeInt
  split
  iterate 18 (exfalso; omega)
  rw [if_pos (by rw [hf 3 4 3 rfl]; rfl)]
  show form _ _ _ _ _ _ = _
  rw [bf_of hf 21 d rfl, bf_of hf 0 p rfl, bf_of hf 16 a rfl, bf_of hf 11 b rfl, flag_of hf 10 la rfl, flag_of hf 9 lb rfl, bf_of hf 7 st rfl]
  exact form_ok trivial trivial trivial (parity_at hf rfl rfl (h))

theorem RoundTrip.addi (d : GReg) (a : GReg) (la : Bool) (st : BitVec 2) (imm : BitVec 13) : RoundTrip.Statement (.addi d a la st imm) := by
  intro wd h he
  obtain ⟨num, hd, hf⟩ := word_of (l := [(0, 13, imm.toNat), (13, 2, st.toNat), (15, 1, la.toNat), (16, 5, a.toNat), (21, 5, d.toNat), (26, 6, 2)]) he
    (.val imm rfl <| .val st rfl <| .flag la rfl <| .val a rfl <| .val d rfl <| .lit rfl <| .done rfl)
    (show _ = enc3 0x08000000 d a la st imm from rfl) (by simp only [packs]; omega)
  rw [hd, decodeNat, hf 26 6 2 rfl]
  show decodeAddi num = _
  rw [decodeAddi]
  show form _ _ _ _ _ _ = _
  rw [bf_of hf 21 d rfl, bf_of hf 16 a rfl, flag_of hf 15 la rfl, bf_of hf 13 st rfl, bf_of hf 0 imm rfl]
  exact form_ok trivial trivial trivial trivial

theorem RoundTrip.andi (d : GReg) (a : GReg) (la : Bool) (st : BitVec 2) (imm : BitVec 13) : RoundTrip.Statement (.andi d a la st imm) := by
  intro wd h he
  obtain ⟨num, hd, hf⟩ := word_of (l := [(0, 13, imm.toNat), (13, 2, st.toNat), (15, 1, la.toNat), (16, 5, a.toNat), (21, 5, d.toNat), (26, 6, 3)]) he
    (.val imm rfl <| .val st rfl <| .flag la rfl <| .val a rfl <| .val d rfl <| .lit rfl <| .done rfl)
    (show _ = enc3 0x0C000000 d a la st imm from rfl) (by simp only [packs]; omega)
  rw [hd, decodeNat, hf 26 6 3 rfl]
  show decodeAndi num = _
  rw [decodeAndi]
  show form _ _ _ _ _ _ = _
  rw [bf_of hf 21 d rfl, bf_of hf 16 a rfl, flag_of hf 15 la rfl, bf_of hf 13 st rfl, bf_of hf 0 imm rfl]
  exact form_ok trivial trivial trivial trivial

theorem RoundTrip.ori (d : GReg) (a : GReg) (la : Bool) (st : BitVec 2) (imm : BitVec 13) : RoundTrip.Statement (.ori d a la st imm) := by
  intro wd h he
  obtain ⟨num, hd, hf⟩ := word_of (l := [(0, 13, imm.toNat), (13, 2, st.toNat), (15, 1, la.toNat), (16, 5, a.toNat), (21, 5, d.toNat), (26, 6, 4)]) he
    (.val imm rfl <| .val st rfl <| .flag la rfl <| .val a rfl <| .val d rfl <| .lit rfl <| .done rfl)
    (show _ = enc3 0x10000000 d a la st imm from rfl) (by simp only [packs]; omega)
  rw [hd, decodeNat, hf 26 6 4 rfl]
  show decodeOri num = _
  rw [decodeOri]
  show form _ _ _ _ _ _ = _
  rw [bf_of hf 21 d rfl, bf_of hf 16 a rfl, flag_of hf 15 la rfl, bf_of hf 13 st rfl, bf_of hf 0 imm rfl]
  exact form_ok trivial trivial trivial trivial

theorem RoundTrip.xori (d : GReg) (a : GReg) (la : Bool) (st : BitVec 2) (imm : BitVec 13) : RoundTrip.Statement (.xori d a la st imm) := by
  intro wd h he
  obtain ⟨num, hd, hf⟩ := word_of (l := [(0, 13, imm.toNat), (13, 2, st.toNat), (15, 1, la.toNat), (16, 5, a.toNat), (21, 5, d.toNat), (26, 6, 5)]) he
    (.val imm rfl <| .val st rfl <| .flag la rfl <| .val a rfl <| .val d rfl <| .lit rfl <| .done rfl)
    (show _ = enc3 0x14000000 d a la st imm from rfl) (by simp only [packs]; omega)
  rw [hd, decodeNat, hf 26 6 5 rfl]
  show decodeXori num = _
  rw [decodeXori]
  show form _ _ _ _ _ _ = _
  rw [bf_of hf 21 d rfl, bf_of hf 16 a rfl, flag_of hf 15 la rfl, bf_of hf 13 st rfl, bf_of hf 0 imm rfl]
  exact form_ok trivial trivial trivial trivial

theorem RoundTrip.movi (d : GReg) (st : BitVec 2) (imm : BitVec 13) : RoundTrip.Statement (.movi d st imm) := by
  intro wd h he
  obtain ⟨num, hd, hf⟩ := word_of (l := [(0, 13, imm.toNat), (13, 2, st.toNat), (15, 1, 0), (16, 5, 0), (21, 5, d.toNat), (26, 6, 6)]) he
    (.val imm rfl <| .val st rfl <| .lit rfl <| .lit rfl <| .val d rfl <| .lit rfl <| .done rfl)
    (show _ = enc4 0x18000000 d st imm from rfl) (by simp only [packs]; omega)
  rw [hd, decodeNat, hf 26 6 6 rfl]
  show decodeMovi num = _
  rw [decodeMovi]
  show form _ _ _ _ _ _ = _
  rw [bf_of hf 21 d rfl, bf_of hf 13 st rfl, bf_of hf 0 imm rfl]
  exact form_ok (zeros_at hf rfl) trivial trivial trivial

theorem RoundTrip.muli (d : GReg) (a : GReg) (la : Bool) (st : BitVec 2) (imm : BitVec 13) : RoundTrip.Statement (.muli d a la st imm) := by
  intro wd h he
  obtain ⟨num, hd, hf⟩ := word_of (l := [(0, 13, imm.toNat), (13, 2, st.toNat), (15, 1, la.toNat), (16, 5, a.toNat), (21, 5, d.toNat), (26, 6, 7)]) he
    (.val imm rfl <| .val st rfl <| .flag la rfl <| .val a rfl <| .val d rfl <| .lit rfl <| .done rfl)
    (show _ = enc3 0x1C000000 d a la st imm from rfl) (by simp only [packs]; omega)
  rw [hd, decodeNat, hf 26 6 7 rfl]
  show decodeMuli num = _
  rw [decodeMuli]
  show form _ _ _ _ _ _ = _
  rw [bf_of hf 21 d rfl, bf_of hf 16 a rfl, flag_of hf 15 la rfl, bf_of hf 13 st rfl, bf_of hf 0 imm rfl]
  exact form_ok trivial trivial trivial trivial

theorem RoundTrip.cmpeq (p : PReg) (comb : BitVec 2) (a : GReg) (b : GReg) (la : Bool) (lb : Bool) (st : BitVec 2) : RoundTrip.Statement (.cmpeq p comb a b la lb st) := by
  intro wd h he
  obtain ⟨num, hd, hf⟩ := word_of (l := [(0, 7, 0), (7, 2, st.toNat), (9, 1, lb.toNat), (10, 1, la.toNat), (11, 5, b.toNat), (16, 5, a.toNat), (21, 2, comb.toNat), (23, 3, p.toNat), (26, 6, 8)]) he
    (.lit rfl <| .val st rfl <| .flag lb rfl <| .flag la rfl <| .val b rfl <| .val a rfl <| .val comb rfl <| .val p rfl <| .lit rfl <| .done rfl)
    (show _ = enc5 0x20000000 p comb a b la lb st from rfl) (by simp only [packs]; omega)
  rw [hd, decodeNat, hf 26 6 8 rfl]
  show decodeCmp num = _
  rw [decodeCmp, hf 0 7 0 rfl]
  show form _ _ _ _ _ _ = _
  rw [bf_of hf 23 p rfl, bf_of hf 21 comb rfl, bf_of hf 16 a rfl, bf_of hf 11 b rfl, flag_of hf 10 la rfl, flag_of hf 9 lb rfl, bf_of hf 7 st rfl]
  exact form_ok trivial ⟨bad_comb hf rfl (wf_head h), trivial⟩ trivial (parity_at hf rfl rfl (wf_tail h))

theorem RoundTrip.cmpne (p : PReg) (comb : BitVec 2) (a : GReg) (b : GReg) (la : Bool) (lb : Bool) (st : BitVec 2) : RoundTrip.Statement (.cmpne p comb a b la lb st) := by
  intro wd h he
  obtain ⟨num, hd, hf⟩ := word_of (l := [(0, 7, 1), (7, 2, st.toNat), (9, 1, lb.toNat), (10, 1, la.toNat), (11, 5, b.toNat), (16, 5, a.toNat), (21, 2, comb.toNat), (23, 3, p.toNat), (26, 6, 8)]) he
    (.lit rfl <| .val st rfl <| .flag lb rfl <| .flag la rfl <| .val b rfl <| .val a rfl <| .val comb rfl <| .val p rfl <| .lit rfl <| .done rfl)
    (show _ = enc5 0x20000001 p comb a b la lb st from rfl) (by simp only [packs]; omega)
  rw [hd, decodeNat, hf 26 6 8 rfl]
  show decodeCmp num = _
  rw [decodeCmp, hf 0 7 1 rfl]
  show form _ _ _ _ _ _ = _
  rw [bf_of hf 23 p rfl, bf_of hf 21 comb rfl, bf_of hf 16 a rfl, bf_of hf 11 b rfl, flag_of hf 10 la rfl, flag_of hf 9 lb rfl, bf_of hf 7 st rfl]
  exact form_ok trivial ⟨bad_comb hf rfl (wf_head h), trivial⟩ trivial (parity_at hf rfl rfl (wf_tail h))

theorem RoundTrip.cmplt (p : PReg) (comb : BitVec 2) (a : GReg) (b : GReg) (la : Bool) (lb : Bool) (st : BitVec 2) : RoundTrip.Statement (.cmplt p comb a b la lb st) := by
  intro wd h he
  obtain ⟨num, hd, hf⟩ := word_of (l := [(0, 7, 2), (7, 2, st.toNat), (9, 1, lb.toNat), (10, 1, la.toNat), (11, 5, b.toNat), (16, 5, a.toNat), (21, 2, comb.toNat), (23, 3, p.toNat), (26, 6, 8)]) he
    (.lit rfl <| .val st rfl <| .flag lb rfl <| .flag la rfl <| .val b rfl <| .val a rfl <| .val comb rfl <| .val p rfl <| .lit rfl <| .done rfl)
    (show _ = enc5 0x20000002 p comb a b la lb st from rfl) (by simp only [packs]; omega)
  rw [hd, decodeNat, hf 26 6 8 rfl]
  show decodeCmp num = _
  rw [decodeCmp, hf 0 7 2 rfl]
  show form _ _ _ _ _ _ = _
  rw [bf_of hf 23 p rfl, bf_of hf 21 comb rfl, bf_of hf 16 a rfl, bf_of hf 11 b rfl, flag_of hf 10 la rfl, flag_of hf 9 lb rfl, bf_of hf 7 st rfl]
  exact form_ok trivial ⟨bad_comb hf rfl (wf_head h), trivial⟩ trivial (parity_at hf rfl rfl (wf_tail h))

theorem RoundTrip.cmple (p : PReg) (comb : BitVec 2) (a : GReg) (b : GReg) (la : Bool) (lb : Bool) (st : BitVec 2) : RoundTrip.Statement (.cmple p comb a b la lb st) := by
  intro wd h he
  obtain ⟨num, hd, hf⟩ := word_of (l := [(0, 7, 3), (7, 2, st.toNat), (9, 1, lb.toNat), (10, 1, la.toNat), (11, 5, b.toNat), (16, 5, a.toNat), (21, 2, comb.toNat), (23, 3, p.toNat), (26, 6, 8)]) he
    (.lit rfl <| .val st rfl <| .flag lb rfl <| .flag la rfl <| .val b rfl <| .val a rfl <| .val comb rfl <| .val p rfl <| .lit rfl <| .done rfl)
    (show _ = enc5 0x20000003 p comb a b la lb st from rfl) (by simp only [packs]; omega)
  rw [hd, decodeNat, hf 26 6 8 rfl]
  show decodeCmp num = _
  rw [decodeCmp, hf 0 7 3 rfl]
  show form _ _ _ _ _ _ = _
  rw [bf_of hf 23 p rfl, bf_of hf 21 comb rfl, bf_of hf 16 a rfl, bf_of hf 11 b rfl, flag_of hf 10 la rfl, flag_of hf 9 lb rfl, bf_of hf 7 st rfl]
  exact form_ok trivial ⟨bad_comb hf rfl (wf_head h), trivial⟩ trivial (parity_at hf rfl rfl (wf_tail h))

theorem RoundTrip.cmpgt (p : PReg) (comb : BitVec 2) (a : GReg) (b : GReg) (la : Bool) (lb : Bool) (st : BitVec 2) : RoundTrip.Statement (.cmpgt p comb a b la lb st) := by
  intro wd h he
  obtain ⟨num, hd, hf⟩ := word_of (l := [(0, 7, 4), (7, 2, st.toNat), (9, 1, lb.toNat), (10, 1, la.toNat), (11, 5, b.toNat), (16, 5, a.toNat), (21, 2, comb.toNat), (23, 3, p.toNat), (26, 6, 8)]) he
    (.lit rfl <| .val st rfl <| .flag lb rfl <| .flag la rfl <| .val b rfl <| .val a rfl <| .val comb rfl <| .val p rfl <| .lit rfl <| .done rfl)
    (show _ = enc5 0x20000004 p comb a b la lb st from rfl) (by simp only [packs]; omega)
  rw [hd, decodeNat, hf 26 6 8 rfl]
  show decodeCmp num = _
  rw [decodeCmp, hf 0 7 4 rfl]
  show form _ _ _ _ _ _ = _
  rw [bf_of hf 23 p rfl, bf_of hf 21 comb rfl, bf_of hf 16 a rfl, bf_of hf 11 b rfl, flag_of hf 10 la rfl, flag_of hf 9 lb rfl, bf_of hf 7 st rfl]
  exact form_ok trivial ⟨bad_comb hf rfl (wf_head h), trivial⟩ trivial (parity_at hf rfl rfl (wf_tail h))

theorem RoundTrip.cmpge (p : PReg) (comb : BitVec 2) (a : GReg) (b : GReg) (la : Bool) (lb : Bool) (st : BitVec 2) : RoundTrip.Statement (.cmpge p comb a b la lb st) := by
  intro wd h he
  obtain ⟨num, hd, hf⟩ := word_of (l := [(0, 7, 5), (7, 2, st.toNat), (9, 1, lb.toNat), (10, 1, la.toNat), (11, 5, b.toNat), (16, 5, a.toNat), (21, 2, comb.toNat), (23, 3, p.toNat), (26, 6, 8)]) he
    (.lit rfl <| .val st rfl <| .flag lb rfl <| .flag la rfl <| .val b rfl <| .val a rfl <| .val comb rfl <| .val p rfl <| .lit rfl <| .done rfl)
    (show _ = enc5 0x20000005 p comb a b la lb st from rfl) (by simp only [packs]; omega)
  rw [hd, decodeNat, hf 26 6 8 rfl]
  show decodeCmp num = _
  rw [decodeCmp, hf 0 7 5 rfl]
  show form _ _ _ _ _ _ = _
  rw [bf_of hf 23 p rfl, bf_of hf 21 comb rfl, bf_of hf 16 a rfl, bf_of hf 11 b rfl, flag_of hf 10 la rfl, flag_of hf 9 lb rfl, bf_of hf 7 st rfl]
  exact form_ok trivial ⟨bad_comb hf rfl (wf_head h), trivial⟩ trivial (parity_at hf rfl rfl (wf_tail h))

theorem RoundTrip.cmpltu (p : PReg) (comb : BitVec 2) (a : GReg) (b : GReg) (la : Bool) (lb : Bool) (st : BitVec 2) : RoundTrip.Statement (.cmpltu p comb a b la lb st) := by
  intro wd h he
  obtain ⟨num, hd, hf⟩ := word_of (l := [(0, 7, 6), (7, 2, st.toNat), (9, 1, lb.toNat), (10, 1, la.toNat), (11, 5, b.toNat), (16, 5, a.toNat), (21, 2, comb.toNat), (23, 3, p.toNat), (26, 6, 8)]) he
    (.lit rfl <| .val st rfl <| .flag lb rfl <| .flag la rfl <| .val b rfl <| .val a rfl <| .val comb rfl <| .val p rfl <| .lit rfl <| .done rfl)
    (show _ = enc5 0x20000006 p comb a b la lb st from rfl) (by simp only [packs]; omega)
  rw [hd, decodeNat, hf 26 6 8 rfl]
  show decodeCmp num = _
  rw [decodeCmp, hf 0 7 6 rfl]
  show form _ _ _ _ _ _ = _
  rw [bf_of hf 23 p rfl, bf_of hf 21 comb rfl, bf_of hf 16 a rfl, bf_of hf 11 b rfl, flag_of hf 10 la rfl, flag_of hf 9 lb rfl, bf_of hf 7 st rfl]
  exact form_ok trivial ⟨bad_comb hf rfl (wf_head h), trivial⟩ trivial (parity_at hf rfl rfl (wf_tail h))

theorem RoundTrip.cmpleu (p : PReg) (comb : BitVec 2) (a : GReg) (b : GReg) (la : Bool) (lb : Bool) (st : BitVec 2) : RoundTrip.Statement (.cmpleu p comb a b la lb st) := by
  intro wd h he
  obtain ⟨num, hd, hf⟩ := word_of (l := [(0, 7, 7), (7, 2, st.toNat), (9, 1, lb.toNat), (10, 1, la.toNat), (11, 5, b.toNat), (16, 5, a.toNat), (21, 2, comb.toNat), (23, 3, p.toNat), (26, 6, 8)]) he
    (.lit rfl <| .val st rfl <| .flag lb rfl <| .flag la rfl <| .val b rfl <| .val a rfl <| .val comb rfl <| .val p rfl <| .lit rfl <| .done rfl)
    (show _ = enc5 0x20000007 p comb a b la lb st from rfl) (by simp only [packs]; omega)
  rw [hd, decodeNat, hf 26 6 8 rfl]
  show decodeCmp num = _
  rw [decodeCmp, hf 0 7 7 rfl]
  show form _ _ _ _ _ _ = _
  rw [bf_of hf 23 p rfl, bf_of hf 21 comb rfl, bf_of hf 16 a rfl, bf_of hf 11 b rfl, flag_of hf 10 la rfl, flag_of hf 9 lb rfl, bf_of hf 7 st rfl]
  exact form_ok trivial ⟨bad_comb hf rfl (wf_head h), trivial⟩ trivial (parity_at hf rfl rfl (wf_tail h))

theorem RoundTrip.cmpgtu (p : PReg) (comb : BitVec 2) (a : GReg) (b : GReg) (la : Bool) (lb : Bool) (st : BitVec 2) : RoundTrip.Statement (.cmpgtu p comb a b la lb st) := by
  intro wd h he
  obtain ⟨num, hd, hf⟩ := word_of (l := [(0, 7, 8), (7, 2, st.toNat), (9, 1, lb.toNat), (10, 1, la.toNat), (11, 5, b.toNat), (16, 5, a.toNat), (21, 2, comb.toNat), (23, 3, p.toNat), (26, 6, 8)]) he
    (.lit rfl <| .val st rfl <| .flag lb rfl <| .flag la rfl <| .val b rfl <| .val a rfl <| .val comb rfl <| .val p rfl <| .lit rfl <| .done rfl)
    (show _ = enc5 0x20000008 p comb a b la lb st from rfl) (by simp only [packs]; omega)
  rw [hd, decodeNat, hf 26 6 8 rfl]
  show decodeCmp num = _
  rw [decodeCmp, hf 0 7 8 rfl]
  show form _ _ _ _ _ _ = _
  rw [bf_of hf 23 p rfl, bf_of hf 21 comb rfl, bf_of hf 16 a rfl, bf_of hf 11 b rfl, flag_of hf 10 la rfl, flag_of hf 9 lb rfl, bf_of hf 7 st rfl]
  exact form_ok trivial ⟨bad_comb hf rfl (wf_head h), trivial⟩ trivial (parity_at hf rfl rfl (wf_tail h))

theorem RoundTrip.cmpgeu (p : PReg) (comb : BitVec 2) (a : GReg) (b : GReg) (la : Bool) (lb : Bool) (st : BitVec 2) : RoundTrip.Statement (.cmpgeu p comb a b la lb st) := by
  intro wd h he
  obtain ⟨num, hd, hf⟩ := word_of (l := [(0, 7, 9), (7, 2, st.toNat), (9, 1, lb.toNat), (10, 1, la.toNat), (11, 5, b.toNat), (16, 5, a.toNat), (21, 2, comb.toNat), (23, 3, p.toNat), (26, 6, 8)]) he
    (.lit rfl <| .val st rfl <| .flag lb rfl <| .flag la rfl <| .val b rfl <| .val a rfl <| .val comb rfl <| .val p rfl <| .lit rfl <| .done rfl)
    (show _ = enc5 0x20000009 p comb a b la lb st from rfl) (by simp only [packs]; omega)
  rw [hd, decodeNat, hf 26 6 8 rfl]
  show decodeCmp num = _
  rw [decodeCmp, hf 0 7 9 rfl]
  show form _ _ _ _ _ _ = _
  rw [bf_of hf 23 p rfl, bf_of hf 21 comb rfl, bf_of hf 16 a rfl, bf_of hf 11 b rfl, flag_of hf 10 la rfl, flag_of hf 9 lb rfl, bf_of hf 7 st rfl]
  exact form_ok trivial ⟨bad_comb hf rfl (wf_head h), trivial⟩ trivial (parity_at hf rfl rfl (wf_tail h))

theorem RoundTrip.cmpbitany (p : PReg) (comb : BitVec 2) (a : GReg) (b : GReg) (la : Bool) (lb : Bool) (st : BitVec 2) : RoundTrip.Statement (.cmpbitany p comb a b la lb st) := by
  intro wd h he
  obtain ⟨num, hd, hf⟩ := word_of (l := [(0, 7, 10), (7, 2, st.toNat), (9, 1, lb.toNat), (10, 1, la.toNat), (11, 5, b.toNat), (16, 5, a.toNat), (21, 2, comb.toNat), (23, 3, p.toNat), (26, 6, 8)]) he
    (.lit rfl <| .val st rfl <| .flag lb rfl <| .flag la rfl <| .val b rfl <| .val a rfl <| .val comb rfl <| .val p rfl <| .lit rfl <| .done rfl)
    (show _ = enc5 0x2000000A p comb a b la lb st from rfl) (by simp only [packs]; omega)
  rw [hd, decodeNat, hf 26 6 8 rfl]
  show decodeCmp num = _
  rw [decodeCmp, hf 0 7 10 rfl]
  show form _ _ _ _ _ _ = _
  rw [bf_of hf 23 p rfl, bf_of hf 21 comb rfl, bf_of hf 16 a rfl, bf_of hf 11 b rfl, flag_of hf 10 la rfl, flag_of hf 9 lb rfl, bf_of hf 7 st rfl]
  exact form_ok trivial ⟨bad_comb hf rfl (wf_head h), trivial⟩ trivial (parity_at hf rfl rfl (wf_tail h))

theorem RoundTrip.cmpbitnone (p : PReg) (comb : BitVec 2) (a : GReg) (b : GReg) (la : Bool) (lb : Bool) (st : BitVec 2) : RoundTrip.Statement (.cmpbitnone p comb a b la lb st) := by
  intro wd h he
  obtain ⟨num, hd, hf⟩ := word_of (l := [(0, 7, 11), (7, 2, st.toNat), (9, 1, lb.toNat), (10, 1, la.toNat), (11, 5, b.toNat), (16, 5, a.toNat), (21, 2, comb.toNat), (23, 3, p.toNat), (26, 6, 8)]) he
    (.lit rfl <| .val st rfl <| .flag lb rfl <| .flag la rfl <| .val b rfl <| .val a rfl <| .val comb rfl <| .val p rfl <| .lit rfl <| .done rfl)
    (show _ = enc5 0x2000000B p comb a b la lb st from rfl) (by simp only [packs]; omega)
  rw [hd, decodeNat, hf 26 6 8 rfl]
  show decodeCmp num = _
  rw [decodeCmp, hf 0 7 11 rfl]
  show form _ _ _ _ _ _ = _
  rw [bf_of hf 23 p rfl, bf_of hf 21 comb rfl, bf_of hf 16 a rfl, bf_of hf 11 b rfl, flag_of hf 10 la rfl, flag_of hf 9 lb rfl, bf_of hf 7 st rfl]
  exact form_ok trivial ⟨bad_comb hf rfl (wf_head h), trivial⟩ trivial (parity_at hf rfl rfl (wf_tail h))

theorem RoundTrip.cmpieq (p : PReg) (a : GReg) (la : Bool) (st : BitVec 2) (imm : BitVec 13) : RoundTrip.Statement (.cmpieq p a la st imm) := by
  intro wd h he
  obtain ⟨num, hd, hf⟩ := word_of (l := [(0, 13, imm.toNat), (13, 2, st.toNat), (15, 1, la.toNat), (16, 5, a.toNat), (21, 2, 0), (23, 3, p.toNat), (26, 6, 9)]) he
    (.val imm rfl <| .val st rfl <| .flag la rfl <| .val a rfl <| .lit rfl <| .val p rfl <| .lit rfl <| .done rfl)
    (show _ = enc6 0x24000000 p a la st imm from rfl) (by simp only [packs]; omega)
  rw [hd, decodeNat, hf 26 6 9 rfl]
  show decodeCmpi num = _
  rw [decodeCmpi, hf 21 2 0 rfl]
  show form _ _ _ _ _ _ = _
  rw [bf_of hf 23 p rfl, bf_of hf 16 a rfl, flag_of hf 15 la rfl, bf_of hf 13 st rfl, bf_of hf 0 imm rfl]
  exact form_ok trivial trivial trivial trivial

theorem RoundTrip.cmpine (p : PReg) (a : GReg) (la : Bool) (st : BitVec 2) (imm : BitVec 13) : RoundTrip.Statement (.cmpine p a la st imm) := by
  intro wd h he
  obtain ⟨num, hd, hf⟩ := word_of (l := [(0, 13, imm.toNat), (13, 2, st.toNat), (15, 1, la.toNat), (16, 5, a.toNat), (21, 2, 1), (23, 3, p.toNat), (26, 6, 9)]) he
    (.val imm rfl <| .val st rfl <| .flag la rfl <| .val a rfl <| .lit rfl <| .val p rfl <| .lit rfl <| .done rfl)
    (show _ = enc6 0x24200000 p a la st imm from rfl) (by simp only [packs]; omega)
  rw [hd, decodeNat, hf 26 6 9 rfl]
  show decodeCmpi num = _
  rw [decodeCmpi, hf 21 2 1 rfl]
  show form _ _ _ _ _ _ = _
  rw [bf_of hf 23 p rfl, bf_of hf 16 a rfl, flag_of hf 15 la rfl, bf_of hf 13 st rfl, bf_of hf 0 imm rfl]
  exact form_ok trivial trivial trivial trivial

theorem RoundTrip.cmpilt (p : PReg) (a : GReg) (la : Bool) (st : BitVec 2) (imm : BitVec 13) : RoundTrip.Statement (.cmpilt p a la st imm) := by
  intro wd h he
  obtain ⟨num, hd, hf⟩ := word_of (l := [(0, 13, imm.toNat), (13, 2, st.toNat), (15, 1, la.toNat), (16, 5, a.toNat), (21, 2, 2), (23, 3, p.toNat), (26, 6, 9)]) he
    (.val imm rfl <| .val st rfl <| .flag la rfl <| .val a rfl <| .lit rfl <| .val p rfl <| .lit rfl <| .done rfl)
    (show _ = enc6 0x24400000 p a la st imm from rfl) (by simp only [packs]; omega)
  rw [hd, decodeNat, hf 26 6 9 rfl]
  show decodeCmpi num = _
  rw [decodeCmpi, hf 21 2 2 rfl]
  show form _ _ _ _ _ _ = _
  rw [bf_of hf 23 p rfl, bf_of hf 16 a rfl, flag_of hf 15 la rfl, bf_of hf 13 st rfl, bf_of hf 0 imm rfl]
  exact form_ok trivial trivial trivial trivial

theorem RoundTrip.cmpiltu (p : PReg) (a : GReg) (la : Bool) (st : BitVec 2) (imm : BitVec 13) : RoundTrip.Statement (.cmpiltu p a la st imm) := by
  intro wd h he
  obtain ⟨num, hd, hf⟩ := word_of (l := [(0, 13, imm.toNat), (13, 2, st.toNat), (15, 1, la.toNat), (16, 5, a.toNat), (21, 2, 3), (23, 3, p.toNat), (26, 6, 9)]) he
    (.val imm rfl <| .val st rfl <| .flag la rfl <| .val a rfl <| .lit rfl <| .val p rfl <| .lit rfl <| .done rfl)
    (show _ = enc6 0x24600000 p a la st imm from rfl) (by simp only [packs]; omega)
  rw [hd, decodeNat, hf 26 6 9 rfl]
  show decodeCmpi num = _
  rw [decodeCmpi, hf 21 2 3 rfl]
  show form _ _ _ _ _ _ = _
  rw [bf_of hf 23 p rfl, bf_of hf 16 a rfl, flag_of hf 15 la rfl, bf_of hf 13 st rfl, bf_of hf 0 imm rfl]
  exact form_ok trivial trivial trivial trivial

theorem RoundTrip.shli (d : GReg) (a : GReg) (n : BitVec 5) (la : Bool) (st : BitVec 2) : RoundTrip.Statement (.shli d a n la st) := by
  intro wd h he
  obtain ⟨num, hd, hf⟩ := word_of (l := [(0, 7, 0), (7, 2, st.toNat), (9, 1, 0), (10, 1, la.toNat), (11, 5, n.toNat), (16, 5, a.toNat), (21, 5, d.toNat), (26, 6, 10)]) he
    (.lit rfl <| .val st rfl <| .lit rfl <| .flag la rfl <| .val n rfl <| .val a rfl <| .val d rfl <| .lit rfl <| .done rfl)
    (show _ = enc7 0x28000000 d a n la st from rfl) (by simp only [packs]; omega)
  rw [hd, decodeNat, hf 26 6 10 rfl]
  show decodeBits num = _
  rw [decodeBits, hf 0 7 0 rfl]
  show form _ _ _ _ _ _ = _
  rw [bf_of hf 21 d rfl, bf_of hf 16 a rfl, bf_of hf 11 n rfl, flag_of hf 10 la rfl, bf_of hf 7 st rfl]
  exact form_ok (zeros_at hf rfl) trivial trivial trivial

theorem RoundTrip.shri (d : GReg) (a : GReg) (n : BitVec 5) (la : Bool) (st : BitVec 2) : RoundTrip.Statement (.shri d a n la st) := by
  intro wd h he
  obtain ⟨num, hd, hf⟩ := word_of (l := [(0, 7, 1), (7, 2, st.toNat), (9, 1, 0), (10, 1, la.toNat), (11, 5, n.toNat), (16, 5, a.toNat), (21, 5, d.toNat), (26, 6, 10)]) he
    (.lit rfl <| .val st rfl <| .lit rfl <| .flag la rfl <| .val n rfl <| .val a rfl <| .val d rfl <| .lit rfl <| .done rfl)
    (show _ = enc7 0x28000001 d a n la st from rfl) (by simp only [packs]; omega)
  rw [hd, decodeNat, hf 26 6 10 rfl]
  show decodeBits num = _
  rw [decodeBits, hf 0 7 1 rfl]
  show form _ _ _ _ _ _ = _
  rw [bf_of hf 21 d rfl, bf_of hf 16 a rfl, bf_of hf 11 n rfl, flag_of hf 10 la rfl, bf_of hf 7 st rfl]
  exact form_ok (zeros_at hf rfl) trivial trivial trivial

theorem RoundTrip.shai (d : GReg) (a : GReg) (n : BitVec 5) (la : Bool) (st : BitVec 2) : RoundTrip.Statement (.shai d a n la st) := by
  intro wd h he
  obtain ⟨num, hd, hf⟩ := word_of (l := [(0, 7, 2), (7, 2, st.toNat), (9, 1, 0), (10, 1, la.toNat), (11, 5, n.toNat), (16, 5, a.toNat), (21, 5, d.toNat), (26, 6, 10)]) he
    (.lit rfl <| .val st rfl <| .lit rfl <| .flag la rfl <| .val n rfl <| .val a rfl <| .val d rfl <| .lit rfl <| .done rfl)
    (show _ = enc7 0x28000002 d a n la st from rfl) (by simp only [packs]; omega)
  rw [hd, decodeNat, hf 26 6 10 rfl]
  show decodeBits num = _
  rw [decodeBits, hf 0 7 2 rfl]
  show form _ _ _ _ _ _ = _
  rw [bf_of hf 21 d rfl, bf_of hf 16 a rfl, bf_of hf 11 n rfl, flag_of hf 10 la rfl, bf_of hf 7 st rfl]
  exact form_ok (zeros_at hf rfl) trivial trivial trivial

theorem RoundTrip.rotli (d : GReg) (a : GReg) (n : BitVec 5) (la : Bool) (st : BitVec 2) : RoundTrip.Statement (.rotli d a n la st) := by
  intro wd h he
  obtain ⟨num, hd, hf⟩ := word_of (l := [(0, 7, 3), (7, 2, st.toNat), (9, 1, 0), (10, 1, la.toNat), (11, 5, n.toNat), (16, 5, a.toNat), (21, 5, d.toNat), (26, 6, 10)]) he
    (.lit rfl <| .val st rfl <| .lit rfl <| .flag la rfl <| .val n rfl <| .val a rfl <| .val d rfl <| .lit rfl <| .done rfl)
    (show _ = enc7 0x28000003 d a n la st from rfl) (by simp only [packs]; omega)
  rw [hd, decodeNat, hf 26 6 10 rfl]
  show decodeBits num = _
  rw [decodeBits, hf 0 7 3 rfl]
  show form _ _ _ _ _ _ = _
  rw [bf_of hf 21 d rfl, bf_of hf 16 a rfl, bf_of hf 11 n rfl, flag_of hf 10 la rfl, bf_of hf 7 st rfl]
  exact form_ok (zeros_at hf rfl) trivial trivial trivial

theorem RoundTrip.clz (d : GReg) (a : GReg) (la : Bool) (st : BitVec 2) : RoundTrip.Statement (.clz d a la st) := by
  intro wd h he
  obtain ⟨num, hd, hf⟩ := word_of (l := [(0, 7, 4), (7, 2, st.toNat), (9, 1, 0), (10, 1, la.toNat), (11, 5, 0), (16, 5, a.toNat), (21, 5, d.toNat), (26, 6, 10)]) he
    (.lit rfl <| .val st rfl <| .lit rfl <| .flag la rfl <| .lit rfl <| .val a rfl <| .val d rfl <| .lit rfl <| .done rfl)
    (show _ = enc8 0x28000004 d a la st from rfl) (by simp only [packs]; omega)
  rw [hd, decodeNat, hf 26 6 10 rfl]
  show decodeBits num = _
  rw [decodeBits, hf 0 7 4 rfl]
  show form _ _ _ _ _ _ = _
  rw [bf_of hf 21 d rfl, bf_of hf 16 a rfl, flag_of hf 10 la rfl, bf_of hf 7 st rfl]
  exact form_ok (zeros_at hf rfl) trivial trivial trivial

theorem RoundTrip.ctz (d : GReg) (a : GReg) (la : Bool) (st : BitVec 2) : RoundTrip.Statement (.ctz d a la st) := by
  intro wd h he
  obtain ⟨num, hd, hf⟩ := word_of (l := [(0, 7, 5), (7, 2, st.toNat), (9, 1, 0), (10, 1, la.toNat), (11, 5, 0), (16, 5, a.toNat), (21, 5, d.toNat), (26, 6, 10)]) he
    (.lit rfl <| .val st rfl <| .lit rfl <| .flag la rfl <| .lit rfl <| .val a rfl <| .val d rfl <| .lit rfl <| .done rfl)
    (show _ = enc8 0x28000005 d a la st from rfl) (by simp only [packs]; omega)
  rw [hd, decodeNat, hf 26 6 10 rfl]
  show decodeBits num = _
  rw [decodeBits, hf 0 7 5 rfl]
  show form _ _ _ _ _ _ = _
  rw [bf_of hf 21 d rfl, bf_of hf 16 a rfl, flag_of hf 10 la rfl, bf_of hf 7 st rfl]
  exact form_ok (zeros_at hf rfl) trivial trivial trivial

theorem RoundTrip.popc (d : GReg) (a : GReg) (la : Bool) (st : BitVec 2) : RoundTrip.Statement (.popc d a la st) := by
  intro wd h he
  obtain ⟨num, hd, hf⟩ := word_of (l := [(0, 7, 6), (7, 2, st.toNat), (9, 1, 0), (10, 1, la.toNat), (11, 5, 0), (16, 5, a.toNat), (21, 5, d.toNat), (26, 6, 10)]) he
    (.lit rfl <| .val st rfl <| .lit rfl <| .flag la rfl <| .lit rfl <| .val a rfl <| .val d rfl <| .lit rfl <| .done rfl)
    (show _ = enc8 0x28000006 d a la st from rfl) (by simp only [packs]; omega)
  rw [hd, decodeNat, hf 26 6 10 rfl]
  show decodeBits num = _
  rw [decodeBits, hf 0 7 6 rfl]
  show form _ _ _ _ _ _ = _
  rw [bf_of hf 21 d rfl, bf_of hf 16 a rfl, flag_of hf 10 la rfl, bf_of hf 7 st rfl]
  exact form_ok (zeros_at hf rfl) trivial trivial trivial

theorem RoundTrip.brev (d : GReg) (a : GReg) (la : Bool) (st : BitVec 2) : RoundTrip.Statement (.brev d a la st) := by
  intro wd h he
  obtain ⟨num, hd, hf⟩ := word_of (l := [(0, 7, 7), (7, 2, st.toNat), (9, 1, 0), (10, 1, la.toNat), (11, 5, 0), (16, 5, a.toNat), (21, 5, d.toNat), (26, 6, 10)]) he
    (.lit rfl <| .val st rfl <| .lit rfl <| .flag la rfl <| .lit rfl <| .val a rfl <| .val d rfl <| .lit rfl <| .done rfl)
    (show _ = enc8 0x28000007 d a la st from rfl) (by simp only [packs]; omega)
  rw [hd, decodeNat, hf 26 6 10 rfl]
  show decodeBits num = _
  rw [decodeBits, hf 0 7 7 rfl]
  show form _ _ _ _ _ _ = _
  rw [bf_of hf 21 d rfl, bf_of hf 16 a rfl, flag_of hf 10 la rfl, bf_of hf 7 st rfl]
  exact form_ok (zeros_at hf rfl) trivial trivial trivial

theorem RoundTrip.bswap (d : GReg) (a : GReg) (la : Bool) (st : BitVec 2) : RoundTrip.Statement (.bswap d a la st) := by
  intro wd h he
  obtain ⟨num, hd, hf⟩ := word_of (l := [(0, 7, 8), (7, 2, st.toNat), (9, 1, 0), (10, 1, la.toNat), (11, 5, 0), (16, 5, a.toNat), (21, 5, d.toNat), (26, 6, 10)]) he
    (.lit rfl <| .val st rfl <| .lit rfl <| .flag la rfl <| .lit rfl <| .val a rfl <| .val d rfl <| .lit rfl <| .done rfl)
    (show _ = enc8 0x28000008 d a la st from rfl) (by simp only [packs]; omega)
  rw [hd, decodeNat, hf 26 6 10 rfl]
  show decodeBits num = _
  rw [decodeBits, hf 0 7 8 rfl]
  show form _ _ _ _ _ _ = _
  rw [bf_of hf 21 d rfl, bf_of hf 16 a rfl, flag_of hf 10 la rfl, bf_of hf 7 st rfl]
  exact form_ok (zeros_at hf rfl) trivial trivial trivial

theorem RoundTrip.bfx (d : GReg) (a : GReg) (b : GReg) (la : Bool) (lb : Bool) (st : BitVec 2) : RoundTrip.Statement (.bfx d a b la lb st) := by
  intro wd h he
  obtain ⟨num, hd, hf⟩ := word_of (l := [(0, 7, 9), (7, 2, st.toNat), (9, 1, lb.toNat), (10, 1, la.toNat), (11, 5, b.toNat), (16, 5, a.toNat), (21, 5, d.toNat), (26, 6, 10)]) he
    (.lit rfl <| .val st rfl <| .flag lb rfl <| .flag la rfl <| .val b rfl <| .val a rfl <| .val d rfl <| .lit rfl <| .done rfl)
    (show _ = enc1 0x28000009 d a b la lb st from rfl) (by simp only [packs]; omega)
  rw [hd, decodeNat, hf 26 6 10 rfl]
  show decodeBits num = _
  rw [decodeBits, hf 0 7 9 rfl]
  show form _ _ _ _ _ _ = _
  rw [bf_of hf 21 d rfl, bf_of hf 16 a rfl, bf_of hf 11 b rfl, flag_of hf 10 la rfl, flag_of hf 9 lb rfl, bf_of hf 7 st rfl]
  exact form_ok trivial trivial trivial (parity_at hf rfl rfl (h))

theorem RoundTrip.bfxs (d : GReg) (a : GReg) (b : GReg) (la : Bool) (lb : Bool) (st : BitVec 2) : RoundTrip.Statement (.bfxs d a b la lb st) := by
  intro wd h he
  obtain ⟨num, hd, hf⟩ := word_of (l := [(0, 7, 10), (7, 2, st.toNat), (9, 1, lb.toNat), (10, 1, la.toNat), (11, 5, b.toNat), (16, 5, a.toNat), (21, 5, d.toNat), (26, 6, 10)]) he
    (.lit rfl <| .val st rfl <| .flag lb rfl <| .flag la rfl <| .val b rfl <| .val a rfl <| .val d rfl <| .lit rfl <| .done rfl)
    (show _ = enc1 0x2800000A d a b la lb st from rfl) (by simp only [packs]; omega)
  rw [hd, decodeNat, hf 26 6 10 rfl]
  show decodeBits num = _
  rw [decodeBits, hf 0 7 10 rfl]
  show form _ _ _ _ _ _ = _
  rw [bf_of hf 21 d rfl, bf_of hf 16 a rfl, bf_of hf 11 b rfl, flag_of hf 10 la rfl, flag_of hf 9 lb rfl, bf_of hf 7 st rfl]
  exact form_ok trivial trivial trivial (parity_at hf rfl rfl (h))

theorem RoundTrip.bfi (d : GReg) (a : GReg) (b : GReg) (la : Bool) (lb : Bool) (st : BitVec 2) : RoundTrip.Statement (.bfi d a b la lb st) := by
  intro wd h he
  obtain ⟨num, hd, hf⟩ := word_of (l := [(0, 7, 11), (7, 2, st.toNat), (9, 1, lb.toNat), (10, 1, la.toNat), (11, 5, b.toNat), (16, 5, a.toNat), (21, 5, d.toNat), (26, 6, 10)]) he
    (.lit rfl <| .val st rfl <| .flag lb rfl <| .flag la rfl <| .val b rfl <| .val a rfl <| .val d rfl <| .lit rfl <| .done rfl)
    (show _ = enc1 0x2800000B d a b la lb st from rfl) (by simp only [packs]; omega)
  rw [hd, decodeNat, hf 26 6 10 rfl]
  show decodeBits num = _
  rw [decodeBits, hf 0 7 11 rfl]
  show form _ _ _ _ _ _ = _
  rw [bf_of hf 21 d rfl, bf_of hf 16 a rfl, bf_of hf 11 b rfl, flag_of hf 10 la rfl, flag_of hf 9 lb rfl, bf_of hf 7 st rfl]
  exact form_ok trivial trivial trivial (parity_at hf rfl rfl (h))

theorem RoundTrip.fshl (d : GReg) (a : GReg) (b : GReg) (la : Bool) (lb : Bool) (st : BitVec 2) (c : BitVec 5) : RoundTrip.Statement (.fshl d a b la lb st c) := by
  intro wd h he
  obtain ⟨num, hd, hf⟩ := word_of (l := [(0, 5, c.toNat), (5, 2, 1), (7, 2, st.toNat), (9, 1, lb.toNat), (10, 1, la.toNat), (11, 5, b.toNat), (16, 5, a.toNat), (21, 5, d.toNat), (26, 6, 10)]) he
    (.val c rfl <| .lit rfl <| .val st rfl <| .flag lb rfl <| .flag la rfl <| .val b rfl <| .val a rfl <| .val d rfl <| .lit rfl <| .done rfl)
    (show _ = enc9 0x28000020 d a b la lb st c from rfl) (by simp only [packs]; omega)
  rw [hd, decodeNat, hf 26 6 10 rfl]
  show decodeBits num = _
  have h7 : fld num 0 7 = c.toNat + 32 * 1 := fld_cat (hf 0 5 _ rfl) (hf 5 2 1 rfl)
  have := c.isLt
  unfold decodeBits
  split
  iterate 12 (exfalso; omega)
  rw [if_pos (by rw [hf 5 2 1 rfl]; rfl)]
  show form _ _ _ _ _ _ = _
  rw [bf_of hf 21 d rfl, bf_of hf 16 a rfl, bf_of hf 11 b rfl, flag_of hf 10 la rfl, flag_of hf 9 lb rfl, bf_of hf 7 st rfl, bf_of hf 0 c rfl]
  exact form_ok trivial trivial trivial (parity_at hf rfl rfl (h))

theorem RoundTrip.fshr (d : GReg) (a : GReg) (b : GReg) (la : Bool) (lb : Bool) (st : BitVec 2) (c : BitVec 5) : RoundTrip.Statement (.fshr d a b la lb st c) := by
  intro wd h he
  obtain ⟨num, hd, hf⟩ := word_of (l := [(0, 5, c.toNat), (5, 2, 2), (7, 2, st.toNat), (9, 1, lb.toNat), (10, 1, la.toNat), (11, 5, b.toNat), (16, 5, a.toNat), (21, 5, d.toNat), (26, 6, 10)]) he
    (.val c rfl <| .lit rfl <| .val st rfl <| .flag lb rfl <| .flag la rfl <| .val b rfl <| .val a rfl <| .val d rfl <| .lit rfl <| .done rfl)
    (show _ = enc9 0x28000040 d a b la lb st c from rfl) (by simp only [packs]; omega)
  rw [hd, decodeNat, hf 26 6 10 rfl]
  show decodeBits num = _
  have h7 : fld num 0 7 = c.toNat + 32 * 2 := fld_cat (hf 0 5 _ rfl) (hf 5 2 2 rfl)
  have := c.isLt
  unfold decodeBits
  split
  iterate 12 (exfalso; omega)
  rw [if_neg (by rw [hf 5 2 2 rfl]; decide)]
  rw [if_pos (by rw [hf 5 2 2 rfl]; rfl)]
  show form _ _ _ _ _ _ = _
  rw [bf_of hf 21 d rfl, bf_of hf 16 a rfl, bf_of hf 11 b rfl, flag_of hf 10 la rfl, flag_of hf 9 lb rfl, bf_of hf 7 st rfl, bf_of hf 0 c rfl]
  exact form_ok trivial trivial trivial (parity_at hf rfl rfl (h))

theorem RoundTrip.lut3 (d : GReg) (a : GReg) (b : GReg) (la : Bool) (lb : Bool) (tbl : BitVec 8) : RoundTrip.Statement (.lut3 d a b la lb tbl) := by
  intro wd h he
  obtain ⟨num, hd, hf⟩ := word_of (l := [(0, 1, 0), (1, 8, tbl.toNat), (9, 1, lb.toNat), (10, 1, la.toNat), (11, 5, b.toNat), (16, 5, a.toNat), (21, 5, d.toNat), (26, 6, 11)]) he
    (.lit rfl <| .val tbl rfl <| .flag lb rfl <| .flag la rfl <| .val b rfl <| .val a rfl <| .val d rfl <| .lit rfl <| .done rfl)
    (show _ = enc10 0x2C000000 d a b la lb tbl from rfl) (by simp only [packs]; omega)
  rw [hd, decodeNat, hf 26 6 11 rfl]
  show decodeLut3 num = _
  rw [decodeLut3]
  show form _ _ _ _ _ _ = _
  rw [bf_of hf 21 d rfl, bf_of hf 16 a rfl, bf_of hf 11 b rfl, flag_of hf 10 la rfl, flag_of hf 9 lb rfl, bf_of hf 1 tbl rfl]
  exact form_ok (zeros_at hf rfl) trivial trivial (parity_at hf rfl rfl (h))

theorem RoundTrip.mul (d : GReg) (a : GReg) (b : GReg) (la : Bool) (lb : Bool) (st : BitVec 2) : RoundTrip.Statement (.mul d a b la lb st) := by
  intro wd h he
  obtain ⟨num, hd, hf⟩ := word_of (l := [(0, 7, 0), (7, 2, st.toNat), (9, 1, lb.toNat), (10, 1, la.toNat), (11, 5, b.toNat), (16, 5, a.toNat), (21, 5, d.toNat), (26, 6, 12)]) he
    (.lit rfl <| .val st rfl <| .flag lb rfl <| .flag la rfl <| .val b rfl <| .val a rfl <| .val d rfl <| .lit rfl <| .done rfl)
    (show _ = enc1 0x30000000 d a b la lb st from rfl) (by simp only [packs]; omega)
  rw [hd, decodeNat, hf 26 6 12 rfl]
  show decodeMuldiv num = _
  rw [decodeMuldiv, hf 0 7 0 rfl]
  show form _ _ _ _ _ _ = _
  rw [bf_of hf 21 d rfl, bf_of hf 16 a rfl, bf_of hf 11 b rfl, flag_of hf 10 la rfl, flag_of hf 9 lb rfl, bf_of hf 7 st rfl]
  exact form_ok trivial trivial trivial (parity_at hf rfl rfl (h))

theorem RoundTrip.mulhs (d : GReg) (a : GReg) (b : GReg) (la : Bool) (lb : Bool) (st : BitVec 2) : RoundTrip.Statement (.mulhs d a b la lb st) := by
  intro wd h he
  obtain ⟨num, hd, hf⟩ := word_of (l := [(0, 7, 1), (7, 2, st.toNat), (9, 1, lb.toNat), (10, 1, la.toNat), (11, 5, b.toNat), (16, 5, a.toNat), (21, 5, d.toNat), (26, 6, 12)]) he
    (.lit rfl <| .val st rfl <| .flag lb rfl <| .flag la rfl <| .val b rfl <| .val a rfl <| .val d rfl <| .lit rfl <| .done rfl)
    (show _ = enc1 0x30000001 d a b la lb st from rfl) (by simp only [packs]; omega)
  rw [hd, decodeNat, hf 26 6 12 rfl]
  show decodeMuldiv num = _
  rw [decodeMuldiv, hf 0 7 1 rfl]
  show form _ _ _ _ _ _ = _
  rw [bf_of hf 21 d rfl, bf_of hf 16 a rfl, bf_of hf 11 b rfl, flag_of hf 10 la rfl, flag_of hf 9 lb rfl, bf_of hf 7 st rfl]
  exact form_ok trivial trivial trivial (parity_at hf rfl rfl (h))

theorem RoundTrip.mulhu (d : GReg) (a : GReg) (b : GReg) (la : Bool) (lb : Bool) (st : BitVec 2) : RoundTrip.Statement (.mulhu d a b la lb st) := by
  intro wd h he
  obtain ⟨num, hd, hf⟩ := word_of (l := [(0, 7, 2), (7, 2, st.toNat), (9, 1, lb.toNat), (10, 1, la.toNat), (11, 5, b.toNat), (16, 5, a.toNat), (21, 5, d.toNat), (26, 6, 12)]) he
    (.lit rfl <| .val st rfl <| .flag lb rfl <| .flag la rfl <| .val b rfl <| .val a rfl <| .val d rfl <| .lit rfl <| .done rfl)
    (show _ = enc1 0x30000002 d a b la lb st from rfl) (by simp only [packs]; omega)
  rw [hd, decodeNat, hf 26 6 12 rfl]
  show decodeMuldiv num = _
  rw [decodeMuldiv, hf 0 7 2 rfl]
  show form _ _ _ _ _ _ = _
  rw [bf_of hf 21 d rfl, bf_of hf 16 a rfl, bf_of hf 11 b rfl, flag_of hf 10 la rfl, flag_of hf 9 lb rfl, bf_of hf 7 st rfl]
  exact form_ok trivial trivial trivial (parity_at hf rfl rfl (h))

theorem RoundTrip.divs (d : GReg) (a : GReg) (b : GReg) (la : Bool) (lb : Bool) (st : BitVec 2) : RoundTrip.Statement (.divs d a b la lb st) := by
  intro wd h he
  obtain ⟨num, hd, hf⟩ := word_of (l := [(0, 7, 3), (7, 2, st.toNat), (9, 1, lb.toNat), (10, 1, la.toNat), (11, 5, b.toNat), (16, 5, a.toNat), (21, 5, d.toNat), (26, 6, 12)]) he
    (.lit rfl <| .val st rfl <| .flag lb rfl <| .flag la rfl <| .val b rfl <| .val a rfl <| .val d rfl <| .lit rfl <| .done rfl)
    (show _ = enc1 0x30000003 d a b la lb st from rfl) (by simp only [packs]; omega)
  rw [hd, decodeNat, hf 26 6 12 rfl]
  show decodeMuldiv num = _
  rw [decodeMuldiv, hf 0 7 3 rfl]
  show form _ _ _ _ _ _ = _
  rw [bf_of hf 21 d rfl, bf_of hf 16 a rfl, bf_of hf 11 b rfl, flag_of hf 10 la rfl, flag_of hf 9 lb rfl, bf_of hf 7 st rfl]
  exact form_ok trivial trivial trivial (parity_at hf rfl rfl (h))

theorem RoundTrip.divu (d : GReg) (a : GReg) (b : GReg) (la : Bool) (lb : Bool) (st : BitVec 2) : RoundTrip.Statement (.divu d a b la lb st) := by
  intro wd h he
  obtain ⟨num, hd, hf⟩ := word_of (l := [(0, 7, 4), (7, 2, st.toNat), (9, 1, lb.toNat), (10, 1, la.toNat), (11, 5, b.toNat), (16, 5, a.toNat), (21, 5, d.toNat), (26, 6, 12)]) he
    (.lit rfl <| .val st rfl <| .flag lb rfl <| .flag la rfl <| .val b rfl <| .val a rfl <| .val d rfl <| .lit rfl <| .done rfl)
    (show _ = enc1 0x30000004 d a b la lb st from rfl) (by simp only [packs]; omega)
  rw [hd, decodeNat, hf 26 6 12 rfl]
  show decodeMuldiv num = _
  rw [decodeMuldiv, hf 0 7 4 rfl]
  show form _ _ _ _ _ _ = _
  rw [bf_of hf 21 d rfl, bf_of hf 16 a rfl, bf_of hf 11 b rfl, flag_of hf 10 la rfl, flag_of hf 9 lb rfl, bf_of hf 7 st rfl]
  exact form_ok trivial trivial trivial (parity_at hf rfl rfl (h))

theorem RoundTrip.rems (d : GReg) (a : GReg) (b : GReg) (la : Bool) (lb : Bool) (st : BitVec 2) : RoundTrip.Statement (.rems d a b la lb st) := by
  intro wd h he
  obtain ⟨num, hd, hf⟩ := word_of (l := [(0, 7, 5), (7, 2, st.toNat), (9, 1, lb.toNat), (10, 1, la.toNat), (11, 5, b.toNat), (16, 5, a.toNat), (21, 5, d.toNat), (26, 6, 12)]) he
    (.lit rfl <| .val st rfl <| .flag lb rfl <| .flag la rfl <| .val b rfl <| .val a rfl <| .val d rfl <| .lit rfl <| .done rfl)
    (show _ = enc1 0x30000005 d a b la lb st from rfl) (by simp only [packs]; omega)
  rw [hd, decodeNat, hf 26 6 12 rfl]
  show decodeMuldiv num = _
  rw [decodeMuldiv, hf 0 7 5 rfl]
  show form _ _ _ _ _ _ = _
  rw [bf_of hf 21 d rfl, bf_of hf 16 a rfl, bf_of hf 11 b rfl, flag_of hf 10 la rfl, flag_of hf 9 lb rfl, bf_of hf 7 st rfl]
  exact form_ok trivial trivial trivial (parity_at hf rfl rfl (h))

theorem RoundTrip.remu (d : GReg) (a : GReg) (b : GReg) (la : Bool) (lb : Bool) (st : BitVec 2) : RoundTrip.Statement (.remu d a b la lb st) := by
  intro wd h he
  obtain ⟨num, hd, hf⟩ := word_of (l := [(0, 7, 6), (7, 2, st.toNat), (9, 1, lb.toNat), (10, 1, la.toNat), (11, 5, b.toNat), (16, 5, a.toNat), (21, 5, d.toNat), (26, 6, 12)]) he
    (.lit rfl <| .val st rfl <| .flag lb rfl <| .flag la rfl <| .val b rfl <| .val a rfl <| .val d rfl <| .lit rfl <| .done rfl)
    (show _ = enc1 0x30000006 d a b la lb st from rfl) (by simp only [packs]; omega)
  rw [hd, decodeNat, hf 26 6 12 rfl]
  show decodeMuldiv num = _
  rw [decodeMuldiv, hf 0 7 6 rfl]
  show form _ _ _ _ _ _ = _
  rw [bf_of hf 21 d rfl, bf_of hf 16 a rfl, bf_of hf 11 b rfl, flag_of hf 10 la rfl, flag_of hf 9 lb rfl, bf_of hf 7 st rfl]
  exact form_ok trivial trivial trivial (parity_at hf rfl rfl (h))

theorem RoundTrip.fadd (d : GReg) (a : GReg) (b : GReg) (la : Bool) (lb : Bool) (st : BitVec 2) : RoundTrip.Statement (.fadd d a b la lb st) := by
  intro wd h he
  obtain ⟨num, hd, hf⟩ := word_of (l := [(0, 7, 0), (7, 2, st.toNat), (9, 1, lb.toNat), (10, 1, la.toNat), (11, 5, b.toNat), (16, 5, a.toNat), (21, 5, d.toNat), (26, 6, 13)]) he
    (.lit rfl <| .val st rfl <| .flag lb rfl <| .flag la rfl <| .val b rfl <| .val a rfl <| .val d rfl <| .lit rfl <| .done rfl)
    (show _ = enc1 0x34000000 d a b la lb st from rfl) (by simp only [packs]; omega)
  rw [hd, decodeNat, hf 26 6 13 rfl]
  show decodeFps num = _
  rw [decodeFps, hf 0 7 0 rfl]
  show form _ _ _ _ _ _ = _
  rw [bf_of hf 21 d rfl, bf_of hf 16 a rfl, bf_of hf 11 b rfl, flag_of hf 10 la rfl, flag_of hf 9 lb rfl, bf_of hf 7 st rfl]
  exact form_ok trivial trivial trivial (parity_at hf rfl rfl (h))

theorem RoundTrip.fsub (d : GReg) (a : GReg) (b : GReg) (la : Bool) (lb : Bool) (st : BitVec 2) : RoundTrip.Statement (.fsub d a b la lb st) := by
  intro wd h he
  obtain ⟨num, hd, hf⟩ := word_of (l := [(0, 7, 1), (7, 2, st.toNat), (9, 1, lb.toNat), (10, 1, la.toNat), (11, 5, b.toNat), (16, 5, a.toNat), (21, 5, d.toNat), (26, 6, 13)]) he
    (.lit rfl <| .val st rfl <| .flag lb rfl <| .flag la rfl <| .val b rfl <| .val a rfl <| .val d rfl <| .lit rfl <| .done rfl)
    (show _ = enc1 0x34000001 d a b la lb st from rfl) (by simp only [packs]; omega)
  rw [hd, decodeNat, hf 26 6 13 rfl]
  show decodeFps num = _
  rw [decodeFps, hf 0 7 1 rfl]
  show form _ _ _ _ _ _ = _
  rw [bf_of hf 21 d rfl, bf_of hf 16 a rfl, bf_of hf 11 b rfl, flag_of hf 10 la rfl, flag_of hf 9 lb rfl, bf_of hf 7 st rfl]
  exact form_ok trivial trivial trivial (parity_at hf rfl rfl (h))

theorem RoundTrip.fmul (d : GReg) (a : GReg) (b : GReg) (la : Bool) (lb : Bool) (st : BitVec 2) : RoundTrip.Statement (.fmul d a b la lb st) := by
  intro wd h he
  obtain ⟨num, hd, hf⟩ := word_of (l := [(0, 7, 2), (7, 2, st.toNat), (9, 1, lb.toNat), (10, 1, la.toNat), (11, 5, b.toNat), (16, 5, a.toNat), (21, 5, d.toNat), (26, 6, 13)]) he
    (.lit rfl <| .val st rfl <| .flag lb rfl <| .flag la rfl <| .val b rfl <| .val a rfl <| .val d rfl <| .lit rfl <| .done rfl)
    (show _ = enc1 0x34000002 d a b la lb st from rfl) (by simp only [packs]; omega)
  rw [hd, decodeNat, hf 26 6 13 rfl]
  show decodeFps num = _
  rw [decodeFps, hf 0 7 2 rfl]
  show form _ _ _ _ _ _ = _
  rw [bf_of hf 21 d rfl, bf_of hf 16 a rfl, bf_of hf 11 b rfl, flag_of hf 10 la rfl, flag_of hf 9 lb rfl, bf_of hf 7 st rfl]
  exact form_ok trivial trivial trivial (parity_at hf rfl rfl (h))

theorem RoundTrip.ffma (d : GReg) (a : GReg) (b : GReg) (la : Bool) (lb : Bool) (st : BitVec 2) : RoundTrip.Statement (.ffma d a b la lb st) := by
  intro wd h he
  obtain ⟨num, hd, hf⟩ := word_of (l := [(0, 7, 3), (7, 2, st.toNat), (9, 1, lb.toNat), (10, 1, la.toNat), (11, 5, b.toNat), (16, 5, a.toNat), (21, 5, d.toNat), (26, 6, 13)]) he
    (.lit rfl <| .val st rfl <| .flag lb rfl <| .flag la rfl <| .val b rfl <| .val a rfl <| .val d rfl <| .lit rfl <| .done rfl)
    (show _ = enc1 0x34000003 d a b la lb st from rfl) (by simp only [packs]; omega)
  rw [hd, decodeNat, hf 26 6 13 rfl]
  show decodeFps num = _
  rw [decodeFps, hf 0 7 3 rfl]
  show form _ _ _ _ _ _ = _
  rw [bf_of hf 21 d rfl, bf_of hf 16 a rfl, bf_of hf 11 b rfl, flag_of hf 10 la rfl, flag_of hf 9 lb rfl, bf_of hf 7 st rfl]
  exact form_ok trivial trivial trivial (parity_at hf rfl rfl (h))

theorem RoundTrip.fmin (d : GReg) (a : GReg) (b : GReg) (la : Bool) (lb : Bool) (st : BitVec 2) : RoundTrip.Statement (.fmin d a b la lb st) := by
  intro wd h he
  obtain ⟨num, hd, hf⟩ := word_of (l := [(0, 7, 4), (7, 2, st.toNat), (9, 1, lb.toNat), (10, 1, la.toNat), (11, 5, b.toNat), (16, 5, a.toNat), (21, 5, d.toNat), (26, 6, 13)]) he
    (.lit rfl <| .val st rfl <| .flag lb rfl <| .flag la rfl <| .val b rfl <| .val a rfl <| .val d rfl <| .lit rfl <| .done rfl)
    (show _ = enc1 0x34000004 d a b la lb st from rfl) (by simp only [packs]; omega)
  rw [hd, decodeNat, hf 26 6 13 rfl]
  show decodeFps num = _
  rw [decodeFps, hf 0 7 4 rfl]
  show form _ _ _ _ _ _ = _
  rw [bf_of hf 21 d rfl, bf_of hf 16 a rfl, bf_of hf 11 b rfl, flag_of hf 10 la rfl, flag_of hf 9 lb rfl, bf_of hf 7 st rfl]
  exact form_ok trivial trivial trivial (parity_at hf rfl rfl (h))

theorem RoundTrip.fmax (d : GReg) (a : GReg) (b : GReg) (la : Bool) (lb : Bool) (st : BitVec 2) : RoundTrip.Statement (.fmax d a b la lb st) := by
  intro wd h he
  obtain ⟨num, hd, hf⟩ := word_of (l := [(0, 7, 5), (7, 2, st.toNat), (9, 1, lb.toNat), (10, 1, la.toNat), (11, 5, b.toNat), (16, 5, a.toNat), (21, 5, d.toNat), (26, 6, 13)]) he
    (.lit rfl <| .val st rfl <| .flag lb rfl <| .flag la rfl <| .val b rfl <| .val a rfl <| .val d rfl <| .lit rfl <| .done rfl)
    (show _ = enc1 0x34000005 d a b la lb st from rfl) (by simp only [packs]; omega)
  rw [hd, decodeNat, hf 26 6 13 rfl]
  show decodeFps num = _
  rw [decodeFps, hf 0 7 5 rfl]
  show form _ _ _ _ _ _ = _
  rw [bf_of hf 21 d rfl, bf_of hf 16 a rfl, bf_of hf 11 b rfl, flag_of hf 10 la rfl, flag_of hf 9 lb rfl, bf_of hf 7 st rfl]
  exact form_ok trivial trivial trivial (parity_at hf rfl rfl (h))

theorem RoundTrip.fabs (d : GReg) (a : GReg) (la : Bool) (st : BitVec 2) : RoundTrip.Statement (.fabs d a la st) := by
  intro wd h he
  obtain ⟨num, hd, hf⟩ := word_of (l := [(0, 7, 6), (7, 2, st.toNat), (9, 1, 0), (10, 1, la.toNat), (11, 5, 0), (16, 5, a.toNat), (21, 5, d.toNat), (26, 6, 13)]) he
    (.lit rfl <| .val st rfl <| .lit rfl <| .flag la rfl <| .lit rfl <| .val a rfl <| .val d rfl <| .lit rfl <| .done rfl)
    (show _ = enc8 0x34000006 d a la st from rfl) (by simp only [packs]; omega)
  rw [hd, decodeNat, hf 26 6 13 rfl]
  show decodeFps num = _
  rw [decodeFps, hf 0 7 6 rfl]
  show form _ _ _ _ _ _ = _
  rw [bf_of hf 21 d rfl, bf_of hf 16 a rfl, flag_of hf 10 la rfl, bf_of hf 7 st rfl]
  exact form_ok (zeros_at hf rfl) trivial trivial trivial

theorem RoundTrip.fneg (d : GReg) (a : GReg) (la : Bool) (st : BitVec 2) : RoundTrip.Statement (.fneg d a la st) := by
  intro wd h he
  obtain ⟨num, hd, hf⟩ := word_of (l := [(0, 7, 7), (7, 2, st.toNat), (9, 1, 0), (10, 1, la.toNat), (11, 5, 0), (16, 5, a.toNat), (21, 5, d.toNat), (26, 6, 13)]) he
    (.lit rfl <| .val st rfl <| .lit rfl <| .flag la rfl <| .lit rfl <| .val a rfl <| .val d rfl <| .lit rfl <| .done rfl)
    (show _ = enc8 0x34000007 d a la st from rfl) (by simp only [packs]; omega)
  rw [hd, decodeNat, hf 26 6 13 rfl]
  show decodeFps num = _
  rw [decodeFps, hf 0 7 7 rfl]
  show form _ _ _ _ _ _ = _
  rw [bf_of hf 21 d rfl, bf_of hf 16 a rfl, flag_of hf 10 la rfl, bf_of hf 7 st rfl]
  exact form_ok (zeros_at hf rfl) trivial trivial trivial

theorem RoundTrip.fcvtif (d : GReg) (a : GReg) (la : Bool) (st : BitVec 2) : RoundTrip.Statement (.fcvtif d a la st) := by
  intro wd h he
  obtain ⟨num, hd, hf⟩ := word_of (l := [(0, 7, 8), (7, 2, st.toNat), (9, 1, 0), (10, 1, la.toNat), (11, 5, 0), (16, 5, a.toNat), (21, 5, d.toNat), (26, 6, 13)]) he
    (.lit rfl <| .val st rfl <| .lit rfl <| .flag la rfl <| .lit rfl <| .val a rfl <| .val d rfl <| .lit rfl <| .done rfl)
    (show _ = enc8 0x34000008 d a la st from rfl) (by simp only [packs]; omega)
  rw [hd, decodeNat, hf 26 6 13 rfl]
  show decodeFps num = _
  rw [decodeFps, hf 0 7 8 rfl]
  show form _ _ _ _ _ _ = _
  rw [bf_of hf 21 d rfl, bf_of hf 16 a rfl, flag_of hf 10 la rfl, bf_of hf 7 st rfl]
  exact form_ok (zeros_at hf rfl) trivial trivial trivial

theorem RoundTrip.fcvtfi (d : GReg) (a : GReg) (la : Bool) (st : BitVec 2) : RoundTrip.Statement (.fcvtfi d a la st) := by
  intro wd h he
  obtain ⟨num, hd, hf⟩ := word_of (l := [(0, 7, 9), (7, 2, st.toNat), (9, 1, 0), (10, 1, la.toNat), (11, 5, 0), (16, 5, a.toNat), (21, 5, d.toNat), (26, 6, 13)]) he
    (.lit rfl <| .val st rfl <| .lit rfl <| .flag la rfl <| .lit rfl <| .val a rfl <| .val d rfl <| .lit rfl <| .done rfl)
    (show _ = enc8 0x34000009 d a la st from rfl) (by simp only [packs]; omega)
  rw [hd, decodeNat, hf 26 6 13 rfl]
  show decodeFps num = _
  rw [decodeFps, hf 0 7 9 rfl]
  show form _ _ _ _ _ _ = _
  rw [bf_of hf 21 d rfl, bf_of hf 16 a rfl, flag_of hf 10 la rfl, bf_of hf 7 st rfl]
  exact form_ok (zeros_at hf rfl) trivial trivial trivial

theorem RoundTrip.fsqrt (d : GReg) (a : GReg) (la : Bool) (st : BitVec 2) : RoundTrip.Statement (.fsqrt d a la st) := by
  intro wd h he
  obtain ⟨num, hd, hf⟩ := word_of (l := [(0, 7, 10), (7, 2, st.toNat), (9, 1, 0), (10, 1, la.toNat), (11, 5, 0), (16, 5, a.toNat), (21, 5, d.toNat), (26, 6, 13)]) he
    (.lit rfl <| .val st rfl <| .lit rfl <| .flag la rfl <| .lit rfl <| .val a rfl <| .val d rfl <| .lit rfl <| .done rfl)
    (show _ = enc8 0x3400000A d a la st from rfl) (by simp only [packs]; omega)
  rw [hd, decodeNat, hf 26 6 13 rfl]
  show decodeFps num = _
  rw [decodeFps, hf 0 7 10 rfl]
  show form _ _ _ _ _ _ = _
  rw [bf_of hf 21 d rfl, bf_of hf 16 a rfl, flag_of hf 10 la rfl, bf_of hf 7 st rfl]
  exact form_ok (zeros_at hf rfl) trivial trivial trivial

theorem RoundTrip.fcmpeq (p : PReg) (a : GReg) (b : GReg) (la : Bool) (lb : Bool) (st : BitVec 2) : RoundTrip.Statement (.fcmpeq p a b la lb st) := by
  intro wd h he
  obtain ⟨num, hd, hf⟩ := word_of (l := [(0, 7, 16), (7, 2, st.toNat), (9, 1, lb.toNat), (10, 1, la.toNat), (11, 5, b.toNat), (16, 5, a.toNat), (21, 2, 0), (23, 3, p.toNat), (26, 6, 13)]) he
    (.lit rfl <| .val st rfl <| .flag lb rfl <| .flag la rfl <| .val b rfl <| .val a rfl <| .lit rfl <| .val p rfl <| .lit rfl <| .done rfl)
    (show _ = enc11 0x34000010 p a b la lb st from rfl) (by simp only [packs]; omega)
  rw [hd, decodeNat, hf 26 6 13 rfl]
  show decodeFps num = _
  rw [decodeFps, hf 0 7 16 rfl]
  show form _ _ _ _ _ _ = _
  rw [bf_of hf 23 p rfl, bf_of hf 16 a rfl, bf_of hf 11 b rfl, flag_of hf 10 la rfl, flag_of hf 9 lb rfl, bf_of hf 7 st rfl]
  exact form_ok (zeros_at hf rfl) trivial trivial (parity_at hf rfl rfl (h))

theorem RoundTrip.fcmpne (p : PReg) (a : GReg) (b : GReg) (la : Bool) (lb : Bool) (st : BitVec 2) : RoundTrip.Statement (.fcmpne p a b la lb st) := by
  intro wd h he
  obtain ⟨num, hd, hf⟩ := word_of (l := [(0, 7, 17), (7, 2, st.toNat), (9, 1, lb.toNat), (10, 1, la.toNat), (11, 5, b.toNat), (16, 5, a.toNat), (21, 2, 0), (23, 3, p.toNat), (26, 6, 13)]) he
    (.lit rfl <| .val st rfl <| .flag lb rfl <| .flag la rfl <| .val b rfl <| .val a rfl <| .lit rfl <| .val p rfl <| .lit rfl <| .done rfl)
    (show _ = enc11 0x34000011 p a b la lb st from rfl) (by simp only [packs]; omega)
  rw [hd, decodeNat, hf 26 6 13 rfl]
  show decodeFps num = _
  rw [decodeFps, hf 0 7 17 rfl]
  show form _ _ _ _ _ _ = _
  rw [bf_of hf 23 p rfl, bf_of hf 16 a rfl, bf_of hf 11 b rfl, flag_of hf 10 la rfl, flag_of hf 9 lb rfl, bf_of hf 7 st rfl]
  exact form_ok (zeros_at hf rfl) trivial trivial (parity_at hf rfl rfl (h))

theorem RoundTrip.fcmplt (p : PReg) (a : GReg) (b : GReg) (la : Bool) (lb : Bool) (st : BitVec 2) : RoundTrip.Statement (.fcmplt p a b la lb st) := by
  intro wd h he
  obtain ⟨num, hd, hf⟩ := word_of (l := [(0, 7, 18), (7, 2, st.toNat), (9, 1, lb.toNat), (10, 1, la.toNat), (11, 5, b.toNat), (16, 5, a.toNat), (21, 2, 0), (23, 3, p.toNat), (26, 6, 13)]) he
    (.lit rfl <| .val st rfl <| .flag lb rfl <| .flag la rfl <| .val b rfl <| .val a rfl <| .lit rfl <| .val p rfl <| .lit rfl <| .done rfl)
    (show _ = enc11 0x34000012 p a b la lb st from rfl) (by simp only [packs]; omega)
  rw [hd, decodeNat, hf 26 6 13 rfl]
  show decodeFps num = _
  rw [decodeFps, hf 0 7 18 rfl]
  show form _ _ _ _ _ _ = _
  rw [bf_of hf 23 p rfl, bf_of hf 16 a rfl, bf_of hf 11 b rfl, flag_of hf 10 la rfl, flag_of hf 9 lb rfl, bf_of hf 7 st rfl]
  exact form_ok (zeros_at hf rfl) trivial trivial (parity_at hf rfl rfl (h))

theorem RoundTrip.fcmple (p : PReg) (a : GReg) (b : GReg) (la : Bool) (lb : Bool) (st : BitVec 2) : RoundTrip.Statement (.fcmple p a b la lb st) := by
  intro wd h he
  obtain ⟨num, hd, hf⟩ := word_of (l := [(0, 7, 19), (7, 2, st.toNat), (9, 1, lb.toNat), (10, 1, la.toNat), (11, 5, b.toNat), (16, 5, a.toNat), (21, 2, 0), (23, 3, p.toNat), (26, 6, 13)]) he
    (.lit rfl <| .val st rfl <| .flag lb rfl <| .flag la rfl <| .val b rfl <| .val a rfl <| .lit rfl <| .val p rfl <| .lit rfl <| .done rfl)
    (show _ = enc11 0x34000013 p a b la lb st from rfl) (by simp only [packs]; omega)
  rw [hd, decodeNat, hf 26 6 13 rfl]
  show decodeFps num = _
  rw [decodeFps, hf 0 7 19 rfl]
  show form _ _ _ _ _ _ = _
  rw [bf_of hf 23 p rfl, bf_of hf 16 a rfl, bf_of hf 11 b rfl, flag_of hf 10 la rfl, flag_of hf 9 lb rfl, bf_of hf 7 st rfl]
  exact form_ok (zeros_at hf rfl) trivial trivial (parity_at hf rfl rfl (h))

theorem RoundTrip.fcmpun (p : PReg) (a : GReg) (b : GReg) (la : Bool) (lb : Bool) (st : BitVec 2) : RoundTrip.Statement (.fcmpun p a b la lb st) := by
  intro wd h he
  obtain ⟨num, hd, hf⟩ := word_of (l := [(0, 7, 20), (7, 2, st.toNat), (9, 1, lb.toNat), (10, 1, la.toNat), (11, 5, b.toNat), (16, 5, a.toNat), (21, 2, 0), (23, 3, p.toNat), (26, 6, 13)]) he
    (.lit rfl <| .val st rfl <| .flag lb rfl <| .flag la rfl <| .val b rfl <| .val a rfl <| .lit rfl <| .val p rfl <| .lit rfl <| .done rfl)
    (show _ = enc11 0x34000014 p a b la lb st from rfl) (by simp only [packs]; omega)
  rw [hd, decodeNat, hf 26 6 13 rfl]
  show decodeFps num = _
  rw [decodeFps, hf 0 7 20 rfl]
  show form _ _ _ _ _ _ = _
  rw [bf_of hf 23 p rfl, bf_of hf 16 a rfl, bf_of hf 11 b rfl, flag_of hf 10 la rfl, flag_of hf 9 lb rfl, bf_of hf 7 st rfl]
  exact form_ok (zeros_at hf rfl) trivial trivial (parity_at hf rfl rfl (h))

theorem RoundTrip.adda (d : AReg) (a : AReg) (b : GReg) (lb : Bool) (st : BitVec 2) : RoundTrip.Statement (.adda d a b lb st) := by
  intro wd h he
  obtain ⟨num, hd, hf⟩ := word_of (l := [(0, 7, 0), (7, 2, st.toNat), (9, 1, lb.toNat), (10, 1, 0), (11, 5, b.toNat), (16, 3, a.toNat), (19, 2, 0), (21, 3, d.toNat), (24, 2, 0), (26, 6, 14)]) he
    (.lit rfl <| .val st rfl <| .flag lb rfl <| .lit rfl <| .val b rfl <| .val a rfl <| .lit rfl <| .val d rfl <| .lit rfl <| .lit rfl <| .done rfl)
    (show _ = enc12 0x38000000 d a b lb st from rfl) (by simp only [packs]; omega)
  rw [hd, decodeNat, hf 26 6 14 rfl]
  show decodeAddr num = _
  rw [decodeAddr, hf 0 7 0 rfl]
  show form _ _ _ _ _ _ = _
  rw [bf_of hf 21 d rfl, bf_of hf 16 a rfl, bf_of hf 11 b rfl, flag_of hf 9 lb rfl, bf_of hf 7 st rfl]
  exact form_ok (zeros_at hf rfl) trivial trivial trivial

theorem RoundTrip.addau (d : AReg) (a : AReg) (b : GReg) (lb : Bool) (st : BitVec 2) : RoundTrip.Statement (.addau d a b lb st) := by
  intro wd h he
  obtain ⟨num, hd, hf⟩ := word_of (l := [(0, 7, 1), (7, 2, st.toNat), (9, 1, lb.toNat), (10, 1, 0), (11, 5, b.toNat), (16, 3, a.toNat), (19, 2, 0), (21, 3, d.toNat), (24, 2, 0), (26, 6, 14)]) he
    (.lit rfl <| .val st rfl <| .flag lb rfl <| .lit rfl <| .val b rfl <| .val a rfl <| .lit rfl <| .val d rfl <| .lit rfl <| .lit rfl <| .done rfl)
    (show _ = enc12 0x38000001 d a b lb st from rfl) (by simp only [packs]; omega)
  rw [hd, decodeNat, hf 26 6 14 rfl]
  show decodeAddr num = _
  rw [decodeAddr, hf 0 7 1 rfl]
  show form _ _ _ _ _ _ = _
  rw [bf_of hf 21 d rfl, bf_of hf 16 a rfl, bf_of hf 11 b rfl, flag_of hf 9 lb rfl, bf_of hf 7 st rfl]
  exact form_ok (zeros_at hf rfl) trivial trivial trivial

theorem RoundTrip.addas (d : AReg) (a : AReg) (b : GReg) (lb : Bool) (st : BitVec 2) (s : BitVec 3) : RoundTrip.Statement (.addas d a b lb st s) := by
  intro wd h he
  obtain ⟨num, hd, hf⟩ := word_of (l := [(0, 3, s.toNat), (3, 4, 2), (7, 2, st.toNat), (9, 1, lb.toNat), (10, 1, 0), (11, 5, b.toNat), (16, 3, a.toNat), (19, 2, 0), (21, 3, d.toNat), (24, 2, 0), (26, 6, 14)]) he
    (.val s rfl <| .lit rfl <| .val st rfl <| .flag lb rfl <| .lit rfl <| .val b rfl <| .val a rfl <| .lit rfl <| .val d rfl <| .lit rfl <| .lit rfl <| .done rfl)
    (show _ = enc13 0x38000010 d a b lb st s from rfl) (by simp only [packs]; omega)
  rw [hd, decodeNat, hf 26 6 14 rfl]
  show decodeAddr num = _
  have h7 : fld num 0 7 = s.toNat + 8 * 2 := fld_cat (hf 0 3 _ rfl) (hf 3 4 2 rfl)
  have := s.isLt
  unfold decodeAddr
  split
  iterate 6 (exfalso; omega)
  rw [if_pos (by rw [hf 3 4 2 rfl]; rfl)]
  show form _ _ _ _ _ _ = _
  rw [bf_of hf 21 d rfl, bf_of hf 16 a rfl, bf_of hf 11 b rfl, flag_of hf 9 lb rfl, bf_of hf 7 st rfl, bf_of hf 0 s rfl]
  exact form_ok (zeros_at hf rfl) trivial trivial trivial

theorem RoundTrip.movga (d : AReg) (a : GReg) (b : GReg) (la : Bool) (lb : Bool) (st : BitVec 2) : RoundTrip.Statement (.movga d a b la lb st) := by
  intro wd h he
  obtain ⟨num, hd, hf⟩ := word_of (l := [(0, 7, 3), (7, 2, st.toNat), (9, 1, lb.toNat), (10, 1, la.toNat), (11, 5, b.toNat), (16, 5, a.toNat), (21, 3, d.toNat), (24, 2, 0), (26, 6, 14)]) he
    (.lit rfl <| .val st rfl <| .flag lb rfl <| .flag la rfl <| .val b rfl <| .val a rfl <| .val d rfl <| .lit rfl <| .lit rfl <| .done rfl)
    (show _ = enc14 0x38000003 d a b la lb st from rfl) (by simp only [packs]; omega)
  rw [hd, decodeNat, hf 26 6 14 rfl]
  show decodeAddr num = _
  rw [decodeAddr, hf 0 7 3 rfl]
  show form _ _ _ _ _ _ = _
  rw [bf_of hf 21 d rfl, bf_of hf 16 a rfl, bf_of hf 11 b rfl, flag_of hf 10 la rfl, flag_of hf 9 lb rfl, bf_of hf 7 st rfl]
  exact form_ok (zeros_at hf rfl) trivial trivial (parity_at hf rfl rfl (h))

theorem RoundTrip.movag (d : GReg) (a : AReg) (st : BitVec 2) : RoundTrip.Statement (.movag d a st) := by
  intro wd h he
  obtain ⟨num, hd, hf⟩ := word_of (l := [(0, 7, 4), (7, 2, st.toNat), (9, 1, 0), (10, 1, 0), (11, 5, 0), (16, 3, a.toNat), (19, 2, 0), (21, 5, d.toNat), (26, 6, 14)]) he
    (.lit rfl <| .val st rfl <| .lit rfl <| .lit rfl <| .lit rfl <| .val a rfl <| .lit rfl <| .val d rfl <| .lit rfl <| .done rfl)
    (show _ = enc15 0x38000004 d a st from rfl) (by simp only [packs]; omega)
  rw [hd, decodeNat, hf 26 6 14 rfl]
  show decodeAddr num = _
  rw [decodeAddr, hf 0 7 4 rfl]
  show form _ _ _ _ _ _ = _
  rw [bf_of hf 21 d rfl, bf_of hf 16 a rfl, bf_of hf 7 st rfl]
  exact form_ok (zeros_at hf rfl) trivial trivial trivial

theorem RoundTrip.movagh (d : GReg) (a : AReg) (st : BitVec 2) : RoundTrip.Statement (.movagh d a st) := by
  intro wd h he
  obtain ⟨num, hd, hf⟩ := word_of (l := [(0, 7, 5), (7, 2, st.toNat), (9, 1, 0), (10, 1, 0), (11, 5, 0), (16, 3, a.toNat), (19, 2, 0), (21, 5, d.toNat), (26, 6, 14)]) he
    (.lit rfl <| .val st rfl <| .lit rfl <| .lit rfl <| .lit rfl <| .val a rfl <| .lit rfl <| .val d rfl <| .lit rfl <| .done rfl)
    (show _ = enc15 0x38000005 d a st from rfl) (by simp only [packs]; omega)
  rw [hd, decodeNat, hf 26 6 14 rfl]
  show decodeAddr num = _
  rw [decodeAddr, hf 0 7 5 rfl]
  show form _ _ _ _ _ _ = _
  rw [bf_of hf 21 d rfl, bf_of hf 16 a rfl, bf_of hf 7 st rfl]
  exact form_ok (zeros_at hf rfl) trivial trivial trivial

theorem RoundTrip.suba (d : GReg) (a : AReg) (b : AReg) (st : BitVec 2) : RoundTrip.Statement (.suba d a b st) := by
  intro wd h he
  obtain ⟨num, hd, hf⟩ := word_of (l := [(0, 7, 6), (7, 2, st.toNat), (9, 1, 0), (10, 1, 0), (11, 3, b.toNat), (14, 2, 0), (16, 3, a.toNat), (19, 2, 0), (21, 5, d.toNat), (26, 6, 14)]) he
    (.lit rfl <| .val st rfl <| .lit rfl <| .lit rfl <| .val b rfl <| .lit rfl <| .val a rfl <| .lit rfl <| .val d rfl <| .lit rfl <| .done rfl)
    (show _ = enc16 0x38000006 d a b st from rfl) (by simp only [packs]; omega)
  rw [hd, decodeNat, hf 26 6 14 rfl]
  show decodeAddr num = _
  rw [decodeAddr, hf 0 7 6 rfl]
  show form _ _ _ _ _ _ = _
  rw [bf_of hf 21 d rfl, bf_of hf 16 a rfl, bf_of hf 11 b rfl, bf_of hf 7 st rfl]
  exact form_ok (zeros_at hf rfl) trivial trivial trivial

theorem RoundTrip.addai (d : AReg) (a : AReg) (st : BitVec 2) (imm : BitVec 13) : RoundTrip.Statement (.addai d a st imm) := by
  intro wd h he
  obtain ⟨num, hd, hf⟩ := word_of (l := [(0, 13, imm.toNat), (13, 2, st.toNat), (15, 1, 0), (16, 3, a.toNat), (19, 2, 0), (21, 3, d.toNat), (24, 2, 0), (26, 6, 15)]) he
    (.val imm rfl <| .val st rfl <| .lit rfl <| .val a rfl <| .lit rfl <| .val d rfl <| .lit rfl <| .lit rfl <| .done rfl)
    (show _ = enc17 0x3C000000 d a st imm from rfl) (by simp only [packs]; omega)
  rw [hd, decodeNat, hf 26 6 15 rfl]
  show decodeAddai num = _
  rw [decodeAddai]
  show form _ _ _ _ _ _ = _
  rw [bf_of hf 21 d rfl, bf_of hf 16 a rfl, bf_of hf 13 st rfl, bf_of hf 0 imm rfl]
  exact form_ok (zeros_at hf rfl) trivial trivial trivial

theorem RoundTrip.br (p : PReg) (n : Bool) (st : BitVec 2) (off : BitVec 20) : RoundTrip.Statement (.br p n st off) := by
  intro wd h he
  obtain ⟨num, hd, hf⟩ := word_of (l := [(0, 20, off.toNat), (20, 2, st.toNat), (22, 1, n.toNat), (23, 3, p.toNat), (26, 6, 16)]) he
    (.val off rfl <| .val st rfl <| .flag n rfl <| .val p rfl <| .lit rfl <| .done rfl)
    (show _ = enc18 0x40000000 p n st off from rfl) (by simp only [packs]; omega)
  rw [hd, decodeNat, hf 26 6 16 rfl]
  show decodeBr num = _
  rw [decodeBr]
  show form _ _ _ _ _ _ = _
  rw [bf_of hf 23 p rfl, flag_of hf 22 n rfl, bf_of hf 20 st rfl, bf_of hf 0 off rfl]
  exact form_ok trivial ⟨bad_never hf rfl rfl h, trivial⟩ trivial trivial

theorem RoundTrip.call (p : PReg) (n : Bool) (st : BitVec 2) (off : BitVec 20) : RoundTrip.Statement (.call p n st off) := by
  intro wd h he
  obtain ⟨num, hd, hf⟩ := word_of (l := [(0, 20, off.toNat), (20, 2, st.toNat), (22, 1, n.toNat), (23, 3, p.toNat), (26, 6, 17)]) he
    (.val off rfl <| .val st rfl <| .flag n rfl <| .val p rfl <| .lit rfl <| .done rfl)
    (show _ = enc18 0x44000000 p n st off from rfl) (by simp only [packs]; omega)
  rw [hd, decodeNat, hf 26 6 17 rfl]
  show decodeCall num = _
  rw [decodeCall]
  show form _ _ _ _ _ _ = _
  rw [bf_of hf 23 p rfl, flag_of hf 22 n rfl, bf_of hf 20 st rfl, bf_of hf 0 off rfl]
  exact form_ok trivial ⟨bad_never hf rfl rfl h, trivial⟩ trivial trivial

theorem RoundTrip.jmpr (a : GReg) (la : Bool) (st : BitVec 2) : RoundTrip.Statement (.jmpr a la st) := by
  intro wd h he
  obtain ⟨num, hd, hf⟩ := word_of (l := [(0, 7, 0), (7, 2, st.toNat), (9, 1, 0), (10, 1, la.toNat), (11, 5, 0), (16, 5, a.toNat), (21, 5, 0), (26, 6, 18)]) he
    (.lit rfl <| .val st rfl <| .lit rfl <| .flag la rfl <| .lit rfl <| .val a rfl <| .lit rfl <| .lit rfl <| .done rfl)
    (show _ = enc19 0x48000000 a la st from rfl) (by simp only [packs]; omega)
  rw [hd, decodeNat, hf 26 6 18 rfl]
  show decodeJx num = _
  rw [decodeJx, hf 0 7 0 rfl]
  show form _ _ _ _ _ _ = _
  rw [bf_of hf 16 a rfl, flag_of hf 10 la rfl, bf_of hf 7 st rfl]
  exact form_ok (zeros_at hf rfl) trivial trivial trivial

theorem RoundTrip.callr (a : GReg) (la : Bool) (st : BitVec 2) : RoundTrip.Statement (.callr a la st) := by
  intro wd h he
  obtain ⟨num, hd, hf⟩ := word_of (l := [(0, 7, 1), (7, 2, st.toNat), (9, 1, 0), (10, 1, la.toNat), (11, 5, 0), (16, 5, a.toNat), (21, 5, 0), (26, 6, 18)]) he
    (.lit rfl <| .val st rfl <| .lit rfl <| .flag la rfl <| .lit rfl <| .val a rfl <| .lit rfl <| .lit rfl <| .done rfl)
    (show _ = enc19 0x48000001 a la st from rfl) (by simp only [packs]; omega)
  rw [hd, decodeNat, hf 26 6 18 rfl]
  show decodeJx num = _
  rw [decodeJx, hf 0 7 1 rfl]
  show form _ _ _ _ _ _ = _
  rw [bf_of hf 16 a rfl, flag_of hf 10 la rfl, bf_of hf 7 st rfl]
  exact form_ok (zeros_at hf rfl) trivial trivial trivial

theorem RoundTrip.ret (st : BitVec 2) : RoundTrip.Statement (.ret st) := by
  intro wd h he
  obtain ⟨num, hd, hf⟩ := word_of (l := [(0, 7, 2), (7, 2, st.toNat), (9, 1, 0), (10, 1, 0), (11, 5, 0), (16, 5, 0), (21, 5, 0), (26, 6, 18)]) he
    (.lit rfl <| .val st rfl <| .lit rfl <| .lit rfl <| .lit rfl <| .lit rfl <| .lit rfl <| .lit rfl <| .done rfl)
    (show _ = enc20 0x48000002 st from rfl) (by simp only [packs]; omega)
  rw [hd, decodeNat, hf 26 6 18 rfl]
  show decodeJx num = _
  rw [decodeJx, hf 0 7 2 rfl]
  show form _ _ _ _ _ _ = _
  rw [bf_of hf 7 st rfl]
  exact form_ok (zeros_at hf rfl) trivial trivial trivial

theorem RoundTrip.rtt (st : BitVec 2) : RoundTrip.Statement (.rtt st) := by
  intro wd h he
  obtain ⟨num, hd, hf⟩ := word_of (l := [(0, 7, 3), (7, 2, st.toNat), (9, 1, 0), (10, 1, 0), (11, 5, 0), (16, 5, 0), (21, 5, 0), (26, 6, 18)]) he
    (.lit rfl <| .val st rfl <| .lit rfl <| .lit rfl <| .lit rfl <| .lit rfl <| .lit rfl <| .lit rfl <| .done rfl)
    (show _ = enc20 0x48000003 st from rfl) (by simp only [packs]; omega)
  rw [hd, decodeNat, hf 26 6 18 rfl]
  show decodeJx num = _
  rw [decodeJx, hf 0 7 3 rfl]
  show form _ _ _ _ _ _ = _
  rw [bf_of hf 7 st rfl]
  exact form_ok (zeros_at hf rfl) trivial trivial trivial

theorem RoundTrip.loop (a : GReg) (la : Bool) (st : BitVec 2) (imm : BitVec 13) : RoundTrip.Statement (.loop a la st imm) := by
  intro wd h he
  obtain ⟨num, hd, hf⟩ := word_of (l := [(0, 13, imm.toNat), (13, 2, st.toNat), (15, 1, la.toNat), (16, 5, a.toNat), (21, 5, 0), (26, 6, 19)]) he
    (.val imm rfl <| .val st rfl <| .flag la rfl <| .val a rfl <| .lit rfl <| .lit rfl <| .done rfl)
    (show _ = enc21 0x4C000000 a la st imm from rfl) (by simp only [packs]; omega)
  rw [hd, decodeNat, hf 26 6 19 rfl]
  show decodeLoop num = _
  rw [decodeLoop]
  show form _ _ _ _ _ _ = _
  rw [bf_of hf 16 a rfl, flag_of hf 15 la rfl, bf_of hf 13 st rfl, bf_of hf 0 imm rfl]
  exact form_ok (zeros_at hf rfl) ⟨bad_loop hf rfl h, trivial⟩ trivial trivial

theorem RoundTrip.ldb (t : GReg) (x : AReg) (st : BitVec 2) (off : BitVec 12) : RoundTrip.Statement (.ldb t x st off) := by
  intro wd h he
  obtain ⟨num, hd, hf⟩ := word_of (l := [(0, 12, off.toNat), (12, 3, 0), (15, 2, st.toNat), (17, 1, 0), (18, 3, x.toNat), (21, 5, t.toNat), (26, 6, 20)]) he
    (.val off rfl <| .lit rfl <| .val st rfl <| .lit rfl <| .val x rfl <| .val t rfl <| .lit rfl <| .done rfl)
    (show _ = enc22 0x50000000 t x st off from rfl) (by simp only [packs]; omega)
  rw [hd, decodeNat, hf 26 6 20 rfl]
  show decodeLd num = _
  rw [decodeLd, hf 12 3 0 rfl]
  show form _ _ _ _ _ _ = _
  rw [bf_of hf 21 t rfl, bf_of hf 18 x rfl, bf_of hf 15 st rfl, bf_of hf 0 off rfl]
  exact form_ok (zeros_at hf rfl) trivial trivial trivial

theorem RoundTrip.ldbs (t : GReg) (x : AReg) (st : BitVec 2) (off : BitVec 12) : RoundTrip.Statement (.ldbs t x st off) := by
  intro wd h he
  obtain ⟨num, hd, hf⟩ := word_of (l := [(0, 12, off.toNat), (12, 3, 1), (15, 2, st.toNat), (17, 1, 0), (18, 3, x.toNat), (21, 5, t.toNat), (26, 6, 20)]) he
    (.val off rfl <| .lit rfl <| .val st rfl <| .lit rfl <| .val x rfl <| .val t rfl <| .lit rfl <| .done rfl)
    (show _ = enc22 0x50001000 t x st off from rfl) (by simp only [packs]; omega)
  rw [hd, decodeNat, hf 26 6 20 rfl]
  show decodeLd num = _
  rw [decodeLd, hf 12 3 1 rfl]
  show form _ _ _ _ _ _ = _
  rw [bf_of hf 21 t rfl, bf_of hf 18 x rfl, bf_of hf 15 st rfl, bf_of hf 0 off rfl]
  exact form_ok (zeros_at hf rfl) trivial trivial trivial

theorem RoundTrip.ldh (t : GReg) (x : AReg) (st : BitVec 2) (off : BitVec 12) : RoundTrip.Statement (.ldh t x st off) := by
  intro wd h he
  obtain ⟨num, hd, hf⟩ := word_of (l := [(0, 12, off.toNat), (12, 3, 2), (15, 2, st.toNat), (17, 1, 0), (18, 3, x.toNat), (21, 5, t.toNat), (26, 6, 20)]) he
    (.val off rfl <| .lit rfl <| .val st rfl <| .lit rfl <| .val x rfl <| .val t rfl <| .lit rfl <| .done rfl)
    (show _ = enc22 0x50002000 t x st off from rfl) (by simp only [packs]; omega)
  rw [hd, decodeNat, hf 26 6 20 rfl]
  show decodeLd num = _
  rw [decodeLd, hf 12 3 2 rfl]
  show form _ _ _ _ _ _ = _
  rw [bf_of hf 21 t rfl, bf_of hf 18 x rfl, bf_of hf 15 st rfl, bf_of hf 0 off rfl]
  exact form_ok (zeros_at hf rfl) trivial trivial trivial

theorem RoundTrip.ldhs (t : GReg) (x : AReg) (st : BitVec 2) (off : BitVec 12) : RoundTrip.Statement (.ldhs t x st off) := by
  intro wd h he
  obtain ⟨num, hd, hf⟩ := word_of (l := [(0, 12, off.toNat), (12, 3, 3), (15, 2, st.toNat), (17, 1, 0), (18, 3, x.toNat), (21, 5, t.toNat), (26, 6, 20)]) he
    (.val off rfl <| .lit rfl <| .val st rfl <| .lit rfl <| .val x rfl <| .val t rfl <| .lit rfl <| .done rfl)
    (show _ = enc22 0x50003000 t x st off from rfl) (by simp only [packs]; omega)
  rw [hd, decodeNat, hf 26 6 20 rfl]
  show decodeLd num = _
  rw [decodeLd, hf 12 3 3 rfl]
  show form _ _ _ _ _ _ = _
  rw [bf_of hf 21 t rfl, bf_of hf 18 x rfl, bf_of hf 15 st rfl, bf_of hf 0 off rfl]
  exact form_ok (zeros_at hf rfl) trivial trivial trivial

theorem RoundTrip.ldw (t : GReg) (x : AReg) (st : BitVec 2) (off : BitVec 12) : RoundTrip.Statement (.ldw t x st off) := by
  intro wd h he
  obtain ⟨num, hd, hf⟩ := word_of (l := [(0, 12, off.toNat), (12, 3, 4), (15, 2, st.toNat), (17, 1, 0), (18, 3, x.toNat), (21, 5, t.toNat), (26, 6, 20)]) he
    (.val off rfl <| .lit rfl <| .val st rfl <| .lit rfl <| .val x rfl <| .val t rfl <| .lit rfl <| .done rfl)
    (show _ = enc22 0x50004000 t x st off from rfl) (by simp only [packs]; omega)
  rw [hd, decodeNat, hf 26 6 20 rfl]
  show decodeLd num = _
  rw [decodeLd, hf 12 3 4 rfl]
  show form _ _ _ _ _ _ = _
  rw [bf_of hf 21 t rfl, bf_of hf 18 x rfl, bf_of hf 15 st rfl, bf_of hf 0 off rfl]
  exact form_ok (zeros_at hf rfl) trivial trivial trivial

theorem RoundTrip.ldd (t : GReg) (x : AReg) (st : BitVec 2) (off : BitVec 12) : RoundTrip.Statement (.ldd t x st off) := by
  intro wd h he
  obtain ⟨num, hd, hf⟩ := word_of (l := [(0, 12, off.toNat), (12, 3, 5), (15, 2, st.toNat), (17, 1, 0), (18, 3, x.toNat), (21, 5, t.toNat), (26, 6, 20)]) he
    (.val off rfl <| .lit rfl <| .val st rfl <| .lit rfl <| .val x rfl <| .val t rfl <| .lit rfl <| .done rfl)
    (show _ = enc22 0x50005000 t x st off from rfl) (by simp only [packs]; omega)
  rw [hd, decodeNat, hf 26 6 20 rfl]
  show decodeLd num = _
  rw [decodeLd, hf 12 3 5 rfl]
  show form _ _ _ _ _ _ = _
  rw [bf_of hf 21 t rfl, bf_of hf 18 x rfl, bf_of hf 15 st rfl, bf_of hf 0 off rfl]
  exact form_ok (zeros_at hf rfl) trivial ⟨pair_at hf rfl h, trivial⟩ trivial

theorem RoundTrip.stb (t : GReg) (x : AReg) (lt : Bool) (st : BitVec 2) (off : BitVec 12) : RoundTrip.Statement (.stb t x lt st off) := by
  intro wd h he
  obtain ⟨num, hd, hf⟩ := word_of (l := [(0, 12, off.toNat), (12, 3, 0), (15, 2, st.toNat), (17, 1, lt.toNat), (18, 3, x.toNat), (21, 5, t.toNat), (26, 6, 21)]) he
    (.val off rfl <| .lit rfl <| .val st rfl <| .flag lt rfl <| .val x rfl <| .val t rfl <| .lit rfl <| .done rfl)
    (show _ = enc23 0x54000000 t x lt st off from rfl) (by simp only [packs]; omega)
  rw [hd, decodeNat, hf 26 6 21 rfl]
  show decodeSt num = _
  rw [decodeSt, hf 12 3 0 rfl]
  show form _ _ _ _ _ _ = _
  rw [bf_of hf 21 t rfl, bf_of hf 18 x rfl, flag_of hf 17 lt rfl, bf_of hf 15 st rfl, bf_of hf 0 off rfl]
  exact form_ok trivial trivial trivial trivial

theorem RoundTrip.sth (t : GReg) (x : AReg) (lt : Bool) (st : BitVec 2) (off : BitVec 12) : RoundTrip.Statement (.sth t x lt st off) := by
  intro wd h he
  obtain ⟨num, hd, hf⟩ := word_of (l := [(0, 12, off.toNat), (12, 3, 2), (15, 2, st.toNat), (17, 1, lt.toNat), (18, 3, x.toNat), (21, 5, t.toNat), (26, 6, 21)]) he
    (.val off rfl <| .lit rfl <| .val st rfl <| .flag lt rfl <| .val x rfl <| .val t rfl <| .lit rfl <| .done rfl)
    (show _ = enc23 0x54002000 t x lt st off from rfl) (by simp only [packs]; omega)
  rw [hd, decodeNat, hf 26 6 21 rfl]
  show decodeSt num = _
  rw [decodeSt, hf 12 3 2 rfl]
  show form _ _ _ _ _ _ = _
  rw [bf_of hf 21 t rfl, bf_of hf 18 x rfl, flag_of hf 17 lt rfl, bf_of hf 15 st rfl, bf_of hf 0 off rfl]
  exact form_ok trivial trivial trivial trivial

theorem RoundTrip.stw (t : GReg) (x : AReg) (lt : Bool) (st : BitVec 2) (off : BitVec 12) : RoundTrip.Statement (.stw t x lt st off) := by
  intro wd h he
  obtain ⟨num, hd, hf⟩ := word_of (l := [(0, 12, off.toNat), (12, 3, 4), (15, 2, st.toNat), (17, 1, lt.toNat), (18, 3, x.toNat), (21, 5, t.toNat), (26, 6, 21)]) he
    (.val off rfl <| .lit rfl <| .val st rfl <| .flag lt rfl <| .val x rfl <| .val t rfl <| .lit rfl <| .done rfl)
    (show _ = enc23 0x54004000 t x lt st off from rfl) (by simp only [packs]; omega)
  rw [hd, decodeNat, hf 26 6 21 rfl]
  show decodeSt num = _
  rw [decodeSt, hf 12 3 4 rfl]
  show form _ _ _ _ _ _ = _
  rw [bf_of hf 21 t rfl, bf_of hf 18 x rfl, flag_of hf 17 lt rfl, bf_of hf 15 st rfl, bf_of hf 0 off rfl]
  exact form_ok trivial trivial trivial trivial

theorem RoundTrip.std (t : GReg) (x : AReg) (lt : Bool) (st : BitVec 2) (off : BitVec 12) : RoundTrip.Statement (.std t x lt st off) := by
  intro wd h he
  obtain ⟨num, hd, hf⟩ := word_of (l := [(0, 12, off.toNat), (12, 3, 5), (15, 2, st.toNat), (17, 1, lt.toNat), (18, 3, x.toNat), (21, 5, t.toNat), (26, 6, 21)]) he
    (.val off rfl <| .lit rfl <| .val st rfl <| .flag lt rfl <| .val x rfl <| .val t rfl <| .lit rfl <| .done rfl)
    (show _ = enc23 0x54005000 t x lt st off from rfl) (by simp only [packs]; omega)
  rw [hd, decodeNat, hf 26 6 21 rfl]
  show decodeSt num = _
  rw [decodeSt, hf 12 3 5 rfl]
  show form _ _ _ _ _ _ = _
  rw [bf_of hf 21 t rfl, bf_of hf 18 x rfl, flag_of hf 17 lt rfl, bf_of hf 15 st rfl, bf_of hf 0 off rfl]
  exact form_ok trivial trivial ⟨pair_at hf rfl h, trivial⟩ trivial

theorem RoundTrip.lda (t : AReg) (x : AReg) (st : BitVec 2) (off : BitVec 12) : RoundTrip.Statement (.lda t x st off) := by
  intro wd h he
  obtain ⟨num, hd, hf⟩ := word_of (l := [(0, 12, off.toNat), (12, 3, 5), (15, 2, st.toNat), (17, 1, 0), (18, 3, x.toNat), (21, 3, t.toNat), (24, 2, 0), (26, 6, 22)]) he
    (.val off rfl <| .lit rfl <| .val st rfl <| .lit rfl <| .val x rfl <| .val t rfl <| .lit rfl <| .lit rfl <| .done rfl)
    (show _ = enc24 0x58005000 t x st off from rfl) (by simp only [packs]; omega)
  rw [hd, decodeNat, hf 26 6 22 rfl]
  show decodeLda num = _
  rw [decodeLda, hf 12 3 5 rfl]
  show form _ _ _ _ _ _ = _
  rw [bf_of hf 21 t rfl, bf_of hf 18 x rfl, bf_of hf 15 st rfl, bf_of hf 0 off rfl]
  exact form_ok (zeros_at hf rfl) trivial trivial trivial

theorem RoundTrip.sta (t : AReg) (x : AReg) (st : BitVec 2) (off : BitVec 12) : RoundTrip.Statement (.sta t x st off) := by
  intro wd h he
  obtain ⟨num, hd, hf⟩ := word_of (l := [(0, 12, off.toNat), (12, 3, 5), (15, 2, st.toNat), (17, 1, 0), (18, 3, x.toNat), (21, 3, t.toNat), (24, 2, 0), (26, 6, 23)]) he
    (.val off rfl <| .lit rfl <| .val st rfl <| .lit rfl <| .val x rfl <| .val t rfl <| .lit rfl <| .lit rfl <| .done rfl)
    (show _ = enc24 0x5C005000 t x st off from rfl) (by simp only [packs]; omega)
  rw [hd, decodeNat, hf 26 6 23 rfl]
  show decodeSta num = _
  rw [decodeSta, hf 12 3 5 rfl]
  show form _ _ _ _ _ _ = _
  rw [bf_of hf 21 t rfl, bf_of hf 18 x rfl, bf_of hf 15 st rfl, bf_of hf 0 off rfl]
  exact form_ok (zeros_at hf rfl) trivial trivial trivial

theorem RoundTrip.amoadd (d : GReg) (x : AReg) (b : GReg) (lb : Bool) (dw : Bool) : RoundTrip.Statement (.amoadd d x b lb dw) := by
  intro wd h he
  obtain ⟨num, hd, hf⟩ := word_of (l := [(0, 7, 0), (7, 1, 0), (8, 1, dw.toNat), (9, 1, lb.toNat), (10, 1, 0), (11, 5, b.toNat), (16, 2, 0), (18, 3, x.toNat), (21, 5, d.toNat), (26, 6, 24)]) he
    (.lit rfl <| .lit rfl <| .flag dw rfl <| .flag lb rfl <| .lit rfl <| .val b rfl <| .lit rfl <| .val x rfl <| .val d rfl <| .lit rfl <| .done rfl)
    (show _ = enc25 0x60000000 d x b lb dw from rfl) (by simp only [packs]; omega)
  rw [hd, decodeNat, hf 26 6 24 rfl]
  show decodeAmo num = _
  rw [decodeAmo, hf 0 7 0 rfl]
  show form _ _ _ _ _ _ = _
  rw [bf_of hf 21 d rfl, bf_of hf 18 x rfl, bf_of hf 11 b rfl, flag_of hf 9 lb rfl, flag_of hf 8 dw rfl]
  exact form_ok (zeros_at hf rfl) trivial (pairs_dw hf rfl rfl h) trivial

theorem RoundTrip.amoand (d : GReg) (x : AReg) (b : GReg) (lb : Bool) (dw : Bool) : RoundTrip.Statement (.amoand d x b lb dw) := by
  intro wd h he
  obtain ⟨num, hd, hf⟩ := word_of (l := [(0, 7, 1), (7, 1, 0), (8, 1, dw.toNat), (9, 1, lb.toNat), (10, 1, 0), (11, 5, b.toNat), (16, 2, 0), (18, 3, x.toNat), (21, 5, d.toNat), (26, 6, 24)]) he
    (.lit rfl <| .lit rfl <| .flag dw rfl <| .flag lb rfl <| .lit rfl <| .val b rfl <| .lit rfl <| .val x rfl <| .val d rfl <| .lit rfl <| .done rfl)
    (show _ = enc25 0x60000001 d x b lb dw from rfl) (by simp only [packs]; omega)
  rw [hd, decodeNat, hf 26 6 24 rfl]
  show decodeAmo num = _
  rw [decodeAmo, hf 0 7 1 rfl]
  show form _ _ _ _ _ _ = _
  rw [bf_of hf 21 d rfl, bf_of hf 18 x rfl, bf_of hf 11 b rfl, flag_of hf 9 lb rfl, flag_of hf 8 dw rfl]
  exact form_ok (zeros_at hf rfl) trivial (pairs_dw hf rfl rfl h) trivial

theorem RoundTrip.amoor (d : GReg) (x : AReg) (b : GReg) (lb : Bool) (dw : Bool) : RoundTrip.Statement (.amoor d x b lb dw) := by
  intro wd h he
  obtain ⟨num, hd, hf⟩ := word_of (l := [(0, 7, 2), (7, 1, 0), (8, 1, dw.toNat), (9, 1, lb.toNat), (10, 1, 0), (11, 5, b.toNat), (16, 2, 0), (18, 3, x.toNat), (21, 5, d.toNat), (26, 6, 24)]) he
    (.lit rfl <| .lit rfl <| .flag dw rfl <| .flag lb rfl <| .lit rfl <| .val b rfl <| .lit rfl <| .val x rfl <| .val d rfl <| .lit rfl <| .done rfl)
    (show _ = enc25 0x60000002 d x b lb dw from rfl) (by simp only [packs]; omega)
  rw [hd, decodeNat, hf 26 6 24 rfl]
  show decodeAmo num = _
  rw [decodeAmo, hf 0 7 2 rfl]
  show form _ _ _ _ _ _ = _
  rw [bf_of hf 21 d rfl, bf_of hf 18 x rfl, bf_of hf 11 b rfl, flag_of hf 9 lb rfl, flag_of hf 8 dw rfl]
  exact form_ok (zeros_at hf rfl) trivial (pairs_dw hf rfl rfl h) trivial

theorem RoundTrip.amoxor (d : GReg) (x : AReg) (b : GReg) (lb : Bool) (dw : Bool) : RoundTrip.Statement (.amoxor d x b lb dw) := by
  intro wd h he
  obtain ⟨num, hd, hf⟩ := word_of (l := [(0, 7, 3), (7, 1, 0), (8, 1, dw.toNat), (9, 1, lb.toNat), (10, 1, 0), (11, 5, b.toNat), (16, 2, 0), (18, 3, x.toNat), (21, 5, d.toNat), (26, 6, 24)]) he
    (.lit rfl <| .lit rfl <| .flag dw rfl <| .flag lb rfl <| .lit rfl <| .val b rfl <| .lit rfl <| .val x rfl <| .val d rfl <| .lit rfl <| .done rfl)
    (show _ = enc25 0x60000003 d x b lb dw from rfl) (by simp only [packs]; omega)
  rw [hd, decodeNat, hf 26 6 24 rfl]
  show decodeAmo num = _
  rw [decodeAmo, hf 0 7 3 rfl]
  show form _ _ _ _ _ _ = _
  rw [bf_of hf 21 d rfl, bf_of hf 18 x rfl, bf_of hf 11 b rfl, flag_of hf 9 lb rfl, flag_of hf 8 dw rfl]
  exact form_ok (zeros_at hf rfl) trivial (pairs_dw hf rfl rfl h) trivial

theorem RoundTrip.amomins (d : GReg) (x : AReg) (b : GReg) (lb : Bool) (dw : Bool) : RoundTrip.Statement (.amomins d x b lb dw) := by
  intro wd h he
  obtain ⟨num, hd, hf⟩ := word_of (l := [(0, 7, 4), (7, 1, 0), (8, 1, dw.toNat), (9, 1, lb.toNat), (10, 1, 0), (11, 5, b.toNat), (16, 2, 0), (18, 3, x.toNat), (21, 5, d.toNat), (26, 6, 24)]) he
    (.lit rfl <| .lit rfl <| .flag dw rfl <| .flag lb rfl <| .lit rfl <| .val b rfl <| .lit rfl <| .val x rfl <| .val d rfl <| .lit rfl <| .done rfl)
    (show _ = enc25 0x60000004 d x b lb dw from rfl) (by simp only [packs]; omega)
  rw [hd, decodeNat, hf 26 6 24 rfl]
  show decodeAmo num = _
  rw [decodeAmo, hf 0 7 4 rfl]
  show form _ _ _ _ _ _ = _
  rw [bf_of hf 21 d rfl, bf_of hf 18 x rfl, bf_of hf 11 b rfl, flag_of hf 9 lb rfl, flag_of hf 8 dw rfl]
  exact form_ok (zeros_at hf rfl) trivial (pairs_dw hf rfl rfl h) trivial

theorem RoundTrip.amomaxs (d : GReg) (x : AReg) (b : GReg) (lb : Bool) (dw : Bool) : RoundTrip.Statement (.amomaxs d x b lb dw) := by
  intro wd h he
  obtain ⟨num, hd, hf⟩ := word_of (l := [(0, 7, 5), (7, 1, 0), (8, 1, dw.toNat), (9, 1, lb.toNat), (10, 1, 0), (11, 5, b.toNat), (16, 2, 0), (18, 3, x.toNat), (21, 5, d.toNat), (26, 6, 24)]) he
    (.lit rfl <| .lit rfl <| .flag dw rfl <| .flag lb rfl <| .lit rfl <| .val b rfl <| .lit rfl <| .val x rfl <| .val d rfl <| .lit rfl <| .done rfl)
    (show _ = enc25 0x60000005 d x b lb dw from rfl) (by simp only [packs]; omega)
  rw [hd, decodeNat, hf 26 6 24 rfl]
  show decodeAmo num = _
  rw [decodeAmo, hf 0 7 5 rfl]
  show form _ _ _ _ _ _ = _
  rw [bf_of hf 21 d rfl, bf_of hf 18 x rfl, bf_of hf 11 b rfl, flag_of hf 9 lb rfl, flag_of hf 8 dw rfl]
  exact form_ok (zeros_at hf rfl) trivial (pairs_dw hf rfl rfl h) trivial

theorem RoundTrip.amominu (d : GReg) (x : AReg) (b : GReg) (lb : Bool) (dw : Bool) : RoundTrip.Statement (.amominu d x b lb dw) := by
  intro wd h he
  obtain ⟨num, hd, hf⟩ := word_of (l := [(0, 7, 6), (7, 1, 0), (8, 1, dw.toNat), (9, 1, lb.toNat), (10, 1, 0), (11, 5, b.toNat), (16, 2, 0), (18, 3, x.toNat), (21, 5, d.toNat), (26, 6, 24)]) he
    (.lit rfl <| .lit rfl <| .flag dw rfl <| .flag lb rfl <| .lit rfl <| .val b rfl <| .lit rfl <| .val x rfl <| .val d rfl <| .lit rfl <| .done rfl)
    (show _ = enc25 0x60000006 d x b lb dw from rfl) (by simp only [packs]; omega)
  rw [hd, decodeNat, hf 26 6 24 rfl]
  show decodeAmo num = _
  rw [decodeAmo, hf 0 7 6 rfl]
  show form _ _ _ _ _ _ = _
  rw [bf_of hf 21 d rfl, bf_of hf 18 x rfl, bf_of hf 11 b rfl, flag_of hf 9 lb rfl, flag_of hf 8 dw rfl]
  exact form_ok (zeros_at hf rfl) trivial (pairs_dw hf rfl rfl h) trivial

theorem RoundTrip.amomaxu (d : GReg) (x : AReg) (b : GReg) (lb : Bool) (dw : Bool) : RoundTrip.Statement (.amomaxu d x b lb dw) := by
  intro wd h he
  obtain ⟨num, hd, hf⟩ := word_of (l := [(0, 7, 7), (7, 1, 0), (8, 1, dw.toNat), (9, 1, lb.toNat), (10, 1, 0), (11, 5, b.toNat), (16, 2, 0), (18, 3, x.toNat), (21, 5, d.toNat), (26, 6, 24)]) he
    (.lit rfl <| .lit rfl <| .flag dw rfl <| .flag lb rfl <| .lit rfl <| .val b rfl <| .lit rfl <| .val x rfl <| .val d rfl <| .lit rfl <| .done rfl)
    (show _ = enc25 0x60000007 d x b lb dw from rfl) (by simp only [packs]; omega)
  rw [hd, decodeNat, hf 26 6 24 rfl]
  show decodeAmo num = _
  rw [decodeAmo, hf 0 7 7 rfl]
  show form _ _ _ _ _ _ = _
  rw [bf_of hf 21 d rfl, bf_of hf 18 x rfl, bf_of hf 11 b rfl, flag_of hf 9 lb rfl, flag_of hf 8 dw rfl]
  exact form_ok (zeros_at hf rfl) trivial (pairs_dw hf rfl rfl h) trivial

theorem RoundTrip.amoswap (d : GReg) (x : AReg) (b : GReg) (lb : Bool) (dw : Bool) : RoundTrip.Statement (.amoswap d x b lb dw) := by
  intro wd h he
  obtain ⟨num, hd, hf⟩ := word_of (l := [(0, 7, 8), (7, 1, 0), (8, 1, dw.toNat), (9, 1, lb.toNat), (10, 1, 0), (11, 5, b.toNat), (16, 2, 0), (18, 3, x.toNat), (21, 5, d.toNat), (26, 6, 24)]) he
    (.lit rfl <| .lit rfl <| .flag dw rfl <| .flag lb rfl <| .lit rfl <| .val b rfl <| .lit rfl <| .val x rfl <| .val d rfl <| .lit rfl <| .done rfl)
    (show _ = enc25 0x60000008 d x b lb dw from rfl) (by simp only [packs]; omega)
  rw [hd, decodeNat, hf 26 6 24 rfl]
  show decodeAmo num = _
  rw [decodeAmo, hf 0 7 8 rfl]
  show form _ _ _ _ _ _ = _
  rw [bf_of hf 21 d rfl, bf_of hf 18 x rfl, bf_of hf 11 b rfl, flag_of hf 9 lb rfl, flag_of hf 8 dw rfl]
  exact form_ok (zeros_at hf rfl) trivial (pairs_dw hf rfl rfl h) trivial

theorem RoundTrip.amocas (d : GReg) (x : AReg) (b : GReg) (la : Bool) (lb : Bool) (dw : Bool) : RoundTrip.Statement (.amocas d x b la lb dw) := by
  intro wd h he
  obtain ⟨num, hd, hf⟩ := word_of (l := [(0, 7, 9), (7, 1, 0), (8, 1, dw.toNat), (9, 1, lb.toNat), (10, 1, la.toNat), (11, 5, b.toNat), (16, 2, 0), (18, 3, x.toNat), (21, 5, d.toNat), (26, 6, 24)]) he
    (.lit rfl <| .lit rfl <| .flag dw rfl <| .flag lb rfl <| .flag la rfl <| .val b rfl <| .lit rfl <| .val x rfl <| .val d rfl <| .lit rfl <| .done rfl)
    (show _ = enc26 0x60000009 d x b la lb dw from rfl) (by simp only [packs]; omega)
  rw [hd, decodeNat, hf 26 6 24 rfl]
  show decodeAmo num = _
  rw [decodeAmo, hf 0 7 9 rfl]
  show form _ _ _ _ _ _ = _
  rw [bf_of hf 21 d rfl, bf_of hf 18 x rfl, bf_of hf 11 b rfl, flag_of hf 10 la rfl, flag_of hf 9 lb rfl, flag_of hf 8 dw rfl]
  exact form_ok (zeros_at hf rfl) trivial (pairs_dw hf rfl rfl h) trivial

theorem RoundTrip.amofadd (d : GReg) (x : AReg) (b : GReg) (lb : Bool) : RoundTrip.Statement (.amofadd d x b lb) := by
  intro wd h he
  obtain ⟨num, hd, hf⟩ := word_of (l := [(0, 7, 10), (7, 1, 0), (8, 1, 0), (9, 1, lb.toNat), (10, 1, 0), (11, 5, b.toNat), (16, 2, 0), (18, 3, x.toNat), (21, 5, d.toNat), (26, 6, 24)]) he
    (.lit rfl <| .lit rfl <| .lit rfl <| .flag lb rfl <| .lit rfl <| .val b rfl <| .lit rfl <| .val x rfl <| .val d rfl <| .lit rfl <| .done rfl)
    (show _ = enc27 0x6000000A d x b lb from rfl) (by simp only [packs]; omega)
  rw [hd, decodeNat, hf 26 6 24 rfl]
  show decodeAmo num = _
  rw [decodeAmo, hf 0 7 10 rfl]
  show form _ _ _ _ _ _ = _
  rw [bf_of hf 21 d rfl, bf_of hf 18 x rfl, bf_of hf 11 b rfl, flag_of hf 9 lb rfl]
  exact form_ok (zeros_at hf rfl) ⟨bad_one hf rfl, trivial⟩ trivial trivial

theorem RoundTrip.dcas (d : GReg) (x : AReg) (b : GReg) (la : Bool) (lb : Bool) : RoundTrip.Statement (.dcas d x b la lb) := by
  intro wd h he
  obtain ⟨num, hd, hf⟩ := word_of (l := [(0, 7, 0), (7, 1, 0), (8, 1, 0), (9, 1, lb.toNat), (10, 1, la.toNat), (11, 5, b.toNat), (16, 2, 0), (18, 3, x.toNat), (21, 5, d.toNat), (26, 6, 25)]) he
    (.lit rfl <| .lit rfl <| .lit rfl <| .flag lb rfl <| .flag la rfl <| .val b rfl <| .lit rfl <| .val x rfl <| .val d rfl <| .lit rfl <| .done rfl)
    (show _ = enc28 0x64000000 d x b la lb from rfl) (by simp only [packs]; omega)
  rw [hd, decodeNat, hf 26 6 25 rfl]
  show decodeAmo2 num = _
  rw [decodeAmo2, hf 0 7 0 rfl]
  show form _ _ _ _ _ _ = _
  rw [bf_of hf 21 d rfl, bf_of hf 18 x rfl, bf_of hf 11 b rfl, flag_of hf 10 la rfl, flag_of hf 9 lb rfl]
  exact form_ok (zeros_at hf rfl) ⟨bad_one hf rfl, bad_odd hf rfl (wf_dcas_x h), trivial⟩ ⟨pair_at hf rfl (wf_dcas_b h), pair_at hf rfl (wf_dcas_d h), trivial⟩ trivial

theorem RoundTrip.amov2 (d : GReg) (x : AReg) (b : GReg) (lb : Bool) : RoundTrip.Statement (.amov2 d x b lb) := by
  intro wd h he
  obtain ⟨num, hd, hf⟩ := word_of (l := [(0, 7, 1), (7, 1, 0), (8, 1, 0), (9, 1, lb.toNat), (10, 1, 0), (11, 5, b.toNat), (16, 2, 0), (18, 3, x.toNat), (21, 5, d.toNat), (26, 6, 25)]) he
    (.lit rfl <| .lit rfl <| .lit rfl <| .flag lb rfl <| .lit rfl <| .val b rfl <| .lit rfl <| .val x rfl <| .val d rfl <| .lit rfl <| .done rfl)
    (show _ = enc27 0x64000001 d x b lb from rfl) (by simp only [packs]; omega)
  rw [hd, decodeNat, hf 26 6 25 rfl]
  show decodeAmo2 num = _
  rw [decodeAmo2, hf 0 7 1 rfl]
  show form _ _ _ _ _ _ = _
  rw [bf_of hf 21 d rfl, bf_of hf 18 x rfl, bf_of hf 11 b rfl, flag_of hf 9 lb rfl]
  exact form_ok (zeros_at hf rfl) ⟨bad_one hf rfl, bad_odd hf rfl h, trivial⟩ trivial trivial

theorem RoundTrip.fence (st : BitVec 2) : RoundTrip.Statement (.fence st) := by
  intro wd h he
  obtain ⟨num, hd, hf⟩ := word_of (l := [(0, 7, 0), (7, 2, st.toNat), (9, 1, 0), (10, 1, 0), (11, 5, 0), (16, 5, 0), (21, 5, 0), (26, 6, 26)]) he
    (.lit rfl <| .val st rfl <| .lit rfl <| .lit rfl <| .lit rfl <| .lit rfl <| .lit rfl <| .lit rfl <| .done rfl)
    (show _ = enc20 0x68000000 st from rfl) (by simp only [packs]; omega)
  rw [hd, decodeNat, hf 26 6 26 rfl]
  show decodeSys num = _
  rw [decodeSys, hf 0 7 0 rfl]
  show form _ _ _ _ _ _ = _
  rw [bf_of hf 7 st rfl]
  exact form_ok (zeros_at hf rfl) trivial trivial trivial

theorem RoundTrip.movs (d : GReg) (idx : BitVec 10) (st : BitVec 2) : RoundTrip.Statement (.movs d idx st) := by
  intro wd h he
  obtain ⟨num, hd, hf⟩ := word_of (l := [(0, 7, 1), (7, 2, st.toNat), (9, 1, 0), (10, 1, 0), (11, 10, idx.toNat), (21, 5, d.toNat), (26, 6, 26)]) he
    (.lit rfl <| .val st rfl <| .lit rfl <| .lit rfl <| .val idx rfl <| .val d rfl <| .lit rfl <| .done rfl)
    (show _ = enc29 0x68000001 d idx st from rfl) (by simp only [packs]; omega)
  rw [hd, decodeNat, hf 26 6 26 rfl]
  show decodeSys num = _
  rw [decodeSys, hf 0 7 1 rfl]
  show form _ _ _ _ _ _ = _
  rw [bf_of hf 21 d rfl, bf_of hf 11 idx rfl, bf_of hf 7 st rfl]
  exact form_ok (zeros_at hf rfl) trivial trivial trivial

theorem RoundTrip.movsw (d : GReg) (idx : BitVec 10) (st : BitVec 2) : RoundTrip.Statement (.movsw d idx st) := by
  intro wd h he
  obtain ⟨num, hd, hf⟩ := word_of (l := [(0, 7, 2), (7, 2, st.toNat), (9, 1, 0), (10, 1, 0), (11, 10, idx.toNat), (21, 5, d.toNat), (26, 6, 26)]) he
    (.lit rfl <| .val st rfl <| .lit rfl <| .lit rfl <| .val idx rfl <| .val d rfl <| .lit rfl <| .done rfl)
    (show _ = enc29 0x68000002 d idx st from rfl) (by simp only [packs]; omega)
  rw [hd, decodeNat, hf 26 6 26 rfl]
  show decodeSys num = _
  rw [decodeSys, hf 0 7 2 rfl]
  show form _ _ _ _ _ _ = _
  rw [bf_of hf 21 d rfl, bf_of hf 11 idx rfl, bf_of hf 7 st rfl]
  exact form_ok (zeros_at hf rfl) trivial trivial trivial

theorem RoundTrip.trap (code : BitVec 10) (st : BitVec 2) : RoundTrip.Statement (.trap code st) := by
  intro wd h he
  obtain ⟨num, hd, hf⟩ := word_of (l := [(0, 7, 3), (7, 2, st.toNat), (9, 1, 0), (10, 1, 0), (11, 10, code.toNat), (21, 5, 0), (26, 6, 26)]) he
    (.lit rfl <| .val st rfl <| .lit rfl <| .lit rfl <| .val code rfl <| .lit rfl <| .lit rfl <| .done rfl)
    (show _ = enc30 0x68000003 code st from rfl) (by simp only [packs]; omega)
  rw [hd, decodeNat, hf 26 6 26 rfl]
  show decodeSys num = _
  rw [decodeSys, hf 0 7 3 rfl]
  show form _ _ _ _ _ _ = _
  rw [bf_of hf 11 code rfl, bf_of hf 7 st rfl]
  exact form_ok (zeros_at hf rfl) trivial trivial trivial

theorem RoundTrip.wspill (st : BitVec 2) : RoundTrip.Statement (.wspill st) := by
  intro wd h he
  obtain ⟨num, hd, hf⟩ := word_of (l := [(0, 7, 4), (7, 2, st.toNat), (9, 1, 0), (10, 1, 0), (11, 5, 0), (16, 5, 0), (21, 5, 0), (26, 6, 26)]) he
    (.lit rfl <| .val st rfl <| .lit rfl <| .lit rfl <| .lit rfl <| .lit rfl <| .lit rfl <| .lit rfl <| .done rfl)
    (show _ = enc20 0x68000004 st from rfl) (by simp only [packs]; omega)
  rw [hd, decodeNat, hf 26 6 26 rfl]
  show decodeSys num = _
  rw [decodeSys, hf 0 7 4 rfl]
  show form _ _ _ _ _ _ = _
  rw [bf_of hf 7 st rfl]
  exact form_ok (zeros_at hf rfl) trivial trivial trivial

theorem RoundTrip.wfill (st : BitVec 2) : RoundTrip.Statement (.wfill st) := by
  intro wd h he
  obtain ⟨num, hd, hf⟩ := word_of (l := [(0, 7, 5), (7, 2, st.toNat), (9, 1, 0), (10, 1, 0), (11, 5, 0), (16, 5, 0), (21, 5, 0), (26, 6, 26)]) he
    (.lit rfl <| .val st rfl <| .lit rfl <| .lit rfl <| .lit rfl <| .lit rfl <| .lit rfl <| .lit rfl <| .done rfl)
    (show _ = enc20 0x68000005 st from rfl) (by simp only [packs]; omega)
  rw [hd, decodeNat, hf 26 6 26 rfl]
  show decodeSys num = _
  rw [decodeSys, hf 0 7 5 rfl]
  show form _ _ _ _ _ _ = _
  rw [bf_of hf 7 st rfl]
  exact form_ok (zeros_at hf rfl) trivial trivial trivial

theorem RoundTrip.widx (d : GReg) (half : BitVec 5) (f : BitVec 5) (st : BitVec 2) : RoundTrip.Statement (.widx d half f st) := by
  intro wd h he
  obtain ⟨num, hd, hf⟩ := word_of (l := [(0, 7, 6), (7, 2, st.toNat), (9, 1, 0), (10, 1, 0), (11, 5, f.toNat), (16, 5, half.toNat), (21, 5, d.toNat), (26, 6, 26)]) he
    (.lit rfl <| .val st rfl <| .lit rfl <| .lit rfl <| .val f rfl <| .val half rfl <| .val d rfl <| .lit rfl <| .done rfl)
    (show _ = enc31 0x68000006 d half f st from rfl) (by simp only [packs]; omega)
  rw [hd, decodeNat, hf 26 6 26 rfl]
  show decodeSys num = _
  rw [decodeSys, hf 0 7 6 rfl]
  show form _ _ _ _ _ _ = _
  rw [bf_of hf 21 d rfl, bf_of hf 16 half rfl, bf_of hf 11 f rfl, bf_of hf 7 st rfl]
  exact form_ok (zeros_at hf rfl) ⟨bad_gt hf rfl (of_decide_eq_true (wf_tail h)), bad_gt hf rfl (of_decide_eq_true (wf_head h)), trivial⟩ trivial trivial

theorem RoundTrip.vld (v : VReg) (x : AReg) (st : BitVec 2) (off : BitVec 12) : RoundTrip.Statement (.vld v x st off) := by
  intro wd h he
  obtain ⟨num, hd, hf⟩ := word_of (l := [(0, 12, off.toNat), (12, 3, 0), (15, 2, st.toNat), (17, 1, 0), (18, 3, x.toNat), (21, 1, 0), (22, 4, v.toNat), (26, 6, 27)]) he
    (.val off rfl <| .lit rfl <| .val st rfl <| .lit rfl <| .val x rfl <| .lit rfl <| .val v rfl <| .lit rfl <| .done rfl)
    (show _ = enc32 0x6C000000 v x st off from rfl) (by simp only [packs]; omega)
  rw [hd, decodeNat, hf 26 6 27 rfl]
  show decodeVld num = _
  rw [decodeVld, hf 12 3 0 rfl]
  show form _ _ _ _ _ _ = _
  rw [bf_of hf 22 v rfl, bf_of hf 18 x rfl, bf_of hf 15 st rfl, bf_of hf 0 off rfl]
  exact form_ok (zeros_at hf rfl) trivial trivial trivial

theorem RoundTrip.vldh (v : VReg) (x : AReg) (st : BitVec 2) (off : BitVec 12) : RoundTrip.Statement (.vldh v x st off) := by
  intro wd h he
  obtain ⟨num, hd, hf⟩ := word_of (l := [(0, 12, off.toNat), (12, 3, 1), (15, 2, st.toNat), (17, 1, 0), (18, 3, x.toNat), (21, 1, 0), (22, 4, v.toNat), (26, 6, 27)]) he
    (.val off rfl <| .lit rfl <| .val st rfl <| .lit rfl <| .val x rfl <| .lit rfl <| .val v rfl <| .lit rfl <| .done rfl)
    (show _ = enc32 0x6C001000 v x st off from rfl) (by simp only [packs]; omega)
  rw [hd, decodeNat, hf 26 6 27 rfl]
  show decodeVld num = _
  rw [decodeVld, hf 12 3 1 rfl]
  show form _ _ _ _ _ _ = _
  rw [bf_of hf 22 v rfl, bf_of hf 18 x rfl, bf_of hf 15 st rfl, bf_of hf 0 off rfl]
  exact form_ok (zeros_at hf rfl) trivial trivial trivial

theorem RoundTrip.vst (v : VReg) (x : AReg) (lt : Bool) (st : BitVec 2) (off : BitVec 12) : RoundTrip.Statement (.vst v x lt st off) := by
  intro wd h he
  obtain ⟨num, hd, hf⟩ := word_of (l := [(0, 12, off.toNat), (12, 3, 0), (15, 2, st.toNat), (17, 1, lt.toNat), (18, 3, x.toNat), (21, 1, 0), (22, 4, v.toNat), (26, 6, 28)]) he
    (.val off rfl <| .lit rfl <| .val st rfl <| .flag lt rfl <| .val x rfl <| .lit rfl <| .val v rfl <| .lit rfl <| .done rfl)
    (show _ = enc33 0x70000000 v x lt st off from rfl) (by simp only [packs]; omega)
  rw [hd, decodeNat, hf 26 6 28 rfl]
  show decodeVst num = _
  rw [decodeVst, hf 12 3 0 rfl]
  show form _ _ _ _ _ _ = _
  rw [bf_of hf 22 v rfl, bf_of hf 18 x rfl, flag_of hf 17 lt rfl, bf_of hf 15 st rfl, bf_of hf 0 off rfl]
  exact form_ok (zeros_at hf rfl) trivial trivial trivial

theorem RoundTrip.vsth (v : VReg) (x : AReg) (lt : Bool) (st : BitVec 2) (off : BitVec 12) : RoundTrip.Statement (.vsth v x lt st off) := by
  intro wd h he
  obtain ⟨num, hd, hf⟩ := word_of (l := [(0, 12, off.toNat), (12, 3, 1), (15, 2, st.toNat), (17, 1, lt.toNat), (18, 3, x.toNat), (21, 1, 0), (22, 4, v.toNat), (26, 6, 28)]) he
    (.val off rfl <| .lit rfl <| .val st rfl <| .flag lt rfl <| .val x rfl <| .lit rfl <| .val v rfl <| .lit rfl <| .done rfl)
    (show _ = enc33 0x70001000 v x lt st off from rfl) (by simp only [packs]; omega)
  rw [hd, decodeNat, hf 26 6 28 rfl]
  show decodeVst num = _
  rw [decodeVst, hf 12 3 1 rfl]
  show form _ _ _ _ _ _ = _
  rw [bf_of hf 22 v rfl, bf_of hf 18 x rfl, flag_of hf 17 lt rfl, bf_of hf 15 st rfl, bf_of hf 0 off rfl]
  exact form_ok (zeros_at hf rfl) trivial trivial trivial

theorem RoundTrip.gathw (v : VReg) (x : AReg) (vi : VReg) (k : KReg) (sc : BitVec 2) : RoundTrip.Statement (.gathw v x vi k sc) := by
  intro wd h he
  obtain ⟨num, hd, hf⟩ := word_of (l := [(0, 7, 0), (7, 3, 0), (10, 2, sc.toNat), (12, 3, k.toNat), (15, 4, vi.toNat), (19, 3, x.toNat), (22, 4, v.toNat), (26, 6, 29)]) he
    (.lit rfl <| .lit rfl <| .val sc rfl <| .val k rfl <| .val vi rfl <| .val x rfl <| .val v rfl <| .lit rfl <| .done rfl)
    (show _ = enc34 0x74000000 v x vi k sc from rfl) (by simp only [packs]; omega)
  rw [hd, decodeNat, hf 26 6 29 rfl]
  show decodeVgs num = _
  rw [decodeVgs, hf 0 7 0 rfl]
  show form _ _ _ _ _ _ = _
  rw [bf_of hf 22 v rfl, bf_of hf 19 x rfl, bf_of hf 15 vi rfl, bf_of hf 12 k rfl, bf_of hf 10 sc rfl]
  exact form_ok (zeros_at hf rfl) trivial trivial trivial

theorem RoundTrip.scatw (v : VReg) (x : AReg) (vi : VReg) (k : KReg) (sc : BitVec 2) : RoundTrip.Statement (.scatw v x vi k sc) := by
  intro wd h he
  obtain ⟨num, hd, hf⟩ := word_of (l := [(0, 7, 1), (7, 3, 0), (10, 2, sc.toNat), (12, 3, k.toNat), (15, 4, vi.toNat), (19, 3, x.toNat), (22, 4, v.toNat), (26, 6, 29)]) he
    (.lit rfl <| .lit rfl <| .val sc rfl <| .val k rfl <| .val vi rfl <| .val x rfl <| .val v rfl <| .lit rfl <| .done rfl)
    (show _ = enc34 0x74000001 v x vi k sc from rfl) (by simp only [packs]; omega)
  rw [hd, decodeNat, hf 26 6 29 rfl]
  show decodeVgs num = _
  rw [decodeVgs, hf 0 7 1 rfl]
  show form _ _ _ _ _ _ = _
  rw [bf_of hf 22 v rfl, bf_of hf 19 x rfl, bf_of hf 15 vi rfl, bf_of hf 12 k rfl, bf_of hf 10 sc rfl]
  exact form_ok (zeros_at hf rfl) trivial trivial trivial

theorem RoundTrip.gathh (v : VReg) (x : AReg) (vi : VReg) (k : KReg) (sc : BitVec 2) : RoundTrip.Statement (.gathh v x vi k sc) := by
  intro wd h he
  obtain ⟨num, hd, hf⟩ := word_of (l := [(0, 7, 2), (7, 3, 0), (10, 2, sc.toNat), (12, 3, k.toNat), (15, 4, vi.toNat), (19, 3, x.toNat), (22, 4, v.toNat), (26, 6, 29)]) he
    (.lit rfl <| .lit rfl <| .val sc rfl <| .val k rfl <| .val vi rfl <| .val x rfl <| .val v rfl <| .lit rfl <| .done rfl)
    (show _ = enc34 0x74000002 v x vi k sc from rfl) (by simp only [packs]; omega)
  rw [hd, decodeNat, hf 26 6 29 rfl]
  show decodeVgs num = _
  rw [decodeVgs, hf 0 7 2 rfl]
  show form _ _ _ _ _ _ = _
  rw [bf_of hf 22 v rfl, bf_of hf 19 x rfl, bf_of hf 15 vi rfl, bf_of hf 12 k rfl, bf_of hf 10 sc rfl]
  exact form_ok (zeros_at hf rfl) trivial trivial trivial

theorem RoundTrip.scath (v : VReg) (x : AReg) (vi : VReg) (k : KReg) (sc : BitVec 2) : RoundTrip.Statement (.scath v x vi k sc) := by
  intro wd h he
  obtain ⟨num, hd, hf⟩ := word_of (l := [(0, 7, 3), (7, 3, 0), (10, 2, sc.toNat), (12, 3, k.toNat), (15, 4, vi.toNat), (19, 3, x.toNat), (22, 4, v.toNat), (26, 6, 29)]) he
    (.lit rfl <| .lit rfl <| .val sc rfl <| .val k rfl <| .val vi rfl <| .val x rfl <| .val v rfl <| .lit rfl <| .done rfl)
    (show _ = enc34 0x74000003 v x vi k sc from rfl) (by simp only [packs]; omega)
  rw [hd, decodeNat, hf 26 6 29 rfl]
  show decodeVgs num = _
  rw [decodeVgs, hf 0 7 3 rfl]
  show form _ _ _ _ _ _ = _
  rw [bf_of hf 22 v rfl, bf_of hf 19 x rfl, bf_of hf 15 vi rfl, bf_of hf 12 k rfl, bf_of hf 10 sc rfl]
  exact form_ok (zeros_at hf rfl) trivial trivial trivial

theorem RoundTrip.vadd (w : BitVec 2) (vd : VReg) (va : VReg) (vb : VReg) (k : KReg) (la : Bool) (lb : Bool) (st : BitVec 2) : RoundTrip.Statement (.vadd w vd va vb k la lb st) := by
  intro wd h he
  obtain ⟨num, hd, hf⟩ := word_of (l := [(0, 5, 0), (5, 2, w.toNat), (7, 2, st.toNat), (9, 1, lb.toNat), (10, 1, la.toNat), (11, 3, k.toNat), (14, 4, vb.toNat), (18, 4, va.toNat), (22, 4, vd.toNat), (26, 6, 30)]) he
    (.lit rfl <| .val w rfl <| .val st rfl <| .flag lb rfl <| .flag la rfl <| .val k rfl <| .val vb rfl <| .val va rfl <| .val vd rfl <| .lit rfl <| .done rfl)
    (show _ = enc35 0x78000000 w vd va vb k la lb st from rfl) (by simp only [packs]; omega)
  rw [hd, decodeNat, hf 26 6 30 rfl]
  show decodeVint num = _
  have hne : w.toNat ≠ 3 := ne_three (wf_head h)
  have h7 : fld num 0 7 = 0 + 32 * w.toNat := fld_cat (hf 0 5 0 rfl) (hf 5 2 _ rfl)
  have := w.isLt
  unfold decodeVint
  split
  · exfalso; omega
  rw [if_neg (by rw [hf 5 2 _ rfl]; simpa using hne), hf 0 5 0 rfl]
  show form _ _ _ _ _ _ = _
  rw [bf_of hf 5 w rfl, bf_of hf 22 vd rfl, bf_of hf 18 va rfl, bf_of hf 14 vb rfl, bf_of hf 11 k rfl, flag_of hf 10 la rfl, flag_of hf 9 lb rfl, bf_of hf 7 st rfl]
  exact form_ok trivial trivial trivial (vparity_at hf rfl rfl (wf_tail h))

theorem RoundTrip.vsub (w : BitVec 2) (vd : VReg) (va : VReg) (vb : VReg) (k : KReg) (la : Bool) (lb : Bool) (st : BitVec 2) : RoundTrip.Statement (.vsub w vd va vb k la lb st) := by
  intro wd h he
  obtain ⟨num, hd, hf⟩ := word_of (l := [(0, 5, 1), (5, 2, w.toNat), (7, 2, st.toNat), (9, 1, lb.toNat), (10, 1, la.toNat), (11, 3, k.toNat), (14, 4, vb.toNat), (18, 4, va.toNat), (22, 4, vd.toNat), (26, 6, 30)]) he
    (.lit rfl <| .val w rfl <| .val st rfl <| .flag lb rfl <| .flag la rfl <| .val k rfl <| .val vb rfl <| .val va rfl <| .val vd rfl <| .lit rfl <| .done rfl)
    (show _ = enc35 0x78000001 w vd va vb k la lb st from rfl) (by simp only [packs]; omega)
  rw [hd, decodeNat, hf 26 6 30 rfl]
  show decodeVint num = _
  have hne : w.toNat ≠ 3 := ne_three (wf_head h)
  have h7 : fld num 0 7 = 1 + 32 * w.toNat := fld_cat (hf 0 5 1 rfl) (hf 5 2 _ rfl)
  have := w.isLt
  unfold decodeVint
  split
  · exfalso; omega
  rw [if_neg (by rw [hf 5 2 _ rfl]; simpa using hne), hf 0 5 1 rfl]
  show form _ _ _ _ _ _ = _
  rw [bf_of hf 5 w rfl, bf_of hf 22 vd rfl, bf_of hf 18 va rfl, bf_of hf 14 vb rfl, bf_of hf 11 k rfl, flag_of hf 10 la rfl, flag_of hf 9 lb rfl, bf_of hf 7 st rfl]
  exact form_ok trivial trivial trivial (vparity_at hf rfl rfl (wf_tail h))

theorem RoundTrip.vmul (w : BitVec 2) (vd : VReg) (va : VReg) (vb : VReg) (k : KReg) (la : Bool) (lb : Bool) (st : BitVec 2) : RoundTrip.Statement (.vmul w vd va vb k la lb st) := by
  intro wd h he
  obtain ⟨num, hd, hf⟩ := word_of (l := [(0, 5, 2), (5, 2, w.toNat), (7, 2, st.toNat), (9, 1, lb.toNat), (10, 1, la.toNat), (11, 3, k.toNat), (14, 4, vb.toNat), (18, 4, va.toNat), (22, 4, vd.toNat), (26, 6, 30)]) he
    (.lit rfl <| .val w rfl <| .val st rfl <| .flag lb rfl <| .flag la rfl <| .val k rfl <| .val vb rfl <| .val va rfl <| .val vd rfl <| .lit rfl <| .done rfl)
    (show _ = enc35 0x78000002 w vd va vb k la lb st from rfl) (by simp only [packs]; omega)
  rw [hd, decodeNat, hf 26 6 30 rfl]
  show decodeVint num = _
  have hne : w.toNat ≠ 3 := ne_three (wf_head h)
  have h7 : fld num 0 7 = 2 + 32 * w.toNat := fld_cat (hf 0 5 2 rfl) (hf 5 2 _ rfl)
  have := w.isLt
  unfold decodeVint
  split
  · exfalso; omega
  rw [if_neg (by rw [hf 5 2 _ rfl]; simpa using hne), hf 0 5 2 rfl]
  show form _ _ _ _ _ _ = _
  rw [bf_of hf 5 w rfl, bf_of hf 22 vd rfl, bf_of hf 18 va rfl, bf_of hf 14 vb rfl, bf_of hf 11 k rfl, flag_of hf 10 la rfl, flag_of hf 9 lb rfl, bf_of hf 7 st rfl]
  exact form_ok trivial trivial trivial (vparity_at hf rfl rfl (wf_tail h))

theorem RoundTrip.vmulhs (w : BitVec 2) (vd : VReg) (va : VReg) (vb : VReg) (k : KReg) (la : Bool) (lb : Bool) (st : BitVec 2) : RoundTrip.Statement (.vmulhs w vd va vb k la lb st) := by
  intro wd h he
  obtain ⟨num, hd, hf⟩ := word_of (l := [(0, 5, 3), (5, 2, w.toNat), (7, 2, st.toNat), (9, 1, lb.toNat), (10, 1, la.toNat), (11, 3, k.toNat), (14, 4, vb.toNat), (18, 4, va.toNat), (22, 4, vd.toNat), (26, 6, 30)]) he
    (.lit rfl <| .val w rfl <| .val st rfl <| .flag lb rfl <| .flag la rfl <| .val k rfl <| .val vb rfl <| .val va rfl <| .val vd rfl <| .lit rfl <| .done rfl)
    (show _ = enc35 0x78000003 w vd va vb k la lb st from rfl) (by simp only [packs]; omega)
  rw [hd, decodeNat, hf 26 6 30 rfl]
  show decodeVint num = _
  have hne : w.toNat ≠ 3 := ne_three (wf_head h)
  have h7 : fld num 0 7 = 3 + 32 * w.toNat := fld_cat (hf 0 5 3 rfl) (hf 5 2 _ rfl)
  have := w.isLt
  unfold decodeVint
  split
  · exfalso; omega
  rw [if_neg (by rw [hf 5 2 _ rfl]; simpa using hne), hf 0 5 3 rfl]
  show form _ _ _ _ _ _ = _
  rw [bf_of hf 5 w rfl, bf_of hf 22 vd rfl, bf_of hf 18 va rfl, bf_of hf 14 vb rfl, bf_of hf 11 k rfl, flag_of hf 10 la rfl, flag_of hf 9 lb rfl, bf_of hf 7 st rfl]
  exact form_ok trivial trivial trivial (vparity_at hf rfl rfl (wf_tail h))

theorem RoundTrip.vand (w : BitVec 2) (vd : VReg) (va : VReg) (vb : VReg) (k : KReg) (la : Bool) (lb : Bool) (st : BitVec 2) : RoundTrip.Statement (.vand w vd va vb k la lb st) := by
  intro wd h he
  obtain ⟨num, hd, hf⟩ := word_of (l := [(0, 5, 4), (5, 2, w.toNat), (7, 2, st.toNat), (9, 1, lb.toNat), (10, 1, la.toNat), (11, 3, k.toNat), (14, 4, vb.toNat), (18, 4, va.toNat), (22, 4, vd.toNat), (26, 6, 30)]) he
    (.lit rfl <| .val w rfl <| .val st rfl <| .flag lb rfl <| .flag la rfl <| .val k rfl <| .val vb rfl <| .val va rfl <| .val vd rfl <| .lit rfl <| .done rfl)
    (show _ = enc35 0x78000004 w vd va vb k la lb st from rfl) (by simp only [packs]; omega)
  rw [hd, decodeNat, hf 26 6 30 rfl]
  show decodeVint num = _
  have hne : w.toNat ≠ 3 := ne_three (wf_head h)
  have h7 : fld num 0 7 = 4 + 32 * w.toNat := fld_cat (hf 0 5 4 rfl) (hf 5 2 _ rfl)
  have := w.isLt
  unfold decodeVint
  split
  · exfalso; omega
  rw [if_neg (by rw [hf 5 2 _ rfl]; simpa using hne), hf 0 5 4 rfl]
  show form _ _ _ _ _ _ = _
  rw [bf_of hf 5 w rfl, bf_of hf 22 vd rfl, bf_of hf 18 va rfl, bf_of hf 14 vb rfl, bf_of hf 11 k rfl, flag_of hf 10 la rfl, flag_of hf 9 lb rfl, bf_of hf 7 st rfl]
  exact form_ok trivial trivial trivial (vparity_at hf rfl rfl (wf_tail h))

theorem RoundTrip.vor (w : BitVec 2) (vd : VReg) (va : VReg) (vb : VReg) (k : KReg) (la : Bool) (lb : Bool) (st : BitVec 2) : RoundTrip.Statement (.vor w vd va vb k la lb st) := by
  intro wd h he
  obtain ⟨num, hd, hf⟩ := word_of (l := [(0, 5, 5), (5, 2, w.toNat), (7, 2, st.toNat), (9, 1, lb.toNat), (10, 1, la.toNat), (11, 3, k.toNat), (14, 4, vb.toNat), (18, 4, va.toNat), (22, 4, vd.toNat), (26, 6, 30)]) he
    (.lit rfl <| .val w rfl <| .val st rfl <| .flag lb rfl <| .flag la rfl <| .val k rfl <| .val vb rfl <| .val va rfl <| .val vd rfl <| .lit rfl <| .done rfl)
    (show _ = enc35 0x78000005 w vd va vb k la lb st from rfl) (by simp only [packs]; omega)
  rw [hd, decodeNat, hf 26 6 30 rfl]
  show decodeVint num = _
  have hne : w.toNat ≠ 3 := ne_three (wf_head h)
  have h7 : fld num 0 7 = 5 + 32 * w.toNat := fld_cat (hf 0 5 5 rfl) (hf 5 2 _ rfl)
  have := w.isLt
  unfold decodeVint
  split
  · exfalso; omega
  rw [if_neg (by rw [hf 5 2 _ rfl]; simpa using hne), hf 0 5 5 rfl]
  show form _ _ _ _ _ _ = _
  rw [bf_of hf 5 w rfl, bf_of hf 22 vd rfl, bf_of hf 18 va rfl, bf_of hf 14 vb rfl, bf_of hf 11 k rfl, flag_of hf 10 la rfl, flag_of hf 9 lb rfl, bf_of hf 7 st rfl]
  exact form_ok trivial trivial trivial (vparity_at hf rfl rfl (wf_tail h))

theorem RoundTrip.vxor (w : BitVec 2) (vd : VReg) (va : VReg) (vb : VReg) (k : KReg) (la : Bool) (lb : Bool) (st : BitVec 2) : RoundTrip.Statement (.vxor w vd va vb k la lb st) := by
  intro wd h he
  obtain ⟨num, hd, hf⟩ := word_of (l := [(0, 5, 6), (5, 2, w.toNat), (7, 2, st.toNat), (9, 1, lb.toNat), (10, 1, la.toNat), (11, 3, k.toNat), (14, 4, vb.toNat), (18, 4, va.toNat), (22, 4, vd.toNat), (26, 6, 30)]) he
    (.lit rfl <| .val w rfl <| .val st rfl <| .flag lb rfl <| .flag la rfl <| .val k rfl <| .val vb rfl <| .val va rfl <| .val vd rfl <| .lit rfl <| .done rfl)
    (show _ = enc35 0x78000006 w vd va vb k la lb st from rfl) (by simp only [packs]; omega)
  rw [hd, decodeNat, hf 26 6 30 rfl]
  show decodeVint num = _
  have hne : w.toNat ≠ 3 := ne_three (wf_head h)
  have h7 : fld num 0 7 = 6 + 32 * w.toNat := fld_cat (hf 0 5 6 rfl) (hf 5 2 _ rfl)
  have := w.isLt
  unfold decodeVint
  split
  · exfalso; omega
  rw [if_neg (by rw [hf 5 2 _ rfl]; simpa using hne), hf 0 5 6 rfl]
  show form _ _ _ _ _ _ = _
  rw [bf_of hf 5 w rfl, bf_of hf 22 vd rfl, bf_of hf 18 va rfl, bf_of hf 14 vb rfl, bf_of hf 11 k rfl, flag_of hf 10 la rfl, flag_of hf 9 lb rfl, bf_of hf 7 st rfl]
  exact form_ok trivial trivial trivial (vparity_at hf rfl rfl (wf_tail h))

theorem RoundTrip.vandn (w : BitVec 2) (vd : VReg) (va : VReg) (vb : VReg) (k : KReg) (la : Bool) (lb : Bool) (st : BitVec 2) : RoundTrip.Statement (.vandn w vd va vb k la lb st) := by
  intro wd h he
  obtain ⟨num, hd, hf⟩ := word_of (l := [(0, 5, 7), (5, 2, w.toNat), (7, 2, st.toNat), (9, 1, lb.toNat), (10, 1, la.toNat), (11, 3, k.toNat), (14, 4, vb.toNat), (18, 4, va.toNat), (22, 4, vd.toNat), (26, 6, 30)]) he
    (.lit rfl <| .val w rfl <| .val st rfl <| .flag lb rfl <| .flag la rfl <| .val k rfl <| .val vb rfl <| .val va rfl <| .val vd rfl <| .lit rfl <| .done rfl)
    (show _ = enc35 0x78000007 w vd va vb k la lb st from rfl) (by simp only [packs]; omega)
  rw [hd, decodeNat, hf 26 6 30 rfl]
  show decodeVint num = _
  have hne : w.toNat ≠ 3 := ne_three (wf_head h)
  have h7 : fld num 0 7 = 7 + 32 * w.toNat := fld_cat (hf 0 5 7 rfl) (hf 5 2 _ rfl)
  have := w.isLt
  unfold decodeVint
  split
  · exfalso; omega
  rw [if_neg (by rw [hf 5 2 _ rfl]; simpa using hne), hf 0 5 7 rfl]
  show form _ _ _ _ _ _ = _
  rw [bf_of hf 5 w rfl, bf_of hf 22 vd rfl, bf_of hf 18 va rfl, bf_of hf 14 vb rfl, bf_of hf 11 k rfl, flag_of hf 10 la rfl, flag_of hf 9 lb rfl, bf_of hf 7 st rfl]
  exact form_ok trivial trivial trivial (vparity_at hf rfl rfl (wf_tail h))

theorem RoundTrip.vshl (w : BitVec 2) (vd : VReg) (va : VReg) (vb : VReg) (k : KReg) (la : Bool) (lb : Bool) (st : BitVec 2) : RoundTrip.Statement (.vshl w vd va vb k la lb st) := by
  intro wd h he
  obtain ⟨num, hd, hf⟩ := word_of (l := [(0, 5, 8), (5, 2, w.toNat), (7, 2, st.toNat), (9, 1, lb.toNat), (10, 1, la.toNat), (11, 3, k.toNat), (14, 4, vb.toNat), (18, 4, va.toNat), (22, 4, vd.toNat), (26, 6, 30)]) he
    (.lit rfl <| .val w rfl <| .val st rfl <| .flag lb rfl <| .flag la rfl <| .val k rfl <| .val vb rfl <| .val va rfl <| .val vd rfl <| .lit rfl <| .done rfl)
    (show _ = enc35 0x78000008 w vd va vb k la lb st from rfl) (by simp only [packs]; omega)
  rw [hd, decodeNat, hf 26 6 30 rfl]
  show decodeVint num = _
  have hne : w.toNat ≠ 3 := ne_three (wf_head h)
  have h7 : fld num 0 7 = 8 + 32 * w.toNat := fld_cat (hf 0 5 8 rfl) (hf 5 2 _ rfl)
  have := w.isLt
  unfold decodeVint
  split
  · exfalso; omega
  rw [if_neg (by rw [hf 5 2 _ rfl]; simpa using hne), hf 0 5 8 rfl]
  show form _ _ _ _ _ _ = _
  rw [bf_of hf 5 w rfl, bf_of hf 22 vd rfl, bf_of hf 18 va rfl, bf_of hf 14 vb rfl, bf_of hf 11 k rfl, flag_of hf 10 la rfl, flag_of hf 9 lb rfl, bf_of hf 7 st rfl]
  exact form_ok trivial trivial trivial (vparity_at hf rfl rfl (wf_tail h))

theorem RoundTrip.vshr (w : BitVec 2) (vd : VReg) (va : VReg) (vb : VReg) (k : KReg) (la : Bool) (lb : Bool) (st : BitVec 2) : RoundTrip.Statement (.vshr w vd va vb k la lb st) := by
  intro wd h he
  obtain ⟨num, hd, hf⟩ := word_of (l := [(0, 5, 9), (5, 2, w.toNat), (7, 2, st.toNat), (9, 1, lb.toNat), (10, 1, la.toNat), (11, 3, k.toNat), (14, 4, vb.toNat), (18, 4, va.toNat), (22, 4, vd.toNat), (26, 6, 30)]) he
    (.lit rfl <| .val w rfl <| .val st rfl <| .flag lb rfl <| .flag la rfl <| .val k rfl <| .val vb rfl <| .val va rfl <| .val vd rfl <| .lit rfl <| .done rfl)
    (show _ = enc35 0x78000009 w vd va vb k la lb st from rfl) (by simp only [packs]; omega)
  rw [hd, decodeNat, hf 26 6 30 rfl]
  show decodeVint num = _
  have hne : w.toNat ≠ 3 := ne_three (wf_head h)
  have h7 : fld num 0 7 = 9 + 32 * w.toNat := fld_cat (hf 0 5 9 rfl) (hf 5 2 _ rfl)
  have := w.isLt
  unfold decodeVint
  split
  · exfalso; omega
  rw [if_neg (by rw [hf 5 2 _ rfl]; simpa using hne), hf 0 5 9 rfl]
  show form _ _ _ _ _ _ = _
  rw [bf_of hf 5 w rfl, bf_of hf 22 vd rfl, bf_of hf 18 va rfl, bf_of hf 14 vb rfl, bf_of hf 11 k rfl, flag_of hf 10 la rfl, flag_of hf 9 lb rfl, bf_of hf 7 st rfl]
  exact form_ok trivial trivial trivial (vparity_at hf rfl rfl (wf_tail h))

theorem RoundTrip.vsha (w : BitVec 2) (vd : VReg) (va : VReg) (vb : VReg) (k : KReg) (la : Bool) (lb : Bool) (st : BitVec 2) : RoundTrip.Statement (.vsha w vd va vb k la lb st) := by
  intro wd h he
  obtain ⟨num, hd, hf⟩ := word_of (l := [(0, 5, 10), (5, 2, w.toNat), (7, 2, st.toNat), (9, 1, lb.toNat), (10, 1, la.toNat), (11, 3, k.toNat), (14, 4, vb.toNat), (18, 4, va.toNat), (22, 4, vd.toNat), (26, 6, 30)]) he
    (.lit rfl <| .val w rfl <| .val st rfl <| .flag lb rfl <| .flag la rfl <| .val k rfl <| .val vb rfl <| .val va rfl <| .val vd rfl <| .lit rfl <| .done rfl)
    (show _ = enc35 0x7800000A w vd va vb k la lb st from rfl) (by simp only [packs]; omega)
  rw [hd, decodeNat, hf 26 6 30 rfl]
  show decodeVint num = _
  have hne : w.toNat ≠ 3 := ne_three (wf_head h)
  have h7 : fld num 0 7 = 10 + 32 * w.toNat := fld_cat (hf 0 5 10 rfl) (hf 5 2 _ rfl)
  have := w.isLt
  unfold decodeVint
  split
  · exfalso; omega
  rw [if_neg (by rw [hf 5 2 _ rfl]; simpa using hne), hf 0 5 10 rfl]
  show form _ _ _ _ _ _ = _
  rw [bf_of hf 5 w rfl, bf_of hf 22 vd rfl, bf_of hf 18 va rfl, bf_of hf 14 vb rfl, bf_of hf 11 k rfl, flag_of hf 10 la rfl, flag_of hf 9 lb rfl, bf_of hf 7 st rfl]
  exact form_ok trivial trivial trivial (vparity_at hf rfl rfl (wf_tail h))

theorem RoundTrip.vmins (w : BitVec 2) (vd : VReg) (va : VReg) (vb : VReg) (k : KReg) (la : Bool) (lb : Bool) (st : BitVec 2) : RoundTrip.Statement (.vmins w vd va vb k la lb st) := by
  intro wd h he
  obtain ⟨num, hd, hf⟩ := word_of (l := [(0, 5, 11), (5, 2, w.toNat), (7, 2, st.toNat), (9, 1, lb.toNat), (10, 1, la.toNat), (11, 3, k.toNat), (14, 4, vb.toNat), (18, 4, va.toNat), (22, 4, vd.toNat), (26, 6, 30)]) he
    (.lit rfl <| .val w rfl <| .val st rfl <| .flag lb rfl <| .flag la rfl <| .val k rfl <| .val vb rfl <| .val va rfl <| .val vd rfl <| .lit rfl <| .done rfl)
    (show _ = enc35 0x7800000B w vd va vb k la lb st from rfl) (by simp only [packs]; omega)
  rw [hd, decodeNat, hf 26 6 30 rfl]
  show decodeVint num = _
  have hne : w.toNat ≠ 3 := ne_three (wf_head h)
  have h7 : fld num 0 7 = 11 + 32 * w.toNat := fld_cat (hf 0 5 11 rfl) (hf 5 2 _ rfl)
  have := w.isLt
  unfold decodeVint
  split
  · exfalso; omega
  rw [if_neg (by rw [hf 5 2 _ rfl]; simpa using hne), hf 0 5 11 rfl]
  show form _ _ _ _ _ _ = _
  rw [bf_of hf 5 w rfl, bf_of hf 22 vd rfl, bf_of hf 18 va rfl, bf_of hf 14 vb rfl, bf_of hf 11 k rfl, flag_of hf 10 la rfl, flag_of hf 9 lb rfl, bf_of hf 7 st rfl]
  exact form_ok trivial trivial trivial (vparity_at hf rfl rfl (wf_tail h))

theorem RoundTrip.vmaxs (w : BitVec 2) (vd : VReg) (va : VReg) (vb : VReg) (k : KReg) (la : Bool) (lb : Bool) (st : BitVec 2) : RoundTrip.Statement (.vmaxs w vd va vb k la lb st) := by
  intro wd h he
  obtain ⟨num, hd, hf⟩ := word_of (l := [(0, 5, 12), (5, 2, w.toNat), (7, 2, st.toNat), (9, 1, lb.toNat), (10, 1, la.toNat), (11, 3, k.toNat), (14, 4, vb.toNat), (18, 4, va.toNat), (22, 4, vd.toNat), (26, 6, 30)]) he
    (.lit rfl <| .val w rfl <| .val st rfl <| .flag lb rfl <| .flag la rfl <| .val k rfl <| .val vb rfl <| .val va rfl <| .val vd rfl <| .lit rfl <| .done rfl)
    (show _ = enc35 0x7800000C w vd va vb k la lb st from rfl) (by simp only [packs]; omega)
  rw [hd, decodeNat, hf 26 6 30 rfl]
  show decodeVint num = _
  have hne : w.toNat ≠ 3 := ne_three (wf_head h)
  have h7 : fld num 0 7 = 12 + 32 * w.toNat := fld_cat (hf 0 5 12 rfl) (hf 5 2 _ rfl)
  have := w.isLt
  unfold decodeVint
  split
  · exfalso; omega
  rw [if_neg (by rw [hf 5 2 _ rfl]; simpa using hne), hf 0 5 12 rfl]
  show form _ _ _ _ _ _ = _
  rw [bf_of hf 5 w rfl, bf_of hf 22 vd rfl, bf_of hf 18 va rfl, bf_of hf 14 vb rfl, bf_of hf 11 k rfl, flag_of hf 10 la rfl, flag_of hf 9 lb rfl, bf_of hf 7 st rfl]
  exact form_ok trivial trivial trivial (vparity_at hf rfl rfl (wf_tail h))

theorem RoundTrip.vminu (w : BitVec 2) (vd : VReg) (va : VReg) (vb : VReg) (k : KReg) (la : Bool) (lb : Bool) (st : BitVec 2) : RoundTrip.Statement (.vminu w vd va vb k la lb st) := by
  intro wd h he
  obtain ⟨num, hd, hf⟩ := word_of (l := [(0, 5, 13), (5, 2, w.toNat), (7, 2, st.toNat), (9, 1, lb.toNat), (10, 1, la.toNat), (11, 3, k.toNat), (14, 4, vb.toNat), (18, 4, va.toNat), (22, 4, vd.toNat), (26, 6, 30)]) he
    (.lit rfl <| .val w rfl <| .val st rfl <| .flag lb rfl <| .flag la rfl <| .val k rfl <| .val vb rfl <| .val va rfl <| .val vd rfl <| .lit rfl <| .done rfl)
    (show _ = enc35 0x7800000D w vd va vb k la lb st from rfl) (by simp only [packs]; omega)
  rw [hd, decodeNat, hf 26 6 30 rfl]
  show decodeVint num = _
  have hne : w.toNat ≠ 3 := ne_three (wf_head h)
  have h7 : fld num 0 7 = 13 + 32 * w.toNat := fld_cat (hf 0 5 13 rfl) (hf 5 2 _ rfl)
  have := w.isLt
  unfold decodeVint
  split
  · exfalso; omega
  rw [if_neg (by rw [hf 5 2 _ rfl]; simpa using hne), hf 0 5 13 rfl]
  show form _ _ _ _ _ _ = _
  rw [bf_of hf 5 w rfl, bf_of hf 22 vd rfl, bf_of hf 18 va rfl, bf_of hf 14 vb rfl, bf_of hf 11 k rfl, flag_of hf 10 la rfl, flag_of hf 9 lb rfl, bf_of hf 7 st rfl]
  exact form_ok trivial trivial trivial (vparity_at hf rfl rfl (wf_tail h))

theorem RoundTrip.vmaxu (w : BitVec 2) (vd : VReg) (va : VReg) (vb : VReg) (k : KReg) (la : Bool) (lb : Bool) (st : BitVec 2) : RoundTrip.Statement (.vmaxu w vd va vb k la lb st) := by
  intro wd h he
  obtain ⟨num, hd, hf⟩ := word_of (l := [(0, 5, 14), (5, 2, w.toNat), (7, 2, st.toNat), (9, 1, lb.toNat), (10, 1, la.toNat), (11, 3, k.toNat), (14, 4, vb.toNat), (18, 4, va.toNat), (22, 4, vd.toNat), (26, 6, 30)]) he
    (.lit rfl <| .val w rfl <| .val st rfl <| .flag lb rfl <| .flag la rfl <| .val k rfl <| .val vb rfl <| .val va rfl <| .val vd rfl <| .lit rfl <| .done rfl)
    (show _ = enc35 0x7800000E w vd va vb k la lb st from rfl) (by simp only [packs]; omega)
  rw [hd, decodeNat, hf 26 6 30 rfl]
  show decodeVint num = _
  have hne : w.toNat ≠ 3 := ne_three (wf_head h)
  have h7 : fld num 0 7 = 14 + 32 * w.toNat := fld_cat (hf 0 5 14 rfl) (hf 5 2 _ rfl)
  have := w.isLt
  unfold decodeVint
  split
  · exfalso; omega
  rw [if_neg (by rw [hf 5 2 _ rfl]; simpa using hne), hf 0 5 14 rfl]
  show form _ _ _ _ _ _ = _
  rw [bf_of hf 5 w rfl, bf_of hf 22 vd rfl, bf_of hf 18 va rfl, bf_of hf 14 vb rfl, bf_of hf 11 k rfl, flag_of hf 10 la rfl, flag_of hf 9 lb rfl, bf_of hf 7 st rfl]
  exact form_ok trivial trivial trivial (vparity_at hf rfl rfl (wf_tail h))

theorem RoundTrip.vadds (w : BitVec 2) (vd : VReg) (va : VReg) (vb : VReg) (k : KReg) (la : Bool) (lb : Bool) (st : BitVec 2) : RoundTrip.Statement (.vadds w vd va vb k la lb st) := by
  intro wd h he
  obtain ⟨num, hd, hf⟩ := word_of (l := [(0, 5, 15), (5, 2, w.toNat), (7, 2, st.toNat), (9, 1, lb.toNat), (10, 1, la.toNat), (11, 3, k.toNat), (14, 4, vb.toNat), (18, 4, va.toNat), (22, 4, vd.toNat), (26, 6, 30)]) he
    (.lit rfl <| .val w rfl <| .val st rfl <| .flag lb rfl <| .flag la rfl <| .val k rfl <| .val vb rfl <| .val va rfl <| .val vd rfl <| .lit rfl <| .done rfl)
    (show _ = enc35 0x7800000F w vd va vb k la lb st from rfl) (by simp only [packs]; omega)
  rw [hd, decodeNat, hf 26 6 30 rfl]
  show decodeVint num = _
  have hne : w.toNat ≠ 3 := ne_three (wf_head h)
  have h7 : fld num 0 7 = 15 + 32 * w.toNat := fld_cat (hf 0 5 15 rfl) (hf 5 2 _ rfl)
  have := w.isLt
  unfold decodeVint
  split
  · exfalso; omega
  rw [if_neg (by rw [hf 5 2 _ rfl]; simpa using hne), hf 0 5 15 rfl]
  show form _ _ _ _ _ _ = _
  rw [bf_of hf 5 w rfl, bf_of hf 22 vd rfl, bf_of hf 18 va rfl, bf_of hf 14 vb rfl, bf_of hf 11 k rfl, flag_of hf 10 la rfl, flag_of hf 9 lb rfl, bf_of hf 7 st rfl]
  exact form_ok trivial trivial trivial (vparity_at hf rfl rfl (wf_tail h))

theorem RoundTrip.vsubs (w : BitVec 2) (vd : VReg) (va : VReg) (vb : VReg) (k : KReg) (la : Bool) (lb : Bool) (st : BitVec 2) : RoundTrip.Statement (.vsubs w vd va vb k la lb st) := by
  intro wd h he
  obtain ⟨num, hd, hf⟩ := word_of (l := [(0, 5, 16), (5, 2, w.toNat), (7, 2, st.toNat), (9, 1, lb.toNat), (10, 1, la.toNat), (11, 3, k.toNat), (14, 4, vb.toNat), (18, 4, va.toNat), (22, 4, vd.toNat), (26, 6, 30)]) he
    (.lit rfl <| .val w rfl <| .val st rfl <| .flag lb rfl <| .flag la rfl <| .val k rfl <| .val vb rfl <| .val va rfl <| .val vd rfl <| .lit rfl <| .done rfl)
    (show _ = enc35 0x78000010 w vd va vb k la lb st from rfl) (by simp only [packs]; omega)
  rw [hd, decodeNat, hf 26 6 30 rfl]
  show decodeVint num = _
  have hne : w.toNat ≠ 3 := ne_three (wf_head h)
  have h7 : fld num 0 7 = 16 + 32 * w.toNat := fld_cat (hf 0 5 16 rfl) (hf 5 2 _ rfl)
  have := w.isLt
  unfold decodeVint
  split
  · exfalso; omega
  rw [if_neg (by rw [hf 5 2 _ rfl]; simpa using hne), hf 0 5 16 rfl]
  show form _ _ _ _ _ _ = _
  rw [bf_of hf 5 w rfl, bf_of hf 22 vd rfl, bf_of hf 18 va rfl, bf_of hf 14 vb rfl, bf_of hf 11 k rfl, flag_of hf 10 la rfl, flag_of hf 9 lb rfl, bf_of hf 7 st rfl]
  exact form_ok trivial trivial trivial (vparity_at hf rfl rfl (wf_tail h))

theorem RoundTrip.vabs (w : BitVec 2) (vd : VReg) (va : VReg) (k : KReg) (la : Bool) (st : BitVec 2) : RoundTrip.Statement (.vabs w vd va k la st) := by
  intro wd h he
  obtain ⟨num, hd, hf⟩ := word_of (l := [(0, 5, 17), (5, 2, w.toNat), (7, 2, st.toNat), (9, 1, 0), (10, 1, la.toNat), (11, 3, k.toNat), (14, 4, 0), (18, 4, va.toNat), (22, 4, vd.toNat), (26, 6, 30)]) he
    (.lit rfl <| .val w rfl <| .val st rfl <| .lit rfl <| .flag la rfl <| .val k rfl <| .lit rfl <| .val va rfl <| .val vd rfl <| .lit rfl <| .done rfl)
    (show _ = enc36 0x78000011 w vd va k la st from rfl) (by simp only [packs]; omega)
  rw [hd, decodeNat, hf 26 6 30 rfl]
  show decodeVint num = _
  have hne : w.toNat ≠ 3 := ne_three h
  have h7 : fld num 0 7 = 17 + 32 * w.toNat := fld_cat (hf 0 5 17 rfl) (hf 5 2 _ rfl)
  have := w.isLt
  unfold decodeVint
  split
  · exfalso; omega
  rw [if_neg (by rw [hf 5 2 _ rfl]; simpa using hne), hf 0 5 17 rfl]
  show form _ _ _ _ _ _ = _
  rw [bf_of hf 5 w rfl, bf_of hf 22 vd rfl, bf_of hf 18 va rfl, bf_of hf 11 k rfl, flag_of hf 10 la rfl, bf_of hf 7 st rfl]
  exact form_ok (zeros_at hf rfl) trivial trivial trivial

theorem RoundTrip.vdot4 (vd : VReg) (va : VReg) (vb : VReg) (k : KReg) (la : Bool) (lb : Bool) (st : BitVec 2) : RoundTrip.Statement (.vdot4 vd va vb k la lb st) := by
  intro wd h he
  obtain ⟨num, hd, hf⟩ := word_of (l := [(0, 7, 18), (7, 2, st.toNat), (9, 1, lb.toNat), (10, 1, la.toNat), (11, 3, k.toNat), (14, 4, vb.toNat), (18, 4, va.toNat), (22, 4, vd.toNat), (26, 6, 30)]) he
    (.lit rfl <| .val st rfl <| .flag lb rfl <| .flag la rfl <| .val k rfl <| .val vb rfl <| .val va rfl <| .val vd rfl <| .lit rfl <| .done rfl)
    (show _ = enc37 0x78000012 vd va vb k la lb st from rfl) (by simp only [packs]; omega)
  rw [hd, decodeNat, hf 26 6 30 rfl]
  show decodeVint num = _
  rw [decodeVint, hf 0 7 18 rfl]
  show form _ _ _ _ _ _ = _
  rw [bf_of hf 22 vd rfl, bf_of hf 18 va rfl, bf_of hf 14 vb rfl, bf_of hf 11 k rfl, flag_of hf 10 la rfl, flag_of hf 9 lb rfl, bf_of hf 7 st rfl]
  exact form_ok trivial trivial trivial (vparity_at hf rfl rfl (h))

theorem RoundTrip.vfadd (w : BitVec 2) (vd : VReg) (va : VReg) (vb : VReg) (k : KReg) (la : Bool) (lb : Bool) (st : BitVec 2) : RoundTrip.Statement (.vfadd w vd va vb k la lb st) := by
  intro wd h he
  obtain ⟨num, hd, hf⟩ := word_of (l := [(0, 5, 0), (5, 2, w.toNat), (7, 2, st.toNat), (9, 1, lb.toNat), (10, 1, la.toNat), (11, 3, k.toNat), (14, 4, vb.toNat), (18, 4, va.toNat), (22, 4, vd.toNat), (26, 6, 31)]) he
    (.lit rfl <| .val w rfl <| .val st rfl <| .flag lb rfl <| .flag la rfl <| .val k rfl <| .val vb rfl <| .val va rfl <| .val vd rfl <| .lit rfl <| .done rfl)
    (show _ = enc35 0x7C000000 w vd va vb k la lb st from rfl) (by simp only [packs]; omega)
  rw [hd, decodeNat, hf 26 6 31 rfl]
  show decodeVfp num = _
  have hne : w.toNat ≠ 3 := ne_three (wf_head h)
  have h7 : fld num 0 7 = 0 + 32 * w.toNat := fld_cat (hf 0 5 0 rfl) (hf 5 2 _ rfl)
  have := w.isLt
  unfold decodeVfp
  split
  · exfalso; omega
  rw [if_neg (by rw [hf 5 2 _ rfl]; simpa using hne), hf 0 5 0 rfl]
  show form _ _ _ _ _ _ = _
  rw [bf_of hf 5 w rfl, bf_of hf 22 vd rfl, bf_of hf 18 va rfl, bf_of hf 14 vb rfl, bf_of hf 11 k rfl, flag_of hf 10 la rfl, flag_of hf 9 lb rfl, bf_of hf 7 st rfl]
  exact form_ok trivial trivial trivial (vparity_at hf rfl rfl (wf_tail h))

theorem RoundTrip.vfsub (w : BitVec 2) (vd : VReg) (va : VReg) (vb : VReg) (k : KReg) (la : Bool) (lb : Bool) (st : BitVec 2) : RoundTrip.Statement (.vfsub w vd va vb k la lb st) := by
  intro wd h he
  obtain ⟨num, hd, hf⟩ := word_of (l := [(0, 5, 1), (5, 2, w.toNat), (7, 2, st.toNat), (9, 1, lb.toNat), (10, 1, la.toNat), (11, 3, k.toNat), (14, 4, vb.toNat), (18, 4, va.toNat), (22, 4, vd.toNat), (26, 6, 31)]) he
    (.lit rfl <| .val w rfl <| .val st rfl <| .flag lb rfl <| .flag la rfl <| .val k rfl <| .val vb rfl <| .val va rfl <| .val vd rfl <| .lit rfl <| .done rfl)
    (show _ = enc35 0x7C000001 w vd va vb k la lb st from rfl) (by simp only [packs]; omega)
  rw [hd, decodeNat, hf 26 6 31 rfl]
  show decodeVfp num = _
  have hne : w.toNat ≠ 3 := ne_three (wf_head h)
  have h7 : fld num 0 7 = 1 + 32 * w.toNat := fld_cat (hf 0 5 1 rfl) (hf 5 2 _ rfl)
  have := w.isLt
  unfold decodeVfp
  split
  · exfalso; omega
  rw [if_neg (by rw [hf 5 2 _ rfl]; simpa using hne), hf 0 5 1 rfl]
  show form _ _ _ _ _ _ = _
  rw [bf_of hf 5 w rfl, bf_of hf 22 vd rfl, bf_of hf 18 va rfl, bf_of hf 14 vb rfl, bf_of hf 11 k rfl, flag_of hf 10 la rfl, flag_of hf 9 lb rfl, bf_of hf 7 st rfl]
  exact form_ok trivial trivial trivial (vparity_at hf rfl rfl (wf_tail h))

theorem RoundTrip.vfmul (w : BitVec 2) (vd : VReg) (va : VReg) (vb : VReg) (k : KReg) (la : Bool) (lb : Bool) (st : BitVec 2) : RoundTrip.Statement (.vfmul w vd va vb k la lb st) := by
  intro wd h he
  obtain ⟨num, hd, hf⟩ := word_of (l := [(0, 5, 2), (5, 2, w.toNat), (7, 2, st.toNat), (9, 1, lb.toNat), (10, 1, la.toNat), (11, 3, k.toNat), (14, 4, vb.toNat), (18, 4, va.toNat), (22, 4, vd.toNat), (26, 6, 31)]) he
    (.lit rfl <| .val w rfl <| .val st rfl <| .flag lb rfl <| .flag la rfl <| .val k rfl <| .val vb rfl <| .val va rfl <| .val vd rfl <| .lit rfl <| .done rfl)
    (show _ = enc35 0x7C000002 w vd va vb k la lb st from rfl) (by simp only [packs]; omega)
  rw [hd, decodeNat, hf 26 6 31 rfl]
  show decodeVfp num = _
  have hne : w.toNat ≠ 3 := ne_three (wf_head h)
  have h7 : fld num 0 7 = 2 + 32 * w.toNat := fld_cat (hf 0 5 2 rfl) (hf 5 2 _ rfl)
  have := w.isLt
  unfold decodeVfp
  split
  · exfalso; omega
  rw [if_neg (by rw [hf 5 2 _ rfl]; simpa using hne), hf 0 5 2 rfl]
  show form _ _ _ _ _ _ = _
  rw [bf_of hf 5 w rfl, bf_of hf 22 vd rfl, bf_of hf 18 va rfl, bf_of hf 14 vb rfl, bf_of hf 11 k rfl, flag_of hf 10 la rfl, flag_of hf 9 lb rfl, bf_of hf 7 st rfl]
  exact form_ok trivial trivial trivial (vparity_at hf rfl rfl (wf_tail h))

theorem RoundTrip.vffma (w : BitVec 2) (vd : VReg) (va : VReg) (vb : VReg) (k : KReg) (la : Bool) (lb : Bool) (st : BitVec 2) : RoundTrip.Statement (.vffma w vd va vb k la lb st) := by
  intro wd h he
  obtain ⟨num, hd, hf⟩ := word_of (l := [(0, 5, 3), (5, 2, w.toNat), (7, 2, st.toNat), (9, 1, lb.toNat), (10, 1, la.toNat), (11, 3, k.toNat), (14, 4, vb.toNat), (18, 4, va.toNat), (22, 4, vd.toNat), (26, 6, 31)]) he
    (.lit rfl <| .val w rfl <| .val st rfl <| .flag lb rfl <| .flag la rfl <| .val k rfl <| .val vb rfl <| .val va rfl <| .val vd rfl <| .lit rfl <| .done rfl)
    (show _ = enc35 0x7C000003 w vd va vb k la lb st from rfl) (by simp only [packs]; omega)
  rw [hd, decodeNat, hf 26 6 31 rfl]
  show decodeVfp num = _
  have hne : w.toNat ≠ 3 := ne_three (wf_head h)
  have h7 : fld num 0 7 = 3 + 32 * w.toNat := fld_cat (hf 0 5 3 rfl) (hf 5 2 _ rfl)
  have := w.isLt
  unfold decodeVfp
  split
  · exfalso; omega
  rw [if_neg (by rw [hf 5 2 _ rfl]; simpa using hne), hf 0 5 3 rfl]
  show form _ _ _ _ _ _ = _
  rw [bf_of hf 5 w rfl, bf_of hf 22 vd rfl, bf_of hf 18 va rfl, bf_of hf 14 vb rfl, bf_of hf 11 k rfl, flag_of hf 10 la rfl, flag_of hf 9 lb rfl, bf_of hf 7 st rfl]
  exact form_ok trivial trivial trivial (vparity_at hf rfl rfl (wf_tail h))

theorem RoundTrip.vffms (w : BitVec 2) (vd : VReg) (va : VReg) (vb : VReg) (k : KReg) (la : Bool) (lb : Bool) (st : BitVec 2) : RoundTrip.Statement (.vffms w vd va vb k la lb st) := by
  intro wd h he
  obtain ⟨num, hd, hf⟩ := word_of (l := [(0, 5, 4), (5, 2, w.toNat), (7, 2, st.toNat), (9, 1, lb.toNat), (10, 1, la.toNat), (11, 3, k.toNat), (14, 4, vb.toNat), (18, 4, va.toNat), (22, 4, vd.toNat), (26, 6, 31)]) he
    (.lit rfl <| .val w rfl <| .val st rfl <| .flag lb rfl <| .flag la rfl <| .val k rfl <| .val vb rfl <| .val va rfl <| .val vd rfl <| .lit rfl <| .done rfl)
    (show _ = enc35 0x7C000004 w vd va vb k la lb st from rfl) (by simp only [packs]; omega)
  rw [hd, decodeNat, hf 26 6 31 rfl]
  show decodeVfp num = _
  have hne : w.toNat ≠ 3 := ne_three (wf_head h)
  have h7 : fld num 0 7 = 4 + 32 * w.toNat := fld_cat (hf 0 5 4 rfl) (hf 5 2 _ rfl)
  have := w.isLt
  unfold decodeVfp
  split
  · exfalso; omega
  rw [if_neg (by rw [hf 5 2 _ rfl]; simpa using hne), hf 0 5 4 rfl]
  show form _ _ _ _ _ _ = _
  rw [bf_of hf 5 w rfl, bf_of hf 22 vd rfl, bf_of hf 18 va rfl, bf_of hf 14 vb rfl, bf_of hf 11 k rfl, flag_of hf 10 la rfl, flag_of hf 9 lb rfl, bf_of hf 7 st rfl]
  exact form_ok trivial trivial trivial (vparity_at hf rfl rfl (wf_tail h))

theorem RoundTrip.vfmin (w : BitVec 2) (vd : VReg) (va : VReg) (vb : VReg) (k : KReg) (la : Bool) (lb : Bool) (st : BitVec 2) : RoundTrip.Statement (.vfmin w vd va vb k la lb st) := by
  intro wd h he
  obtain ⟨num, hd, hf⟩ := word_of (l := [(0, 5, 5), (5, 2, w.toNat), (7, 2, st.toNat), (9, 1, lb.toNat), (10, 1, la.toNat), (11, 3, k.toNat), (14, 4, vb.toNat), (18, 4, va.toNat), (22, 4, vd.toNat), (26, 6, 31)]) he
    (.lit rfl <| .val w rfl <| .val st rfl <| .flag lb rfl <| .flag la rfl <| .val k rfl <| .val vb rfl <| .val va rfl <| .val vd rfl <| .lit rfl <| .done rfl)
    (show _ = enc35 0x7C000005 w vd va vb k la lb st from rfl) (by simp only [packs]; omega)
  rw [hd, decodeNat, hf 26 6 31 rfl]
  show decodeVfp num = _
  have hne : w.toNat ≠ 3 := ne_three (wf_head h)
  have h7 : fld num 0 7 = 5 + 32 * w.toNat := fld_cat (hf 0 5 5 rfl) (hf 5 2 _ rfl)
  have := w.isLt
  unfold decodeVfp
  split
  · exfalso; omega
  rw [if_neg (by rw [hf 5 2 _ rfl]; simpa using hne), hf 0 5 5 rfl]
  show form _ _ _ _ _ _ = _
  rw [bf_of hf 5 w rfl, bf_of hf 22 vd rfl, bf_of hf 18 va rfl, bf_of hf 14 vb rfl, bf_of hf 11 k rfl, flag_of hf 10 la rfl, flag_of hf 9 lb rfl, bf_of hf 7 st rfl]
  exact form_ok trivial trivial trivial (vparity_at hf rfl rfl (wf_tail h))

theorem RoundTrip.vfmax (w : BitVec 2) (vd : VReg) (va : VReg) (vb : VReg) (k : KReg) (la : Bool) (lb : Bool) (st : BitVec 2) : RoundTrip.Statement (.vfmax w vd va vb k la lb st) := by
  intro wd h he
  obtain ⟨num, hd, hf⟩ := word_of (l := [(0, 5, 6), (5, 2, w.toNat), (7, 2, st.toNat), (9, 1, lb.toNat), (10, 1, la.toNat), (11, 3, k.toNat), (14, 4, vb.toNat), (18, 4, va.toNat), (22, 4, vd.toNat), (26, 6, 31)]) he
    (.lit rfl <| .val w rfl <| .val st rfl <| .flag lb rfl <| .flag la rfl <| .val k rfl <| .val vb rfl <| .val va rfl <| .val vd rfl <| .lit rfl <| .done rfl)
    (show _ = enc35 0x7C000006 w vd va vb k la lb st from rfl) (by simp only [packs]; omega)
  rw [hd, decodeNat, hf 26 6 31 rfl]
  show decodeVfp num = _
  have hne : w.toNat ≠ 3 := ne_three (wf_head h)
  have h7 : fld num 0 7 = 6 + 32 * w.toNat := fld_cat (hf 0 5 6 rfl) (hf 5 2 _ rfl)
  have := w.isLt
  unfold decodeVfp
  split
  · exfalso; omega
  rw [if_neg (by rw [hf 5 2 _ rfl]; simpa using hne), hf 0 5 6 rfl]
  show form _ _ _ _ _ _ = _
  rw [bf_of hf 5 w rfl, bf_of hf 22 vd rfl, bf_of hf 18 va rfl, bf_of hf 14 vb rfl, bf_of hf 11 k rfl, flag_of hf 10 la rfl, flag_of hf 9 lb rfl, bf_of hf 7 st rfl]
  exact form_ok trivial trivial trivial (vparity_at hf rfl rfl (wf_tail h))

theorem RoundTrip.vfabs (w : BitVec 2) (vd : VReg) (va : VReg) (k : KReg) (la : Bool) (st : BitVec 2) : RoundTrip.Statement (.vfabs w vd va k la st) := by
  intro wd h he
  obtain ⟨num, hd, hf⟩ := word_of (l := [(0, 5, 7), (5, 2, w.toNat), (7, 2, st.toNat), (9, 1, 0), (10, 1, la.toNat), (11, 3, k.toNat), (14, 4, 0), (18, 4, va.toNat), (22, 4, vd.toNat), (26, 6, 31)]) he
    (.lit rfl <| .val w rfl <| .val st rfl <| .lit rfl <| .flag la rfl <| .val k rfl <| .lit rfl <| .val va rfl <| .val vd rfl <| .lit rfl <| .done rfl)
    (show _ = enc36 0x7C000007 w vd va k la st from rfl) (by simp only [packs]; omega)
  rw [hd, decodeNat, hf 26 6 31 rfl]
  show decodeVfp num = _
  have hne : w.toNat ≠ 3 := ne_three h
  have h7 : fld num 0 7 = 7 + 32 * w.toNat := fld_cat (hf 0 5 7 rfl) (hf 5 2 _ rfl)
  have := w.isLt
  unfold decodeVfp
  split
  · exfalso; omega
  rw [if_neg (by rw [hf 5 2 _ rfl]; simpa using hne), hf 0 5 7 rfl]
  show form _ _ _ _ _ _ = _
  rw [bf_of hf 5 w rfl, bf_of hf 22 vd rfl, bf_of hf 18 va rfl, bf_of hf 11 k rfl, flag_of hf 10 la rfl, bf_of hf 7 st rfl]
  exact form_ok (zeros_at hf rfl) trivial trivial trivial

theorem RoundTrip.vfneg (w : BitVec 2) (vd : VReg) (va : VReg) (k : KReg) (la : Bool) (st : BitVec 2) : RoundTrip.Statement (.vfneg w vd va k la st) := by
  intro wd h he
  obtain ⟨num, hd, hf⟩ := word_of (l := [(0, 5, 8), (5, 2, w.toNat), (7, 2, st.toNat), (9, 1, 0), (10, 1, la.toNat), (11, 3, k.toNat), (14, 4, 0), (18, 4, va.toNat), (22, 4, vd.toNat), (26, 6, 31)]) he
    (.lit rfl <| .val w rfl <| .val st rfl <| .lit rfl <| .flag la rfl <| .val k rfl <| .lit rfl <| .val va rfl <| .val vd rfl <| .lit rfl <| .done rfl)
    (show _ = enc36 0x7C000008 w vd va k la st from rfl) (by simp only [packs]; omega)
  rw [hd, decodeNat, hf 26 6 31 rfl]
  show decodeVfp num = _
  have hne : w.toNat ≠ 3 := ne_three h
  have h7 : fld num 0 7 = 8 + 32 * w.toNat := fld_cat (hf 0 5 8 rfl) (hf 5 2 _ rfl)
  have := w.isLt
  unfold decodeVfp
  split
  · exfalso; omega
  rw [if_neg (by rw [hf 5 2 _ rfl]; simpa using hne), hf 0 5 8 rfl]
  show form _ _ _ _ _ _ = _
  rw [bf_of hf 5 w rfl, bf_of hf 22 vd rfl, bf_of hf 18 va rfl, bf_of hf 11 k rfl, flag_of hf 10 la rfl, bf_of hf 7 st rfl]
  exact form_ok (zeros_at hf rfl) trivial trivial trivial

theorem RoundTrip.vfdiv (w : BitVec 2) (vd : VReg) (va : VReg) (vb : VReg) (k : KReg) (la : Bool) (lb : Bool) (st : BitVec 2) : RoundTrip.Statement (.vfdiv w vd va vb k la lb st) := by
  intro wd h he
  obtain ⟨num, hd, hf⟩ := word_of (l := [(0, 5, 9), (5, 2, w.toNat), (7, 2, st.toNat), (9, 1, lb.toNat), (10, 1, la.toNat), (11, 3, k.toNat), (14, 4, vb.toNat), (18, 4, va.toNat), (22, 4, vd.toNat), (26, 6, 31)]) he
    (.lit rfl <| .val w rfl <| .val st rfl <| .flag lb rfl <| .flag la rfl <| .val k rfl <| .val vb rfl <| .val va rfl <| .val vd rfl <| .lit rfl <| .done rfl)
    (show _ = enc35 0x7C000009 w vd va vb k la lb st from rfl) (by simp only [packs]; omega)
  rw [hd, decodeNat, hf 26 6 31 rfl]
  show decodeVfp num = _
  have hne : w.toNat ≠ 3 := ne_three (wf_head h)
  have h7 : fld num 0 7 = 9 + 32 * w.toNat := fld_cat (hf 0 5 9 rfl) (hf 5 2 _ rfl)
  have := w.isLt
  unfold decodeVfp
  split
  · exfalso; omega
  rw [if_neg (by rw [hf 5 2 _ rfl]; simpa using hne), hf 0 5 9 rfl]
  show form _ _ _ _ _ _ = _
  rw [bf_of hf 5 w rfl, bf_of hf 22 vd rfl, bf_of hf 18 va rfl, bf_of hf 14 vb rfl, bf_of hf 11 k rfl, flag_of hf 10 la rfl, flag_of hf 9 lb rfl, bf_of hf 7 st rfl]
  exact form_ok trivial trivial trivial (vparity_at hf rfl rfl (wf_tail h))

theorem RoundTrip.vfsqrt (vd : VReg) (va : VReg) (k : KReg) (la : Bool) (st : BitVec 2) : RoundTrip.Statement (.vfsqrt vd va k la st) := by
  intro wd h he
  obtain ⟨num, hd, hf⟩ := word_of (l := [(0, 7, 10), (7, 2, st.toNat), (9, 1, 0), (10, 1, la.toNat), (11, 3, k.toNat), (14, 4, 0), (18, 4, va.toNat), (22, 4, vd.toNat), (26, 6, 31)]) he
    (.lit rfl <| .val st rfl <| .lit rfl <| .flag la rfl <| .val k rfl <| .lit rfl <| .val va rfl <| .val vd rfl <| .lit rfl <| .done rfl)
    (show _ = enc38 0x7C00000A vd va k la st from rfl) (by simp only [packs]; omega)
  rw [hd, decodeNat, hf 26 6 31 rfl]
  show decodeVfp num = _
  rw [decodeVfp, hf 0 7 10 rfl]
  show form _ _ _ _ _ _ = _
  rw [bf_of hf 22 vd rfl, bf_of hf 18 va rfl, bf_of hf 11 k rfl, flag_of hf 10 la rfl, bf_of hf 7 st rfl]
  exact form_ok (zeros_at hf rfl) trivial trivial trivial

theorem RoundTrip.vcvtf32f16 (hi : Bool) (vd : VReg) (va : VReg) (k : KReg) (la : Bool) (st : BitVec 2) : RoundTrip.Statement (.vcvtf32f16 hi vd va k la st) := by
  intro wd h he
  obtain ⟨num, hd, hf⟩ := word_of (l := [(0, 6, 0), (6, 1, hi.toNat), (7, 2, st.toNat), (9, 1, 0), (10, 1, la.toNat), (11, 3, k.toNat), (14, 4, 0), (18, 4, va.toNat), (22, 4, vd.toNat), (26, 6, 32)]) he
    (.lit rfl <| .flag hi rfl <| .val st rfl <| .lit rfl <| .flag la rfl <| .val k rfl <| .lit rfl <| .val va rfl <| .val vd rfl <| .lit rfl <| .done rfl)
    (show _ = enc39 0x80000000 hi vd va k la st from rfl) (by simp only [packs]; omega)
  rw [hd, decodeNat, hf 26 6 32 rfl]
  show decodeVcvt num = _
  have h7 : fld num 0 7 = 0 + 64 * hi.toNat := fld_cat (hf 0 6 0 rfl) (hf 6 1 _ rfl)
  have := Bool.toNat_lt hi
  unfold decodeVcvt
  split
  · exfalso; omega
  · exfalso; omega
  rw [hf 0 6 0 rfl]
  show form _ _ _ _ _ _ = _
  rw [flag_of hf 6 hi rfl, bf_of hf 22 vd rfl, bf_of hf 18 va rfl, bf_of hf 11 k rfl, flag_of hf 10 la rfl, bf_of hf 7 st rfl]
  exact form_ok (zeros_at hf rfl) trivial trivial trivial

theorem RoundTrip.vcvtf16f32 (hi : Bool) (vd : VReg) (va : VReg) (k : KReg) (la : Bool) (st : BitVec 2) : RoundTrip.Statement (.vcvtf16f32 hi vd va k la st) := by
  intro wd h he
  obtain ⟨num, hd, hf⟩ := word_of (l := [(0, 6, 1), (6, 1, hi.toNat), (7, 2, st.toNat), (9, 1, 0), (10, 1, la.toNat), (11, 3, k.toNat), (14, 4, 0), (18, 4, va.toNat), (22, 4, vd.toNat), (26, 6, 32)]) he
    (.lit rfl <| .flag hi rfl <| .val st rfl <| .lit rfl <| .flag la rfl <| .val k rfl <| .lit rfl <| .val va rfl <| .val vd rfl <| .lit rfl <| .done rfl)
    (show _ = enc39 0x80000001 hi vd va k la st from rfl) (by simp only [packs]; omega)
  rw [hd, decodeNat, hf 26 6 32 rfl]
  show decodeVcvt num = _
  have h7 : fld num 0 7 = 1 + 64 * hi.toNat := fld_cat (hf 0 6 1 rfl) (hf 6 1 _ rfl)
  have := Bool.toNat_lt hi
  unfold decodeVcvt
  split
  · exfalso; omega
  · exfalso; omega
  rw [hf 0 6 1 rfl]
  show form _ _ _ _ _ _ = _
  rw [flag_of hf 6 hi rfl, bf_of hf 22 vd rfl, bf_of hf 18 va rfl, bf_of hf 11 k rfl, flag_of hf 10 la rfl, bf_of hf 7 st rfl]
  exact form_ok (zeros_at hf rfl) trivial trivial trivial

theorem RoundTrip.vcvtf32bf (hi : Bool) (vd : VReg) (va : VReg) (k : KReg) (la : Bool) (st : BitVec 2) : RoundTrip.Statement (.vcvtf32bf hi vd va k la st) := by
  intro wd h he
  obtain ⟨num, hd, hf⟩ := word_of (l := [(0, 6, 2), (6, 1, hi.toNat), (7, 2, st.toNat), (9, 1, 0), (10, 1, la.toNat), (11, 3, k.toNat), (14, 4, 0), (18, 4, va.toNat), (22, 4, vd.toNat), (26, 6, 32)]) he
    (.lit rfl <| .flag hi rfl <| .val st rfl <| .lit rfl <| .flag la rfl <| .val k rfl <| .lit rfl <| .val va rfl <| .val vd rfl <| .lit rfl <| .done rfl)
    (show _ = enc39 0x80000002 hi vd va k la st from rfl) (by simp only [packs]; omega)
  rw [hd, decodeNat, hf 26 6 32 rfl]
  show decodeVcvt num = _
  have h7 : fld num 0 7 = 2 + 64 * hi.toNat := fld_cat (hf 0 6 2 rfl) (hf 6 1 _ rfl)
  have := Bool.toNat_lt hi
  unfold decodeVcvt
  split
  · exfalso; omega
  · exfalso; omega
  rw [hf 0 6 2 rfl]
  show form _ _ _ _ _ _ = _
  rw [flag_of hf 6 hi rfl, bf_of hf 22 vd rfl, bf_of hf 18 va rfl, bf_of hf 11 k rfl, flag_of hf 10 la rfl, bf_of hf 7 st rfl]
  exact form_ok (zeros_at hf rfl) trivial trivial trivial

theorem RoundTrip.vcvtbff32 (hi : Bool) (vd : VReg) (va : VReg) (k : KReg) (la : Bool) (st : BitVec 2) : RoundTrip.Statement (.vcvtbff32 hi vd va k la st) := by
  intro wd h he
  obtain ⟨num, hd, hf⟩ := word_of (l := [(0, 6, 3), (6, 1, hi.toNat), (7, 2, st.toNat), (9, 1, 0), (10, 1, la.toNat), (11, 3, k.toNat), (14, 4, 0), (18, 4, va.toNat), (22, 4, vd.toNat), (26, 6, 32)]) he
    (.lit rfl <| .flag hi rfl <| .val st rfl <| .lit rfl <| .flag la rfl <| .val k rfl <| .lit rfl <| .val va rfl <| .val vd rfl <| .lit rfl <| .done rfl)
    (show _ = enc39 0x80000003 hi vd va k la st from rfl) (by simp only [packs]; omega)
  rw [hd, decodeNat, hf 26 6 32 rfl]
  show decodeVcvt num = _
  have h7 : fld num 0 7 = 3 + 64 * hi.toNat := fld_cat (hf 0 6 3 rfl) (hf 6 1 _ rfl)
  have := Bool.toNat_lt hi
  unfold decodeVcvt
  split
  · exfalso; omega
  · exfalso; omega
  rw [hf 0 6 3 rfl]
  show form _ _ _ _ _ _ = _
  rw [flag_of hf 6 hi rfl, bf_of hf 22 vd rfl, bf_of hf 18 va rfl, bf_of hf 11 k rfl, flag_of hf 10 la rfl, bf_of hf 7 st rfl]
  exact form_ok (zeros_at hf rfl) trivial trivial trivial

theorem RoundTrip.vcvtf32f8a (hi : Bool) (vd : VReg) (va : VReg) (k : KReg) (la : Bool) (st : BitVec 2) : RoundTrip.Statement (.vcvtf32f8a hi vd va k la st) := by
  intro wd h he
  obtain ⟨num, hd, hf⟩ := word_of (l := [(0, 6, 4), (6, 1, hi.toNat), (7, 2, st.toNat), (9, 1, 0), (10, 1, la.toNat), (11, 3, k.toNat), (14, 4, 0), (18, 4, va.toNat), (22, 4, vd.toNat), (26, 6, 32)]) he
    (.lit rfl <| .flag hi rfl <| .val st rfl <| .lit rfl <| .flag la rfl <| .val k rfl <| .lit rfl <| .val va rfl <| .val vd rfl <| .lit rfl <| .done rfl)
    (show _ = enc39 0x80000004 hi vd va k la st from rfl) (by simp only [packs]; omega)
  rw [hd, decodeNat, hf 26 6 32 rfl]
  show decodeVcvt num = _
  have h7 : fld num 0 7 = 4 + 64 * hi.toNat := fld_cat (hf 0 6 4 rfl) (hf 6 1 _ rfl)
  have := Bool.toNat_lt hi
  unfold decodeVcvt
  split
  · exfalso; omega
  · exfalso; omega
  rw [hf 0 6 4 rfl]
  show form _ _ _ _ _ _ = _
  rw [flag_of hf 6 hi rfl, bf_of hf 22 vd rfl, bf_of hf 18 va rfl, bf_of hf 11 k rfl, flag_of hf 10 la rfl, bf_of hf 7 st rfl]
  exact form_ok (zeros_at hf rfl) trivial trivial trivial

theorem RoundTrip.vcvtf8af32 (hi : Bool) (vd : VReg) (va : VReg) (k : KReg) (la : Bool) (st : BitVec 2) : RoundTrip.Statement (.vcvtf8af32 hi vd va k la st) := by
  intro wd h he
  obtain ⟨num, hd, hf⟩ := word_of (l := [(0, 6, 5), (6, 1, hi.toNat), (7, 2, st.toNat), (9, 1, 0), (10, 1, la.toNat), (11, 3, k.toNat), (14, 4, 0), (18, 4, va.toNat), (22, 4, vd.toNat), (26, 6, 32)]) he
    (.lit rfl <| .flag hi rfl <| .val st rfl <| .lit rfl <| .flag la rfl <| .val k rfl <| .lit rfl <| .val va rfl <| .val vd rfl <| .lit rfl <| .done rfl)
    (show _ = enc39 0x80000005 hi vd va k la st from rfl) (by simp only [packs]; omega)
  rw [hd, decodeNat, hf 26 6 32 rfl]
  show decodeVcvt num = _
  have h7 : fld num 0 7 = 5 + 64 * hi.toNat := fld_cat (hf 0 6 5 rfl) (hf 6 1 _ rfl)
  have := Bool.toNat_lt hi
  unfold decodeVcvt
  split
  · exfalso; omega
  · exfalso; omega
  rw [hf 0 6 5 rfl]
  show form _ _ _ _ _ _ = _
  rw [flag_of hf 6 hi rfl, bf_of hf 22 vd rfl, bf_of hf 18 va rfl, bf_of hf 11 k rfl, flag_of hf 10 la rfl, bf_of hf 7 st rfl]
  exact form_ok (zeros_at hf rfl) trivial trivial trivial

theorem RoundTrip.vcvtf32f8b (hi : Bool) (vd : VReg) (va : VReg) (k : KReg) (la : Bool) (st : BitVec 2) : RoundTrip.Statement (.vcvtf32f8b hi vd va k la st) := by
  intro wd h he
  obtain ⟨num, hd, hf⟩ := word_of (l := [(0, 6, 6), (6, 1, hi.toNat), (7, 2, st.toNat), (9, 1, 0), (10, 1, la.toNat), (11, 3, k.toNat), (14, 4, 0), (18, 4, va.toNat), (22, 4, vd.toNat), (26, 6, 32)]) he
    (.lit rfl <| .flag hi rfl <| .val st rfl <| .lit rfl <| .flag la rfl <| .val k rfl <| .lit rfl <| .val va rfl <| .val vd rfl <| .lit rfl <| .done rfl)
    (show _ = enc39 0x80000006 hi vd va k la st from rfl) (by simp only [packs]; omega)
  rw [hd, decodeNat, hf 26 6 32 rfl]
  show decodeVcvt num = _
  have h7 : fld num 0 7 = 6 + 64 * hi.toNat := fld_cat (hf 0 6 6 rfl) (hf 6 1 _ rfl)
  have := Bool.toNat_lt hi
  unfold decodeVcvt
  split
  · exfalso; omega
  · exfalso; omega
  rw [hf 0 6 6 rfl]
  show form _ _ _ _ _ _ = _
  rw [flag_of hf 6 hi rfl, bf_of hf 22 vd rfl, bf_of hf 18 va rfl, bf_of hf 11 k rfl, flag_of hf 10 la rfl, bf_of hf 7 st rfl]
  exact form_ok (zeros_at hf rfl) trivial trivial trivial

theorem RoundTrip.vcvtf8bf32 (hi : Bool) (vd : VReg) (va : VReg) (k : KReg) (la : Bool) (st : BitVec 2) : RoundTrip.Statement (.vcvtf8bf32 hi vd va k la st) := by
  intro wd h he
  obtain ⟨num, hd, hf⟩ := word_of (l := [(0, 6, 7), (6, 1, hi.toNat), (7, 2, st.toNat), (9, 1, 0), (10, 1, la.toNat), (11, 3, k.toNat), (14, 4, 0), (18, 4, va.toNat), (22, 4, vd.toNat), (26, 6, 32)]) he
    (.lit rfl <| .flag hi rfl <| .val st rfl <| .lit rfl <| .flag la rfl <| .val k rfl <| .lit rfl <| .val va rfl <| .val vd rfl <| .lit rfl <| .done rfl)
    (show _ = enc39 0x80000007 hi vd va k la st from rfl) (by simp only [packs]; omega)
  rw [hd, decodeNat, hf 26 6 32 rfl]
  show decodeVcvt num = _
  have h7 : fld num 0 7 = 7 + 64 * hi.toNat := fld_cat (hf 0 6 7 rfl) (hf 6 1 _ rfl)
  have := Bool.toNat_lt hi
  unfold decodeVcvt
  split
  · exfalso; omega
  · exfalso; omega
  rw [hf 0 6 7 rfl]
  show form _ _ _ _ _ _ = _
  rw [flag_of hf 6 hi rfl, bf_of hf 22 vd rfl, bf_of hf 18 va rfl, bf_of hf 11 k rfl, flag_of hf 10 la rfl, bf_of hf 7 st rfl]
  exact form_ok (zeros_at hf rfl) trivial trivial trivial

theorem RoundTrip.vcvtf32i32 (vd : VReg) (va : VReg) (k : KReg) (la : Bool) (st : BitVec 2) : RoundTrip.Statement (.vcvtf32i32 vd va k la st) := by
  intro wd h he
  obtain ⟨num, hd, hf⟩ := word_of (l := [(0, 7, 8), (7, 2, st.toNat), (9, 1, 0), (10, 1, la.toNat), (11, 3, k.toNat), (14, 4, 0), (18, 4, va.toNat), (22, 4, vd.toNat), (26, 6, 32)]) he
    (.lit rfl <| .val st rfl <| .lit rfl <| .flag la rfl <| .val k rfl <| .lit rfl <| .val va rfl <| .val vd rfl <| .lit rfl <| .done rfl)
    (show _ = enc38 0x80000008 vd va k la st from rfl) (by simp only [packs]; omega)
  rw [hd, decodeNat, hf 26 6 32 rfl]
  show decodeVcvt num = _
  rw [decodeVcvt, hf 0 7 8 rfl]
  show form _ _ _ _ _ _ = _
  rw [bf_of hf 22 vd rfl, bf_of hf 18 va rfl, bf_of hf 11 k rfl, flag_of hf 10 la rfl, bf_of hf 7 st rfl]
  exact form_ok (zeros_at hf rfl) trivial trivial trivial

theorem RoundTrip.vcvti32f32 (vd : VReg) (va : VReg) (k : KReg) (la : Bool) (st : BitVec 2) : RoundTrip.Statement (.vcvti32f32 vd va k la st) := by
  intro wd h he
  obtain ⟨num, hd, hf⟩ := word_of (l := [(0, 7, 9), (7, 2, st.toNat), (9, 1, 0), (10, 1, la.toNat), (11, 3, k.toNat), (14, 4, 0), (18, 4, va.toNat), (22, 4, vd.toNat), (26, 6, 32)]) he
    (.lit rfl <| .val st rfl <| .lit rfl <| .flag la rfl <| .val k rfl <| .lit rfl <| .val va rfl <| .val vd rfl <| .lit rfl <| .done rfl)
    (show _ = enc38 0x80000009 vd va k la st from rfl) (by simp only [packs]; omega)
  rw [hd, decodeNat, hf 26 6 32 rfl]
  show decodeVcvt num = _
  rw [decodeVcvt, hf 0 7 9 rfl]
  show form _ _ _ _ _ _ = _
  rw [bf_of hf 22 vd rfl, bf_of hf 18 va rfl, bf_of hf 11 k rfl, flag_of hf 10 la rfl, bf_of hf 7 st rfl]
  exact form_ok (zeros_at hf rfl) trivial trivial trivial

theorem RoundTrip.vcvti32i16 (hi : Bool) (vd : VReg) (va : VReg) (k : KReg) (la : Bool) (st : BitVec 2) : RoundTrip.Statement (.vcvti32i16 hi vd va k la st) := by
  intro wd h he
  obtain ⟨num, hd, hf⟩ := word_of (l := [(0, 6, 10), (6, 1, hi.toNat), (7, 2, st.toNat), (9, 1, 0), (10, 1, la.toNat), (11, 3, k.toNat), (14, 4, 0), (18, 4, va.toNat), (22, 4, vd.toNat), (26, 6, 32)]) he
    (.lit rfl <| .flag hi rfl <| .val st rfl <| .lit rfl <| .flag la rfl <| .val k rfl <| .lit rfl <| .val va rfl <| .val vd rfl <| .lit rfl <| .done rfl)
    (show _ = enc39 0x8000000A hi vd va k la st from rfl) (by simp only [packs]; omega)
  rw [hd, decodeNat, hf 26 6 32 rfl]
  show decodeVcvt num = _
  have h7 : fld num 0 7 = 10 + 64 * hi.toNat := fld_cat (hf 0 6 10 rfl) (hf 6 1 _ rfl)
  have := Bool.toNat_lt hi
  unfold decodeVcvt
  split
  · exfalso; omega
  · exfalso; omega
  rw [hf 0 6 10 rfl]
  show form _ _ _ _ _ _ = _
  rw [flag_of hf 6 hi rfl, bf_of hf 22 vd rfl, bf_of hf 18 va rfl, bf_of hf 11 k rfl, flag_of hf 10 la rfl, bf_of hf 7 st rfl]
  exact form_ok (zeros_at hf rfl) trivial trivial trivial

theorem RoundTrip.vcvti32i8 (hi : Bool) (vd : VReg) (va : VReg) (k : KReg) (la : Bool) (st : BitVec 2) : RoundTrip.Statement (.vcvti32i8 hi vd va k la st) := by
  intro wd h he
  obtain ⟨num, hd, hf⟩ := word_of (l := [(0, 6, 11), (6, 1, hi.toNat), (7, 2, st.toNat), (9, 1, 0), (10, 1, la.toNat), (11, 3, k.toNat), (14, 4, 0), (18, 4, va.toNat), (22, 4, vd.toNat), (26, 6, 32)]) he
    (.lit rfl <| .flag hi rfl <| .val st rfl <| .lit rfl <| .flag la rfl <| .val k rfl <| .lit rfl <| .val va rfl <| .val vd rfl <| .lit rfl <| .done rfl)
    (show _ = enc39 0x8000000B hi vd va k la st from rfl) (by simp only [packs]; omega)
  rw [hd, decodeNat, hf 26 6 32 rfl]
  show decodeVcvt num = _
  have h7 : fld num 0 7 = 11 + 64 * hi.toNat := fld_cat (hf 0 6 11 rfl) (hf 6 1 _ rfl)
  have := Bool.toNat_lt hi
  unfold decodeVcvt
  split
  · exfalso; omega
  · exfalso; omega
  rw [hf 0 6 11 rfl]
  show form _ _ _ _ _ _ = _
  rw [flag_of hf 6 hi rfl, bf_of hf 22 vd rfl, bf_of hf 18 va rfl, bf_of hf 11 k rfl, flag_of hf 10 la rfl, bf_of hf 7 st rfl]
  exact form_ok (zeros_at hf rfl) trivial trivial trivial

theorem RoundTrip.vcvti8i32 (hi : Bool) (vd : VReg) (va : VReg) (k : KReg) (la : Bool) (st : BitVec 2) : RoundTrip.Statement (.vcvti8i32 hi vd va k la st) := by
  intro wd h he
  obtain ⟨num, hd, hf⟩ := word_of (l := [(0, 6, 12), (6, 1, hi.toNat), (7, 2, st.toNat), (9, 1, 0), (10, 1, la.toNat), (11, 3, k.toNat), (14, 4, 0), (18, 4, va.toNat), (22, 4, vd.toNat), (26, 6, 32)]) he
    (.lit rfl <| .flag hi rfl <| .val st rfl <| .lit rfl <| .flag la rfl <| .val k rfl <| .lit rfl <| .val va rfl <| .val vd rfl <| .lit rfl <| .done rfl)
    (show _ = enc39 0x8000000C hi vd va k la st from rfl) (by simp only [packs]; omega)
  rw [hd, decodeNat, hf 26 6 32 rfl]
  show decodeVcvt num = _
  have h7 : fld num 0 7 = 12 + 64 * hi.toNat := fld_cat (hf 0 6 12 rfl) (hf 6 1 _ rfl)
  have := Bool.toNat_lt hi
  unfold decodeVcvt
  split
  · exfalso; omega
  · exfalso; omega
  rw [hf 0 6 12 rfl]
  show form _ _ _ _ _ _ = _
  rw [flag_of hf 6 hi rfl, bf_of hf 22 vd rfl, bf_of hf 18 va rfl, bf_of hf 11 k rfl, flag_of hf 10 la rfl, bf_of hf 7 st rfl]
  exact form_ok (zeros_at hf rfl) trivial trivial trivial

theorem RoundTrip.vbcast (v : VReg) (g : GReg) : RoundTrip.Statement (.vbcast v g) := by
  intro wd h he
  obtain ⟨num, hd, hf⟩ := word_of (l := [(0, 7, 0), (7, 6, 0), (13, 4, 0), (17, 5, g.toNat), (22, 4, v.toNat), (26, 6, 33)]) he
    (.lit rfl <| .lit rfl <| .lit rfl <| .val g rfl <| .val v rfl <| .lit rfl <| .done rfl)
    (show _ = enc40 0x84000000 v g from rfl) (by simp only [packs]; omega)
  rw [hd, decodeNat, hf 26 6 33 rfl]
  show decodeVperm num = _
  rw [decodeVperm, hf 0 7 0 rfl]
  show form _ _ _ _ _ _ = _
  rw [bf_of hf 22 v rfl, bf_of hf 17 g rfl]
  exact form_ok (zeros_at hf rfl) trivial trivial trivial

theorem RoundTrip.vins (v : VReg) (g : GReg) (n : BitVec 6) : RoundTrip.Statement (.vins v g n) := by
  intro wd h he
  obtain ⟨num, hd, hf⟩ := word_of (l := [(0, 7, 1), (7, 6, n.toNat), (13, 4, 0), (17, 5, g.toNat), (22, 4, v.toNat), (26, 6, 33)]) he
    (.lit rfl <| .val n rfl <| .lit rfl <| .val g rfl <| .val v rfl <| .lit rfl <| .done rfl)
    (show _ = enc41 0x84000001 v g n from rfl) (by simp only [packs]; omega)
  rw [hd, decodeNat, hf 26 6 33 rfl]
  show decodeVperm num = _
  rw [decodeVperm, hf 0 7 1 rfl]
  show form _ _ _ _ _ _ = _
  rw [bf_of hf 22 v rfl, bf_of hf 17 g rfl, bf_of hf 7 n rfl]
  exact form_ok (zeros_at hf rfl) ⟨bad_gt hf rfl (of_decide_eq_true h), trivial⟩ trivial trivial

theorem RoundTrip.vext (g : GReg) (vb : VReg) (n : BitVec 6) : RoundTrip.Statement (.vext g vb n) := by
  intro wd h he
  obtain ⟨num, hd, hf⟩ := word_of (l := [(0, 7, 2), (7, 6, n.toNat), (13, 4, vb.toNat), (17, 5, g.toNat), (22, 4, 0), (26, 6, 33)]) he
    (.lit rfl <| .val n rfl <| .val vb rfl <| .val g rfl <| .lit rfl <| .lit rfl <| .done rfl)
    (show _ = enc42 0x84000002 g vb n from rfl) (by simp only [packs]; omega)
  rw [hd, decodeNat, hf 26 6 33 rfl]
  show decodeVperm num = _
  rw [decodeVperm, hf 0 7 2 rfl]
  show form _ _ _ _ _ _ = _
  rw [bf_of hf 17 g rfl, bf_of hf 13 vb rfl, bf_of hf 7 n rfl]
  exact form_ok (zeros_at hf rfl) ⟨bad_gt hf rfl (of_decide_eq_true h), trivial⟩ trivial trivial

theorem RoundTrip.vshuf (v : VReg) (vb : VReg) : RoundTrip.Statement (.vshuf v vb) := by
  intro wd h he
  obtain ⟨num, hd, hf⟩ := word_of (l := [(0, 7, 3), (7, 6, 0), (13, 4, vb.toNat), (17, 5, 0), (22, 4, v.toNat), (26, 6, 33)]) he
    (.lit rfl <| .lit rfl <| .val vb rfl <| .lit rfl <| .val v rfl <| .lit rfl <| .done rfl)
    (show _ = enc43 0x84000003 v vb from rfl) (by simp only [packs]; omega)
  rw [hd, decodeNat, hf 26 6 33 rfl]
  show decodeVperm num = _
  rw [decodeVperm, hf 0 7 3 rfl]
  show form _ _ _ _ _ _ = _
  rw [bf_of hf 22 v rfl, bf_of hf 13 vb rfl]
  exact form_ok (zeros_at hf rfl) trivial trivial trivial

theorem RoundTrip.vrot (v : VReg) (vb : VReg) (n : BitVec 6) : RoundTrip.Statement (.vrot v vb n) := by
  intro wd h he
  obtain ⟨num, hd, hf⟩ := word_of (l := [(0, 7, 4), (7, 6, n.toNat), (13, 4, vb.toNat), (17, 5, 0), (22, 4, v.toNat), (26, 6, 33)]) he
    (.lit rfl <| .val n rfl <| .val vb rfl <| .lit rfl <| .val v rfl <| .lit rfl <| .done rfl)
    (show _ = enc44 0x84000004 v vb n from rfl) (by simp only [packs]; omega)
  rw [hd, decodeNat, hf 26 6 33 rfl]
  show decodeVperm num = _
  rw [decodeVperm, hf 0 7 4 rfl]
  show form _ _ _ _ _ _ = _
  rw [bf_of hf 22 v rfl, bf_of hf 13 vb rfl, bf_of hf 7 n rfl]
  exact form_ok (zeros_at hf rfl) ⟨bad_gt hf rfl (of_decide_eq_true h), trivial⟩ trivial trivial

theorem RoundTrip.vredadd (g : GReg) (vb : VReg) : RoundTrip.Statement (.vredadd g vb) := by
  intro wd h he
  obtain ⟨num, hd, hf⟩ := word_of (l := [(0, 7, 5), (7, 6, 0), (13, 4, vb.toNat), (17, 5, g.toNat), (22, 4, 0), (26, 6, 33)]) he
    (.lit rfl <| .lit rfl <| .val vb rfl <| .val g rfl <| .lit rfl <| .lit rfl <| .done rfl)
    (show _ = enc45 0x84000005 g vb from rfl) (by simp only [packs]; omega)
  rw [hd, decodeNat, hf 26 6 33 rfl]
  show decodeVperm num = _
  rw [decodeVperm, hf 0 7 5 rfl]
  show form _ _ _ _ _ _ = _
  rw [bf_of hf 17 g rfl, bf_of hf 13 vb rfl]
  exact form_ok (zeros_at hf rfl) trivial trivial trivial

theorem RoundTrip.vredfadd (g : GReg) (vb : VReg) : RoundTrip.Statement (.vredfadd g vb) := by
  intro wd h he
  obtain ⟨num, hd, hf⟩ := word_of (l := [(0, 7, 6), (7, 6, 0), (13, 4, vb.toNat), (17, 5, g.toNat), (22, 4, 0), (26, 6, 33)]) he
    (.lit rfl <| .lit rfl <| .val vb rfl <| .val g rfl <| .lit rfl <| .lit rfl <| .done rfl)
    (show _ = enc45 0x84000006 g vb from rfl) (by simp only [packs]; omega)
  rw [hd, decodeNat, hf 26 6 33 rfl]
  show decodeVperm num = _
  rw [decodeVperm, hf 0 7 6 rfl]
  show form _ _ _ _ _ _ = _
  rw [bf_of hf 17 g rfl, bf_of hf 13 vb rfl]
  exact form_ok (zeros_at hf rfl) trivial trivial trivial

theorem RoundTrip.vredmax (g : GReg) (vb : VReg) : RoundTrip.Statement (.vredmax g vb) := by
  intro wd h he
  obtain ⟨num, hd, hf⟩ := word_of (l := [(0, 7, 7), (7, 6, 0), (13, 4, vb.toNat), (17, 5, g.toNat), (22, 4, 0), (26, 6, 33)]) he
    (.lit rfl <| .lit rfl <| .val vb rfl <| .val g rfl <| .lit rfl <| .lit rfl <| .done rfl)
    (show _ = enc45 0x84000007 g vb from rfl) (by simp only [packs]; omega)
  rw [hd, decodeNat, hf 26 6 33 rfl]
  show decodeVperm num = _
  rw [decodeVperm, hf 0 7 7 rfl]
  show form _ _ _ _ _ _ = _
  rw [bf_of hf 17 g rfl, bf_of hf 13 vb rfl]
  exact form_ok (zeros_at hf rfl) trivial trivial trivial

theorem RoundTrip.vredmin (g : GReg) (vb : VReg) : RoundTrip.Statement (.vredmin g vb) := by
  intro wd h he
  obtain ⟨num, hd, hf⟩ := word_of (l := [(0, 7, 8), (7, 6, 0), (13, 4, vb.toNat), (17, 5, g.toNat), (22, 4, 0), (26, 6, 33)]) he
    (.lit rfl <| .lit rfl <| .val vb rfl <| .val g rfl <| .lit rfl <| .lit rfl <| .done rfl)
    (show _ = enc45 0x84000008 g vb from rfl) (by simp only [packs]; omega)
  rw [hd, decodeNat, hf 26 6 33 rfl]
  show decodeVperm num = _
  rw [decodeVperm, hf 0 7 8 rfl]
  show form _ _ _ _ _ _ = _
  rw [bf_of hf 17 g rfl, bf_of hf 13 vb rfl]
  exact form_ok (zeros_at hf rfl) trivial trivial trivial

theorem RoundTrip.vscan (v : VReg) (vb : VReg) : RoundTrip.Statement (.vscan v vb) := by
  intro wd h he
  obtain ⟨num, hd, hf⟩ := word_of (l := [(0, 7, 9), (7, 6, 0), (13, 4, vb.toNat), (17, 5, 0), (22, 4, v.toNat), (26, 6, 33)]) he
    (.lit rfl <| .lit rfl <| .val vb rfl <| .lit rfl <| .val v rfl <| .lit rfl <| .done rfl)
    (show _ = enc43 0x84000009 v vb from rfl) (by simp only [packs]; omega)
  rw [hd, decodeNat, hf 26 6 33 rfl]
  show decodeVperm num = _
  rw [decodeVperm, hf 0 7 9 rfl]
  show form _ _ _ _ _ _ = _
  rw [bf_of hf 22 v rfl, bf_of hf 13 vb rfl]
  exact form_ok (zeros_at hf rfl) trivial trivial trivial

theorem RoundTrip.vpopk (g : GReg) (kn : BitVec 6) : RoundTrip.Statement (.vpopk g kn) := by
  intro wd h he
  obtain ⟨num, hd, hf⟩ := word_of (l := [(0, 7, 10), (7, 6, kn.toNat), (13, 4, 0), (17, 5, g.toNat), (22, 4, 0), (26, 6, 33)]) he
    (.lit rfl <| .val kn rfl <| .lit rfl <| .val g rfl <| .lit rfl <| .lit rfl <| .done rfl)
    (show _ = enc46 0x8400000A g kn from rfl) (by simp only [packs]; omega)
  rw [hd, decodeNat, hf 26 6 33 rfl]
  show decodeVperm num = _
  rw [decodeVperm, hf 0 7 10 rfl]
  show form _ _ _ _ _ _ = _
  rw [bf_of hf 17 g rfl, bf_of hf 7 kn rfl]
  exact form_ok (zeros_at hf rfl) ⟨bad_gt hf rfl (of_decide_eq_true h), trivial⟩ trivial trivial

theorem RoundTrip.vmovk (kn : BitVec 6) (g : GReg) : RoundTrip.Statement (.vmovk kn g) := by
  intro wd h he
  obtain ⟨num, hd, hf⟩ := word_of (l := [(0, 7, 11), (7, 6, kn.toNat), (13, 4, 0), (17, 5, g.toNat), (22, 4, 0), (26, 6, 33)]) he
    (.lit rfl <| .val kn rfl <| .lit rfl <| .val g rfl <| .lit rfl <| .lit rfl <| .done rfl)
    (show _ = enc47 0x8400000B kn g from rfl) (by simp only [packs]; omega)
  rw [hd, decodeNat, hf 26 6 33 rfl]
  show decodeVperm num = _
  rw [decodeVperm, hf 0 7 11 rfl]
  show form _ _ _ _ _ _ = _
  rw [bf_of hf 7 kn rfl, bf_of hf 17 g rfl]
  exact form_ok (zeros_at hf rfl) ⟨bad_k hf rfl (of_decide_eq_true (wf_head h)) (wf_tail h), trivial⟩ trivial trivial

theorem RoundTrip.vkmov (g : GReg) (kn : BitVec 6) : RoundTrip.Statement (.vkmov g kn) := by
  intro wd h he
  obtain ⟨num, hd, hf⟩ := word_of (l := [(0, 7, 12), (7, 6, kn.toNat), (13, 4, 0), (17, 5, g.toNat), (22, 4, 0), (26, 6, 33)]) he
    (.lit rfl <| .val kn rfl <| .lit rfl <| .val g rfl <| .lit rfl <| .lit rfl <| .done rfl)
    (show _ = enc46 0x8400000C g kn from rfl) (by simp only [packs]; omega)
  rw [hd, decodeNat, hf 26 6 33 rfl]
  show decodeVperm num = _
  rw [decodeVperm, hf 0 7 12 rfl]
  show form _ _ _ _ _ _ = _
  rw [bf_of hf 17 g rfl, bf_of hf 7 kn rfl]
  exact form_ok (zeros_at hf rfl) ⟨bad_gt hf rfl (of_decide_eq_true h), trivial⟩ trivial trivial

theorem RoundTrip.vcmpeq (ty : BitVec 2) (kd : KReg) (va : VReg) (vb : VReg) (k : KReg) (la : Bool) (lb : Bool) (st : BitVec 2) : RoundTrip.Statement (.vcmpeq ty kd va vb k la lb st) := by
  intro wd h he
  obtain ⟨num, hd, hf⟩ := word_of (l := [(0, 5, 0), (5, 2, ty.toNat), (7, 2, st.toNat), (9, 1, lb.toNat), (10, 1, la.toNat), (11, 3, k.toNat), (14, 4, vb.toNat), (18, 4, va.toNat), (22, 3, kd.toNat), (25, 1, 0), (26, 6, 34)]) he
    (.lit rfl <| .val ty rfl <| .val st rfl <| .flag lb rfl <| .flag la rfl <| .val k rfl <| .val vb rfl <| .val va rfl <| .val kd rfl <| .lit rfl <| .lit rfl <| .done rfl)
    (show _ = enc48 0x88000000 ty kd va vb k la lb st from rfl) (by simp only [packs]; omega)
  rw [hd, decodeNat, hf 26 6 34 rfl]
  show decodeVcmp num = _
  have hne : ty.toNat ≠ 3 := ne_three (wf_head h)
  have h7 : fld num 0 7 = 0 + 32 * ty.toNat := fld_cat (hf 0 5 0 rfl) (hf 5 2 _ rfl)
  have := ty.isLt
  unfold decodeVcmp
  split
  · exfalso; omega
  rw [if_neg (by rw [hf 5 2 _ rfl]; simpa using hne), hf 0 5 0 rfl]
  show form _ _ _ _ _ _ = _
  rw [bf_of hf 5 ty rfl, bf_of hf 22 kd rfl, bf_of hf 18 va rfl, bf_of hf 14 vb rfl, bf_of hf 11 k rfl, flag_of hf 10 la rfl, flag_of hf 9 lb rfl, bf_of hf 7 st rfl]
  exact form_ok (zeros_at hf rfl) trivial trivial (vparity_at hf rfl rfl (wf_tail h))

theorem RoundTrip.vcmpne (ty : BitVec 2) (kd : KReg) (va : VReg) (vb : VReg) (k : KReg) (la : Bool) (lb : Bool) (st : BitVec 2) : RoundTrip.Statement (.vcmpne ty kd va vb k la lb st) := by
  intro wd h he
  obtain ⟨num, hd, hf⟩ := word_of (l := [(0, 5, 1), (5, 2, ty.toNat), (7, 2, st.toNat), (9, 1, lb.toNat), (10, 1, la.toNat), (11, 3, k.toNat), (14, 4, vb.toNat), (18, 4, va.toNat), (22, 3, kd.toNat), (25, 1, 0), (26, 6, 34)]) he
    (.lit rfl <| .val ty rfl <| .val st rfl <| .flag lb rfl <| .flag la rfl <| .val k rfl <| .val vb rfl <| .val va rfl <| .val kd rfl <| .lit rfl <| .lit rfl <| .done rfl)
    (show _ = enc48 0x88000001 ty kd va vb k la lb st from rfl) (by simp only [packs]; omega)
  rw [hd, decodeNat, hf 26 6 34 rfl]
  show decodeVcmp num = _
  have hne : ty.toNat ≠ 3 := ne_three (wf_head h)
  have h7 : fld num 0 7 = 1 + 32 * ty.toNat := fld_cat (hf 0 5 1 rfl) (hf 5 2 _ rfl)
  have := ty.isLt
  unfold decodeVcmp
  split
  · exfalso; omega
  rw [if_neg (by rw [hf 5 2 _ rfl]; simpa using hne), hf 0 5 1 rfl]
  show form _ _ _ _ _ _ = _
  rw [bf_of hf 5 ty rfl, bf_of hf 22 kd rfl, bf_of hf 18 va rfl, bf_of hf 14 vb rfl, bf_of hf 11 k rfl, flag_of hf 10 la rfl, flag_of hf 9 lb rfl, bf_of hf 7 st rfl]
  exact form_ok (zeros_at hf rfl) trivial trivial (vparity_at hf rfl rfl (wf_tail h))

theorem RoundTrip.vcmplt (ty : BitVec 2) (kd : KReg) (va : VReg) (vb : VReg) (k : KReg) (la : Bool) (lb : Bool) (st : BitVec 2) : RoundTrip.Statement (.vcmplt ty kd va vb k la lb st) := by
  intro wd h he
  obtain ⟨num, hd, hf⟩ := word_of (l := [(0, 5, 2), (5, 2, ty.toNat), (7, 2, st.toNat), (9, 1, lb.toNat), (10, 1, la.toNat), (11, 3, k.toNat), (14, 4, vb.toNat), (18, 4, va.toNat), (22, 3, kd.toNat), (25, 1, 0), (26, 6, 34)]) he
    (.lit rfl <| .val ty rfl <| .val st rfl <| .flag lb rfl <| .flag la rfl <| .val k rfl <| .val vb rfl <| .val va rfl <| .val kd rfl <| .lit rfl <| .lit rfl <| .done rfl)
    (show _ = enc48 0x88000002 ty kd va vb k la lb st from rfl) (by simp only [packs]; omega)
  rw [hd, decodeNat, hf 26 6 34 rfl]
  show decodeVcmp num = _
  have hne : ty.toNat ≠ 3 := ne_three (wf_head h)
  have h7 : fld num 0 7 = 2 + 32 * ty.toNat := fld_cat (hf 0 5 2 rfl) (hf 5 2 _ rfl)
  have := ty.isLt
  unfold decodeVcmp
  split
  · exfalso; omega
  rw [if_neg (by rw [hf 5 2 _ rfl]; simpa using hne), hf 0 5 2 rfl]
  show form _ _ _ _ _ _ = _
  rw [bf_of hf 5 ty rfl, bf_of hf 22 kd rfl, bf_of hf 18 va rfl, bf_of hf 14 vb rfl, bf_of hf 11 k rfl, flag_of hf 10 la rfl, flag_of hf 9 lb rfl, bf_of hf 7 st rfl]
  exact form_ok (zeros_at hf rfl) trivial trivial (vparity_at hf rfl rfl (wf_tail h))

theorem RoundTrip.vcmple (ty : BitVec 2) (kd : KReg) (va : VReg) (vb : VReg) (k : KReg) (la : Bool) (lb : Bool) (st : BitVec 2) : RoundTrip.Statement (.vcmple ty kd va vb k la lb st) := by
  intro wd h he
  obtain ⟨num, hd, hf⟩ := word_of (l := [(0, 5, 3), (5, 2, ty.toNat), (7, 2, st.toNat), (9, 1, lb.toNat), (10, 1, la.toNat), (11, 3, k.toNat), (14, 4, vb.toNat), (18, 4, va.toNat), (22, 3, kd.toNat), (25, 1, 0), (26, 6, 34)]) he
    (.lit rfl <| .val ty rfl <| .val st rfl <| .flag lb rfl <| .flag la rfl <| .val k rfl <| .val vb rfl <| .val va rfl <| .val kd rfl <| .lit rfl <| .lit rfl <| .done rfl)
    (show _ = enc48 0x88000003 ty kd va vb k la lb st from rfl) (by simp only [packs]; omega)
  rw [hd, decodeNat, hf 26 6 34 rfl]
  show decodeVcmp num = _
  have hne : ty.toNat ≠ 3 := ne_three (wf_head h)
  have h7 : fld num 0 7 = 3 + 32 * ty.toNat := fld_cat (hf 0 5 3 rfl) (hf 5 2 _ rfl)
  have := ty.isLt
  unfold decodeVcmp
  split
  · exfalso; omega
  rw [if_neg (by rw [hf 5 2 _ rfl]; simpa using hne), hf 0 5 3 rfl]
  show form _ _ _ _ _ _ = _
  rw [bf_of hf 5 ty rfl, bf_of hf 22 kd rfl, bf_of hf 18 va rfl, bf_of hf 14 vb rfl, bf_of hf 11 k rfl, flag_of hf 10 la rfl, flag_of hf 9 lb rfl, bf_of hf 7 st rfl]
  exact form_ok (zeros_at hf rfl) trivial trivial (vparity_at hf rfl rfl (wf_tail h))

theorem RoundTrip.vcmpgt (ty : BitVec 2) (kd : KReg) (va : VReg) (vb : VReg) (k : KReg) (la : Bool) (lb : Bool) (st : BitVec 2) : RoundTrip.Statement (.vcmpgt ty kd va vb k la lb st) := by
  intro wd h he
  obtain ⟨num, hd, hf⟩ := word_of (l := [(0, 5, 4), (5, 2, ty.toNat), (7, 2, st.toNat), (9, 1, lb.toNat), (10, 1, la.toNat), (11, 3, k.toNat), (14, 4, vb.toNat), (18, 4, va.toNat), (22, 3, kd.toNat), (25, 1, 0), (26, 6, 34)]) he
    (.lit rfl <| .val ty rfl <| .val st rfl <| .flag lb rfl <| .flag la rfl <| .val k rfl <| .val vb rfl <| .val va rfl <| .val kd rfl <| .lit rfl <| .lit rfl <| .done rfl)
    (show _ = enc48 0x88000004 ty kd va vb k la lb st from rfl) (by simp only [packs]; omega)
  rw [hd, decodeNat, hf 26 6 34 rfl]
  show decodeVcmp num = _
  have hne : ty.toNat ≠ 3 := ne_three (wf_head h)
  have h7 : fld num 0 7 = 4 + 32 * ty.toNat := fld_cat (hf 0 5 4 rfl) (hf 5 2 _ rfl)
  have := ty.isLt
  unfold decodeVcmp
  split
  · exfalso; omega
  rw [if_neg (by rw [hf 5 2 _ rfl]; simpa using hne), hf 0 5 4 rfl]
  show form _ _ _ _ _ _ = _
  rw [bf_of hf 5 ty rfl, bf_of hf 22 kd rfl, bf_of hf 18 va rfl, bf_of hf 14 vb rfl, bf_of hf 11 k rfl, flag_of hf 10 la rfl, flag_of hf 9 lb rfl, bf_of hf 7 st rfl]
  exact form_ok (zeros_at hf rfl) trivial trivial (vparity_at hf rfl rfl (wf_tail h))

theorem RoundTrip.vcmpge (ty : BitVec 2) (kd : KReg) (va : VReg) (vb : VReg) (k : KReg) (la : Bool) (lb : Bool) (st : BitVec 2) : RoundTrip.Statement (.vcmpge ty kd va vb k la lb st) := by
  intro wd h he
  obtain ⟨num, hd, hf⟩ := word_of (l := [(0, 5, 5), (5, 2, ty.toNat), (7, 2, st.toNat), (9, 1, lb.toNat), (10, 1, la.toNat), (11, 3, k.toNat), (14, 4, vb.toNat), (18, 4, va.toNat), (22, 3, kd.toNat), (25, 1, 0), (26, 6, 34)]) he
    (.lit rfl <| .val ty rfl <| .val st rfl <| .flag lb rfl <| .flag la rfl <| .val k rfl <| .val vb rfl <| .val va rfl <| .val kd rfl <| .lit rfl <| .lit rfl <| .done rfl)
    (show _ = enc48 0x88000005 ty kd va vb k la lb st from rfl) (by simp only [packs]; omega)
  rw [hd, decodeNat, hf 26 6 34 rfl]
  show decodeVcmp num = _
  have hne : ty.toNat ≠ 3 := ne_three (wf_head h)
  have h7 : fld num 0 7 = 5 + 32 * ty.toNat := fld_cat (hf 0 5 5 rfl) (hf 5 2 _ rfl)
  have := ty.isLt
  unfold decodeVcmp
  split
  · exfalso; omega
  rw [if_neg (by rw [hf 5 2 _ rfl]; simpa using hne), hf 0 5 5 rfl]
  show form _ _ _ _ _ _ = _
  rw [bf_of hf 5 ty rfl, bf_of hf 22 kd rfl, bf_of hf 18 va rfl, bf_of hf 14 vb rfl, bf_of hf 11 k rfl, flag_of hf 10 la rfl, flag_of hf 9 lb rfl, bf_of hf 7 st rfl]
  exact form_ok (zeros_at hf rfl) trivial trivial (vparity_at hf rfl rfl (wf_tail h))

theorem RoundTrip.vcmpun (kd : KReg) (va : VReg) (vb : VReg) (k : KReg) (la : Bool) (lb : Bool) (st : BitVec 2) : RoundTrip.Statement (.vcmpun kd va vb k la lb st) := by
  intro wd h he
  obtain ⟨num, hd, hf⟩ := word_of (l := [(0, 7, 70), (7, 2, st.toNat), (9, 1, lb.toNat), (10, 1, la.toNat), (11, 3, k.toNat), (14, 4, vb.toNat), (18, 4, va.toNat), (22, 3, kd.toNat), (25, 1, 0), (26, 6, 34)]) he
    (.lit rfl <| .val st rfl <| .flag lb rfl <| .flag la rfl <| .val k rfl <| .val vb rfl <| .val va rfl <| .val kd rfl <| .lit rfl <| .lit rfl <| .done rfl)
    (show _ = enc49 0x88000046 kd va vb k la lb st from rfl) (by simp only [packs]; omega)
  rw [hd, decodeNat, hf 26 6 34 rfl]
  show decodeVcmp num = _
  rw [decodeVcmp, hf 0 7 70 rfl]
  show form _ _ _ _ _ _ = _
  rw [bf_of hf 22 kd rfl, bf_of hf 18 va rfl, bf_of hf 14 vb rfl, bf_of hf 11 k rfl, flag_of hf 10 la rfl, flag_of hf 9 lb rfl, bf_of hf 7 st rfl]
  exact form_ok (zeros_at hf rfl) trivial trivial (vparity_at hf rfl rfl (h))

theorem RoundTrip.vlut3 (vd : VReg) (va : VReg) (vb : VReg) (k : KReg) (la : Bool) (lb : Bool) (tbl : BitVec 8) : RoundTrip.Statement (.vlut3 vd va vb k la lb tbl) := by
  intro wd h he
  obtain ⟨num, hd, hf⟩ := word_of (l := [(0, 1, 0), (1, 8, tbl.toNat), (9, 1, lb.toNat), (10, 1, la.toNat), (11, 3, k.toNat), (14, 4, vb.toNat), (18, 4, va.toNat), (22, 4, vd.toNat), (26, 6, 35)]) he
    (.lit rfl <| .val tbl rfl <| .flag lb rfl <| .flag la rfl <| .val k rfl <| .val vb rfl <| .val va rfl <| .val vd rfl <| .lit rfl <| .done rfl)
    (show _ = enc50 0x8C000000 vd va vb k la lb tbl from rfl) (by simp only [packs]; omega)
  rw [hd, decodeNat, hf 26 6 35 rfl]
  show decodeVlut3 num = _
  rw [decodeVlut3]
  show form _ _ _ _ _ _ = _
  rw [bf_of hf 22 vd rfl, bf_of hf 18 va rfl, bf_of hf 14 vb rfl, bf_of hf 11 k rfl, flag_of hf 10 la rfl, flag_of hf 9 lb rfl, bf_of hf 1 tbl rfl]
  exact form_ok (zeros_at hf rfl) trivial trivial (vparity_at hf rfl rfl (h))

theorem RoundTrip.offer (d : GReg) (a : AReg) (persist : Bool) (st : BitVec 2) : RoundTrip.Statement (.offer d a persist st) := by
  intro wd h he
  obtain ⟨num, hd, hf⟩ := word_of (l := [(0, 7, 0), (7, 2, st.toNat), (9, 1, 0), (10, 1, 0), (11, 1, persist.toNat), (12, 4, 0), (16, 3, a.toNat), (19, 2, 0), (21, 5, d.toNat), (26, 6, 37)]) he
    (.lit rfl <| .val st rfl <| .lit rfl <| .lit rfl <| .flag persist rfl <| .lit rfl <| .val a rfl <| .lit rfl <| .val d rfl <| .lit rfl <| .done rfl)
    (show _ = enc51 0x94000000 d a persist st from rfl) (by simp only [packs]; omega)
  rw [hd, decodeNat, hf 26 6 37 rfl]
  show decodeEvt num = _
  rw [decodeEvt, hf 0 7 0 rfl]
  show form _ _ _ _ _ _ = _
  rw [bf_of hf 21 d rfl, bf_of hf 16 a rfl, flag_of hf 11 persist rfl, bf_of hf 7 st rfl]
  exact form_ok (zeros_at hf rfl) trivial trivial trivial

theorem RoundTrip.evtest (d : GReg) (a : GReg) (la : Bool) (st : BitVec 2) : RoundTrip.Statement (.evtest d a la st) := by
  intro wd h he
  obtain ⟨num, hd, hf⟩ := word_of (l := [(0, 7, 1), (7, 2, st.toNat), (9, 1, 0), (10, 1, la.toNat), (11, 5, 0), (16, 5, a.toNat), (21, 5, d.toNat), (26, 6, 37)]) he
    (.lit rfl <| .val st rfl <| .lit rfl <| .flag la rfl <| .lit rfl <| .val a rfl <| .val d rfl <| .lit rfl <| .done rfl)
    (show _ = enc8 0x94000001 d a la st from rfl) (by simp only [packs]; omega)
  rw [hd, decodeNat, hf 26 6 37 rfl]
  show decodeEvt num = _
  rw [decodeEvt, hf 0 7 1 rfl]
  show form _ _ _ _ _ _ = _
  rw [bf_of hf 21 d rfl, bf_of hf 16 a rfl, flag_of hf 10 la rfl, bf_of hf 7 st rfl]
  exact form_ok (zeros_at hf rfl) trivial trivial trivial

theorem RoundTrip.evwait (d : GReg) (a : GReg) (la : Bool) (st : BitVec 2) : RoundTrip.Statement (.evwait d a la st) := by
  intro wd h he
  obtain ⟨num, hd, hf⟩ := word_of (l := [(0, 7, 2), (7, 2, st.toNat), (9, 1, 0), (10, 1, la.toNat), (11, 5, 0), (16, 5, a.toNat), (21, 5, d.toNat), (26, 6, 37)]) he
    (.lit rfl <| .val st rfl <| .lit rfl <| .flag la rfl <| .lit rfl <| .val a rfl <| .val d rfl <| .lit rfl <| .done rfl)
    (show _ = enc8 0x94000002 d a la st from rfl) (by simp only [packs]; omega)
  rw [hd, decodeNat, hf 26 6 37 rfl]
  show decodeEvt num = _
  rw [decodeEvt, hf 0 7 2 rfl]
  show form _ _ _ _ _ _ = _
  rw [bf_of hf 21 d rfl, bf_of hf 16 a rfl, flag_of hf 10 la rfl, bf_of hf 7 st rfl]
  exact form_ok (zeros_at hf rfl) trivial trivial trivial

theorem RoundTrip.pause (n : BitVec 5) (st : BitVec 2) : RoundTrip.Statement (.pause n st) := by
  intro wd h he
  obtain ⟨num, hd, hf⟩ := word_of (l := [(0, 7, 3), (7, 2, st.toNat), (9, 1, 0), (10, 1, 0), (11, 5, n.toNat), (16, 5, 0), (21, 5, 0), (26, 6, 37)]) he
    (.lit rfl <| .val st rfl <| .lit rfl <| .lit rfl <| .val n rfl <| .lit rfl <| .lit rfl <| .lit rfl <| .done rfl)
    (show _ = enc52 0x94000003 n st from rfl) (by simp only [packs]; omega)
  rw [hd, decodeNat, hf 26 6 37 rfl]
  show decodeEvt num = _
  rw [decodeEvt, hf 0 7 3 rfl]
  show form _ _ _ _ _ _ = _
  rw [bf_of hf 11 n rfl, bf_of hf 7 st rfl]
  exact form_ok (zeros_at hf rfl) trivial trivial trivial

theorem RoundTrip.dlr (d : GReg) (n : BitVec 3) (st : BitVec 2) : RoundTrip.Statement (.dlr d n st) := by
  intro wd h he
  obtain ⟨num, hd, hf⟩ := word_of (l := [(0, 7, 4), (7, 2, st.toNat), (9, 1, 0), (10, 1, 0), (11, 3, n.toNat), (14, 2, 0), (16, 5, 0), (21, 5, d.toNat), (26, 6, 37)]) he
    (.lit rfl <| .val st rfl <| .lit rfl <| .lit rfl <| .val n rfl <| .lit rfl <| .lit rfl <| .val d rfl <| .lit rfl <| .done rfl)
    (show _ = enc53 0x94000004 d n st from rfl) (by simp only [packs]; omega)
  rw [hd, decodeNat, hf 26 6 37 rfl]
  show decodeEvt num = _
  rw [decodeEvt, hf 0 7 4 rfl]
  show form _ _ _ _ _ _ = _
  rw [bf_of hf 21 d rfl, bf_of hf 11 n rfl, bf_of hf 7 st rfl]
  exact form_ok (zeros_at hf rfl) trivial trivial trivial

theorem RoundTrip.dlw (n : BitVec 3) (a : GReg) (la : Bool) (st : BitVec 2) : RoundTrip.Statement (.dlw n a la st) := by
  intro wd h he
  obtain ⟨num, hd, hf⟩ := word_of (l := [(0, 7, 5), (7, 2, st.toNat), (9, 1, 0), (10, 1, la.toNat), (11, 3, n.toNat), (14, 2, 0), (16, 5, a.toNat), (21, 5, 0), (26, 6, 37)]) he
    (.lit rfl <| .val st rfl <| .lit rfl <| .flag la rfl <| .val n rfl <| .lit rfl <| .val a rfl <| .lit rfl <| .lit rfl <| .done rfl)
    (show _ = enc54 0x94000005 n a la st from rfl) (by simp only [packs]; omega)
  rw [hd, decodeNat, hf 26 6 37 rfl]
  show decodeEvt num = _
  rw [decodeEvt, hf 0 7 5 rfl]
  show form _ _ _ _ _ _ = _
  rw [bf_of hf 11 n rfl, bf_of hf 16 a rfl, flag_of hf 10 la rfl, bf_of hf 7 st rfl]
  exact form_ok (zeros_at hf rfl) trivial trivial trivial

theorem RoundTrip.retire (st : BitVec 2) : RoundTrip.Statement (.retire st) := by
  intro wd h he
  obtain ⟨num, hd, hf⟩ := word_of (l := [(0, 7, 6), (7, 2, st.toNat), (9, 1, 0), (10, 1, 0), (11, 5, 0), (16, 5, 0), (21, 5, 0), (26, 6, 37)]) he
    (.lit rfl <| .val st rfl <| .lit rfl <| .lit rfl <| .lit rfl <| .lit rfl <| .lit rfl <| .lit rfl <| .done rfl)
    (show _ = enc20 0x94000006 st from rfl) (by simp only [packs]; omega)
  rw [hd, decodeNat, hf 26 6 37 rfl]
  show decodeEvt num = _
  rw [decodeEvt, hf 0 7 6 rfl]
  show form _ _ _ _ _ _ = _
  rw [bf_of hf 7 st rfl]
  exact form_ok (zeros_at hf rfl) trivial trivial trivial

theorem RoundTrip.mclaim (d : GReg) (a : GReg) (la : Bool) (st : BitVec 2) : RoundTrip.Statement (.mclaim d a la st) := by
  intro wd h he
  obtain ⟨num, hd, hf⟩ := word_of (l := [(0, 7, 0), (7, 2, st.toNat), (9, 1, 0), (10, 1, la.toNat), (11, 5, 0), (16, 5, a.toNat), (21, 5, d.toNat), (26, 6, 38)]) he
    (.lit rfl <| .val st rfl <| .lit rfl <| .flag la rfl <| .lit rfl <| .val a rfl <| .val d rfl <| .lit rfl <| .done rfl)
    (show _ = enc8 0x98000000 d a la st from rfl) (by simp only [packs]; omega)
  rw [hd, decodeNat, hf 26 6 38 rfl]
  show decodeMtx num = _
  rw [decodeMtx, hf 0 7 0 rfl]
  show form _ _ _ _ _ _ = _
  rw [bf_of hf 21 d rfl, bf_of hf 16 a rfl, flag_of hf 10 la rfl, bf_of hf 7 st rfl]
  exact form_ok (zeros_at hf rfl) trivial trivial trivial

theorem RoundTrip.mrel (a : GReg) (la : Bool) (st : BitVec 2) : RoundTrip.Statement (.mrel a la st) := by
  intro wd h he
  obtain ⟨num, hd, hf⟩ := word_of (l := [(0, 7, 1), (7, 2, st.toNat), (9, 1, 0), (10, 1, la.toNat), (11, 5, 0), (16, 5, a.toNat), (21, 5, 0), (26, 6, 38)]) he
    (.lit rfl <| .val st rfl <| .lit rfl <| .flag la rfl <| .lit rfl <| .val a rfl <| .lit rfl <| .lit rfl <| .done rfl)
    (show _ = enc19 0x98000001 a la st from rfl) (by simp only [packs]; omega)
  rw [hd, decodeNat, hf 26 6 38 rfl]
  show decodeMtx num = _
  rw [decodeMtx, hf 0 7 1 rfl]
  show form _ _ _ _ _ _ = _
  rw [bf_of hf 16 a rfl, flag_of hf 10 la rfl, bf_of hf 7 st rfl]
  exact form_ok (zeros_at hf rfl) trivial trivial trivial

theorem RoundTrip.mma (d : GReg) (a : GReg) (b : GReg) (la : Bool) (lb : Bool) (st : BitVec 2) : RoundTrip.Statement (.mma d a b la lb st) := by
  intro wd h he
  obtain ⟨num, hd, hf⟩ := word_of (l := [(0, 7, 2), (7, 2, st.toNat), (9, 1, lb.toNat), (10, 1, la.toNat), (11, 5, b.toNat), (16, 5, a.toNat), (21, 5, d.toNat), (26, 6, 38)]) he
    (.lit rfl <| .val st rfl <| .flag lb rfl <| .flag la rfl <| .val b rfl <| .val a rfl <| .val d rfl <| .lit rfl <| .done rfl)
    (show _ = enc1 0x98000002 d a b la lb st from rfl) (by simp only [packs]; omega)
  rw [hd, decodeNat, hf 26 6 38 rfl]
  show decodeMtx num = _
  rw [decodeMtx, hf 0 7 2 rfl]
  show form _ _ _ _ _ _ = _
  rw [bf_of hf 21 d rfl, bf_of hf 16 a rfl, bf_of hf 11 b rfl, flag_of hf 10 la rfl, flag_of hf 9 lb rfl, bf_of hf 7 st rfl]
  exact form_ok trivial trivial trivial (parity_at hf rfl rfl (h))

theorem RoundTrip.mzero (d : GReg) (a : GReg) (la : Bool) (st : BitVec 2) : RoundTrip.Statement (.mzero d a la st) := by
  intro wd h he
  obtain ⟨num, hd, hf⟩ := word_of (l := [(0, 7, 3), (7, 2, st.toNat), (9, 1, 0), (10, 1, la.toNat), (11, 5, 0), (16, 5, a.toNat), (21, 5, d.toNat), (26, 6, 38)]) he
    (.lit rfl <| .val st rfl <| .lit rfl <| .flag la rfl <| .lit rfl <| .val a rfl <| .val d rfl <| .lit rfl <| .done rfl)
    (show _ = enc8 0x98000003 d a la st from rfl) (by simp only [packs]; omega)
  rw [hd, decodeNat, hf 26 6 38 rfl]
  show decodeMtx num = _
  rw [decodeMtx, hf 0 7 3 rfl]
  show form _ _ _ _ _ _ = _
  rw [bf_of hf 21 d rfl, bf_of hf 16 a rfl, flag_of hf 10 la rfl, bf_of hf 7 st rfl]
  exact form_ok (zeros_at hf rfl) trivial trivial trivial

theorem RoundTrip.mdrain (d : GReg) (a : GReg) (b : GReg) (la : Bool) (lb : Bool) (st : BitVec 2) : RoundTrip.Statement (.mdrain d a b la lb st) := by
  intro wd h he
  obtain ⟨num, hd, hf⟩ := word_of (l := [(0, 7, 4), (7, 2, st.toNat), (9, 1, lb.toNat), (10, 1, la.toNat), (11, 5, b.toNat), (16, 5, a.toNat), (21, 5, d.toNat), (26, 6, 38)]) he
    (.lit rfl <| .val st rfl <| .flag lb rfl <| .flag la rfl <| .val b rfl <| .val a rfl <| .val d rfl <| .lit rfl <| .done rfl)
    (show _ = enc1 0x98000004 d a b la lb st from rfl) (by simp only [packs]; omega)
  rw [hd, decodeNat, hf 26 6 38 rfl]
  show decodeMtx num = _
  rw [decodeMtx, hf 0 7 4 rfl]
  show form _ _ _ _ _ _ = _
  rw [bf_of hf 21 d rfl, bf_of hf 16 a rfl, bf_of hf 11 b rfl, flag_of hf 10 la rfl, flag_of hf 9 lb rfl, bf_of hf 7 st rfl]
  exact form_ok trivial trivial trivial (parity_at hf rfl rfl (h))

theorem RoundTrip.copy (a : AReg) (st : BitVec 2) : RoundTrip.Statement (.copy a st) := by
  intro wd h he
  obtain ⟨num, hd, hf⟩ := word_of (l := [(0, 7, 0), (7, 2, st.toNat), (9, 1, 0), (10, 1, 0), (11, 5, 0), (16, 3, a.toNat), (19, 2, 0), (21, 5, 0), (26, 6, 39)]) he
    (.lit rfl <| .val st rfl <| .lit rfl <| .lit rfl <| .lit rfl <| .val a rfl <| .lit rfl <| .lit rfl <| .lit rfl <| .done rfl)
    (show _ = enc55 0x9C000000 a st from rfl) (by simp only [packs]; omega)
  rw [hd, decodeNat, hf 26 6 39 rfl]
  show decodeCpy num = _
  rw [decodeCpy, hf 0 7 0 rfl]
  show form _ _ _ _ _ _ = _
  rw [bf_of hf 16 a rfl, bf_of hf 7 st rfl]
  exact form_ok (zeros_at hf rfl) trivial trivial trivial

theorem RoundTrip.copyg (a : AReg) (st : BitVec 2) : RoundTrip.Statement (.copyg a st) := by
  intro wd h he
  obtain ⟨num, hd, hf⟩ := word_of (l := [(0, 7, 1), (7, 2, st.toNat), (9, 1, 0), (10, 1, 0), (11, 5, 0), (16, 3, a.toNat), (19, 2, 0), (21, 5, 0), (26, 6, 39)]) he
    (.lit rfl <| .val st rfl <| .lit rfl <| .lit rfl <| .lit rfl <| .val a rfl <| .lit rfl <| .lit rfl <| .lit rfl <| .done rfl)
    (show _ = enc55 0x9C000001 a st from rfl) (by simp only [packs]; omega)
  rw [hd, decodeNat, hf 26 6 39 rfl]
  show decodeCpy num = _
  rw [decodeCpy, hf 0 7 1 rfl]
  show form _ _ _ _ _ _ = _
  rw [bf_of hf 16 a rfl, bf_of hf 7 st rfl]
  exact form_ok (zeros_at hf rfl) trivial trivial trivial

theorem RoundTrip.copyop (a : AReg) (st : BitVec 2) : RoundTrip.Statement (.copyop a st) := by
  intro wd h he
  obtain ⟨num, hd, hf⟩ := word_of (l := [(0, 7, 2), (7, 2, st.toNat), (9, 1, 0), (10, 1, 0), (11, 5, 0), (16, 3, a.toNat), (19, 2, 0), (21, 5, 0), (26, 6, 39)]) he
    (.lit rfl <| .val st rfl <| .lit rfl <| .lit rfl <| .lit rfl <| .val a rfl <| .lit rfl <| .lit rfl <| .lit rfl <| .done rfl)
    (show _ = enc55 0x9C000002 a st from rfl) (by simp only [packs]; omega)
  rw [hd, decodeNat, hf 26 6 39 rfl]
  show decodeCpy num = _
  rw [decodeCpy, hf 0 7 2 rfl]
  show form _ _ _ _ _ _ = _
  rw [bf_of hf 16 a rfl, bf_of hf 7 st rfl]
  exact form_ok (zeros_at hf rfl) trivial trivial trivial

theorem RoundTrip.conv (a : AReg) (st : BitVec 2) : RoundTrip.Statement (.conv a st) := by
  intro wd h he
  obtain ⟨num, hd, hf⟩ := word_of (l := [(0, 7, 0), (7, 2, st.toNat), (9, 1, 0), (10, 1, 0), (11, 5, 0), (16, 3, a.toNat), (19, 2, 0), (21, 5, 0), (26, 6, 40)]) he
    (.lit rfl <| .val st rfl <| .lit rfl <| .lit rfl <| .lit rfl <| .val a rfl <| .lit rfl <| .lit rfl <| .lit rfl <| .done rfl)
    (show _ = enc55 0xA0000000 a st from rfl) (by simp only [packs]; omega)
  rw [hd, decodeNat, hf 26 6 40 rfl]
  show decodeCnv num = _
  rw [decodeCnv, hf 0 7 0 rfl]
  show form _ _ _ _ _ _ = _
  rw [bf_of hf 16 a rfl, bf_of hf 7 st rfl]
  exact form_ok (zeros_at hf rfl) trivial trivial trivial

theorem RoundTrip.planes (a : AReg) (st : BitVec 2) : RoundTrip.Statement (.planes a st) := by
  intro wd h he
  obtain ⟨num, hd, hf⟩ := word_of (l := [(0, 7, 1), (7, 2, st.toNat), (9, 1, 0), (10, 1, 0), (11, 5, 0), (16, 3, a.toNat), (19, 2, 0), (21, 5, 0), (26, 6, 40)]) he
    (.lit rfl <| .val st rfl <| .lit rfl <| .lit rfl <| .lit rfl <| .val a rfl <| .lit rfl <| .lit rfl <| .lit rfl <| .done rfl)
    (show _ = enc55 0xA0000001 a st from rfl) (by simp only [packs]; omega)
  rw [hd, decodeNat, hf 26 6 40 rfl]
  show decodeCnv num = _
  rw [decodeCnv, hf 0 7 1 rfl]
  show form _ _ _ _ _ _ = _
  rw [bf_of hf 16 a rfl, bf_of hf 7 st rfl]
  exact form_ok (zeros_at hf rfl) trivial trivial trivial

theorem RoundTrip.sparsify (a : AReg) (st : BitVec 2) : RoundTrip.Statement (.sparsify a st) := by
  intro wd h he
  obtain ⟨num, hd, hf⟩ := word_of (l := [(0, 7, 2), (7, 2, st.toNat), (9, 1, 0), (10, 1, 0), (11, 5, 0), (16, 3, a.toNat), (19, 2, 0), (21, 5, 0), (26, 6, 40)]) he
    (.lit rfl <| .val st rfl <| .lit rfl <| .lit rfl <| .lit rfl <| .val a rfl <| .lit rfl <| .lit rfl <| .lit rfl <| .done rfl)
    (show _ = enc55 0xA0000002 a st from rfl) (by simp only [packs]; omega)
  rw [hd, decodeNat, hf 26 6 40 rfl]
  show decodeCnv num = _
  rw [decodeCnv, hf 0 7 2 rfl]
  show form _ _ _ _ _ _ = _
  rw [bf_of hf 16 a rfl, bf_of hf 7 st rfl]
  exact form_ok (zeros_at hf rfl) trivial trivial trivial

theorem RoundTrip.scalec (a : AReg) (st : BitVec 2) : RoundTrip.Statement (.scalec a st) := by
  intro wd h he
  obtain ⟨num, hd, hf⟩ := word_of (l := [(0, 7, 3), (7, 2, st.toNat), (9, 1, 0), (10, 1, 0), (11, 5, 0), (16, 3, a.toNat), (19, 2, 0), (21, 5, 0), (26, 6, 40)]) he
    (.lit rfl <| .val st rfl <| .lit rfl <| .lit rfl <| .lit rfl <| .val a rfl <| .lit rfl <| .lit rfl <| .lit rfl <| .done rfl)
    (show _ = enc55 0xA0000003 a st from rfl) (by simp only [packs]; omega)
  rw [hd, decodeNat, hf 26 6 40 rfl]
  show decodeCnv num = _
  rw [decodeCnv, hf 0 7 3 rfl]
  show form _ _ _ _ _ _ = _
  rw [bf_of hf 16 a rfl, bf_of hf 7 st rfl]
  exact form_ok (zeros_at hf rfl) trivial trivial trivial

theorem RoundTrip.tidset (a : GReg) (b : AReg) (la : Bool) (st : BitVec 2) : RoundTrip.Statement (.tidset a b la st) := by
  intro wd h he
  obtain ⟨num, hd, hf⟩ := word_of (l := [(0, 7, 0), (7, 2, st.toNat), (9, 1, 0), (10, 1, la.toNat), (11, 3, b.toNat), (14, 2, 0), (16, 5, a.toNat), (21, 5, 0), (26, 6, 41)]) he
    (.lit rfl <| .val st rfl <| .lit rfl <| .flag la rfl <| .val b rfl <| .lit rfl <| .val a rfl <| .lit rfl <| .lit rfl <| .done rfl)
    (show _ = enc56 0xA4000000 a b la st from rfl) (by simp only [packs]; omega)
  rw [hd, decodeNat, hf 26 6 41 rfl]
  show decodeTid num = _
  rw [decodeTid, hf 0 7 0 rfl]
  show form _ _ _ _ _ _ = _
  rw [bf_of hf 16 a rfl, bf_of hf 11 b rfl, flag_of hf 10 la rfl, bf_of hf 7 st rfl]
  exact form_ok (zeros_at hf rfl) trivial trivial trivial

theorem RoundTrip.tidget (a : GReg) (b : AReg) (la : Bool) (st : BitVec 2) : RoundTrip.Statement (.tidget a b la st) := by
  intro wd h he
  obtain ⟨num, hd, hf⟩ := word_of (l := [(0, 7, 1), (7, 2, st.toNat), (9, 1, 0), (10, 1, la.toNat), (11, 3, b.toNat), (14, 2, 0), (16, 5, a.toNat), (21, 5, 0), (26, 6, 41)]) he
    (.lit rfl <| .val st rfl <| .lit rfl <| .flag la rfl <| .val b rfl <| .lit rfl <| .val a rfl <| .lit rfl <| .lit rfl <| .done rfl)
    (show _ = enc56 0xA4000001 a b la st from rfl) (by simp only [packs]; omega)
  rw [hd, decodeNat, hf 26 6 41 rfl]
  show decodeTid num = _
  rw [decodeTid, hf 0 7 1 rfl]
  show form _ _ _ _ _ _ = _
  rw [bf_of hf 16 a rfl, bf_of hf 11 b rfl, flag_of hf 10 la rfl, bf_of hf 7 st rfl]
  exact form_ok (zeros_at hf rfl) trivial trivial trivial

theorem RoundTrip.tidclr (a : GReg) (la : Bool) (st : BitVec 2) : RoundTrip.Statement (.tidclr a la st) := by
  intro wd h he
  obtain ⟨num, hd, hf⟩ := word_of (l := [(0, 7, 2), (7, 2, st.toNat), (9, 1, 0), (10, 1, la.toNat), (11, 5, 0), (16, 5, a.toNat), (21, 5, 0), (26, 6, 41)]) he
    (.lit rfl <| .val st rfl <| .lit rfl <| .flag la rfl <| .lit rfl <| .val a rfl <| .lit rfl <| .lit rfl <| .done rfl)
    (show _ = enc19 0xA4000002 a la st from rfl) (by simp only [packs]; omega)
  rw [hd, decodeNat, hf 26 6 41 rfl]
  show decodeTid num = _
  rw [decodeTid, hf 0 7 2 rfl]
  show form _ _ _ _ _ _ = _
  rw [bf_of hf 16 a rfl, flag_of hf 10 la rfl, bf_of hf 7 st rfl]
  exact form_ok (zeros_at hf rfl) trivial trivial trivial

theorem RoundTrip.grow (d : GReg) (a : GReg) (la : Bool) (st : BitVec 2) : RoundTrip.Statement (.grow d a la st) := by
  intro wd h he
  obtain ⟨num, hd, hf⟩ := word_of (l := [(0, 7, 0), (7, 2, st.toNat), (9, 1, 0), (10, 1, la.toNat), (11, 5, 0), (16, 5, a.toNat), (21, 5, d.toNat), (26, 6, 42)]) he
    (.lit rfl <| .val st rfl <| .lit rfl <| .flag la rfl <| .lit rfl <| .val a rfl <| .val d rfl <| .lit rfl <| .done rfl)
    (show _ = enc8 0xA8000000 d a la st from rfl) (by simp only [packs]; omega)
  rw [hd, decodeNat, hf 26 6 42 rfl]
  show decodeDisp num = _
  rw [decodeDisp, hf 0 7 0 rfl]
  show form _ _ _ _ _ _ = _
  rw [bf_of hf 21 d rfl, bf_of hf 16 a rfl, flag_of hf 10 la rfl, bf_of hf 7 st rfl]
  exact form_ok (zeros_at hf rfl) trivial trivial trivial

theorem RoundTrip.launch (d : GReg) (a : AReg) (st : BitVec 2) : RoundTrip.Statement (.launch d a st) := by
  intro wd h he
  obtain ⟨num, hd, hf⟩ := word_of (l := [(0, 7, 1), (7, 2, st.toNat), (9, 1, 0), (10, 1, 0), (11, 5, 0), (16, 3, a.toNat), (19, 2, 0), (21, 5, d.toNat), (26, 6, 42)]) he
    (.lit rfl <| .val st rfl <| .lit rfl <| .lit rfl <| .lit rfl <| .val a rfl <| .lit rfl <| .val d rfl <| .lit rfl <| .done rfl)
    (show _ = enc15 0xA8000001 d a st from rfl) (by simp only [packs]; omega)
  rw [hd, decodeNat, hf 26 6 42 rfl]
  show decodeDisp num = _
  rw [decodeDisp, hf 0 7 1 rfl]
  show form _ _ _ _ _ _ = _
  rw [bf_of hf 21 d rfl, bf_of hf 16 a rfl, bf_of hf 7 st rfl]
  exact form_ok (zeros_at hf rfl) trivial trivial trivial

theorem RoundTrip.restart (d : GReg) (a : AReg) (st : BitVec 2) : RoundTrip.Statement (.restart d a st) := by
  intro wd h he
  obtain ⟨num, hd, hf⟩ := word_of (l := [(0, 7, 2), (7, 2, st.toNat), (9, 1, 0), (10, 1, 0), (11, 5, 0), (16, 3, a.toNat), (19, 2, 0), (21, 5, d.toNat), (26, 6, 42)]) he
    (.lit rfl <| .val st rfl <| .lit rfl <| .lit rfl <| .lit rfl <| .val a rfl <| .lit rfl <| .val d rfl <| .lit rfl <| .done rfl)
    (show _ = enc15 0xA8000002 d a st from rfl) (by simp only [packs]; omega)
  rw [hd, decodeNat, hf 26 6 42 rfl]
  show decodeDisp num = _
  rw [decodeDisp, hf 0 7 2 rfl]
  show form _ _ _ _ _ _ = _
  rw [bf_of hf 21 d rfl, bf_of hf 16 a rfl, bf_of hf 7 st rfl]
  exact form_ok (zeros_at hf rfl) trivial trivial trivial

theorem RoundTrip.seal (a : GReg) (la : Bool) (st : BitVec 2) : RoundTrip.Statement (.seal a la st) := by
  intro wd h he
  obtain ⟨num, hd, hf⟩ := word_of (l := [(0, 7, 3), (7, 2, st.toNat), (9, 1, 0), (10, 1, la.toNat), (11, 5, 0), (16, 5, a.toNat), (21, 5, 0), (26, 6, 42)]) he
    (.lit rfl <| .val st rfl <| .lit rfl <| .flag la rfl <| .lit rfl <| .val a rfl <| .lit rfl <| .lit rfl <| .done rfl)
    (show _ = enc19 0xA8000003 a la st from rfl) (by simp only [packs]; omega)
  rw [hd, decodeNat, hf 26 6 42 rfl]
  show decodeDisp num = _
  rw [decodeDisp, hf 0 7 3 rfl]
  show form _ _ _ _ _ _ = _
  rw [bf_of hf 16 a rfl, flag_of hf 10 la rfl, bf_of hf 7 st rfl]
  exact form_ok (zeros_at hf rfl) trivial trivial trivial

theorem RoundTrip.stall (n : BitVec 8) : RoundTrip.Statement (.stall n) := by
  intro wd h he
  obtain ⟨num, hd, hf⟩ := word_of (l := [(0, 8, n.toNat), (8, 1, 0), (9, 1, 0), (10, 1, 0), (11, 1, 0), (12, 1, 0), (13, 1, 0), (14, 1, 0), (15, 1, 0), (16, 1, 0), (17, 1, 0), (18, 1, 0), (19, 1, 0), (20, 1, 0), (21, 1, 0), (22, 1, 0), (23, 1, 0), (24, 2, 0), (26, 6, 63)]) he
    (.val n rfl <| .lit rfl <| .lit rfl <| .lit rfl <| .lit rfl <| .lit rfl <| .lit rfl <| .lit rfl <| .lit rfl <| .lit rfl <| .lit rfl <| .lit rfl <| .lit rfl <| .lit rfl <| .lit rfl <| .lit rfl <| .lit rfl <| .lit rfl <| .lit rfl <| .done rfl)
    (show _ = enc57 0xFC000000 n from rfl) (by simp only [packs]; omega)
  rw [hd, decodeNat, hf 26 6 63 rfl]
  show decodeHint num = _
  rw [decodeHint, hf 24 2 0 rfl]
  show form _ _ _ _ _ _ = _
  rw [bf_of hf 0 n rfl]
  exact form_ok (zeros_at hf rfl) trivial trivial trivial

theorem RoundTrip.wide (hi : BitVec 19) : RoundTrip.Statement (.wide hi) := by
  intro wd h he
  obtain ⟨num, hd, hf⟩ := word_of (l := [(0, 19, hi.toNat), (19, 1, 0), (20, 1, 0), (21, 1, 0), (22, 1, 0), (23, 1, 0), (24, 2, 1), (26, 6, 63)]) he
    (.val hi rfl <| .lit rfl <| .lit rfl <| .lit rfl <| .lit rfl <| .lit rfl <| .lit rfl <| .lit rfl <| .done rfl)
    (show _ = enc58 0xFD000000 hi from rfl) (by simp only [packs]; omega)
  rw [hd, decodeNat, hf 26 6 63 rfl]
  show decodeHint num = _
  rw [decodeHint, hf 24 2 1 rfl]
  show form _ _ _ _ _ _ = _
  rw [bf_of hf 0 hi rfl]
  exact form_ok (zeros_at hf rfl) trivial trivial trivial

theorem RoundTrip.mod (rnd : BitVec 3) (sat : Bool) : RoundTrip.Statement (.mod rnd sat) := by
  intro wd h he
  obtain ⟨num, hd, hf⟩ := word_of (l := [(0, 3, rnd.toNat), (3, 1, sat.toNat), (4, 1, 0), (5, 1, 0), (6, 1, 0), (7, 1, 0), (8, 1, 0), (9, 1, 0), (10, 1, 0), (11, 1, 0), (12, 1, 0), (13, 1, 0), (14, 1, 0), (15, 1, 0), (16, 1, 0), (17, 1, 0), (18, 1, 0), (19, 1, 0), (20, 1, 0), (21, 1, 0), (22, 1, 0), (23, 1, 0), (24, 2, 2), (26, 6, 63)]) he
    (.val rnd rfl <| .flag sat rfl <| .lit rfl <| .lit rfl <| .lit rfl <| .lit rfl <| .lit rfl <| .lit rfl <| .lit rfl <| .lit rfl <| .lit rfl <| .lit rfl <| .lit rfl <| .lit rfl <| .lit rfl <| .lit rfl <| .lit rfl <| .lit rfl <| .lit rfl <| .lit rfl <| .lit rfl <| .lit rfl <| .lit rfl <| .lit rfl <| .done rfl)
    (show _ = enc59 0xFE000000 rnd sat from rfl) (by simp only [packs]; omega)
  rw [hd, decodeNat, hf 26 6 63 rfl]
  show decodeHint num = _
  rw [decodeHint, hf 24 2 2 rfl]
  show form _ _ _ _ _ _ = _
  rw [bf_of hf 0 rnd rfl, flag_of hf 3 sat rfl]
  exact form_ok (zeros_at hf rfl) ⟨bad_gt hf rfl (of_decide_eq_true h), trivial⟩ trivial trivial

theorem RoundTrip.crit : RoundTrip.Statement (.crit) := by
  intro wd h he
  obtain ⟨num, hd, hf⟩ := word_of (l := [(0, 1, 0), (1, 1, 0), (2, 1, 0), (3, 1, 0), (4, 1, 0), (5, 1, 0), (6, 1, 0), (7, 1, 0), (8, 1, 0), (9, 1, 0), (10, 1, 0), (11, 1, 0), (12, 1, 0), (13, 1, 0), (14, 1, 0), (15, 1, 0), (16, 1, 0), (17, 1, 0), (18, 1, 0), (19, 1, 0), (20, 1, 0), (21, 1, 0), (22, 1, 0), (23, 1, 0), (24, 2, 3), (26, 6, 63)]) he
    (.lit rfl <| .lit rfl <| .lit rfl <| .lit rfl <| .lit rfl <| .lit rfl <| .lit rfl <| .lit rfl <| .lit rfl <| .lit rfl <| .lit rfl <| .lit rfl <| .lit rfl <| .lit rfl <| .lit rfl <| .lit rfl <| .lit rfl <| .lit rfl <| .lit rfl <| .lit rfl <| .lit rfl <| .lit rfl <| .lit rfl <| .lit rfl <| .lit rfl <| .lit rfl <| .done rfl)
    (show _ = enc60 0xFF000000 from rfl) (by simp only [packs]; omega)
  rw [hd, decodeNat, hf 26 6 63 rfl]
  show decodeHint num = _
  rw [decodeHint, hf 24 2 3 rfl]
  show form _ _ _ _ _ _ = _
  exact form_ok (zeros_at hf rfl) trivial trivial trivial

theorem RoundTrip.pairLowRead (d : GReg) (idx : BitVec 10) (st : BitVec 2) : RoundTrip.Statement (.pairLowRead d idx st) := fun _ _ he => nomatch (show none = some _ from he)
theorem RoundTrip.nctlWrite (d : GReg) (st : BitVec 2) : RoundTrip.Statement (.nctlWrite d st) := fun _ _ he => nomatch (show none = some _ from he)
theorem RoundTrip.wposWrite (d : GReg) (st : BitVec 2) : RoundTrip.Statement (.wposWrite d st) := fun _ _ he => nomatch (show none = some _ from he)
theorem RoundTrip.nstatAccess (b : Bool) (d : GReg) (st : BitVec 2) : RoundTrip.Statement (.nstatAccess b d st) := fun _ _ he => nomatch (show none = some _ from he)
theorem RoundTrip.cmapWrite (d : GReg) (st : BitVec 2) : RoundTrip.Statement (.cmapWrite d st) := fun _ _ he => nomatch (show none = some _ from he)
theorem RoundTrip.xinvhWrite (d : GReg) (st : BitVec 2) : RoundTrip.Statement (.xinvhWrite d st) := fun _ _ he => nomatch (show none = some _ from he)
theorem RoundTrip.rqbaseWrite (d : GReg) (st : BitVec 2) : RoundTrip.Statement (.rqbaseWrite d st) := fun _ _ he => nomatch (show none = some _ from he)
theorem RoundTrip.rqtailWrite (d : GReg) (st : BitVec 2) : RoundTrip.Statement (.rqtailWrite d st) := fun _ _ he => nomatch (show none = some _ from he)
theorem RoundTrip.rqovfWrite (d : GReg) (st : BitVec 2) : RoundTrip.Statement (.rqovfWrite d st) := fun _ _ he => nomatch (show none = some _ from he)
theorem RoundTrip.cellstSeal (d : GReg) (st : BitVec 2) : RoundTrip.Statement (.cellstSeal d st) := fun _ _ he => nomatch (show none = some _ from he)
theorem RoundTrip.cellstUnseal (d : GReg) (st : BitVec 2) : RoundTrip.Statement (.cellstUnseal d st) := fun _ _ he => nomatch (show none = some _ from he)
theorem RoundTrip.islstWrite (d : GReg) (st : BitVec 2) : RoundTrip.Statement (.islstWrite d st) := fun _ _ he => nomatch (show none = some _ from he)
theorem RoundTrip.alcmdCommit (d : GReg) (st : BitVec 2) : RoundTrip.Statement (.alcmdCommit d st) := fun _ _ he => nomatch (show none = some _ from he)
theorem RoundTrip.registerWrite (d : GReg) (idx : BitVec 10) (st : BitVec 2) : RoundTrip.Statement (.registerWrite d idx st) := fun _ _ he => nomatch (show none = some _ from he)
theorem RoundTrip.wordNotAnInstruction (v : Word) : RoundTrip.Statement (.wordNotAnInstruction v) := fun _ _ he => nomatch (show none = some _ from he)
theorem RoundTrip.nodeSelect : RoundTrip.Statement (.nodeSelect) := fun _ _ he => nomatch (show none = some _ from he)
theorem RoundTrip.valueArrival : RoundTrip.Statement (.valueArrival) := fun _ _ he => nomatch (show none = some _ from he)
theorem RoundTrip.accessPerformed : RoundTrip.Statement (.accessPerformed) := fun _ _ he => nomatch (show none = some _ from he)
theorem RoundTrip.commandAcceptance : RoundTrip.Statement (.commandAcceptance) := fun _ _ he => nomatch (show none = some _ from he)
theorem RoundTrip.commandExecution : RoundTrip.Statement (.commandExecution) := fun _ _ he => nomatch (show none = some _ from he)
theorem RoundTrip.commandCompletion : RoundTrip.Statement (.commandCompletion) := fun _ _ he => nomatch (show none = some _ from he)
theorem RoundTrip.gangStart : RoundTrip.Statement (.gangStart) := fun _ _ he => nomatch (show none = some _ from he)
theorem RoundTrip.gangStepBegin : RoundTrip.Statement (.gangStepBegin) := fun _ _ he => nomatch (show none = some _ from he)
theorem RoundTrip.fastCommit : RoundTrip.Statement (.fastCommit) := fun _ _ he => nomatch (show none = some _ from he)
theorem RoundTrip.settlingRound : RoundTrip.Statement (.settlingRound) := fun _ _ he => nomatch (show none = some _ from he)
theorem RoundTrip.instanceEnd : RoundTrip.Statement (.instanceEnd) := fun _ _ he => nomatch (show none = some _ from he)
theorem RoundTrip.nodeResume : RoundTrip.Statement (.nodeResume) := fun _ _ he => nomatch (show none = some _ from he)
theorem RoundTrip.instantOverrun : RoundTrip.Statement (.instantOverrun) := fun _ _ he => nomatch (show none = some _ from he)
theorem RoundTrip.dispatch : RoundTrip.Statement (.dispatch) := fun _ _ he => nomatch (show none = some _ from he)
theorem RoundTrip.hostRequestLaunch : RoundTrip.Statement (.hostRequestLaunch) := fun _ _ he => nomatch (show none = some _ from he)
theorem RoundTrip.drainRequest : RoundTrip.Statement (.drainRequest) := fun _ _ he => nomatch (show none = some _ from he)
theorem RoundTrip.hostRequestRestore : RoundTrip.Statement (.hostRequestRestore) := fun _ _ he => nomatch (show none = some _ from he)
theorem RoundTrip.hostRequestDiscard : RoundTrip.Statement (.hostRequestDiscard) := fun _ _ he => nomatch (show none = some _ from he)
theorem RoundTrip.drainLimitExpiry : RoundTrip.Statement (.drainLimitExpiry) := fun _ _ he => nomatch (show none = some _ from he)
theorem RoundTrip.forceLimitExpiry : RoundTrip.Statement (.forceLimitExpiry) := fun _ _ he => nomatch (show none = some _ from he)
theorem RoundTrip.cleanSave : RoundTrip.Statement (.cleanSave) := fun _ _ he => nomatch (show none = some _ from he)
theorem RoundTrip.forcedSave : RoundTrip.Statement (.forcedSave) := fun _ _ he => nomatch (show none = some _ from he)
theorem RoundTrip.forcedSaveTimeout : RoundTrip.Statement (.forcedSaveTimeout) := fun _ _ he => nomatch (show none = some _ from he)
theorem RoundTrip.pageServiceResume : RoundTrip.Statement (.pageServiceResume) := fun _ _ he => nomatch (show none = some _ from he)
theorem RoundTrip.heldResume : RoundTrip.Statement (.heldResume) := fun _ _ he => nomatch (show none = some _ from he)
theorem RoundTrip.heldRetire : RoundTrip.Statement (.heldRetire) := fun _ _ he => nomatch (show none = some _ from he)
theorem RoundTrip.invalidationComplete : RoundTrip.Statement (.invalidationComplete) := fun _ _ he => nomatch (show none = some _ from he)
theorem RoundTrip.sofferWrite : RoundTrip.Statement (.sofferWrite) := fun _ _ he => nomatch (show none = some _ from he)
theorem RoundTrip.hostMemAccess : RoundTrip.Statement (.hostMemAccess) := fun _ _ he => nomatch (show none = some _ from he)
theorem RoundTrip.reportWrite : RoundTrip.Statement (.reportWrite) := fun _ _ he => nomatch (show none = some _ from he)
theorem RoundTrip.registerParityError : RoundTrip.Statement (.registerParityError) := fun _ _ he => nomatch (show none = some _ from he)
theorem RoundTrip.sealForcelimExpiry : RoundTrip.Statement (.sealForcelimExpiry) := fun _ _ he => nomatch (show none = some _ from he)
theorem RoundTrip.patrolScrub : RoundTrip.Statement (.patrolScrub) := fun _ _ he => nomatch (show none = some _ from he)
theorem RoundTrip.twinHashCompare : RoundTrip.Statement (.twinHashCompare) := fun _ _ he => nomatch (show none = some _ from he)
theorem RoundTrip.twinMatchTimeout : RoundTrip.Statement (.twinMatchTimeout) := fun _ _ he => nomatch (show none = some _ from he)
theorem RoundTrip.remoteTimeout : RoundTrip.Statement (.remoteTimeout) := fun _ _ he => nomatch (show none = some _ from he)
theorem RoundTrip.hostAbort : RoundTrip.Statement (.hostAbort) := fun _ _ he => nomatch (show none = some _ from he)
theorem RoundTrip.sparePromoted : RoundTrip.Statement (.sparePromoted) := fun _ _ he => nomatch (show none = some _ from he)
theorem RoundTrip.wearMonitorRead : RoundTrip.Statement (.wearMonitorRead) := fun _ _ he => nomatch (show none = some _ from he)
theorem RoundTrip.budgetPeriod : RoundTrip.Statement (.budgetPeriod) := fun _ _ he => nomatch (show none = some _ from he)
theorem RoundTrip.thermalDerate : RoundTrip.Statement (.thermalDerate) := fun _ _ he => nomatch (show none = some _ from he)
theorem RoundTrip.thermalCapRise : RoundTrip.Statement (.thermalCapRise) := fun _ _ he => nomatch (show none = some _ from he)
theorem RoundTrip.thermalShutdown : RoundTrip.Statement (.thermalShutdown) := fun _ _ he => nomatch (show none = some _ from he)
theorem RoundTrip.almanacCommit : RoundTrip.Statement (.almanacCommit) := fun _ _ he => nomatch (show none = some _ from he)
theorem RoundTrip.almanacCommitDone : RoundTrip.Statement (.almanacCommitDone) := fun _ _ he => nomatch (show none = some _ from he)
theorem RoundTrip.powerOn : RoundTrip.Statement (.powerOn) := fun _ _ he => nomatch (show none = some _ from he)
theorem RoundTrip.powerDownRequest : RoundTrip.Statement (.powerDownRequest) := fun _ _ he => nomatch (show none = some _ from he)
theorem RoundTrip.dataFrame : RoundTrip.Statement (.dataFrame) := fun _ _ he => nomatch (show none = some _ from he)
theorem RoundTrip.ackFrame : RoundTrip.Statement (.ackFrame) := fun _ _ he => nomatch (show none = some _ from he)
theorem RoundTrip.nakFrame : RoundTrip.Statement (.nakFrame) := fun _ _ he => nomatch (show none = some _ from he)
theorem RoundTrip.allowFrame : RoundTrip.Statement (.allowFrame) := fun _ _ he => nomatch (show none = some _ from he)
theorem RoundTrip.keyxFrame : RoundTrip.Statement (.keyxFrame) := fun _ _ he => nomatch (show none = some _ from he)
theorem RoundTrip.frameSend : RoundTrip.Statement (.frameSend) := fun _ _ he => nomatch (show none = some _ from he)
theorem RoundTrip.retransmitTimeout : RoundTrip.Statement (.retransmitTimeout) := fun _ _ he => nomatch (show none = some _ from he)
theorem RoundTrip.linkPeerLost : RoundTrip.Statement (.linkPeerLost) := fun _ _ he => nomatch (show none = some _ from he)
theorem RoundTrip.spdmRequest : RoundTrip.Statement (.spdmRequest) := fun _ _ he => nomatch (show none = some _ from he)
theorem RoundTrip.snoop : RoundTrip.Statement (.snoop) := fun _ _ he => nomatch (show none = some _ from he)
theorem RoundTrip.powerLoss : RoundTrip.Statement (.powerLoss) := fun _ _ he => nomatch (show none = some _ from he)
theorem RoundTrip.hostLinkUp : RoundTrip.Statement (.hostLinkUp) := fun _ _ he => nomatch (show none = some _ from he)
theorem RoundTrip.portRetrained : RoundTrip.Statement (.portRetrained) := fun _ _ he => nomatch (show none = some _ from he)
theorem RoundTrip.ackIntervalExpiry : RoundTrip.Statement (.ackIntervalExpiry) := fun _ _ he => nomatch (show none = some _ from he)
theorem RoundTrip.otherEthertypeFrame : RoundTrip.Statement (.otherEthertypeFrame) := fun _ _ he => nomatch (show none = some _ from he)
theorem RoundTrip.islandClockStallEnd : RoundTrip.Statement (.islandClockStallEnd) := fun _ _ he => nomatch (show none = some _ from he)

end Sys2Proof.Laws
end

