-- ==== Sys2Proof/Laws/Storage.lean ====
section
/-! SUPPORT. What reading the storage may change (R350): with no error listed nothing, and else the errors, the poison, the counts of
the cells and the reports that wait. -/

namespace Sys2Proof.Machine

-- One proof at a time: a thread for each would pass the limit of memory.
set_option Elab.async false

/-! ### With no error in the storage -/

theorem State.inspect_clean {s : State} (h : s.flaws = []) (key n : Nat) : s.inspect key n = s := by
  unfold State.inspect
  rw [h]
  simp

theorem State.meetWrite_clean {s : State} (h : s.flaws = []) (key n : Nat) : s.meetWrite key n = s := by
  unfold State.meetWrite; rw [h]; rfl

theorem State.readCode_clean {s : State} (h : s.flaws = []) : s.readCode = s := by
  unfold State.readCode
  split
  · rfl
  · dsimp only
    split
    · rfl
    · exact State.inspect_clean h _ _

/-- Steps that each leave a state without errors as it stands leave it so together. -/
theorem foldl_fixed {α β : Type} (f : α → β → α) (a : α) (h : ∀ b, f a b = a) (l : List β) : l.foldl f a = a := by
  induction l with
  | nil => rfl
  | cons b l ih => rw [List.foldl_cons, h, ih]

theorem State.readRecord_clean {s : State} (h : s.flaws = []) (i : Instr) : s.readRecord i = s := by
  unfold State.readRecord
  split
  · rfl
  · split
    · rfl
    · refine foldl_fixed _ s (fun j => ?_) _
      split
      · rfl
      · exact State.inspect_clean h _ _

theorem State.meetWalk_clean {s : State} (h : s.flaws = []) (root va : Nat) : s.meetWalk root va = s := by
  unfold State.meetWalk; rw [h]; rfl

theorem State.meetAddr_clean {s : State} (h : s.flaws = []) (p : Nat) (a : Addr) : s.meetAddr p a = s := by
  unfold State.meetAddr; rw [h]; rfl

theorem State.meetRange_clean {s : State} (h : s.flaws = []) (root va n : Nat) : s.meetRange root va n = s := by
  unfold State.meetRange; rw [h]; rfl

theorem State.meetWalks_clean {s : State} (h : s.flaws = []) (o : Host.Outcome State Fault Refusal) : s.meetWalks o = s := by
  unfold State.meetWalks; rw [h]

/-! ### What reading keeps -/

/-- A fold keeps what each of its steps keeps. -/
theorem foldl_keeps {α β γ : Type} (g : α → γ) (f : α → β → α) (h : ∀ a b, g (f a b) = g a) (l : List β) (a : α) :
    g (l.foldl f a) = g a := by
  induction l generalizing a with
  | nil => rfl
  | cons b l ih => rw [List.foldl_cons, ih, h]

/-- A report keeps every field but the package and the launches. -/
theorem State.reportCell_keeps {γ : Type} (g : State → γ) (h2 : ∀ (s : State) k l, g { s with pkg := k, launches := l } = g s) (s : State)
    (p : Nat) (c : Cause) (d : BitVec 16) (a : Addr) (nid : Word) : g (s.reportCell p c d a nid) = g s := by
  unfold State.reportCell State.noteCause
  split
  · exact h2 s _ s.launches
  · exact h2 s _ _

/-- A field that counting a corrected error does not write is as before. -/
theorem State.corrected_keeps {γ : Type} (g : State → γ) (h1 : ∀ s p c, g (s.setCell p c) = g s)
    (h2 : ∀ (s : State) k l, g { s with pkg := k, launches := l } = g s) (s : State) (p : Nat) : g (s.corrected p) = g s := by
  unfold State.corrected
  dsimp only
  split
  · exact h1 _ _ _
  · split
    · exact (State.reportCell_keeps g h2 _ _ _ _ _ _).trans (h1 _ _ _)
    · exact h1 _ _ _

/-- Reading a doubleword keeps every field but the errors, the poison, the cells and the rings. -/
theorem State.meetFlaw_keeps {γ : Type} (g : State → γ) (h1 : ∀ s p c, g (s.setCell p c) = g s)
    (h2 : ∀ (s : State) k l, g { s with pkg := k, launches := l } = g s) (h3 : ∀ (s : State) f, g { s with flaws := f } = g s)
    (h4 : ∀ (s : State) f q, g { s with flaws := f, poison := q } = g s) (s : State) (d : Nat) : g (s.meetFlaw d) = g s := by
  unfold State.meetFlaw
  dsimp only
  split
  · split
    · exact h3 _ _
    · rw [State.corrected_keeps g h1 h2, h3]
  · split
    · rfl
    · split
      · exact h4 _ _ _
      · exact h4 _ _ _

theorem State.inspect_keeps {γ : Type} (g : State → γ) (h1 : ∀ s p c, g (s.setCell p c) = g s)
    (h2 : ∀ (s : State) k l, g { s with pkg := k, launches := l } = g s) (h3 : ∀ (s : State) f, g { s with flaws := f } = g s)
    (h4 : ∀ (s : State) f q, g { s with flaws := f, poison := q } = g s) (s : State) (key n : Nat) : g (s.inspect key n) = g s := by
  unfold State.inspect
  split
  · exact foldl_keeps g _ (fun _ _ => State.meetFlaw_keeps g h1 h2 h3 h4 _ _) _ _
  · rfl

@[simp] theorem State.inspect_mem (s : State) (key n : Nat) : (s.inspect key n).mem = s.mem :=
  State.inspect_keeps (·.mem) (fun _ _ _ => rfl) (fun _ _ _ => rfl) (fun _ _ => rfl) (fun _ _ _ => rfl) s key n
@[simp] theorem State.inspect_cur (s : State) (key n : Nat) : (s.inspect key n).cur = s.cur :=
  State.inspect_keeps (·.cur) (fun _ _ _ => rfl) (fun _ _ _ => rfl) (fun _ _ => rfl) (fun _ _ _ => rfl) s key n
@[simp] theorem State.inspect_insts (s : State) (key n : Nat) : (s.inspect key n).insts = s.insts :=
  State.inspect_keeps (·.insts) (fun _ _ _ => rfl) (fun _ _ _ => rfl) (fun _ _ => rfl) (fun _ _ _ => rfl) s key n
@[simp] theorem State.inspect_net (s : State) (key n : Nat) : (s.inspect key n).net = s.net :=
  State.inspect_keeps (·.net) (fun _ _ _ => rfl) (fun _ _ _ => rfl) (fun _ _ => rfl) (fun _ _ _ => rfl) s key n
@[simp] theorem State.inspect_par (s : State) (key n : Nat) : (s.inspect key n).par = s.par :=
  State.inspect_keeps (·.par) (fun _ _ _ => rfl) (fun _ _ _ => rfl) (fun _ _ => rfl) (fun _ _ _ => rfl) s key n

/-- A write meets the storage before it: what reading keeps is as before. -/
theorem State.meetWrite_keeps {γ : Type} (g : State → γ) (h1 : ∀ s p c, g (s.setCell p c) = g s)
    (h2 : ∀ (s : State) k l, g { s with pkg := k, launches := l } = g s) (h3 : ∀ (s : State) f, g { s with flaws := f } = g s)
    (h4 : ∀ (s : State) f q, g { s with flaws := f, poison := q } = g s) (s : State) (key n : Nat) : g (s.meetWrite key n) = g s := by
  unfold State.meetWrite
  split
  · rfl
  · exact (h3 _ _).trans (foldl_keeps g _ (fun _ _ => State.inspect_keeps g h1 h2 h3 h4 _ _ _) _ _)

@[simp] theorem State.meetWrite_mem (s : State) (key n : Nat) : (s.meetWrite key n).mem = s.mem :=
  State.meetWrite_keeps (·.mem) (fun _ _ _ => rfl) (fun _ _ _ => rfl) (fun _ _ => rfl) (fun _ _ _ => rfl) s key n
@[simp] theorem State.meetWrite_insts (s : State) (key n : Nat) : (s.meetWrite key n).insts = s.insts :=
  State.meetWrite_keeps (·.insts) (fun _ _ _ => rfl) (fun _ _ _ => rfl) (fun _ _ => rfl) (fun _ _ _ => rfl) s key n
@[simp] theorem State.meetWrite_net (s : State) (key n : Nat) : (s.meetWrite key n).net = s.net :=
  State.meetWrite_keeps (·.net) (fun _ _ _ => rfl) (fun _ _ _ => rfl) (fun _ _ => rfl) (fun _ _ _ => rfl) s key n

/-- Bytes written at a place are those of memory there; of the rest of the state only the poison and what reading changes follow. -/
@[simp] theorem State.writeKey_mem (s : State) (key : Nat) (m : Marked) :
    (s.writeKey key m).mem = Memory.setBytes s.mem key m.bytes := by
  unfold State.writeKey; simp
@[simp] theorem State.writeKey_insts (s : State) (key : Nat) (m : Marked) : (s.writeKey key m).insts = s.insts := by
  unfold State.writeKey; simp
@[simp] theorem State.writeKey_net (s : State) (key : Nat) (m : Marked) : (s.writeKey key m).net = s.net := by
  unfold State.writeKey; simp

/-- A walk reads as many table words as it makes steps, and keeps what reading keeps. -/
theorem State.meetWalk_keeps {γ : Type} (g : State → γ) (h1 : ∀ s p c, g (s.setCell p c) = g s)
    (h2 : ∀ (s : State) k l, g { s with pkg := k, launches := l } = g s) (h3 : ∀ (s : State) f, g { s with flaws := f } = g s)
    (h4 : ∀ (s : State) f q, g { s with flaws := f, poison := q } = g s) (s : State) (root va : Nat) : g (s.meetWalk root va) = g s := by
  unfold State.meetWalk
  split
  · rfl
  · refine foldl_keeps g _ (fun s a => ?_) _ _
    split
    · rfl
    · exact State.inspect_keeps g h1 h2 h3 h4 _ _ _

@[simp] theorem State.meetWalk_mem (s : State) (root va : Nat) : (s.meetWalk root va).mem = s.mem :=
  State.meetWalk_keeps (·.mem) (fun _ _ _ => rfl) (fun _ _ _ => rfl) (fun _ _ => rfl) (fun _ _ _ => rfl) s root va
@[simp] theorem State.meetWalk_insts (s : State) (root va : Nat) : (s.meetWalk root va).insts = s.insts :=
  State.meetWalk_keeps (·.insts) (fun _ _ _ => rfl) (fun _ _ _ => rfl) (fun _ _ => rfl) (fun _ _ _ => rfl) s root va
@[simp] theorem State.meetWalk_net (s : State) (root va : Nat) : (s.meetWalk root va).net = s.net :=
  State.meetWalk_keeps (·.net) (fun _ _ _ => rfl) (fun _ _ _ => rfl) (fun _ _ => rfl) (fun _ _ _ => rfl) s root va

@[simp] theorem State.readCode_cur (s : State) : s.readCode.cur = s.cur := by
  unfold State.readCode
  split
  · rfl
  · dsimp only
    split
    · rfl
    · simp
@[simp] theorem State.readCode_mem (s : State) : s.readCode.mem = s.mem := by
  unfold State.readCode
  split
  · rfl
  · dsimp only
    split
    · rfl
    · simp

end Sys2Proof.Machine
end

