-- ==== Sys2Proof/Tests/Slice0.lean ====
section
/-! SUPPORT. Tests: ill-formed terms that WellFormed refuses, words written out from the encodings of the manual, single steps with
values of the manual's tables, and for each statement of Certificates/Slice0/Obligations.lean a state and operands that meet its
hypotheses (clause by clause where it has several). -/

namespace Sys2Proof.Tests
open Sys2Proof Sys2Proof.Machine

-- One proof at a time: each waits for the kernel, and a thread for each would pass the limit of memory.
set_option Elab.async false

/-! ### Ill-formed terms: one for each check of WellFormed, which refuses it and gives it no word -/

/-- R21: two operand ports of one parity, of the g and of the v file. -/
theorem test_wf_parity : (Instr.add 17 8 10 false false 0).wf = false ∧ (Instr.add 17 8 9 false false 0).wf = true ∧
    (Instr.add 17 0 10 false false 0).wf = true ∧ (Instr.vand 0 1 2 4 1 false false 0).wf = false ∧ (Instr.vand 0 1 0 4 1 false false 0).wf = false := by
  decide
/-- R69: register pairs are even and not g0; an AMO2 address pair is even. -/
theorem test_wf_pairs : (Instr.ldd 9 1 0 0).wf = false ∧ (Instr.ldd 0 1 0 0).wf = false ∧ (Instr.std 9 1 false 0 0).wf = false ∧
    (Instr.amoadd 8 1 9 false true).wf = false ∧ (Instr.amoadd 9 1 9 false false).wf = true ∧ (Instr.dcas 8 1 10 false false).wf = false ∧
    (Instr.amov2 8 1 9 false).wf = false := by decide
/-- R112: a combination of 3; R75: a branch never taken; R84: a body of no words, or of more than 4,095. -/
theorem test_wf_fields : (Instr.cmpeq 1 3 8 9 false false 0).wf = false ∧ (Instr.br 0 true 0 4).wf = false ∧ (Instr.call 0 true 0 4).wf = false ∧
    (Instr.loop 8 false 0 0).wf = false ∧ (Instr.loop 8 false 0 4096).wf = false ∧ (Instr.loop 8 false 0 4095).wf = true := by decide
/-- R93 to R97, R198: widths, types, lanes, masks; halves and fields of WIDX. R82: a rounding mode of MOD. -/
theorem test_wf_vector : (Instr.vadd 3 1 2 3 1 false false 0).wf = false ∧ (Instr.vcmpeq 3 1 2 3 1 false false 0).wf = false ∧
    (Instr.vabs 3 1 2 1 false 0).wf = false ∧ (Instr.vins 1 8 16).wf = false ∧ (Instr.vext 8 1 16).wf = false ∧ (Instr.vpopk 8 8).wf = false ∧
    (Instr.vmovk 0 8).wf = false ∧ (Instr.vmovk 8 8).wf = false ∧ (Instr.vkmov 8 8).wf = false ∧ (Instr.widx 8 2 0 0).wf = false ∧
    (Instr.widx 8 0 6 0).wf = false ∧ (Instr.mod 5 false).wf = false := by decide

/-! ### Words that decode to no instruction -/

/-- Why a word is refused: the reason and the bit of ILLEGAL_ENCODING (R68). -/
def refusal (w : Word) : Option (Nat × Nat) :=
  match decode w with
  | .error e => some (e.reason, e.bit)
  | .ok _ => none
/-- R21: `int fn=add d=g9 a=g11 b=g13` is refused with reason 1 and bit 11; R75: so is a branch that is never taken. R67: major 0, and a
function of major 1 that no table lists, are no instruction and take ILLEGAL_OPCODE. -/
theorem test_refused : refusal 0x052B6800 = some (1, 11) ∧ (refusal 0x40400000).isSome = true ∧
    decode 0x00000000 = .ok (.wordNotAnInstruction 0) ∧ decode 0x04000012 = .ok (.wordNotAnInstruction 0x04000012) := by decide

/-! ### Words written out from the encodings of R70 to R99, field by field from bit 31 down -/

theorem test_decode_int :
    decode 0b000001_10001_01000_01001_0_0_00_0000000 = .ok (.add 17 8 9 false false 0) ∧
    decode 0b000001_10010_01001_01010_1_0_01_0000001 = .ok (.sub 18 9 10 true false 1) ∧
    decode 0b000001_10011_01010_01011_0_1_10_0000010 = .ok (.and 19 10 11 false true 2) ∧
    decode 0b000001_10100_01011_01100_1_1_11_0000011 = .ok (.andn 20 11 12 true true 3) ∧
    decode 0b000001_10101_01100_01101_0_0_00_0000100 = .ok (.or 21 12 13 false false 0) ∧
    decode 0b000001_10110_01000_01001_1_0_01_0000101 = .ok (.orn 22 8 9 true false 1) ∧
    decode 0b000001_10111_01001_01010_0_1_10_0000110 = .ok (.xor 23 9 10 false true 2) ∧
    decode 0b000001_11000_01010_01011_1_1_11_0000111 = .ok (.xnor 24 10 11 true true 3) ∧
    decode 0b000001_10001_01011_01100_0_0_00_0001000 = .ok (.shl 17 11 12 false false 0) ∧
    decode 0b000001_10010_01100_01101_1_0_01_0001001 = .ok (.shr 18 12 13 true false 1) ∧
    decode 0b000001_10011_01000_01001_0_1_10_0001010 = .ok (.sha 19 8 9 false true 2) ∧
    decode 0b000001_10100_01001_01010_1_1_11_0001011 = .ok (.rotl 20 9 10 true true 3) ∧
    decode 0b000001_10101_01010_01011_0_0_00_0001100 = .ok (.mins 21 10 11 false false 0) ∧
    decode 0b000001_10110_01011_01100_1_0_01_0001101 = .ok (.maxs 22 11 12 true false 1) ∧
    decode 0b000001_10111_01100_01101_0_1_10_0001110 = .ok (.minu 23 12 13 false true 2) ∧
    decode 0b000001_11000_01000_01001_1_1_11_0001111 = .ok (.maxu 24 8 9 true true 3) ∧
    decode 0b000001_10001_01001_01010_0_0_00_0010000 = .ok (.adds 17 9 10 false false 0) ∧
    decode 0b000001_10010_01010_01011_1_0_01_0010001 = .ok (.subs 18 10 11 true false 1) ∧
    decode 0b000001_00101_00110_00111_0_1_10_0011011 = .ok (.sel 5 3 6 7 false true 2) := by
  decide

theorem test_decode_imm :
    decode 0b000010_10010_01001_0_00_1111111111011 = .ok (.addi 18 9 false 0 (-5)) ∧
    decode 0b000011_10011_01010_1_01_1111111111010 = .ok (.andi 19 10 true 1 (-6)) ∧
    decode 0b000100_10100_01011_0_10_1111111111001 = .ok (.ori 20 11 false 2 (-7)) ∧
    decode 0b000101_10101_01100_1_11_1111111111000 = .ok (.xori 21 12 true 3 (-8)) ∧
    decode 0b000111_10110_01101_0_00_1111111110111 = .ok (.muli 22 13 false 0 (-9)) ∧
    decode 0b000110_10010_00000_0_01_0111111111111 = .ok (.movi 18 1 4095) := by
  decide

theorem test_decode_cmp :
    decode 0b001000_00000_00010_00011_0_1_00_0000000 = .ok (.cmpeq 0 0 2 3 false true 0) ∧
    decode 0b001000_00101_00011_00100_1_0_01_0000001 = .ok (.cmpne 1 1 3 4 true false 1) ∧
    decode 0b001000_01010_00100_00101_0_1_10_0000010 = .ok (.cmplt 2 2 4 5 false true 2) ∧
    decode 0b001000_01100_00101_00110_1_0_11_0000011 = .ok (.cmple 3 0 5 6 true false 3) ∧
    decode 0b001000_10001_00110_00111_0_1_00_0000100 = .ok (.cmpgt 4 1 6 7 false true 0) ∧
    decode 0b001000_10110_00111_01000_1_0_01_0000101 = .ok (.cmpge 5 2 7 8 true false 1) ∧
    decode 0b001000_11000_01000_01001_0_1_10_0000110 = .ok (.cmpltu 6 0 8 9 false true 2) ∧
    decode 0b001000_11101_01001_01010_1_0_11_0000111 = .ok (.cmpleu 7 1 9 10 true false 3) ∧
    decode 0b001000_00010_01010_01011_0_1_00_0001000 = .ok (.cmpgtu 0 2 10 11 false true 0) ∧
    decode 0b001000_00100_01011_01100_1_0_01_0001001 = .ok (.cmpgeu 1 0 11 12 true false 1) ∧
    decode 0b001000_01001_01100_01101_0_1_10_0001010 = .ok (.cmpbitany 2 1 12 13 false true 2) ∧
    decode 0b001000_01110_01101_01110_1_0_11_0001011 = .ok (.cmpbitnone 3 2 13 14 true false 3) ∧
    decode 0b001001_11100_10100_0_11_0000000000000 = .ok (.cmpieq 7 20 false 3 0) ∧
    decode 0b001001_11001_10101_1_10_0000001100100 = .ok (.cmpine 6 21 true 2 100) ∧
    decode 0b001001_10110_10110_0_01_0000011001000 = .ok (.cmpilt 5 22 false 1 200) ∧
    decode 0b001001_10011_10111_1_00_0000100101100 = .ok (.cmpiltu 4 23 true 0 300) := by
  decide

theorem test_decode_bits :
    decode 0b001010_00100_01100_11111_0_0_00_0000000 = .ok (.shli 4 12 31 false 0) ∧
    decode 0b001010_00101_01101_11110_1_0_01_0000001 = .ok (.shri 5 13 30 true 1) ∧
    decode 0b001010_00110_01110_11101_0_0_10_0000010 = .ok (.shai 6 14 29 false 2) ∧
    decode 0b001010_00111_01111_11100_1_0_11_0000011 = .ok (.rotli 7 15 28 true 3) ∧
    decode 0b001010_00100_01100_00000_0_0_00_0000100 = .ok (.clz 4 12 false 0) ∧
    decode 0b001010_00101_01101_00000_1_0_01_0000101 = .ok (.ctz 5 13 true 1) ∧
    decode 0b001010_00110_01110_00000_0_0_10_0000110 = .ok (.popc 6 14 false 2) ∧
    decode 0b001010_00111_01111_00000_1_0_11_0000111 = .ok (.brev 7 15 true 3) ∧
    decode 0b001010_01000_10000_00000_0_0_00_0001000 = .ok (.bswap 8 16 false 0) ∧
    decode 0b001010_10101_00110_00111_0_1_00_0001001 = .ok (.bfx 21 6 7 false true 0) ∧
    decode 0b001010_10110_00111_01000_0_1_01_0001010 = .ok (.bfxs 22 7 8 false true 1) ∧
    decode 0b001010_10111_01000_01001_0_1_10_0001011 = .ok (.bfi 23 8 9 false true 2) ∧
    decode 0b001010_00011_01010_01111_1_0_01_0110011 = .ok (.fshl 3 10 15 true false 1 19) ∧
    decode 0b001010_00011_01010_01111_0_1_10_1011110 = .ok (.fshr 3 10 15 false true 2 30) ∧
    decode 0b001011_10100_10010_10001_0_0_10010110_0 = .ok (.lut3 20 18 17 false false 0x96) := by
  decide

theorem test_decode_muldiv :
    decode 0b001100_01000_10000_10101_0_1_00_0000000 = .ok (.mul 8 16 21 false true 0) ∧
    decode 0b001100_01001_10001_10110_1_1_01_0000001 = .ok (.mulhs 9 17 22 true true 1) ∧
    decode 0b001100_01010_10010_10111_0_1_10_0000010 = .ok (.mulhu 10 18 23 false true 2) ∧
    decode 0b001100_01011_10011_11000_1_1_11_0000011 = .ok (.divs 11 19 24 true true 3) ∧
    decode 0b001100_01100_10100_11001_0_1_00_0000100 = .ok (.divu 12 20 25 false true 0) ∧
    decode 0b001100_01101_10101_11010_1_1_01_0000101 = .ok (.rems 13 21 26 true true 1) ∧
    decode 0b001100_01110_10110_11011_0_1_10_0000110 = .ok (.remu 14 22 27 false true 2) := by
  decide

theorem test_decode_fps :
    decode 0b001101_01001_01010_01011_1_0_00_0000000 = .ok (.fadd 9 10 11 true false 0) ∧
    decode 0b001101_01010_01011_01100_1_1_01_0000001 = .ok (.fsub 10 11 12 true true 1) ∧
    decode 0b001101_01011_01100_01101_1_0_10_0000010 = .ok (.fmul 11 12 13 true false 2) ∧
    decode 0b001101_01100_01101_01110_1_1_11_0000011 = .ok (.ffma 12 13 14 true true 3) ∧
    decode 0b001101_01101_01110_01111_1_0_00_0000100 = .ok (.fmin 13 14 15 true false 0) ∧
    decode 0b001101_01110_01111_10000_1_1_01_0000101 = .ok (.fmax 14 15 16 true true 1) ∧
    decode 0b001101_01111_10000_00000_0_0_10_0000110 = .ok (.fabs 15 16 false 2) ∧
    decode 0b001101_10000_10001_00000_1_0_11_0000111 = .ok (.fneg 16 17 true 3) ∧
    decode 0b001101_10001_10010_00000_0_0_00_0001000 = .ok (.fcvtif 17 18 false 0) ∧
    decode 0b001101_10010_10011_00000_1_0_01_0001001 = .ok (.fcvtfi 18 19 true 1) ∧
    decode 0b001101_10011_10100_00000_0_0_10_0001010 = .ok (.fsqrt 19 20 false 2) ∧
    decode 0b001101_01000_01010_01101_0_0_00_0010000 = .ok (.fcmpeq 2 10 13 false false 0) ∧
    decode 0b001101_01100_01011_01110_0_0_01_0010001 = .ok (.fcmpne 3 11 14 false false 1) ∧
    decode 0b001101_10000_01100_01111_0_0_10_0010010 = .ok (.fcmplt 4 12 15 false false 2) ∧
    decode 0b001101_10100_01101_10000_0_0_11_0010011 = .ok (.fcmple 5 13 16 false false 3) ∧
    decode 0b001101_11000_01110_10001_0_0_00_0010100 = .ok (.fcmpun 6 14 17 false false 0) := by
  decide

theorem test_decode_addr :
    decode 0b001110_00011_00101_01001_0_1_10_0000000 = .ok (.adda 3 5 9 true 2) ∧
    decode 0b001110_00100_00110_01000_0_0_01_0000001 = .ok (.addau 4 6 8 false 1) ∧
    decode 0b001110_00111_00010_11110_0_1_11_0010110 = .ok (.addas 7 2 30 true 3 6) ∧
    decode 0b001110_00001_01101_01110_1_0_00_0000011 = .ok (.movga 1 13 14 true false 0) ∧
    decode 0b001110_11101_00111_00000_0_0_01_0000100 = .ok (.movag 29 7 1) ∧
    decode 0b001110_11100_00110_00000_0_0_10_0000101 = .ok (.movagh 28 6 2) ∧
    decode 0b001110_11011_00101_00011_0_0_11_0000110 = .ok (.suba 27 5 3 3) ∧
    decode 0b001111_00110_00001_0_10_1000000000000 = .ok (.addai 6 1 2 (-4096)) := by
  decide

theorem test_decode_control :
    decode 0b010000_011_1_00_11111111111111111010 = .ok (.br 3 true 0 (-6)) ∧
    decode 0b010001_000_0_10_00000000001111101000 = .ok (.call 0 false 2 1000) ∧
    decode 0b010010_00000_11111_00000_1_0_01_0000000 = .ok (.jmpr 31 true 1) ∧
    decode 0b010010_00000_01100_00000_0_0_10_0000001 = .ok (.callr 12 false 2) ∧
    decode 0b010010_00000_00000_00000_0_0_11_0000010 = .ok (.ret 3) ∧
    decode 0b010010_00000_00000_00000_0_0_01_0000011 = .ok (.rtt 1) ∧
    decode 0b010011_00000_01011_1_10_0000000001100 = .ok (.loop 11 true 2 12) := by
  decide

theorem test_decode_memory :
    decode 0b010100_10000_010_0_00_000_111111111001 = .ok (.ldb 16 2 0 (-7)) ∧
    decode 0b010100_10001_011_0_01_001_111111111100 = .ok (.ldbs 17 3 1 (-4)) ∧
    decode 0b010100_10010_100_0_10_010_111111111111 = .ok (.ldh 18 4 2 (-1)) ∧
    decode 0b010100_10011_101_0_11_011_000000000010 = .ok (.ldhs 19 5 3 2) ∧
    decode 0b010100_10100_110_0_00_100_000000000101 = .ok (.ldw 20 6 0 5) ∧
    decode 0b010100_10110_111_0_01_101_000000001000 = .ok (.ldd 22 7 1 8) ∧
    decode 0b010101_10000_111_0_01_000_011111111111 = .ok (.stb 16 7 false 1 2047) ∧
    decode 0b010101_10010_101_1_01_010_011111111101 = .ok (.sth 18 5 true 1 2045) ∧
    decode 0b010101_10100_011_0_01_100_011111111011 = .ok (.stw 20 3 false 1 2043) ∧
    decode 0b010101_11000_010_0_01_101_011111111010 = .ok (.std 24 2 false 1 2042) ∧
    decode 0b010110_00100_001_0_11_101_100000000000 = .ok (.lda 4 1 3 (-2048)) ∧
    decode 0b010111_00110_111_0_10_101_000000001001 = .ok (.sta 6 7 2 9) := by
  decide

theorem test_decode_atomic :
    decode 0b011000_10010_000_00_00101_0_1_0_0_0000000 = .ok (.amoadd 18 0 5 true false) ∧
    decode 0b011000_10010_001_00_10100_0_0_1_0_0000001 = .ok (.amoand 18 1 20 false true) ∧
    decode 0b011000_10100_010_00_00111_0_1_0_0_0000010 = .ok (.amoor 20 2 7 true false) ∧
    decode 0b011000_10010_011_00_10100_0_0_1_0_0000011 = .ok (.amoxor 18 3 20 false true) ∧
    decode 0b011000_10110_100_00_01001_0_1_0_0_0000100 = .ok (.amomins 22 4 9 true false) ∧
    decode 0b011000_10010_101_00_10100_0_0_1_0_0000101 = .ok (.amomaxs 18 5 20 false true) ∧
    decode 0b011000_11000_110_00_01011_0_1_0_0_0000110 = .ok (.amominu 24 6 11 true false) ∧
    decode 0b011000_10010_111_00_10100_0_0_1_0_0000111 = .ok (.amomaxu 18 7 20 false true) ∧
    decode 0b011000_11010_000_00_01101_0_1_0_0_0001000 = .ok (.amoswap 26 0 13 true false) ∧
    decode 0b011000_00110_011_00_01000_1_1_1_0_0001001 = .ok (.amocas 6 3 8 true true true) ∧
    decode 0b011000_00111_100_00_01001_0_1_0_0_0001010 = .ok (.amofadd 7 4 9 true) ∧
    decode 0b011001_01010_010_00_01100_1_0_0_0_0000000 = .ok (.dcas 10 2 12 true false) ∧
    decode 0b011001_01011_110_00_01101_0_1_0_0_0000001 = .ok (.amov2 11 6 13 true) := by
  decide

theorem test_decode_sys :
    decode 0b011010_00000_00000_00000_0_0_10_0000000 = .ok (.fence 2) ∧
    decode 0b011010_01001_00000_10101_0_0_01_0000001 = .ok (.movs 9 0x015 1) ∧
    decode 0b011010_01001_10000_00001_0_0_00_0000010 = .ok (.movsw 9 0x201 0) ∧
    decode 0b011010_00000_11111_11111_0_0_11_0000011 = .ok (.trap 1023 3) ∧
    decode 0b011010_00000_00000_00000_0_0_01_0000100 = .ok (.wspill 1) ∧
    decode 0b011010_00000_00000_00000_0_0_10_0000101 = .ok (.wfill 2) ∧
    decode 0b011010_01101_00001_00100_0_0_00_0000110 = .ok (.widx 13 1 4 0) := by
  decide

theorem test_decode_vmemory :
    decode 0b011011_1001_0_011_0_01_000_111111111111 = .ok (.vld 9 3 1 (-1)) ∧
    decode 0b011011_1001_0_011_0_10_001_000000010001 = .ok (.vldh 9 3 2 17) ∧
    decode 0b011100_1010_0_100_1_11_000_000000100001 = .ok (.vst 10 4 true 3 33) ∧
    decode 0b011100_1010_0_100_0_00_001_000000100010 = .ok (.vsth 10 4 false 0 34) ∧
    decode 0b011101_1100_101_0110_011_00_000_0000000 = .ok (.gathw 12 5 6 3 0) ∧
    decode 0b011101_1101_101_0111_100_01_000_0000001 = .ok (.scatw 13 5 7 4 1) ∧
    decode 0b011101_1110_101_1000_101_10_000_0000010 = .ok (.gathh 14 5 8 5 2) ∧
    decode 0b011101_1100_101_1001_110_11_000_0000011 = .ok (.scath 12 5 9 6 3) := by
  decide

theorem test_decode_vint :
    decode 0b011110_0000_0011_0110_000_0_1_00_0000000 = .ok (.vadd 0 0 3 6 0 false true 0) ∧
    decode 0b011110_0001_0100_0111_001_1_1_01_0100001 = .ok (.vsub 1 1 4 7 1 true true 1) ∧
    decode 0b011110_0010_0101_1000_010_0_1_10_1000010 = .ok (.vmul 2 2 5 8 2 false true 2) ∧
    decode 0b011110_0011_0110_1001_011_1_1_11_0000011 = .ok (.vmulhs 0 3 6 9 3 true true 3) ∧
    decode 0b011110_0100_0111_1010_100_0_1_00_0100100 = .ok (.vand 1 4 7 10 4 false true 0) ∧
    decode 0b011110_0101_1000_1011_101_1_1_01_1000101 = .ok (.vor 2 5 8 11 5 true true 1) ∧
    decode 0b011110_0110_1001_1100_110_0_1_10_0000110 = .ok (.vxor 0 6 9 12 6 false true 2) ∧
    decode 0b011110_0111_1010_1101_111_1_1_11_0100111 = .ok (.vandn 1 7 10 13 7 true true 3) ∧
    decode 0b011110_1000_1011_1110_000_0_1_00_1001000 = .ok (.vshl 2 8 11 14 0 false true 0) ∧
    decode 0b011110_1001_1100_1111_001_1_1_01_0001001 = .ok (.vshr 0 9 12 15 1 true true 1) ∧
    decode 0b011110_1010_1101_0000_010_0_1_10_0101010 = .ok (.vsha 1 10 13 0 2 false true 2) ∧
    decode 0b011110_1011_1110_0001_011_1_1_11_1001011 = .ok (.vmins 2 11 14 1 3 true true 3) ∧
    decode 0b011110_1100_1111_0010_100_0_1_00_0001100 = .ok (.vmaxs 0 12 15 2 4 false true 0) ∧
    decode 0b011110_1101_0000_0011_101_1_1_01_0101101 = .ok (.vminu 1 13 0 3 5 true true 1) ∧
    decode 0b011110_1110_0001_0100_110_0_1_10_1001110 = .ok (.vmaxu 2 14 1 4 6 false true 2) ∧
    decode 0b011110_1111_0010_0101_111_1_1_11_0001111 = .ok (.vadds 0 15 2 5 7 true true 3) ∧
    decode 0b011110_0000_0011_0110_000_0_1_00_0110000 = .ok (.vsubs 1 0 3 6 0 false true 0) ∧
    decode 0b011110_0100_0101_0000_110_1_0_01_0110001 = .ok (.vabs 1 4 5 6 true 1) ∧
    decode 0b011110_0100_0101_1000_111_0_1_10_0010010 = .ok (.vdot4 4 5 8 7 false true 2) := by
  decide

theorem test_decode_vfp :
    decode 0b011111_0000_0001_0010_000_1_0_00_0000000 = .ok (.vfadd 0 0 1 2 0 true false 0) ∧
    decode 0b011111_0001_0010_0011_001_1_1_01_0100001 = .ok (.vfsub 1 1 2 3 1 true true 1) ∧
    decode 0b011111_0010_0011_0100_010_1_0_10_1000010 = .ok (.vfmul 2 2 3 4 2 true false 2) ∧
    decode 0b011111_0011_0100_0101_011_1_1_11_0000011 = .ok (.vffma 0 3 4 5 3 true true 3) ∧
    decode 0b011111_0100_0101_0110_100_1_0_00_0100100 = .ok (.vffms 1 4 5 6 4 true false 0) ∧
    decode 0b011111_0101_0110_0111_101_1_1_01_1000101 = .ok (.vfmin 2 5 6 7 5 true true 1) ∧
    decode 0b011111_0110_0111_1000_110_1_0_10_0000110 = .ok (.vfmax 0 6 7 8 6 true false 2) ∧
    decode 0b011111_1001_1010_1011_001_1_1_01_0001001 = .ok (.vfdiv 0 9 10 11 1 true true 1) ∧
    decode 0b011111_0011_0100_0000_101_1_0_10_1000111 = .ok (.vfabs 2 3 4 5 true 2) ∧
    decode 0b011111_0011_0100_0000_101_0_0_01_0101000 = .ok (.vfneg 1 3 4 5 false 1) ∧
    decode 0b011111_0011_0100_0000_101_1_0_11_0001010 = .ok (.vfsqrt 3 4 5 true 3) := by
  decide

theorem test_decode_vcvt :
    decode 0b100000_0000_1111_0000_000_0_0_00_0000000 = .ok (.vcvtf32f16 false 0 15 0 false 0) ∧
    decode 0b100000_0001_1110_0000_001_1_0_01_0000001 = .ok (.vcvtf16f32 false 1 14 1 true 1) ∧
    decode 0b100000_0010_1101_0000_010_0_0_10_1000010 = .ok (.vcvtf32bf true 2 13 2 false 2) ∧
    decode 0b100000_0011_1100_0000_011_1_0_11_1000011 = .ok (.vcvtbff32 true 3 12 3 true 3) ∧
    decode 0b100000_0100_1011_0000_100_0_0_00_0000100 = .ok (.vcvtf32f8a false 4 11 4 false 0) ∧
    decode 0b100000_0101_1010_0000_101_1_0_01_0000101 = .ok (.vcvtf8af32 false 5 10 5 true 1) ∧
    decode 0b100000_0110_1001_0000_110_0_0_10_1000110 = .ok (.vcvtf32f8b true 6 9 6 false 2) ∧
    decode 0b100000_0111_1000_0000_111_1_0_11_1000111 = .ok (.vcvtf8bf32 true 7 8 7 true 3) ∧
    decode 0b100000_0001_0010_0000_011_1_0_00_0001000 = .ok (.vcvtf32i32 1 2 3 true 0) ∧
    decode 0b100000_0001_0010_0000_011_0_0_01_0001001 = .ok (.vcvti32f32 1 2 3 false 1) ∧
    decode 0b100000_1010_0101_0000_010_1_0_10_0001010 = .ok (.vcvti32i16 false 10 5 2 true 2) ∧
    decode 0b100000_1011_0100_0000_011_1_0_11_1001011 = .ok (.vcvti32i8 true 11 4 3 true 3) ∧
    decode 0b100000_1100_0011_0000_100_1_0_00_0001100 = .ok (.vcvti8i32 false 12 3 4 true 0) := by
  decide

theorem test_decode_vperm :
    decode 0b100001_0111_10011_0000_000000_0000000 = .ok (.vbcast 7 19) ∧
    decode 0b100001_0111_10011_0000_001101_0000001 = .ok (.vins 7 19 13) ∧
    decode 0b100001_0000_10101_1001_001111_0000010 = .ok (.vext 21 9 15) ∧
    decode 0b100001_0110_00000_0101_000000_0000011 = .ok (.vshuf 6 5) ∧
    decode 0b100001_0110_00000_0100_001011_0000100 = .ok (.vrot 6 4 11) ∧
    decode 0b100001_0000_01010_1000_000000_0000101 = .ok (.vredadd 10 8) ∧
    decode 0b100001_0000_01011_1001_000000_0000110 = .ok (.vredfadd 11 9) ∧
    decode 0b100001_0000_01100_1010_000000_0000111 = .ok (.vredmax 12 10) ∧
    decode 0b100001_0000_01101_1011_000000_0001000 = .ok (.vredmin 13 11) ∧
    decode 0b100001_1110_00000_1101_000000_0001001 = .ok (.vscan 14 13) ∧
    decode 0b100001_0000_00011_0000_000111_0001010 = .ok (.vpopk 3 7) ∧
    decode 0b100001_0000_00100_0000_000110_0001011 = .ok (.vmovk 6 4) ∧
    decode 0b100001_0000_00101_0000_000000_0001100 = .ok (.vkmov 5 0) := by
  decide

theorem test_decode_vcmp :
    decode 0b100010_0001_0010_0011_000_1_0_00_0000000 = .ok (.vcmpeq 0 1 2 3 0 true false 0) ∧
    decode 0b100010_0010_0011_0100_001_1_0_01_0100001 = .ok (.vcmpne 1 2 3 4 1 true false 1) ∧
    decode 0b100010_0011_0100_0101_010_1_0_10_1000010 = .ok (.vcmplt 2 3 4 5 2 true false 2) ∧
    decode 0b100010_0100_0101_0110_011_1_0_11_0000011 = .ok (.vcmple 0 4 5 6 3 true false 3) ∧
    decode 0b100010_0101_0110_0111_100_1_0_00_0100100 = .ok (.vcmpgt 1 5 6 7 4 true false 0) ∧
    decode 0b100010_0110_0111_1000_101_1_0_01_1000101 = .ok (.vcmpge 2 6 7 8 5 true false 1) ∧
    decode 0b100010_0101_0110_1001_010_0_1_01_1000110 = .ok (.vcmpun 5 6 9 2 false true 1) ∧
    decode 0b100011_1011_0010_0111_100_1_0_11001010_0 = .ok (.vlut3 11 2 7 4 true false 0xCA) := by
  decide

theorem test_decode_evt :
    decode 0b100101_01001_00100_00001_0_0_10_0000000 = .ok (.offer 9 4 true 2) ∧
    decode 0b100101_01010_01011_00000_1_0_01_0000001 = .ok (.evtest 10 11 true 1) ∧
    decode 0b100101_01010_01011_00000_0_0_11_0000010 = .ok (.evwait 10 11 false 3) ∧
    decode 0b100101_00000_00000_11111_0_0_00_0000011 = .ok (.pause 31 0) ∧
    decode 0b100101_01100_00000_00110_0_0_01_0000100 = .ok (.dlr 12 6 1) ∧
    decode 0b100101_00000_01101_00111_1_0_10_0000101 = .ok (.dlw 7 13 true 2) ∧
    decode 0b100101_00000_00000_00000_0_0_11_0000110 = .ok (.retire 3) := by
  decide

theorem test_decode_engine :
    decode 0b100110_01001_01010_00000_1_0_01_0000000 = .ok (.mclaim 9 10 true 1) ∧
    decode 0b100110_00000_01011_00000_0_0_10_0000001 = .ok (.mrel 11 false 2) ∧
    decode 0b100110_01100_01101_01110_1_0_11_0000010 = .ok (.mma 12 13 14 true false 3) ∧
    decode 0b100110_01100_01101_00000_1_0_00_0000011 = .ok (.mzero 12 13 true 0) ∧
    decode 0b100110_01100_01101_01110_0_1_01_0000100 = .ok (.mdrain 12 13 14 false true 1) ∧
    decode 0b100111_00000_00011_00000_0_0_00_0000000 = .ok (.copy 3 0) ∧
    decode 0b100111_00000_00100_00000_0_0_01_0000001 = .ok (.copyg 4 1) ∧
    decode 0b100111_00000_00101_00000_0_0_10_0000010 = .ok (.copyop 5 2) ∧
    decode 0b101000_00000_00111_00000_0_0_00_0000000 = .ok (.conv 7 0) ∧
    decode 0b101000_00000_00110_00000_0_0_01_0000001 = .ok (.planes 6 1) ∧
    decode 0b101000_00000_00101_00000_0_0_10_0000010 = .ok (.sparsify 5 2) ∧
    decode 0b101000_00000_00100_00000_0_0_11_0000011 = .ok (.scalec 4 3) ∧
    decode 0b101001_00000_10001_00110_1_0_01_0000000 = .ok (.tidset 17 6 true 1) ∧
    decode 0b101001_00000_10010_00101_0_0_10_0000001 = .ok (.tidget 18 5 false 2) ∧
    decode 0b101001_00000_10011_00000_1_0_11_0000010 = .ok (.tidclr 19 true 3) := by
  decide

theorem test_decode_disp :
    decode 0b101010_01000_01001_00000_1_0_01_0000000 = .ok (.grow 8 9 true 1) ∧
    decode 0b101010_01000_00111_00000_0_0_10_0000001 = .ok (.launch 8 7 2) ∧
    decode 0b101010_01000_00110_00000_0_0_11_0000010 = .ok (.restart 8 6 3) ∧
    decode 0b101010_00000_11001_00000_1_0_00_0000011 = .ok (.seal 25 true 0) := by
  decide

theorem test_decode_hint :
    decode 0b111111_00_000000000000000000000101 = .ok (.stall 5) ∧
    decode 0b111111_01_000000000000000000001100 = .ok (.wide 0xC) ∧
    decode 0b111111_10_000000000000000000001010 = .ok (.mod 2 true) ∧
    decode 0b111111_11_000000000000000000000000 = .ok (.crit) := by
  decide

theorem test_decode_worked :
    decode 0x52284003 = .ok (.ldw 17 2 0 3) ∧
    decode 0xFD00000C = .ok (.wide 0xC) ∧
    decode 0x0A4906A0 = .ok (.addi 18 9 false 0 0x6A0) ∧
    decode 0x066A5A00 = .ok (.add 19 10 11 false true 0) ∧
    decode 0x21928802 = .ok (.cmplt 3 0 18 17 false false 0) ∧
    decode 0x2E92892C = .ok (.lut3 20 18 17 false false 0x96) ∧
    decode 0x41CFFFFA = .ok (.br 3 true 0 (-6)) ∧
    decode 0xFE00000A = .ok (.mod 2 true) ∧
    decode 0xFC000005 = .ok (.stall 5) := by
  decide

/-! ### States for the witnesses -/

/-- A node that runs, with a vector context. -/
def node0 : Node :=
  { stt := .running, vec := some {}, pc := 0x1000, tvec := 0x1010, begun := true,
    g := [(8, { val := 7, live := true }), (9, { val := 3, live := true })] }
/-- Event 0 is contributed to by the node, event 1 is another's, event 2 is observed. -/
def image0 : Image :=
  { w := 1, h := 1, codeOff := 0x1000, code := [0, 0, 0, 0], widths := [1, 4],
    nodes := [{ lcell := 3, slot := 0, prio := 0, vec := true, notv := false, stack := 48, entry := 0, tvec := 0, wstk := 0, wlim := 0 }],
    events := [{ kind := 0, parts := [{ id := 0, pkind := 0, role := 0, obs := false }] }, { kind := 0, parts := [] },
               { kind := 0, parts := [{ id := 0, pkind := 0, role := 0, obs := true }] }] }
/-- A domain of one croft at site 0. -/
def inst0 : Inst := { image := image0, sites := [0], gens := [0] }
/-- Cell `p` runs the node `n` of the instance `i`. -/
def at_ (p : Nat) (n : Node) (i : Inst := inst0) : State :=
  { (State.reset.setInst 0 i).setCell p { inst := some 0, lcell := p % 4, codeOff := 0x1000, codeLen := 16, running := some 0, nodes := [(0, n)] } with cur := p }
/-- The point at which it issues. -/
def pt (p : Nat) (n : Node) : Issue := { p := p, i := 0, c := 0, n := n }

/-- A node with nothing pending issues whatever its instruction names. -/
theorem clear_at (p : Nat) {n : Node} (i : Inst) (h1 : n.stt = .running) (h2 : n.issueAt = 0) (h3 : n.fixed = []) (h4 : n.owed = [])
    (h5 : n.chk = false) (r w : List RegName) : Clear (at_ p n i) (pt p n) r w := by
  refine ⟨?_, ?_, ?_⟩
  · have hc : (at_ p n i).cell p = { inst := some 0, lcell := p % 4, codeOff := 0x1000, codeLen := 16, running := some 0, nodes := [(0, n)] } := by
      simp [at_, State.setCell, State.setInst, State.cell, State.reset, Tab.getD, Tab.get?, Tab.set]
    have hn : (at_ p n i).node? p 0 = some n := by
      simp [State.node?, hc, Cell.node?, Tab.get?]
    have hr : (at_ p n i).run? = some (0, n) := by
      have hcur : (at_ p n i).cur = p := rfl
      simp [State.run?, hcur, hc, hn, h1]
    have hl : n.landed 0 = n := by
      cases n; simp_all [Node.landed]
    have hcur : (at_ p n i).cur = p := rfl
    simp [State.issuePoint, hr, hcur, hc, h2, hl, pt]
  · simp [pt, Node.owes, h4]
  · simp [pt, Node.early, h5]

theorem witness_point (p : Nat) {n : Node} (i : Inst) (h1 : n.stt = .running) (h2 : n.issueAt = 0) (h3 : n.fixed = []) (h4 : n.owed = [])
    (h5 : n.chk = false) : (at_ p n i).issuePoint = some (pt p n) := (clear_at p i h1 h2 h3 h4 h5 [] []).point

/-! ### Witnesses: states and operands that meet the hypotheses of each statement -/

/-- The node as it stands, and in the ways that the statements distinguish. -/
abbrev clear0 (p : Nat) (r w : List RegName) : Clear (at_ p node0) (pt p node0) r w := clear_at p inst0 rfl rfl rfl rfl rfl r w
theorem steady0 (p : Nat) : Steady (at_ p node0) (pt p node0) := fun h => absurd (show false = true from h) (by decide)

theorem witness_IntegerResults :
    Clear (at_ 3 node0) (pt 3 node0) [.g 8, .g 9] [.g 17] ∧ Clear (at_ 3 node0) (pt 3 node0) [.g 8, .g 9, .p 3] [.g 17] ∧
    Steady (at_ 3 node0) (pt 3 node0) := ⟨clear0 _ _ _, clear0 _ _ _, steady0 _⟩
theorem witness_ImmediateResults :
    Clear (at_ 3 node0) (pt 3 node0) [.g 8] [.g 17] ∧ Clear (at_ 3 node0) (pt 3 node0) [] [.g 17] ∧
    Steady (at_ 3 node0) (pt 3 node0) := ⟨clear0 _ _ _, clear0 _ _ _, steady0 _⟩
theorem witness_CompareResults :
    (∀ comb ∈ [0#2, 1#2, 2#2], comb ≠ 3#2 ∧ Clear (at_ 3 node0) (pt 3 node0) ([.g 8, .g 9] ++ if comb = 0#2 then [] else [.p 1]) [.p 1]) ∧
    Clear (at_ 3 node0) (pt 3 node0) [.g 8] [.p 1] ∧ Steady (at_ 3 node0) (pt 3 node0) :=
  ⟨fun c hc => ⟨by revert c; decide, clear0 _ _ _⟩, clear0 _ _ _, steady0 _⟩
theorem witness_BitFieldMultiplyResults :
    Clear (at_ 3 node0) (pt 3 node0) [.g 8] [.g 17] ∧ Clear (at_ 3 node0) (pt 3 node0) [.g 8, .g 9] [.g 17] ∧
    Clear (at_ 3 node0) (pt 3 node0) [.g 8, .g 9, .g 17] [.g 17] ∧ Steady (at_ 3 node0) (pt 3 node0) :=
  ⟨clear0 _ _ _, clear0 _ _ _, clear0 _ _ _, steady0 _⟩

/-- NCTL.DZT is set. -/
def nodeDzt : Node := { node0 with nctl := 0x10 }
theorem witness_DivideResults :
    Clear (at_ 3 node0) (pt 3 node0) [.g 8, .g 9] [.g 17] ∧ Steady (at_ 3 node0) (pt 3 node0) ∧ node0.getG 9 ≠ 0 ∧
    node0.getG 10 = 0 ∧ node0.nctl.getLsbD 4 = false ∧
    Clear (at_ 3 nodeDzt) (pt 3 nodeDzt) [.g 8, .g 10] [.g 17] ∧ Steady (at_ 3 nodeDzt) (pt 3 nodeDzt) ∧
    nodeDzt.getG 10 = 0 ∧ nodeDzt.nctl.getLsbD 4 = true :=
  ⟨clear0 _ _ _, steady0 _, by decide, by decide, by decide, clear_at 3 inst0 rfl rfl rfl rfl rfl _ _, fun h => absurd h (by decide),
   by decide, by decide⟩
theorem witness_AddressResults :
    Clear (at_ 3 node0) (pt 3 node0) [.a 1, .g 8] [.a 2] ∧ Clear (at_ 3 node0) (pt 3 node0) [.g 8, .g 9] [.a 2] ∧
    Clear (at_ 3 node0) (pt 3 node0) [.a 1] [.g 17] ∧ Clear (at_ 3 node0) (pt 3 node0) [.a 1, .a 2] [.g 17] ∧
    Clear (at_ 3 node0) (pt 3 node0) [.a 1] [.a 2] ∧ Steady (at_ 3 node0) (pt 3 node0) :=
  ⟨clear0 _ _ _, clear0 _ _ _, clear0 _ _ _, clear0 _ _ _, clear0 _ _ _, steady0 _⟩

/-- Every exception traps, and g8 holds the greatest FP32 value. -/
def nodeFpte : Node := { node0 with nctl := 0x3E0, g := [(8, { val := 0x7F7FFFFF, live := true })] }
theorem witness_FloatResults :
    Clear (at_ 3 node0) (pt 3 node0) [.g 8, .g 9] [.g 17] ∧ Steady (at_ 3 node0) (pt 3 node0) ∧ node0.fpte = 0 ∧
    Clear (at_ 3 nodeFpte) (pt 3 nodeFpte) [.g 8, .g 8] [.g 17] ∧ Steady (at_ 3 nodeFpte) (pt 3 nodeFpte) ∧ nodeFpte.fpte ≠ 0 ∧
    (fpSqrt fp32 nodeFpte.rnd nodeFpte.sat (nodeFpte.getG 10).toNat).2 &&& nodeFpte.fpte = 0 ∧
    (fpAdd fp32 nodeFpte.rnd nodeFpte.sat (nodeFpte.getG 8).toNat (nodeFpte.getG 8).toNat).2 &&& nodeFpte.nctl.extractLsb' 5 5 ≠ 0 ∧
    (fpMul fp32 nodeFpte.rnd nodeFpte.sat (nodeFpte.getG 8).toNat (nodeFpte.getG 8).toNat).2 &&& nodeFpte.nctl.extractLsb' 5 5 ≠ 0 :=
  ⟨clear0 _ _ _, steady0 _, by decide, clear_at 3 inst0 rfl rfl rfl rfl rfl _ _, fun h => absurd h (by decide), by decide,
   by decide +kernel, by decide +kernel, by decide +kernel⟩
theorem witness_FloatCompareResults :
    Clear (at_ 3 node0) (pt 3 node0) [.g 8, .g 9] [.p 1] ∧ Steady (at_ 3 node0) (pt 3 node0) := ⟨clear0 _ _ _, steady0 _⟩

/-- A hardware loop of which the node stands at the last word, with one trip remaining; and the last trip. -/
def nodeLoop : Node := { node0 with loopc := 2, loops := 0xFFC, loope := 0x1000 }
theorem witness_TransferResults :
    Clear (at_ 3 node0) (pt 3 node0) [.p 1] [] ∧ Clear (at_ 3 node0) (pt 3 node0) [.g 8] [] ∧ node0.loopc = 0 ∧
    Clear (at_ 3 nodeLoop) (pt 3 nodeLoop) [.g 8] [] ∧ nodeLoop.loopc ≠ 0 :=
  ⟨clear0 _ _ _, clear0 _ _ _, by decide, clear_at 3 inst0 rfl rfl rfl rfl rfl _ _, by decide⟩

/-- In trap mode; with the region full; with two frames resident; with a result owed to the current frame. -/
def nodeTrap : Node := { node0 with inTrap := true, tip := 0x1004 }
def nodeFull : Node := { node0 with res := 3 }
def nodeTwo : Node := { node0 with res := 2, cur := 1 }
def nodeOwed : Node := { node0 with owed := [{ tok := 0, dests := [.region 3], form := .discard, need := 1 }] }
/-- With an interlocked result owed to g31 of the frame that a call pushes; with a fixed-latency one, under CHK. -/
def nodeLinkOwed : Node := { node0 with owed := [{ tok := 0, dests := [.region 31], form := .discard, need := 1 }] }
def nodeLinkEarly : Node := { node0 with nctl := 1, fixed := [⟨9, ⟨.region 31, .word 7⟩⟩] }
theorem witness_CallReturnResults :
    Clear (at_ 3 node0) (pt 3 node0) [.p 0] [] ∧ Clear (at_ 3 node0) (pt 3 node0) [.g 8] [] ∧ node0.getP 0 ≠ false ∧
    node0.inTrap = false ∧ node0.res ≠ node0.frames ∧ node0.frameOwed node0.cur = false ∧ node0.res = 1 ∧
    Clear (at_ 3 nodeTrap) (pt 3 nodeTrap) [.p 0] [] ∧ nodeTrap.inTrap = true ∧
    Clear (at_ 3 nodeFull) (pt 3 nodeFull) [.p 0] [] ∧ Clear (at_ 3 nodeFull) (pt 3 nodeFull) [.g 8] [] ∧
    nodeFull.inTrap = false ∧ nodeFull.res = nodeFull.frames ∧
    Clear (at_ 3 nodeTwo) (pt 3 nodeTwo) [] [] ∧ nodeTwo.frameOwed nodeTwo.cur = false ∧ nodeTwo.res ≠ 1 ∧
    Clear (at_ 3 nodeOwed) (pt 3 nodeOwed) [] [] ∧ nodeOwed.inTrap = false ∧ nodeOwed.frameOwed nodeOwed.cur = true ∧
    Clear (at_ 3 nodeLinkOwed) (pt 3 nodeLinkOwed) [.p 0] [] ∧ Clear (at_ 3 nodeLinkOwed) (pt 3 nodeLinkOwed) [.g 8] [] ∧
    nodeLinkOwed.owes [.region 31] = true ∧
    Clear (at_ 3 nodeLinkEarly) (pt 3 nodeLinkEarly) [.p 0] [] ∧ Clear (at_ 3 nodeLinkEarly) (pt 3 nodeLinkEarly) [.g 8] [] ∧
    nodeLinkEarly.owes [.region 31] = false ∧
    (nodeLinkEarly.chk && nodeLinkEarly.fixed.any (fun w => decide (w.write.loc = .region 31))) = true :=
  ⟨clear0 _ _ _, clear0 _ _ _, by decide, by decide, by decide, by decide, by decide, clear_at 3 inst0 rfl rfl rfl rfl rfl _ _, by decide,
   clear_at 3 inst0 rfl rfl rfl rfl rfl _ _, clear_at 3 inst0 rfl rfl rfl rfl rfl _ _, by decide, by decide,
   clear_at 3 inst0 rfl rfl rfl rfl rfl _ _, by decide, by decide, ⟨rfl, rfl, rfl⟩, by decide, by decide,
   ⟨rfl, by decide, rfl⟩, ⟨rfl, by decide, rfl⟩, by decide, ⟨rfl, rfl, rfl⟩, ⟨rfl, rfl, rfl⟩, by decide, by decide⟩
theorem witness_TrapReturnResults :
    Clear (at_ 3 node0) (pt 3 node0) [] [] ∧ node0.inTrap = false ∧ Clear (at_ 3 nodeTrap) (pt 3 nodeTrap) [] [] ∧
    nodeTrap.inTrap = true := ⟨clear0 _ _ _, by decide, clear_at 3 inst0 rfl rfl rfl rfl rfl _ _, by decide⟩

/-- DBGC.SSTEP is set. -/
def nodeStep : Node := { node0 with dbgc := 0x400 }
theorem witness_CompletionAdvances :
    (pt 3 node0).n.singleStep = false ∧ (pt 3 nodeStep).n.singleStep = true ∧ nodeStep.inTrap = false ∧ nodeStep.notv = false ∧
    (at_ 3 node0).issuePoint = some (pt 3 node0) := ⟨by decide, by decide, by decide, by decide, (clear0 3 [] []).point⟩
theorem witness_TrapEntry :
    Cause.divZero.isHeld = false ∧ node0.inTrap = false ∧ node0.notv = false ∧ Cause.pageNotPresent.isHeld = true ∧
    nodeTrap.inTrap = true := by decide
theorem witness_TrapEntry_unperformed :
    Cause.divZero.isHeld = false ∧ (pt 3 node0).n.inTrap = false ∧ (pt 3 node0).n.notv = false ∧
    (at_ 3 node0).issuePoint = some (pt 3 node0) := ⟨by decide, by decide, by decide, (clear0 3 [] []).point⟩

/-- A result owed to g17, and one that lands in g17 at cycle 5 under CHK. -/
def nodeOwed17 : Node := { node0 with owed := [{ tok := 0, dests := [.region 1], form := .discard, need := 1 }] }
def nodeLate17 : Node := { node0 with nctl := 1, fixed := [{ land := 5, write := ⟨.region 1, .word 9⟩ }] }
theorem witness_Scoreboard :
    node0.fixed = [] ∧ (at_ 3 nodeOwed17).issuePoint = some (pt 3 nodeOwed17) ∧
    (nodeOwed17.owed.any (fun o => o.dests.any (nodeOwed17.locs [.g 8, .g 9] ++ nodeOwed17.locs [.g 17]).contains)) = true ∧
    (at_ 3 nodeLate17).issuePoint = some (pt 3 nodeLate17) ∧ nodeLate17.owed = [] ∧ nodeLate17.nctl.getLsbD 0 = true ∧
    (17 : GReg) ≠ 0 ∧ nodeLate17.fixed.map (·.write.loc) = nodeLate17.locs [.g 17] :=
  ⟨rfl, rfl, by decide, rfl, rfl, by decide, by decide, by decide⟩
theorem witness_RegisterFrames : node0.vec.isSome ∧ (RegName.g 9 = .g 9) ∧ (8 : GReg) ≠ 9 := by decide
theorem witness_RegisterInstructionFrame :
    targetOf (.add 17 8 9 true false 0) = some (.g 17, [.g 8]) ∧ (at_ 3 node0).issuePoint = some (pt 3 node0) ∧
    ∃ t m, exec (.add 17 8 9 true false 0) (at_ 3 node0) = .next t ∧ t.node? 3 0 = some m ∧ m.stt = .running ∧
      m.inTrap = (pt 3 node0).n.inTrap := ⟨rfl, (clear0 3 [] []).point, _, _, rfl, rfl, rfl, rfl⟩

/-- a1 names local memory, a2 a byte past its end. -/
def nodeAddr : Node := { node0 with a := [(1, 0x100), (2, 0x18001)] }
theorem clearA (p : Nat) (r w : List RegName) : Clear (at_ p nodeAddr) (pt p nodeAddr) r w := clear_at p inst0 rfl rfl rfl rfl rfl r w
theorem witness_LoadStoreResults :
    Clear (at_ 3 nodeAddr) (pt 3 nodeAddr) [.a 1] [.g 17] ∧ Clear (at_ 3 nodeAddr) (pt 3 nodeAddr) [.a 1, .g 8] [] ∧
    (∃ pl, checkAccess (at_ 3 nodeAddr) 3 (nodeAddr.getA 1) { size := 8, rd := true } = .ok pl) ∧
    (∃ t, checkAccess (at_ 3 nodeAddr) 3 (nodeAddr.getA 2) { size := 8, wr := true } = .error t) :=
  ⟨clearA _ _ _, clearA _ _ _, ⟨_, rfl⟩, ⟨_, rfl⟩⟩
/-- Space and offset of an address, and the accesses of a word that the checks meet. -/
def space (a : Addr) : Nat := (a.extractLsb' 60 4).toNat
def low (a : Addr) : Nat := (a.extractLsb' 0 60).toNat
def rd4 : Acc := { size := 4, rd := true }
def wr4 : Acc := { size := 4, wr := true }
theorem witness_AccessChecks_extents :
    rd4.size ∈ [1, 2, 4, 8, 32, 64] ∧ wr4.size ∈ [1, 2, 4, 8, 32, 64] ∧ space 0x3000000000000000 ∉ [0, 1, 2, 8, 15] ∧
    (space 0x20000 = 0 ∧ 2 ^ 17 ≤ low 0x20000) ∧ (space 0x1000000010000000 = 1 ∧ 2 ^ 28 ≤ low 0x1000000010000000) ∧
    (space 0x2000000100000000 = 2 ∧ 2 ^ 32 ≤ low 0x2000000100000000) ∧
    (space 0x8001000000000000 = 8 ∧ 2 ^ 48 ≤ low 0x8001000000000000) ∧ (space 0xF000000000000000 = 15 ∧ 415 < 416) ∧
    (space 0x1FFFE = 0 ∧ low 0x1FFFE < 2 ^ 17 ∧ low 0x1FFFE % rd4.size ≠ 0) ∧
    (space 0x18000 = 0 ∧ low 0x18000 < 2 ^ 17 ∧ low 0x18000 % rd4.size = 0 ∧ 0x18000 ≤ low 0x18000) := by
  decide
theorem witness_AccessChecks_code :
    ((at_ 3 node0).cell 3).codeOff = 0x1000 ∧ ((at_ 3 node0).cell 3).codeLen = 16 ∧ wr4.wr = true ∧ rd4.wr = false ∧
    (space 0x1000 = 0 ∧ low 0x1000 < 0x18000 ∧ low 0x1000 % 4 = 0 ∧ 0x1000 < low 0x1000 + 4 ∧ low 0x1000 < 0x1000 + 16) ∧
    (space 0x100C = 0 ∧ low 0x100C < 0x18000 ∧ low 0x100C % 4 = 0 ∧ 0x1000 < low 0x100C + 4 ∧ low 0x100C < 0x1000 + 16) ∧
    (space 0xFFC = 0 ∧ low 0xFFC < 0x18000 ∧ low 0xFFC % 4 = 0 ∧ low 0xFFC + 4 ≤ 0x1000) ∧
    (space 0x1010 = 0 ∧ low 0x1010 < 0x18000 ∧ low 0x1010 % 4 = 0 ∧ 0x1000 + 16 ≤ low 0x1010) ∧
    (space 0x17FFC = 0 ∧ low 0x17FFC < 0x18000 ∧ low 0x17FFC % 4 = 0) := by
  decide

theorem witness_AccessChecks_domain :
    (at_ 3 node0).instOf 3 = some (0, inst0) ∧
    (space 0x1000000000080000 = 1 ∧ low 0x1000000000080000 < 2 ^ 28 ∧ low 0x1000000000080000 % 4 = 0 ∧
      low 0x1000000000080000 % 2 ^ 17 < 0x18000 ∧ 4 * inst0.crofts ≤ low 0x1000000000080000 / 2 ^ 17) ∧
    (space 0x2000000000200000 = 2 ∧ low 0x2000000000200000 < 2 ^ 32 ∧ low 0x2000000000200000 % 4 = 0 ∧
      inst0.windowSize ≤ low 0x2000000000200000) := by
  decide

/-- The domain in twin mode. -/
def instTwin : Inst := { inst0 with twin := [1], gens := [0, 0] }
theorem witness_LoadStoreResults_sent :
    let near : Place := { key := keyLocal 3 0x100, home := .cell 3, away := false }
    let far : Place := { key := keyBin 0 0, home := .bin 0, away := true }
    near.away = false ∧ (at_ 3 node0).instOf 3 = some (0, inst0) ∧ inst0.twin = [] ∧ far.away = true ∧
    (at_ 3 node0 instTwin).instOf 3 = some (0, instTwin) ∧ instTwin.twin ≠ [] := by
  decide +kernel

/-- A store of 8 bytes, one of 4, and a load from cell 3's local memory. -/
def store8 : Access := { src := .node 3 0 0, home := .cell 3, op := .store 0x0102030405060708, key := keyLocal 3 0x100, size := 8 }
def store4 : Access := { store8 with op := .store 5, size := 4 }
def load8 : Access := { store8 with op := .load, rets := [{ pcell := 3, slot := 0, gen := 0, tok := 0, part := 0 }] }
/-- They are in flight; the doubleword that they name holds 9, and is poisoned where `bad`. -/
def flight (l : List Access) (bad : Bool) : State :=
  { at_ 3 node0 with mem := Memory.setNum [] (keyLocal 3 0x100) 8 9, net := l, poison := if bad then [keyLocal 3 0x100 / 8] else [] }
theorem witness_StorePerformed :
    (flight [store8] false).par.i = 0 ∧ (flight [store8] false).net[0]? = some store8 ∧ (flight [store8] false).mayPerform 0 = true ∧
    store8.op = .store 0x0102030405060708 ∧ store8.mirror = none ∧ (flight [store8] false).sealedHome store8.home = false ∧
    (flight [store8] false).absentAt ((flight [store8] false).keyNow store8.key store8.win) = false ∧ 8 ≤ store8.size ∧
    (flight [store4] true).mayPerform 0 = true ∧ store4.size < 8 ∧
    poisonedAt (flight [store4] true).poison ((flight [store4] true).keyNow store4.key store4.win) store4.size = true := by
  decide +kernel
theorem witness_LoadPerformed :
    (flight [load8] false).par.i = 0 ∧ (flight [load8] false).net[0]? = some load8 ∧ (flight [load8] false).mayPerform 0 = true ∧
    load8.op = .load ∧ load8.rets = [{ pcell := 3, slot := 0, gen := 0, tok := 0, part := 0 }] ∧
    (flight [load8] false).node? 3 0 = some node0 ∧ node0.gen = 0 ∧
    (flight [load8] false).absentAt ((flight [load8] false).keyNow load8.key load8.win) = false := by
  decide +kernel

/-- A node to which a result of this form is owed, with the parts that have come. -/
def owing (form : OwedForm) (need : Nat) (got : List Part) : Owed := { tok := 0, dests := [], form := form, need := need, got := got }
def part0 (d : Nat) : Part := { n := 0, data := d }
theorem witness_ResultArrives :
    let s : State := { at_ 3 { node0 with owed := [owing .discard 1 []] } with par := { pcell := 3 } }
    s.node? s.par.pcell s.par.slot = some { node0 with owed := [owing .discard 1 []] } ∧
    ({ node0 with owed := [owing .discard 1 []] } : Node).owed[s.par.i]? = some (owing .discard 1 []) ∧
    (owing .discard 1 []).got.length < (owing .discard 1 []).need ∧
    (∀ o ∈ [owing (.value []) 0 []], o.form = .value [] ∧ o.need = 0 ∧ o.got = [] ∧ o.watch = none) ∧
    (∀ o ∈ [owing .discard 1 [{ n := 0, data := 0, poison := some { cause := .poisonConsumed } }]],
      o.got = [{ n := 0, data := 0, poison := some { cause := .poisonConsumed } }] ∧ o.need ≤ 1) ∧
    (∀ f ∈ [OwedForm.load (.g 8) 4 false, .load (.g 8) 1 true, .pair (.g 8) (.g 9), .areg 1, .second (.g 8), .discard],
      let o := owing f 1 [part0 255]
      o.got = [part0 255] ∧ o.need ≤ 1 ∧ (part0 255).n = 0 ∧ (part0 255).poison = none ∧ o.flags = 0 ∧ o.watch = none) ∧
    (1 ∈ [1, 2, 4] ∧ (part0 255).data < 2 ^ (8 * 1)) ∧
    (let o := owing (.two (.g 8) (.g 9)) 2 [part0 1, { n := 1, data := 2 }]
     o.got = [part0 1, { n := 1, data := 2 }] ∧ o.need = 2 ∧ o.flags = 0 ∧ o.watch = none) := by
  decide +kernel

/-- a1 and a2 name two words of local memory, a5 and a6 the same one. -/
def nodeTwoA : Node := { node0 with a := [(1, 0x100), (2, 0x104), (3, 0x101), (5, 0x100), (6, 0x100)] }
theorem witness_AtomicResults :
    let k : Acc := { size := 4, rd := true, wr := true }
    let k1 : Acc := { size := 4, rd := true, wr := true, amo2 := true }
    let k2 : Acc := { k1 with second := true }
    let s := at_ 3 nodeTwoA
    Clear s (pt 3 nodeTwoA) [.a 1, .g 8, .g 9, .g 18, .g 19] [.g 18, .g 19] ∧
    Clear s (pt 3 nodeTwoA) [.a 1, .a 2, .g 8, .g 9, .g 18, .g 19] [.g 18, .g 19] ∧
    (∃ pl, checkAccess s 3 (nodeTwoA.getA 1) k = .ok pl) ∧ (∃ t, checkAccess s 3 (nodeTwoA.getA 3) k = .error t) ∧
    (∃ p1 p2, checkAccess s 3 (nodeTwoA.getA 1) k1 = .ok p1 ∧ checkAccess s 3 (nodeTwoA.getA 2) k2 = .ok p2 ∧
      nodeTwoA.getA 1 ≠ nodeTwoA.getA 2 ∧ p1.away = false ∧ p2.away = false) ∧
    (∃ p1 p2, checkAccess s 3 (nodeTwoA.getA 5) k1 = .ok p1 ∧ checkAccess s 3 (nodeTwoA.getA 6) k2 = .ok p2 ∧
      nodeTwoA.getA 5 = nodeTwoA.getA 6) ∧
    (∃ p1 e, checkAccess s 3 (nodeTwoA.getA 2) k1 = .ok p1 ∧ checkAccess s 3 (nodeTwoA.getA 3) k2 = .error e) ∧
    (∃ e, checkAccess s 3 (nodeTwoA.getA 3) k1 = .error e) ∧ nodeTwoA.dbgc.extractLsb' 4 2 = 0 :=
  ⟨clear_at 3 inst0 rfl rfl rfl rfl rfl _ _, clear_at 3 inst0 rfl rfl rfl rfl rfl _ _, ⟨_, rfl⟩, ⟨_, rfl⟩,
   ⟨_, _, rfl, rfl, by decide, rfl, rfl⟩, ⟨_, _, rfl, rfl, by decide⟩, ⟨_, _, rfl, rfl⟩, ⟨_, rfl⟩, by decide⟩

/-- Atomics on a word, and the two that name two words. -/
def amo4 (fn : Nat) : Access := { load8 with op := .amo fn 3 9, size := 4 }
def dcas0 : Access := { store8 with op := .dcas 1 2 9 0, size := 4, home2 := some (.cell 3), key2 := keyLocal 3 0x104 }
theorem witness_AtomicPerformed :
    ∀ fn ∈ List.range 11,
      let s := flight [amo4 fn] false
      s.par.i = 0 ∧ s.net[0]? = some (amo4 fn) ∧ s.mayPerform 0 = true ∧ (amo4 fn).op = .amo fn 3 9 ∧ (amo4 fn).mirror = none ∧
      s.sealedHome (amo4 fn).home = false ∧ (amo4 fn).size ∈ [4, 8] ∧ s.node? 3 0 = some node0 ∧ node0.gen = 0 ∧
      s.absentAt (s.keyNow (amo4 fn).key (amo4 fn).win) = false ∧
      poisonedAt s.poison (s.keyNow (amo4 fn).key (amo4 fn).win) 4 = false ∧ 3 < 2 ^ 32 ∧ 9 < 2 ^ 32 := by
  decide +kernel
theorem witness_AtomicPerformed_two :
    ∀ op ∈ [AccOp.dcas 1 2 9 0, .amov2 4],
      let a : Access := { dcas0 with op := op }
      let s := flight [a] false
      s.par.i = 0 ∧ s.net[0]? = some a ∧ s.mayPerform 0 = true ∧ a.mirror = none ∧ a.mirror2 = none ∧ s.sealedHome a.home = false ∧
      (∀ h ∈ a.home2, s.sealedHome h = false) ∧ a.size = 4 ∧ s.absentAt (s.keyNow a.key a.win) = false ∧
      s.absentAt (s.keyNow a.key2 a.win2) = false ∧ poisonedAt s.poison (s.keyNow a.key a.win) 4 = false ∧
      poisonedAt s.poison (s.keyNow a.key2 a.win2) 4 = false ∧ s.keyNow a.key a.win + 4 ≤ s.keyNow a.key2 a.win2 := by
  decide +kernel
theorem witness_FenceResults :
    Clear (at_ 3 node0) (pt 3 node0) [] [] ∧ (at_ 3 node0).net = [] ∧ inst0.twinq = [] ∧
    Clear (flight [store8] false) (pt 3 node0) [] [] ∧ store8 ∈ (flight [store8] false).net ∧ store8.src = .node 3 0 node0.gen :=
  ⟨clear0 _ _ _, rfl, rfl, ⟨rfl, rfl, rfl⟩, by simp [flight], rfl⟩

/-- k1 selects lane 0, v1 holds the index 1 there. -/
def nodeVec : Node := { nodeAddr with a := [(1, 0x100), (2, 0x18000)], vec := some { k := [(1, 1)] } }
theorem witness_VectorMemoryResults :
    let s := at_ 3 nodeVec
    let kind : Nat → Acc := fun j => { size := 4, rd := true, vec := true, lane := j }
    nodeVec.vec.isSome ∧ Clear s (pt 3 nodeVec) [.a 1, .v 1, .k 1, .v 2] [.v 2] ∧ Clear s (pt 3 nodeVec) [.a 1, .v 2] [] ∧
    (List.range 16).filter (fun i => (nodeVec.getK 1).getLsbD (i * 32 / 32)) = [0] ∧
    (∃ pl, checkAccess s 3 (nodeVec.getA 1) (kind 0) = .ok pl) ∧ (∃ t, checkAccess s 3 (nodeVec.getA 2) (kind 0) = .error t) :=
  ⟨rfl, clear_at 3 inst0 rfl rfl rfl rfl rfl _ _, clear_at 3 inst0 rfl rfl rfl rfl rfl _ _, by decide, ⟨_, rfl⟩, ⟨_, rfl⟩⟩
theorem witness_VectorIntegerResults :
    (0#2 ≠ 3#2 ∧ 1#2 ≠ 3#2 ∧ 2#2 ≠ 3#2) ∧ node0.vec.isSome ∧ Steady (at_ 3 node0) (pt 3 node0) ∧
    Clear (at_ 3 node0) (pt 3 node0) [.v 1, .v 2, .k 1, .v 3] [.v 3] ∧ Clear (at_ 3 node0) (pt 3 node0) [.v 1, .k 1] [.v 3] :=
  ⟨by decide, rfl, steady0 _, clear0 _ _ _, clear0 _ _ _⟩
theorem witness_VectorFloatResults :
    (0#2 ≠ 3#2 ∧ 1#2 ≠ 3#2 ∧ 2#2 ≠ 3#2) ∧ node0.vec.isSome ∧ Steady (at_ 3 node0) (pt 3 node0) ∧ node0.fpte = 0 ∧
    Clear (at_ 3 node0) (pt 3 node0) [.v 1, .v 2, .k 1, .v 3] [.v 3] ∧ Clear (at_ 3 node0) (pt 3 node0) [.v 1, .k 1] [.v 3] ∧
    nodeFpte.vec.isSome ∧ nodeFpte.fpte ≠ 0 ∧ Clear (at_ 3 nodeFpte) (pt 3 nodeFpte) [.v 1, .v 2, .k 1] [.v 3] ∧
    (fpSqrt fp32 nodeFpte.rnd nodeFpte.sat 0).2 &&& nodeFpte.fpte = 0 :=
  ⟨by decide, rfl, steady0 _, by decide, clear0 _ _ _, clear0 _ _ _, rfl, by decide, clear_at 3 inst0 rfl rfl rfl rfl rfl _ _,
   by decide +kernel⟩
theorem witness_VectorCompareResults :
    (0#2 ≠ 3#2 ∧ 1#2 ≠ 3#2 ∧ 2#2 ≠ 3#2) ∧ node0.vec.isSome ∧ Steady (at_ 3 node0) (pt 3 node0) ∧
    Clear (at_ 3 node0) (pt 3 node0) [.v 1, .v 2, .k 1] [.k 2] ∧ Clear (at_ 3 node0) (pt 3 node0) [.v 1, .v 2, .k 1, .v 3] [.v 3] :=
  ⟨by decide, rfl, steady0 _, clear0 _ _ _, clear0 _ _ _⟩
theorem witness_VectorPermuteResults :
    node0.vec.isSome ∧ Steady (at_ 3 node0) (pt 3 node0) ∧ (15 : BitVec 6).toNat < 16 ∧ (7 : BitVec 6).toNat < 8 ∧
    Clear (at_ 3 node0) (pt 3 node0) [.g 8] [.v 1] ∧ Clear (at_ 3 node0) (pt 3 node0) [.v 1, .v 2] [.v 1] ∧
    Clear (at_ 3 node0) (pt 3 node0) [.v 2] [.g 17] ∧ Clear (at_ 3 node0) (pt 3 node0) [.k 7] [.g 17] ∧
    Clear (at_ 3 node0) (pt 3 node0) [.g 8] [.k 7] ∧ node0.fpte = 0 ∧
    Clear (at_ 3 nodeFpte) (pt 3 nodeFpte) [.v 2] [.g 17] ∧ nodeFpte.fpte ≠ 0 :=
  ⟨rfl, steady0 _, by decide, by decide, clear0 _ _ _, clear0 _ _ _, clear0 _ _ _, clear0 _ _ _, clear0 _ _ _, by decide,
   clear_at 3 inst0 rfl rfl rfl rfl rfl _ _, by decide⟩

/-- g8 names event 0 and g9 an event past the table; event 0 is present already. -/
def nodeEv : Node := { node0 with g := [(8, { val := 0, live := true }), (9, { val := 3, live := true }), (10, { val := 1, live := true }),
                                        (11, { val := 2, live := true })] }
def instKnown : Inst := { inst0 with ev := [(0, { st := .present })] }
theorem witness_EventResults :
    let ev : GReg → Nat := fun r => (nodeEv.getG r).toNat % 1024
    let trap : Node := { nodeEv with inTrap := true }
    Clear (at_ 3 nodeEv) (pt 3 nodeEv) [.g 8] [.g 17] ∧ (at_ 3 nodeEv).instOf 3 = some (0, inst0) ∧
    inst0.image.events.length ≤ ev 9 ∧ nodeEv.inTrap = false ∧ (ev 10 < 3 ∧ (inst0.event (ev 10)).nodePart nodeEv.ordinal = none) ∧
    (ev 8 < 3 ∧ (inst0.event (ev 8)).nodePart nodeEv.ordinal = some { id := 0, pkind := 0, role := 0, obs := false } ∧
      inst0.status (ev 8) = .unknown ∧ ev 8 ∉ nodeEv.made.getD []) ∧
    (ev 11 < 3 ∧ (inst0.event (ev 11)).nodePart nodeEv.ordinal = some { id := 0, pkind := 0, role := 0, obs := true } ∧
      inst0.status (ev 11) = .unknown) ∧
    Clear (at_ 3 nodeEv instKnown) (pt 3 nodeEv) [.g 8] [.g 17] ∧ (at_ 3 nodeEv instKnown).instOf 3 = some (0, instKnown) ∧
    instKnown.status (ev 8) ≠ .unknown ∧
    Clear (at_ 3 trap) (pt 3 trap) [.g 8] [.g 17] ∧ trap.inTrap = true ∧ Clear (at_ 3 nodeEv) (pt 3 nodeEv) [] [.g 17] :=
  ⟨clear_at 3 inst0 rfl rfl rfl rfl rfl _ _, rfl, by decide, rfl, by decide, by decide, by decide,
   clear_at 3 instKnown rfl rfl rfl rfl rfl _ _, rfl, by decide, clear_at 3 inst0 rfl rfl rfl rfl rfl _ _, rfl,
   clear_at 3 inst0 rfl rfl rfl rfl rfl _ _⟩

/-- a1 names a choice record of one entry, for event 0 with neither data; a2 one of no entry. -/
def nodeRec : Node := { node0 with a := [(1, 0x100), (2, 0x200)] }
def offering (n : Node) : State := { at_ 3 n with mem := [(keyLocal 3 0x100, 1)] }
theorem witness_ReactionEnds :
    let made : Node := { nodeRec with made := some [0] }
    let trap : Node := { nodeRec with inTrap := true }
    Clear (offering nodeRec) (pt 3 nodeRec) [.a 1] [.g 17] ∧ nodeRec.inTrap = false ∧ nodeRec.made = none ∧
    (offering nodeRec).inFlight (.node 3 0 0) = false ∧ (offering nodeRec).inFlightTo (.node 3 0 0) (.cell 3) = false ∧
    (∃ l, checkOffer (offering nodeRec) (pt 3 nodeRec) (nodeRec.getA 1) = .ok l) ∧
    (∃ t, checkOffer (offering nodeRec) (pt 3 nodeRec) (nodeRec.getA 2) = .error t) ∧
    Clear (offering made) (pt 3 made) [.a 1] [.g 17] ∧ made.made.isSome ∧ made.inTrap = false ∧
    Clear (offering trap) (pt 3 trap) [.a 1] [.g 17] ∧ trap.inTrap = true ∧ Clear (offering nodeRec) (pt 3 nodeRec) [] [] ∧
    Clear (flight [store8] false) (pt 3 node0) [] [] ∧ (flight [store8] false).inFlight (.node 3 0 0) = true :=
  ⟨⟨rfl, rfl, rfl⟩, rfl, rfl, by decide +kernel, by decide +kernel, ⟨[⟨0, 0, 0, 0, 0⟩], by decide +kernel⟩,
   ⟨choiceInvalid 0 0 0x200, by decide +kernel⟩, ⟨rfl, rfl, rfl⟩, rfl, rfl, ⟨rfl, rfl, rfl⟩, rfl, ⟨rfl, rfl, rfl⟩,
   ⟨rfl, rfl, rfl⟩, by decide +kernel⟩

/-- An entry of the TID table (R62). -/
def tid (fmt planes sparse smode rows cols stride base sbase : Nat) : BitVec 256 :=
  BitVec.ofNat 256 (fmt + planes * 2 ^ 8 + sparse * 2 ^ 12 + smode * 2 ^ 16 + rows * 2 ^ 32 + cols * 2 ^ 64 + stride * 2 ^ 96
    + base * 2 ^ 128 + sbase * 2 ^ 192)
/-- INT8, FP32, NB, sparse INT8 and scaled INT8 rows of 32 elements, and a square of INT8 elements. -/
def instTid : Inst :=
  { inst0 with tids := [
      (0, tid 0x03 0 0 0 1 32 32 0x2000000000000000 0), (1, tid 0x10 0 0 0 1 32 128 0x2000000000000100 0),
      (2, tid 0x20 8 0 0 1 32 4 0x2000000000000200 0), (3, tid 0x03 0 1 0 1 32 12 0x2000000000000300 0),
      (4, tid 0x03 0 0 1 1 32 32 0x2000000000000400 0x2000000000000500), (5, tid 0x03 0 0 0 32 32 32 0x2000000000000600 0)] }
/-- A croft whose operand slots 0 and 1 the node of its thresh cell holds. -/
def claimed (n : Node) : State := { at_ 2 n instTid with crofts := [(0, { claims := [(0, .held 0x40), (1, .held 0x40)] })] }
def nodeMma : Node :=
  { node0 with g := [(8, { val := 0x10, live := true }), (9, { val := 0x500, live := true }), (10, { val := 0x3F, live := true }),
                     (11, { val := 0x100, live := true }), (12, { val := 0xFFFF, live := true })] }
theorem witness_EngineInstructions_claims :
    (416 ≤ (pt 3 node0).p ∨ (pt 3 node0).p % 4 ≠ 2) ∧ (at_ 3 node0).issuePoint = some (pt 3 node0) ∧
    (pt 2 node0).p < 416 ∧ (pt 2 node0).p % 4 = 2 ∧ Clear (at_ 2 node0) (pt 2 node0) [.g 8] [.g 17] ∧
    Store.get Claim.free ((at_ 2 node0).croft 0).claims 7 = .free ∧
    Clear (claimed nodeMma) (pt 2 nodeMma) [.g 14] [.g 17] ∧ Store.get Claim.free ((claimed nodeMma).croft 0).claims 0 ≠ .free ∧
    Store.get Claim.free ((claimed nodeMma).croft 0).claims 0 = .held ((claimed nodeMma).nid 2 0) ∧
    Store.get Claim.free ((at_ 2 node0).croft 0).claims 7 ≠ .held ((at_ 2 node0).nid 2 0) :=
  ⟨by decide, (clear0 3 [] []).point, by decide, by decide, clear0 _ _ _, by decide, ⟨rfl, rfl, rfl⟩, by decide, by decide, by decide⟩
theorem witness_EngineInstructions_matrix :
    let s := claimed nodeMma
    let u := pt 2 nodeMma
    Clear s u [.g 8, .g 9, .g 14] [] ∧ (∃ m, mmaCommand s u (nodeMma.getG 8) (nodeMma.getG 9) (nodeMma.getG 14) = .ok m) ∧
    (∃ t, mmaCommand s u (nodeMma.getG 10) (nodeMma.getG 9) (nodeMma.getG 14) = .error t) ∧
    (∃ m, mdrainCommand s u (nodeMma.getG 11) (nodeMma.getG 12) (nodeMma.getG 14) = .ok m) ∧
    (∃ t, mdrainCommand s u (nodeMma.getG 10) (nodeMma.getG 12) (nodeMma.getG 14) = .error t) ∧
    (∃ m, mzeroCommand s u (nodeMma.getG 14) (nodeMma.getG 14) = .ok m) ∧
    (∃ t, mzeroCommand s u (nodeMma.getG 10) (nodeMma.getG 14) = .error t) :=
  ⟨⟨rfl, rfl, rfl⟩, ⟨_, rfl⟩, ⟨_, rfl⟩, ⟨_, rfl⟩, ⟨_, rfl⟩, ⟨_, rfl⟩, ⟨_, rfl⟩⟩

/-- Descriptors in local memory: COPY, COPYG and COPYOP at 0x100, 0x140 and 0x180, conversions from 0x200 on. -/
def cpyBytes (dst ctype idx : Nat) : List Byte :=
  leBytes 8 0x600 ++ leBytes 8 dst ++ leBytes 4 8 ++ leBytes 4 1 ++ leBytes 4 1 ++ leBytes 16 0 ++ leBytes 2 0xFFFF ++ leBytes 2 0
    ++ leBytes 3 0 ++ leBytes 1 ctype ++ leBytes 4 0 ++ leBytes 8 idx
def cnvBytes (src dst : Nat) : List Byte := leBytes 1 src ++ leBytes 1 dst ++ leBytes 2 0 ++ leBytes 2 0xFFFF ++ leBytes 26 0
def nodeDesc : Node := { node0 with a := [(1, 0x100), (2, 0x18000)] }
/-- The bytes `b` stand at a1 in the local memory of cell `p`. -/
def described (p : Nat) (b : List Byte) : State := { at_ p nodeDesc instTid with mem := Memory.setBytes [] (keyLocal p 0x100) b }
theorem witness_EngineInstructions_copy :
    let u := pt 0 nodeDesc
    let ok : List (CpyForm × List Byte) := [(.copy, cpyBytes 0x300 0 0), (.copyg, cpyBytes 0x300 0 0x400),
      (.copyop, cpyBytes 0x2000000000000000 0x06 0)]
    (∀ b, Clear (described 0 b) u [.a 1] []) ∧ u.p < 416 ∧ u.p % 4 = 0 ∧
    (∀ x ∈ ok, (described 0 x.2).inFlightTo (.node 0 0 0) (.cell 0) = false ∧
      (descriptor (described 0 x.2) u (nodeDesc.getA 1) 64).toOption = some x.2 ∧
      (cpyCommand (described 0 x.2) x.1 u (nodeDesc.getA 1) x.2).toOption.isSome = true) ∧
    (∃ t, descriptor (described 0 []) u (nodeDesc.getA 2) 64 = .error t) ∧
    (∀ f ∈ [CpyForm.copy, .copyg, .copyop], (descriptor (described 0 (cpyBytes 0 0x77 1)) u (nodeDesc.getA 1) 64).toOption = some (cpyBytes 0 0x77 1) ∧
      (cpyCommand (described 0 (cpyBytes 0 0x77 1)) f u (nodeDesc.getA 1) (cpyBytes 0 0x77 1)).toOption = none) :=
  ⟨fun _ => ⟨rfl, rfl, rfl⟩, by decide, by decide, by decide +kernel, ⟨_, rfl⟩, by decide +kernel⟩
theorem witness_EngineInstructions_convert :
    let u := pt 1 nodeDesc
    let ok : List (CnvForm × List Byte) := [(.conv, cnvBytes 0 1), (.planes, cnvBytes 0 2), (.sparsify, cnvBytes 0 3), (.scalec, cnvBytes 1 4)]
    (∀ b, Clear (described 1 b) u [.a 1] []) ∧ u.p < 416 ∧ u.p % 4 = 1 ∧
    (∀ x ∈ ok, (described 1 x.2).inFlightTo (.node 1 0 0) (.cell 1) = false ∧
      (descriptor (described 1 x.2) u (nodeDesc.getA 1) 32).toOption = some x.2 ∧
      (cnvCommand (described 1 x.2) x.1 u (nodeDesc.getA 1) x.2).toOption.isSome = true) ∧
    (∃ t, descriptor (described 1 []) u (nodeDesc.getA 2) 32 = .error t) ∧
    (∀ f ∈ [CnvForm.conv, .planes, .sparsify, .scalec], (descriptor (described 1 (cnvBytes 0 63)) u (nodeDesc.getA 1) 32).toOption = some (cnvBytes 0 63) ∧
      (cnvCommand (described 1 (cnvBytes 0 63)) f u (nodeDesc.getA 1) (cnvBytes 0 63)).toOption = none) :=
  ⟨fun _ => ⟨rfl, rfl, rfl⟩, by decide, by decide, by decide +kernel, ⟨_, rfl⟩, by decide +kernel⟩

theorem witness_TidResults :
    let s := at_ 2 nodeDesc instTid
    let rd : Acc := { size := 32, rd := true }
    s.instOf 2 = some (0, instTid) ∧ Clear s (pt 2 nodeDesc) [.g 8] [] ∧ Clear s (pt 2 nodeDesc) [.g 8, .a 1] [] ∧
    (∃ t, checkAccess s 2 (nodeDesc.getA 2) rd = .error t) ∧
    checkAccess s 2 (nodeDesc.getA 1) rd = .ok { key := keyLocal 2 0x100, home := .cell 2, away := false } ∧
    s.inFlightTo (.node 2 0 0) (.cell 2) = false ∧ s.sealedHome (.cell 2) = false ∧ s.poisoned (keyLocal 2 0x100) 32 = false ∧
    ({ s with poison := [keyLocal 2 0x100 / 8] } : State).poisoned (keyLocal 2 0x100) 32 = true :=
  ⟨rfl, ⟨rfl, rfl, rfl⟩, ⟨rfl, rfl, rfl⟩, ⟨_, rfl⟩, rfl, by decide +kernel, by decide +kernel, by decide +kernel, by decide +kernel⟩

/-- The node of a reeve cell, and one to which a result of FSQRT is owed. -/
def nodeFp : Node := { node0 with owed := [{ tok := 0, dests := [], form := .discard, need := 1, fp := true }], high := [(3, some 5)] }
theorem witness_SystemRegisterReads :
    (at_ 3 node0).instOf 3 = some (0, inst0) ∧ Clear (at_ 3 node0) (pt 3 node0) [] [.g 17] ∧ node0.owed.any (·.fp) = false ∧
    Store.get none node0.high 3 = none ∧ Clear (at_ 3 nodeFp) (pt 3 nodeFp) [] [.g 17] ∧ nodeFp.owed.any (·.fp) = true ∧
    Store.get none nodeFp.high 3 = some 5 ∧
    (at_ 416 node0).instOf 416 = some (0, inst0) ∧ Clear (at_ 416 node0) (pt 416 node0) [] [.g 17] ∧ 416 ≤ (pt 416 node0).p :=
  ⟨rfl, clear0 _ _ _, by decide, by decide, ⟨rfl, rfl, rfl⟩, by decide, by decide, rfl, clear0 _ _ _, by decide⟩

/-- Values to write: a rounding mode of 4; frame 2 of 3 with 3 resident; no resident frame; frame 3; 4 resident. -/
def nodeVal (v : Word) : Node := { node0 with g := [(8, { val := v, live := true })] }
theorem witness_SystemRegisterWrites :
    Clear (at_ 3 (nodeVal 8)) (pt 3 (nodeVal 8)) [.g 8] [] ∧ (nodeVal 8).frames = 3 ∧
    3 < (((nodeVal 8).getG 8).extractLsb' 1 3).toNat ∧ (((nodeVal 6).getG 8).extractLsb' 1 3).toNat ≤ 3 ∧
    (let v := (nodeVal (2 + 32 * 3)).getG 8
     (v.extractLsb' 0 5).toNat < 3 ∧ 0 < (v.extractLsb' 5 6).toNat ∧ (v.extractLsb' 5 6).toNat ≤ 3) ∧
    (((nodeVal 0).getG 8).extractLsb' 5 6).toNat = 0 ∧ 3 ≤ (((nodeVal (3 + 32)).getG 8).extractLsb' 0 5).toNat ∧
    3 < (((nodeVal (32 * 4)).getG 8).extractLsb' 5 6).toNat ∧ (nodeVal 8).owed.any (·.fp) = false :=
  ⟨clear_at 3 inst0 rfl rfl rfl rfl rfl _ _, by decide, by decide, by decide, by decide, by decide, by decide, by decide, by decide⟩
theorem witness_ReeveRegisterWrites :
    let g : Pkg := { cmap := (List.range 96).map (fun l => (l, l)), cmapx := 95 }
    let s : State := { at_ 416 node0 with pkg := g, cells := Tab.set (at_ 416 node0).cells 0 { isSealed := true } }
    let v : Word := 95
    Clear (at_ 416 node0) (pt 416 node0) [.g 8] [] ∧ 416 ≤ (pt 416 node0).p ∧
    (g.cmapx < 96 ∧ (v.extractLsb' 0 7).toNat < 104 ∧ s.occupied (s.siteOfLog g.cmapx) = false ∧
      (∀ m < 96, m ≠ g.cmapx → s.siteOfLog m ≠ (v.extractLsb' 0 7).toNat) ∧ s.siteRetired (v.extractLsb' 0 7).toNat = false) ∧
    s.siteOfLog 94 = 94 ∧ 94 ≠ g.cmapx ∧
    (8192 * (((11 * 8192 : Nat) : Word).extractLsb' 13 4).toNat + 8192 ≤ 0x18000) ∧
    ¬ (8192 * (((12 * 8192 : Nat) : Word).extractLsb' 13 4).toNat + 8192 ≤ 0x18000) ∧
    ((5 + 65536 - 5) % 65536 ≤ (5 + 65536 - 5) % 65536 ∧ (5 + 65536 - 5) % 65536 < (6 + 65536 - 5) % 65536) ∧
    415 < 416 ∧ (1 : Word).getLsbD 0 = true ∧ (0 : Word).getLsbD 0 = false ∧ (s.cell 0).isSealed = true ∧ (s.cell 1).isSealed = false :=
  ⟨clear0 _ _ _, by decide, by decide +kernel, by decide +kernel, by decide, by decide, by decide, by decide, by decide, by decide, by decide,
   by decide, by decide⟩
theorem witness_PrivilegeAndContextChecks :
    (at_ 3 node0).issuePoint = some (pt 3 node0) ∧ (pt 3 node0).p < 416 ∧ 0x200 ≤ (0x200 : BitVec 10).toNat ∧
    (0x1F : BitVec 10).toNat < 0x200 ∧
    (∀ idx ∈ [(0x1F : BitVec 10), 0x1FF, 0x20C, 0x20F, 0x21B, 0x3FF], ¬ (idx.toNat ≤ 0x1E ∨ (0x200 ≤ idx.toNat ∧ idx.toNat ≤ 0x20B) ∨
      (0x210 ≤ idx.toNat ∧ idx.toNat ≤ 0x21A))) ∧ 416 ≤ (pt 416 node0).p ∧
    (at_ 3 { node0 with vec := none }).issuePoint = some (pt 3 { node0 with vec := none }) ∧ ({ node0 with vec := none } : Node).vec = none :=
  ⟨(clear0 3 [] []).point, by decide, by decide, by decide, by decide, by decide, rfl, rfl⟩
theorem witness_SoftwareTrap :
    Clear (at_ 3 nodeTrap) (pt 3 nodeTrap) [] [] ∧ nodeTrap.inTrap = true ∧ Clear (at_ 3 nodeLoop) (pt 3 nodeLoop) [] [] ∧
    nodeLoop.inTrap = false ∧ nodeLoop.notv = false ∧ nodeLoop.loopc ≠ 0 ∧ nodeLoop.pc = nodeLoop.loope ∧ nodeLoop.loopc ≠ 1 :=
  ⟨clear_at 3 inst0 rfl rfl rfl rfl rfl _ _, by decide, clear_at 3 inst0 rfl rfl rfl rfl rfl _ _, by decide, by decide, by decide,
   by decide, by decide⟩

/-- The spill area at 0x200 with room and without, one that meets the code region, and a frame spilled already. -/
def nodeSpill (wstk wlim : Word) (res spilled : Nat) : Node := { node0 with wstk := wstk, wlim := wlim, res := res, spilled := spilled }
theorem clearS (wstk wlim : Word) (res spilled : Nat) :
    Clear (at_ 3 (nodeSpill wstk wlim res spilled)) (pt 3 (nodeSpill wstk wlim res spilled)) [] [] :=
  clear_at (n := nodeSpill wstk wlim res spilled) 3 inst0 rfl rfl rfl rfl (by rw [show (nodeSpill wstk wlim res spilled).chk = node0.chk from rfl]; decide) _ _
theorem witness_WindowSpillResults :
    let ok : Nat → Prop := fun a => a + 64 ≤ 0x18000 ∧ ¬ (a < 0x1000 + 16 ∧ 0x1000 < a + 64)
    (∀ w l r k, Clear (at_ 3 (nodeSpill w l r k)) (pt 3 (nodeSpill w l r k)) [] []) ∧
    ((at_ 3 node0).cell 3).codeOff = 0x1000 ∧ ((at_ 3 node0).cell 3).codeLen = 16 ∧
    (nodeSpill 0x200 0x240 1 0).res = 1 ∧ (nodeSpill 0x200 0x240 3 0).res = node0.frames ∧ (nodeSpill 0x200 0x240 2 0).res ≠ 1 ∧
    (0x200 + 64 * 0 + 64 ≤ (nodeSpill 0x200 0x240 2 0).wlim.toNat ∧ ok (0x200 + 64 * 0)) ∧
    (nodeSpill 0x200 0x23F 2 0).wlim.toNat < 0x200 + 64 * 0 + 64 ∧ ¬ ok (0x1000 + 64 * 0) ∧ ¬ ok 0x17FC1 ∧ ok 0x17FC0 ∧ ok 0xFC0 ∧ ok 0x1010 ∧
    (nodeSpill 0x200 0x240 2 0).frameOwed ((0 + 1 + 3 - 2) % 3) = false ∧ (nodeSpill 0x200 0x240 2 0).spilled = 0 ∧
    (nodeSpill 0x200 0x240 2 1).spilled ≠ 0 ∧ (at_ 3 (nodeSpill 0x200 0x240 2 1)).inFlightTo (.node 3 0 0) (.cell 3) = false ∧
    poisonedAt (at_ 3 (nodeSpill 0x200 0x240 2 1)).poison (keyLocal 3 0x200) 64 = false :=
  ⟨clearS, rfl, rfl, rfl, rfl, by decide, by decide, by decide, by decide, by decide, by decide, by decide, by decide, by decide, rfl,
   by decide, by decide +kernel, by decide +kernel⟩

/-- The launch 0 with so many groups and the GROW of key (0, NID, 0) recorded or not; the reeve domain has none. -/
def grown (count : Nat) (l : List GrowKey) (i : Inst := inst0) : State := { at_ 3 node0 i with launches := [(0, { count := count, grows := l })] }
theorem witness_WorkAndGrowResults :
    let key : GrowKey := { group := 0, nid := 0x60, count := 0, old := 4 }
    (grown 5 []).instOf 3 = some (0, inst0) ∧ Clear (grown 5 []) (pt 3 node0) [] [.g 17] ∧ (0 : BitVec 5).toNat < 2 ∧ (1 : BitVec 5).toNat < 2 ∧
    inst0.image.widths[(1 : BitVec 5).toNat]? = some 4 ∧ inst0.image.widths[(2 : BitVec 5).toNat]? = none ∧
    Clear (grown 5 []) (pt 3 node0) [.g 8] [.g 17] ∧ (grown 5 []).launchOf 3 = some 0 ∧ (grown 5 []).groupOf 3 = some 0 ∧
    (grown 5 []).launch? 0 = some { count := 5, grows := [] } ∧ 5 + (node0.getG 8).toNat ≤ 2 ^ 40 ∧
    (grown (2 ^ 40) []).launch? 0 = some { count := 2 ^ 40, grows := [] } ∧ 2 ^ 40 < 2 ^ 40 + (node0.getG 8).toNat ∧
    (grown 5 [key]).launch? 0 = some { count := 5, grows := [key] } ∧
    (key.nid, key.group, key.count) = (((grown 5 [key]).nid 3 0).extractLsb' 0 16, 0, node0.grows) ∧
    (grown 5 [] { inst0 with reeve := true }).launchOf 3 = none ∧
    Clear (grown 5 [] { inst0 with reeve := true }) (pt 3 node0) [.g 8] [.g 17] :=
  ⟨rfl, ⟨rfl, rfl, rfl⟩, by decide, by decide, by decide, by decide, ⟨rfl, rfl, rfl⟩, rfl, rfl, rfl, by decide, rfl, by decide, rfl,
   by decide, rfl, ⟨rfl, rfl, rfl⟩⟩

/-- a1 names a record, a2 none: it is no multiple of 128. g8 names compute cell 415, g9 a reeve cell. -/
def nodeReeve : Node :=
  { node0 with a := [(1, 0x180), (2, 0x140)], g := [(8, { val := 415, live := true }), (9, { val := 416, live := true })] }
theorem witness_ReeveInstructions :
    let s := at_ 416 nodeReeve
    let rd : Acc := { size := 64, rd := true }
    416 ≤ (pt 416 nodeReeve).p ∧ Clear s (pt 416 nodeReeve) [.a 1] [.g 17] ∧ Clear s (pt 416 nodeReeve) [.a 2] [.g 17] ∧
    checkAccess s 416 (nodeReeve.getA 1) rd = .ok { key := keyLocal 416 0x180, home := .cell 416, away := false } ∧
    checkAccess s 416 (nodeReeve.getA 1 + 64) rd = .ok { key := keyLocal 416 0x1C0, home := .cell 416, away := false } ∧
    checkAccess s 416 (nodeReeve.getA 2) rd = .ok { key := keyLocal 416 0x140, home := .cell 416, away := false } ∧
    (nodeReeve.getA 1).toNat % 128 = 0 ∧ (nodeReeve.getA 2).toNat % 128 ≠ 0 ∧ s.inFlightTo (.node 416 0 0) (.cell 416) = false ∧
    s.sealedHome (.cell 416) = false ∧ s.poisoned (keyLocal 416 0x180) 64 = false ∧ s.poisoned (keyLocal 416 0x1C0) 64 = false ∧
    Clear s (pt 416 nodeReeve) [.g 8] [] ∧ (nodeReeve.getG 8).toNat % 512 < 416 ∧ 416 ≤ (nodeReeve.getG 9).toNat % 512 :=
  ⟨by decide, ⟨rfl, rfl, rfl⟩, ⟨rfl, rfl, rfl⟩, rfl, rfl, rfl, by decide, by decide, by decide +kernel, by decide +kernel,
   by decide +kernel, by decide +kernel, ⟨rfl, rfl, rfl⟩, by decide, by decide⟩

/-! ### The steps of other agents -/

/-- A cell that runs nobody, with two READY nodes of one priority and one of a lower, the pointer at 1. -/
def picking : State :=
  let n : Node := { node0 with stt := .ready, prio := 2 }
  let c : Cell := { inst := some 0, lcell := 3, rr := [(2, 1)], nodes := [(0, n), (4, n), (7, { n with prio := 1 })] }
  { (State.reset.setInst 0 inst0).setCell 3 c with par := { pcell := 3 } }
/-- A node in OFFERING whose offer has resolved. -/
def resolvedOffer : Offer := { recAddr := 0x100, persist := false, entries := [], d := 17, st := 2 }
def nodeResolved : Node := { node0 with stt := .offering, offer := some resolvedOffer, resolved := some 0 }
theorem witness_NodeAgents :
    let n : Node := { node0 with stt := .ready, prio := 2 }
    let ready := (picking.cell 3).nodes.filter (fun e => decide (e.2.stt = .ready))
    picking.par.pcell = 3 ∧ (picking.cell 3).running = none ∧ (picking.cell 3).isSealed = false ∧ picking.frozen 3 = false ∧
    picking.node? 3 4 = some n ∧ n.stt = .ready ∧ (∀ e ∈ ready, e.2.prio ≤ n.prio) ∧
    (3 < 20 ∧ (Store.get 0 (picking.cell 3).rr n.prio + 3) % 20 = 4 ∧
      ∀ d' < 3, ∀ e ∈ ready, e.2.prio = n.prio → e.1 ≠ (Store.get 0 (picking.cell 3).rr n.prio + d') % 20) ∧
    (let s : State := { at_ 3 nodeResolved with par := { pcell := 3 } }
     s.node? 3 0 = some nodeResolved ∧ nodeResolved.resolved = some 0 ∧ nodeResolved.offer = some resolvedOffer ∧
     nodeResolved.delay ≤ (s.cell 3).cyc) := by
  decide +kernel

/-- The node has offered event 0 alone; it has paused; the launch has an overrun limit. -/
def offered : State := at_ 3 { node0 with stt := .offering, offer := some resolvedOffer, made := some [0] }
def pausing : State := at_ 3 { node0 with stt := .paused }
theorem witness_SheafAgents :
    offered.inst? offered.par.inst = some inst0 ∧ inst0.phase = .running ∧ offered.par.ev < inst0.image.events.length ∧
    inst0.status 0 = .unknown ∧ inst0.hostEvent 0 = false ∧ (inst0.event 0).required ≠ [] ∧
    (∀ p ∈ (inst0.event 0).required, offered.offers 0 inst0 0 true p = true) ∧
    pausing.inst? 0 = some inst0 ∧ pausing.quiescent inst0 = true ∧ (at_ 3 node0).quiescent inst0 = false ∧
    (at_ 3 node0).overrunDue 0 = false ∧ ({ at_ 3 node0 with launches := [(0, { overrun := 9 })] } : State).overrunDue 0 = true := by
  decide +kernel

/-- A croft with one command at its second issue cycle, queued, begun and done, and a gang step. -/
def cmd0 : Cmd := { op := .mzero 0, inst := 0, seten := true }
def gang0 : Cmd := { op := .mma 0 0 0 0 0 true, inst := 0, gang := some 0 }
def croft0 (e : Engine) (k : Nat := 0) : State :=
  let s := [0, 1, 3].foldl (fun s p => s.setCell p { inst := some 0, lcell := p, codeOff := 0x1000, codeLen := 16 }) (at_ 2 node0)
  { s with crofts := [(0, { eng := [(k, e)] })], par := { eng := k } }
theorem witness_EngineAgents :
    ((croft0 { atIssue := some cmd0 }).engine 0 0).atIssue = some cmd0 ∧ ((croft0 { atIssue := some cmd0 }).engine 0 0).queue.length < 16 ∧
    cmd0.seten = true ∧ gang0.seten = false ∧ ((croft0 {}).engine 0 0).atIssue = none ∧
    16 ≤ ((croft0 { queue := List.replicate 16 cmd0 }).engine 0 0).queue.length ∧
    (croft0 { queue := [cmd0] }).engineDue 0 0 = true ∧ (croft0 {}).engineDue 0 0 = false ∧
    (let e := (croft0 { queue := [cmd0], begun := true, prog := 1 }).engine 0 0
     e.queue = cmd0 :: [] ∧ e.begun = true ∧ cmd0.total ≤ e.prog) ∧
    (croft0 { queue := [gang0] } 2).inst? 0 = some inst0 ∧ (croft0 { queue := [gang0] } 2).gangDue 0 = true ∧
    (croft0 { queue := [gang0], gangAt := some 0 } 2).gangStepDue 0 = true ∧
    (croft0 { queue := [gang0], gangAt := some 0 } 2).gangBegins 0 = true := by
  decide +kernel

/-- The firmware holds a request of a kind; the instance at a boundary, retired, stopped, forced; launches of each phase. -/
def asked (kind : Nat) : State := { at_ 3 node0 with host := [(0, { request := some (leBytes 1 kind ++ leBytes 255 0) })] }
def phased (ph : LaunchPhase) : State := { at_ 3 node0 with launches := [(0, { phase := ph })] }
def overAt (n : Node) (i : Inst) : State := at_ 3 n i
theorem witness_LaunchAgents :
    (∀ k ∈ [1, 2, 3, 4], ((asked k).slot 0).request = some (leBytes 1 k ++ leBytes 255 0) ∧
      leNat (slice (leBytes 1 k ++ leBytes 255 0) 0 1) = k) ∧
    (asked 2).launchTag 0 = none ∧
    (∀ ph ∈ [LaunchPhase.draining, .stopping, .dispatching], (phased ph).launch? (phased ph).par.launch = some { phase := ph }) ∧
    (overAt { node0 with stt := .retired } { inst0 with phase := .between }).endDue 0 = true ∧
    (overAt { node0 with stt := .paused } { inst0 with phase := .between, stop := true }).cleanDue 0 = true ∧
    (overAt node0 { inst0 with phase := .forced }).forcedDue 0 = true ∧
    (overAt node0 { inst0 with forcing := true }).inst? 0 = some { inst0 with forcing := true } ∧
    State.reset.drained = none ∧ State.reset.nextPlacement = none ∧
    (let s : State := { State.reset with launches := [(0, { image := image0, count := 1 })], pkg := { cmap := (List.range 96).map (fun l => (l, l)) } }
     s.drained = none ∧ (s.nextPlacement.map (fun x => (x.1, x.2.2.1, x.2.1.saved))) = some (0, 0, [])) := by
  decide +kernel

/-- A held node of a cause; a twin-mode instance with packets of its copies; an access to a silent cell. -/
def nodeHeld (c : Cause) : Node := { node0 with stt := .trapped, heldFor := some { cause := c } }
def instPair (x y : List TwinPacket) : Inst := { instTwin with twinq := x ++ y }
def packet (second : Bool) (v : Nat) : TwinPacket := { second := second, lcell := 0, msg := .access { store8 with op := .store v } }
theorem witness_ContainmentAgents :
    let ring : State → Ring := fun s => s.ring s.par.die
    let report : Report := { cause := .divZero, tcause := 0 }
    let s := at_ 3 node0
    let full : State := { s with pkg := { rings := [(0, { pending := [report] })] } }
    (s.cell s.par.pcell).isSealed = false ∧ (s.setCell 0 { isSealed := true }).cell 0 = { isSealed := true } ∧
    (at_ 3 node0 { inst0 with restart := true }).inst? 0 = some { inst0 with restart := true } ∧ inst0.phase = .running ∧
    ({ s with pkg := { sethr := 0 } } : State).pkg.sethr = 0 ∧ (s.cell 0).secnt + 0xFFFF ≤ 0xFFFF ∧
    (∃ j, j < 4 ∧ (full.cell (416 + 4 * 0 + j)).isSealed = false) ∧ (ring full).pending = [report] ∧ report.cause ≠ .correctedThreshold ∧
    ((ring full).head + 65536 - (ring full).tail) % 65536 ≠ 256 ∧
    (∀ c ∈ [Cause.poisonFetch, .pageNotPresent], (at_ 0 (nodeHeld c)).node? 0 0 = some (nodeHeld c) ∧ (nodeHeld c).stt = .trapped ∧
      (nodeHeld c).heldFor = some { cause := c }) ∧
    s.par.engine = false ∧ s.par.entry + 8 ≤ 96 * 2 ^ 30 ∧ s.par.entry % 8 = 0 ∧
    (let i := instPair [packet false 1] [packet true 1]
     i.packet false 0 = some (.access { store8 with op := .store 1 }) ∧ i.packet true 0 = some (.access { store8 with op := .store 1 })) ∧
    (let i := instPair [packet false 1] [packet true 2]
     i.packet false 0 = some (.access { store8 with op := .store 1 }) ∧ i.packet true 0 = some (.access { store8 with op := .store 2 }) ∧
     TwinMsg.same (.access { store8 with op := .store 1 }) (.access { store8 with op := .store 2 }) = false) ∧
    (instPair [packet false 1] []).packet true 0 = none ∧
    (flight [store8] false).net[0]? = some store8 ∧ store8.admitted = true ∧ store8.home = .cell 3 ∧ 3 < 416 := by
  decide +kernel

/-- The wear of one cell at site 0 has ended, site 96 is a spare; a commit in progress. -/
def worn : State :=
  let m := (List.range 26).filterMap (fun l => if l < 24 then some (l, l) else none)
  { State.reset with cells := [(0, { wear := { state := 3 } })], pkg := { cmap := m ++ (List.range 72).map (fun l => (24 + l, 26 + l)) } }
theorem witness_WearAgents :
    (105 ≤ 105 ∨ (({} : Island).hot = true ∧ 100 ≤ 105)) ∧ (({ hot := true } : Island).hot = true ∧ 100 ≤ 100) ∧ 99 < 100 ∧ 89 < 90 ∧
    (416 ≤ 416 ∨ (State.reset.island (islandOf 0)).off = false) ∧ (State.reset.island (islandOf 0)).off = false ∧
    (let s : State := State.reset.setIsland (islandOf 0) { off := true }
     (s.island (islandOf (0 / 4))).off = true) ∧
    (worn.par.log < 96 ∧ worn.occupied (worn.siteOfLog worn.par.log) = false ∧ worn.siteFailed (worn.siteOfLog worn.par.log) = true ∧
      (worn.spareFor (worn.siteOfLog worn.par.log)).isSome = true) ∧
    State.reset.pkg.booted = false ∧ ({ booted := true } : Pkg).alBusy = false ∧
    (let g : Pkg := { alBank := some (1, { seq := 5 }) }
     g.alBank = some (1, { seq := 5 }) ∧ g.alAgain = false) ∧ ({ ok := true } : Params).ok = true ∧ ({ ok := false } : Params).ok = false := by
  decide +kernel

/-- The link is up; slot 0 has an offer standing. -/
def linked (w : Params) : State := { State.reset with pkg := { linkUp := true }, host := [(0, { offered := some 0 })], par := w }
theorem witness_HostAgents :
    (linked {}).pkg.linkUp = true ∧ (linked {}).par.slot < 64 ∧ ((linked {}).slot 0).offered.isSome ∧ State.reset.pkg.linkUp = false ∧
    (let w : Params := { write := true, off := 96 * 2 ^ 30 - 8, data := List.replicate 8 1 }
     w.bar = false ∧ w.write = true ∧ w.decoder = false ∧ w.off + 8 ≤ 96 * 2 ^ 30 ∧ w.off % 8 = 0 ∧ w.data.length = 8) ∧
    (let w : Params := { off := 63, data := [0] }
     w.bar = false ∧ w.write = false ∧ w.decoder = false ∧ w.off + w.data.length ≤ 96 * 2 ^ 30 ∧ 0 < w.data.length ∧
     w.off % 64 + w.data.length ≤ 64) ∧
    ({ booted := true } : Pkg).booted = true ∧ ({} : Pkg).booted = false ∧ ({ code := 0xE0, arg := 2 } : Params).code = 0xE0 ∧
    ({ code := 0xE0, arg := 2 } : Params).arg = 2 ∧ (({} : Pkg).fuseCount ≤ ({} : Pkg).fwVersion ∧ ({} : Pkg).fuseCount ≤ ({} : Pkg).flash.version ∧
      ({} : Pkg).banks = []) ∧ ({ fuseCount := 1 } : Pkg).fwVersion < ({ fuseCount := 1 } : Pkg).fuseCount := by
  decide +kernel

/-- A port that is up, idle or sending, with a frame in its window. -/
def portSending : Port := { up := true, sending := some (3, List.replicate 8 1, 0, false) }
def portHolding : Port := { up := true, sinceAck := 1, window := [{ chan := 3, seq := 0, first := true, last := true, moff := 0, payload := [] }] }
theorem witness_LinkAgents :
    (State.reset.port 0).up = false ∧ portSending.up = true ∧ portSending.tagFails < 63 ∧ portSending.window = [] ∧ portSending.bound = none ∧
    portSending.txSeq + 1 < 2 ^ 47 ∧ portSending.sending = some (3, List.replicate 8 1, 0, false) ∧ (List.replicate 8 (1 : Byte)).length ≤ 0 + 8192 ∧
    ({} : Params).seq < ({ rxNext := 1 } : Port).rxNext ∧ ({} : Params).seq = portSending.rxNext ∧ ({} : Params).last = false ∧
    (({ up := true } : Port).sending = none ∧ ({ up := true } : Port).outbox = []) ∧
    (portHolding.window = { chan := 3, seq := 0, first := true, last := true, moff := 0, payload := [] } :: [] ∧
      ({ chan := 3, seq := 0, first := true, last := true, moff := 0, payload := [] } : Frame).sends < 8) ∧ 0 < portHolding.sinceAck ∧
    State.reset.pkg.booted = false ∧ ({ booted := true } : Pkg).booted = true ∧ 11 < 12 ∧ (State.reset.port 0).keyxSent = false ∧
    160 ≤ ({ data := List.replicate 160 0 } : Params).data.length := by
  decide +kernel

/-! ### Witnesses of further clauses -/

theorem sound_of {s : State} (h : s.flaws = []) (key n : Nat) : s.Sound key n := by
  intro d _ _; rw [h]; rfl

/-- A CRIT follower that meets a soft error. -/
def nodeCrit : Node := { node0 with hints := { crit := true, start := some 0xFFC } }
def struck (x : SoftError) : State :=
  let s := at_ 3 nodeCrit
  s.setCell 3 { s.cell 3 with soft := [x] }
theorem witness_CompletionAdvances_vote :
    let flips : Addr → Word := fun e => 10 ^^^ e.truncate 32
    nodeCrit.hints.crit = true ∧ (∀ x, Clear (struck x) (pt 3 nodeCrit) [.g 8, .g 9] [.g 17]) ∧
    (∀ x, ((struck x).cell 3).soft = x :: [] ∧ ((struck x).cell 3).secnt < 0xFFFF) ∧
    ({ val := (0, 0, 4) } : SoftError).exc = (0, 0, 0) ∧ flips 0 = flips 0 ∧ flips 4 ≠ flips 0 ∧ flips 1 ≠ flips 0 ∧ flips 1 ≠ flips 4 :=
  ⟨rfl, fun _ => ⟨rfl, rfl, rfl⟩, fun _ => ⟨rfl, show 0 < 0xFFFF by decide⟩, rfl, rfl, by decide, by decide, by decide⟩
theorem witness_Scoreboard_uses :
    let i : Instr := .add 17 8 9 false false 0
    usesOf i = some ([.g 8, .g 9], [.g 17]) ∧ passes i (pt 3 nodeOwed17) = true ∧ passes i (pt 3 nodeLate17) = true ∧
    nodeOwed17.loc (.g 17) = some (.region 1) ∧ (nodeOwed17.owed.any (fun o => o.dests.contains (.region 1))) = true ∧
    nodeLate17.nctl.getLsbD 0 = true ∧ nodeLate17.owed = [] ∧
    (([.g 8, .g 9] ++ [.g 17] : List RegName).find? (fun r => match nodeLate17.loc r with
      | none => false
      | some l => nodeLate17.fixed.any (fun w => decide (w.write.loc = l)))) = some (.g 17) := by
  decide

/-- A store whose tail is poisoned, and an atomic at the host bridge before and after its read. -/
def storeTail : Access := { store8 with tail := true }
def bridgeAmo (page : Bool) (r : Option (Nat × Option Trap)) : Access :=
  { load8 with op := .amo 0 3 9, size := 4, home := .bridge, key := keyHost 0x40, sysatom := page, read := r }
theorem witness_StorePerformed_whole :
    (∀ l b, (flight l b).flaws = []) ∧ (∀ a ∈ [store8, store4, storeTail], a.home2 = none ∧ a.mirror = none) ∧ storeTail.tail = true ∧
    store8.tail = false ∧ (flight [storeTail] false).mayPerform 0 = true ∧ (flight [storeTail] false).sealedHome storeTail.home = false ∧
    (flight [storeTail] false).absentAt ((flight [storeTail] false).keyNow storeTail.key storeTail.win) = false :=
  ⟨fun _ _ => rfl, by decide, rfl, rfl, by decide +kernel, by decide +kernel, by decide +kernel⟩
theorem witness_StorePerformed_sound : (flight [store4] true).Sound ((flight [store4] true).keyNow store4.key store4.win) store4.size :=
  sound_of rfl _ _
theorem witness_LoadPerformed_flaw :
    let key := keyLocal 3 0x100
    let s : State := { flight [load8] false with flaws := [(key / 8, 2)] }
    load8.read = none ∧ load8.home2 = none ∧ load8.size = 8 ∧ s.keyNow load8.key load8.win = key ∧ key = 8 * (key / 8) ∧
    keyRegion key ∈ [3, 4, 5, 6] ∧ s.flaws = [(key / 8, 2)] ∧ 2 ≤ 2 ∧ s.mayPerform 0 = true ∧ s.absentAt key = false := by
  decide +kernel
theorem witness_ResultArrives_vector :
    let t : Trap := { cause := .watchpoint }
    let o : Owed := { owing .discard 1 [{ part0 255 with wrote := true }] with watch := some t }
    let v : Owed := owing (.vec 3 true) 1 [part0 255]
    let g : Owed := owing (.gather 3 true) 2 [{ n := 31, data := 65535 }, { n := 0, data := 1 }]
    o.watch = some t ∧ o.got = [{ part0 255 with wrote := true }] ∧ o.need ≤ 1 ∧ o.outvoted = false ∧
    node0.vec = some {} ∧ v.form = .vec 3 true ∧ v.got = [part0 255] ∧
    g.form = .gather 3 true ∧ g.need ≤ g.got.length ∧ (∀ x ∈ g.got, x.poison = none) ∧ g.flags = 0 ∧ g.watch = none ∧
    (∀ x ∈ g.got, x.n < 512 / 16 ∧ x.data < 2 ^ 16) ∧ (g.got.map (·.n)).Nodup ∧
    ({ owing .discard 1 [] with outvoted := true } : Owed).outvoted = true ∧ ((at_ 3 node0).cell 3).secnt < 0xFFFF := by
  decide +kernel
theorem witness_AtomicPerformed_bridge :
    (∀ fn ∈ List.range 11, (amo4 fn).home2 = none ∧ (amo4 fn).home ≠ .bridge ∧ (amo4 fn).read = none) ∧
    (∀ b ∈ [false, true],
      (flight [bridgeAmo b none] false).mayPerform 0 = true ∧ (bridgeAmo b none).home = .bridge ∧ (bridgeAmo b none).read = none ∧
      (flight [bridgeAmo b (some (5, none))] false).mayPerform 0 = true ∧ (bridgeAmo b (some (5, none))).read = some (5, none) ∧
      5 < 2 ^ (8 * 4) ∧ (bridgeAmo b none).sysatom = b ∧
      (flight [bridgeAmo b none] false).absentAt ((flight [bridgeAmo b none] false).keyNow (keyHost 0x40) none) = false) := by
  decide +kernel
theorem witness_AtomicPerformed_two_sound : dcas0.read = none ∧ (∀ b, (flight [dcas0] b).Sound (keyLocal 3 0x100) 4) ∧
    (∀ b, (flight [dcas0] b).Sound (keyLocal 3 0x104) 4) := ⟨rfl, fun _ => sound_of rfl _ _, fun _ => sound_of rfl _ _⟩

/-- The other copy's access is performed for the node too; its station holds a TIDCLR of the node. -/
def storeFor : Access := { store8 with src := .node 7 0 0, src2 := some (.node 3 0 0) }
def instHolds : Inst := { instTwin with twinq := [{ second := false, lcell := 3, msg := .tid (.node 3 0 0) 5 (.value 0) }] }
theorem witness_FenceResults_twin :
    Clear (flight [storeFor] false) (pt 3 node0) [] [] ∧ storeFor ∈ (flight [storeFor] false).net ∧ storeFor.src2 = some (.node 3 0 node0.gen) ∧
    Clear (at_ 3 node0 instHolds) (pt 3 node0) [] [] ∧ (at_ 3 node0 instHolds).instOf 3 = some (0, instHolds) ∧ instHolds.twinq ≠ [] :=
  ⟨⟨rfl, rfl, rfl⟩, by simp [flight], rfl, ⟨rfl, rfl, rfl⟩, rfl, by decide⟩

/-- Every exception traps, and every lane of v1 holds the greatest FP32 value. -/
def nodeFpteV : Node := { nodeFpte with vec := some { v := [(1, { val := BitVec.ofNat 512 (((List.range 16).map (fun i => 0x7F7FFFFF * 2 ^ (32 * i))).sum) })] } }
theorem witness_VectorFloatResults_traps :
    let el : Nat → Nat := fun i => (nodeFpteV.getV 1).toNat / 2 ^ (32 * i) % 2 ^ 32
    Clear (at_ 3 nodeFpteV) (pt 3 nodeFpteV) [.v 1, .v 1, .k 0] [.v 3] ∧ nodeFpteV.vec.isSome ∧ Steady (at_ 3 nodeFpteV) (pt 3 nodeFpteV) ∧
    (∀ i < 16, el i = 0x7F7FFFFF) ∧ (∀ i < 16, (nodeFpteV.getK 0).getLsbD (i * 32 / 32) = true) ∧
    (fpAdd fp32 nodeFpteV.rnd nodeFpteV.sat 0x7F7FFFFF 0x7F7FFFFF).2 &&& nodeFpteV.fpte ≠ 0 :=
  ⟨clear_at 3 inst0 rfl rfl rfl rfl rfl _ _, rfl, fun h => absurd h (by decide), by decide +kernel, by decide +kernel, by decide +kernel⟩
theorem witness_ReactionEnds_copies :
    (offering nodeRec).instOf 3 = some (0, inst0) ∧ inst0.twin.isEmpty = true ∧ instTwin.twin.isEmpty = false ∧
    (let s : State := { at_ 3 nodeRec instTwin with mem := [(keyLocal 3 0x100, 1)] }
     s.instOf 3 = some (0, instTwin) ∧ ∃ l, checkOffer s (pt 3 nodeRec) (nodeRec.getA 1) = .ok l) :=
  ⟨rfl, rfl, rfl, rfl, ⟨[⟨0, 0, 0, 0, 0⟩], by decide +kernel⟩⟩
theorem witness_EventResults_taken :
    let ev : Nat := (nodeEv.getG 8).toNat % 1024
    let m : Node := { nodeEv with made := some [0] }
    ev ∈ m.made.getD [] ∧ Clear (at_ 3 m) (pt 3 m) [.g 8] [.g 17] ∧ m.inTrap = false ∧ (at_ 3 m).instOf 3 = some (0, inst0) :=
  ⟨by decide, clear_at 3 inst0 rfl rfl rfl rfl rfl _ _, rfl, rfl⟩
/-- On a reeve cell a1 names tier-2 memory that is absent. -/
def nodeFar : Node := { node0 with a := [(1, 0xF100000000000100)] }
theorem witness_TidResults_cases :
    let s := at_ 416 nodeFar
    let key := 2 ^ 56 + 0x100
    let pl : Place := { key := key, home := dramHome key, tier := 2 }
    let bad : State := { at_ 2 nodeDesc instTid with poison := [keyLocal 2 0x100 / 8] }
    s.instOf 416 = some (0, inst0) ∧ checkAccess s 416 (nodeFar.getA 1) { size := 32, rd := true } = .ok pl ∧ s.absentAt key = true ∧
    s.inFlightTo (.node 416 0 0) pl.home = false ∧ s.sealedHome pl.home = false ∧ Clear s (pt 416 nodeFar) [.g 8, .a 1] [] ∧
    bad.absentAt (keyLocal 2 0x100) = false ∧ poisonedAt bad.poison (keyLocal 2 0x100) 32 = true ∧
    (at_ 2 nodeDesc { instTid with twin := [1], gens := [0, 0] }).instOf 2 = some (0, { instTid with twin := [1], gens := [0, 0] }) ∧
    ({ instTid with twin := [1], gens := [0, 0] } : Inst).twin ≠ [] :=
  ⟨rfl, by decide +kernel, by decide +kernel, by decide +kernel, by decide +kernel, ⟨rfl, rfl, rfl⟩, by decide +kernel, by decide +kernel, rfl,
   by decide⟩
theorem witness_SystemRegisterReads_bounds :
    (∀ x ∈ [(95, 415, 431), (96, 416, 432)],
      let s : State := { at_ 416 node0 with pkg := { cmapx := x.1, wcellx := x.2.2, rings := [(0, { cellx := x.2.1 })] } }
      s.instOf 416 = some (0, inst0) ∧ (s.ring (dieOf 416)).cellx = x.2.1) ∧
    95 < 96 ∧ 96 ≤ 96 ∧ 415 ≤ 415 ∧ 415 < 416 ∧ 431 ≤ 431 ∧ 431 < 432 := by decide +kernel
theorem witness_ReeveRegisterWrites_seals :
    let s : State := { at_ 416 node0 with
      cells := Tab.set (Tab.set (Tab.set (at_ 416 node0).cells 0 { isSealed := true }) 8 { isSealed := true }) 9 { inst := some 0 } }
    (∀ r, r < 4 → (s.cell (4 * (0 / 4) + r)).inst = none) ∧ (s.cell 0).isSealed = true ∧ (s.cell 4).isSealed = false ∧
    (s.cell 8).isSealed = true ∧ ¬ (∀ r, r < 4 → (s.cell (4 * (8 / 4) + r)).inst = none) ∧ 0 ≤ 415 ∧ 415 < 416 ∧ 0 % 4 < 3 ∧
    (1 : Word).getLsbD 0 = true ∧ (0 : Word).getLsbD 0 = false ∧ ({ alBusy := true } : Pkg).alBusy = true ∧ ({} : Pkg).alBusy = false := by
  decide +kernel
theorem witness_WindowSpillResults_poisoned :
    let s : State := { at_ 3 (nodeSpill 0x200 0x240 2 1) with poison := [keyLocal 3 0x200 / 8] }
    Clear s (pt 3 (nodeSpill 0x200 0x240 2 1)) [] [] ∧ poisonedAt s.poison (keyLocal 3 0x200) 64 = true ∧
    s.inFlightTo (.node 3 0 0) (.cell 3) = false := ⟨⟨rfl, rfl, rfl⟩, by decide +kernel, by decide +kernel⟩

/-- An unsigned image of one croft whose one node of two code words stands on cell 3, the record that launches one group of it, and
the memory that holds both, every address below 2^30 mapped to itself. -/
def file0 : List Byte :=
  let sec : Nat → Nat → Nat → Nat → List Byte := fun ty off size addr =>
    leBytes 8 0 ++ leBytes 4 ty ++ leBytes 4 0 ++ leBytes 4 off ++ leBytes 4 size ++ leBytes 8 addr
  leBytes 4 0x1A474C52 ++ leBytes 1 0 ++ leBytes 1 1 ++ leBytes 2 2 ++ leBytes 4 3 ++ leBytes 4 64 ++ leBytes 4 264 ++ leBytes 44 0
    ++ sec 5 160 64 0 ++ sec 6 224 32 0 ++ sec 1 256 8 0x1000
    ++ leBytes 4 0x11 ++ leBytes 4 1 ++ leBytes 16 0 ++ leBytes 4 0x1000 ++ leBytes 4 8 ++ leBytes 32 0
    ++ leBytes 2 3 ++ leBytes 2 0 ++ leBytes 4 48 ++ leBytes 4 0x1000 ++ leBytes 4 0x1000 ++ leBytes 16 0
    ++ leBytes 4 0x06284800 ++ leBytes 4 0x08200000
def record0 (tag : Nat) : List Byte :=
  leBytes 8 0x8000 ++ leBytes 8 0 ++ leBytes 4 264 ++ leBytes 4 0 ++ leBytes 8 1 ++ leBytes 8 0x1000 ++ leBytes 4 0 ++ leBytes 28 0
    ++ leBytes 8 tag ++ leBytes 48 0
def ready0 : State :=
  { State.reset with mem := Memory.setBytes (Memory.setNum (Memory.setNum [] 0x1000 8 0x2001) 0x2000 8 7) 0x8000 file0 }
/-- R219: the image passes every check. That the launch is then held needs room in the dispatcher, a number that is free. -/
theorem witness_ReeveInstructions_accepted :
    Config.dispatchRoom ≤ ready0.launches.length ∨ (ready0.submit .host (record0 7)).2 = 0 := by
  by_cases h : Config.dispatchRoom ≤ ready0.launches.length
  · exact .inl h
  · right
    have h1 : recordOk ready0 (record0 7) = true := by decide +kernel
    have h2 : launchPlaces ready0 (LaunchRec.of (record0 7)).troot (LaunchRec.of (record0 7)).par (LaunchRec.of (record0 7)).parLen = some [] := by
      decide +kernel
    have h3 : launchPlaces ready0 (LaunchRec.of (record0 7)).troot (LaunchRec.of (record0 7)).image (LaunchRec.of (record0 7)).imageLen =
        some ((List.range 264).map (fun j => (0x8000 + j, false, true))) := by decide +kernel
    have h4 : launchBytes ready0 [] = some [] := by decide +kernel
    have h5 : launchBytes ready0 ((List.range 264).map (fun j => (0x8000 + j, false, true))) = some file0 := by decide +kernel
    have h6 : headAgrees (LaunchRec.of (record0 7)) file0 = true := by decide +kernel
    have h7 : ((List.range 264).map (fun j => (0x8000 + j, false, true))).any (fun x : Nat × Bool × Bool => x.2.1) = false := by decide +kernel
    have h8 : headerOk file0 = true := by decide +kernel
    have h9 : signatureOk ready0.pkg file0 = true := by decide +kernel
    have h10 : layoutOk file0 = true := by decide +kernel
    have h11 : patchCode (imageOf file0) [] (imageOf file0).patches 0 (imageOf file0).code = .ok (imageOf file0).code := by decide +kernel
    have h12 : (imageOf file0).dram = [] := by decide +kernel
    have e : ready0.flaws.isEmpty = true := rfl
    have m0 : ∀ a b c, ready0.meetRange a b c = ready0 := fun _ _ _ => by simp only [State.meetRange, e, if_true]
    have m1 : ready0.launchTouch false [] = ready0 := rfl
    have m2 : ready0.launchTouch false ((List.range 264).map (fun j => (0x8000 + j, false, true))) = ready0 := by decide +kernel
    have m3 : ∀ src wr a, ready0.launchAbsent src wr a [] = ready0 := fun _ _ _ => rfl
    have m4 : ∀ src wr a, ready0.launchAbsent src wr a ((List.range 264).map (fun j => (0x8000 + j, false, true))) = ready0 := fun src wr a => by
      have h : ((List.range 264).map (fun j => (0x8000 + j, false, true))).findIdx? (fun x : Nat × Bool × Bool => ready0.absentAt x.1) = none := by
        decide +kernel
      simp only [State.launchAbsent, h]
    unfold State.submit
    simp only [m0, m1, m2, m3, m4, h1, h2, h3, h4, h5, h6, h7, h8, h9, h10, h11, h12, launchWrite, launchPlaces, launchWritable, Bool.not_true, Bool.or_self, Bool.false_eq_true,
      if_false, List.length_nil, List.all_nil, List.zip_nil_right, List.foldl_nil]
    rw [if_neg h]
theorem witness_ReeveInstructions_statuses :
    (State.reset.submit .host (record0 7)).2 = 1 ∧ (State.reset.resubmit (record0 7)).2 = 1 ∧
    (let s : State := { ready0 with launches := [(4, { tag := 7, phase := .ended })] }
     s.launchTag (leNat (slice (record0 7) 72 8)) = some (4, { tag := 7, phase := .ended }) ∧ (s.resubmit (record0 7)).2 ∈ [0, 2]) := by
  decide +kernel

/-- A node in WAITING whose event has a status, with a last-use source to release; one that waits for its delay. -/
def nodeWaited : Node := { node0 with stt := .waiting, wait := some { ev := 0, d := 17, rel := [.g 8] }, resolved := some 2 }
theorem witness_NodeAgents_waits :
    let s : State := { at_ 3 nodeWaited with par := { pcell := 3 } }
    let m : Node := { nodeResolved with delay := 5 }
    s.node? 3 0 = some nodeWaited ∧ nodeWaited.resolved = some 2 ∧ nodeWaited.offer = none ∧
    nodeWaited.wait = some { ev := 0, d := 17, rel := [.g 8] } ∧ nodeWaited.delay ≤ (s.cell 3).cyc ∧ nodeWaited.loc (.g 17) ≠ some (.g 8) ∧
    (at_ 3 node0).node? 3 0 = some node0 ∧ node0.resolved = none ∧ (at_ 3 m).node? 3 0 = some m ∧
    ((at_ 3 m).cell 3).cyc < m.delay ∧ ((at_ 3 m).cell 3).running.isSome := by
  decide +kernel

/-- A REDUCE of one word that the node gives, in the same or in another way in the two copies; a budget that is spent. -/
def imageGive : Image := { image0 with events := [{ kind := 2, etype := 4, len := 4, parts := [{ id := 0, pkind := 0, role := 3, obs := false }] }] }
def giving (twin : List Nat) (spent : Nat) (b : Byte) : State :=
  let n : Node := { node0 with stt := .offering, made := some [0],
                               offer := some { resolvedOffer with entries := [⟨0, 3, 0x200, 0x300, 4⟩] } }
  let i : Inst := { image := imageGive, sites := [0], twin := twin, gens := [0, 0] }
  let s := (at_ 3 n i).setCell 7 { inst := some 0, lcell := 3, codeOff := 0x1000, codeLen := 16, running := some 0, nodes := [(0, n)] }
  { s with mem := Memory.setNum [] (keyLocal 7 0x200) 1 b.toNat, launches := [(0, { budgets := [0, 0, 0, 64] })],
           crofts := [(0, { spent := [(4, spent)] })] }
theorem witness_SheafAgents_combines :
    let i : Inst := { image := imageGive, sites := [0], gens := [0, 0] }
    let j : Inst := { i with twin := [1] }
    (giving [] 0 0).inst? 0 = some i ∧ ((giving [] 0 0).admitCombine 0 0).combinePaid 0 0 = true ∧
    ((giving [] 64 0).admitCombine 0 0).combinePaid 0 0 = false ∧ (giving [] 64 0).quiescent i = true ∧ (giving [] 64 0).offered 0 i = [0] ∧
    (giving [] 64 0).differing 0 [0] = none ∧ (at_ 3 node0).share inst0 4 = none ∧
    (giving [] 0 0).differing 0 [0] = none ∧ (giving [1] 0 9).inst? 0 = some j ∧ (giving [1] 0 9).differing 0 [0] ≠ none ∧
    (∀ p ∈ (j.event 0).required, (giving [1] 0 9).offers 0 j 0 true p = true) ∧ (giving [1] 0 9).offered 0 j = [0] ∧
    (giving [1] 0 9).quiescent j = true := by
  decide +kernel
/-- The node waits; its offer persists; it has resolved on another event. -/
def overrunning (n : Node) : State := { at_ 3 n with launches := [(0, { overrun := 9 })] }
theorem witness_SheafAgents_rounds :
    let settled : Node := { node0 with stt := .offering, offer := some { resolvedOffer with entries := [⟨0, 0, 0, 0, 0⟩] }, made := some [0], settled := some (some 1) }
    let waits : Node := { node0 with stt := .waiting, wait := some { ev := 2, d := 17 } }
    let keeps : Node := { node0 with stt := .offering, made := some [1], offer := some { resolvedOffer with persist := true, entries := [⟨1, 0, 0, 0, 0⟩] } }
    (offered.quiescent inst0 = true ∧ (∀ e ∈ offered.offered 0 inst0, ((offered.offered 0 inst0).foldl (fun s e => s.admitCombine 0 e) offered).combinePaid 0 e = true) ∧
      offered.differing 0 (offered.offered 0 inst0) = none) ∧
    (∃ n, (at_ 3 settled).ord inst0 0 = some n ∧ n.settled.isSome) ∧
    (let i : Inst := { inst0 with image := { image0 with events := [] } }
     let s := at_ 3 { node0 with stt := .paused } i
     s.inst? 0 = some i ∧ i.phase = .running ∧ s.quiescent i = true ∧ s.offered 0 i = [] ∧ s.refresh 0 = s ∧
      (∀ x ∈ s.nodesOf i, x.2.offer = none ∧ (x.2.stt = .paused ∨ x.2.stt = .sleeping ∨ x.2.stt = .retired ∨ x.2.stt = .sealed))) ∧
    (∀ n ∈ [node0, waits, keeps], (overrunning n).overrunDue 0 = true ∧ (overrunning n).inst? 0 = some inst0 ∧
      (((overrunning n).nodesOf inst0).map (·.1)).Nodup) ∧
    node0.stt = .running ∧ waits.stt = .waiting ∧ waits.resolved = none ∧ keeps.stt = .offering ∧
    (∃ f, (overrunning keeps).openOffer inst0 0 = some f ∧ f.persist = true) ∧ (overrunning waits).openOffer inst0 0 = none := by
  decide +kernel

/-- One command at the head of an engine, with nothing in its way. -/
def copy0 (dkind : Bool) (dst : Addr) (ctype : Nat) : CpyDesc :=
  { src := 0x600, dst := dst, len0 := 8, count1 := 1, count2 := 1, sstride1 := 0, sstride2 := 0, dstride1 := 0, dstride2 := 0,
    dkind := dkind, publish := false, cop := 0, ctype := ctype, mcast := 0, idx := 0x400 }
def conv0 (dslot : Bool) : CnvDesc :=
  { stid := 0, dtid := 1, rnd := 0, sat := false, dslot := dslot, slot := 0, publish := false, row0 := 0, nrows := 1, soff := 0 }
def command (op : CmdOp) (a b : Nat) : Cmd := { op := op, inst := 0, tid1 := Store.get 0 instTid.tids a, tid2 := Store.get 0 instTid.tids b }
theorem witness_EngineAgents_chunks :
    ∀ x ∈ [(2, command (.mma 0 1 0 5 5 false) 5 5), (2, command (.mzero 0) 0 0), (2, command (.mdrain 0 false 1 false) 1 1),
        (0, command (.copy (copy0 false 0x300 0)) 0 0), (0, command (.copy (copy0 true 0 0)) 0 0), (0, command (.copyg (copy0 false 0x300 0)) 0 0),
        (0, command (.copyop { copy0 false 0x2000000000000000 6 with len0 := 4 }) 0 0), (1, command (.conv (conv0 false)) 0 1),
        (1, command (.conv (conv0 true)) 0 1), (1, command (.planes (conv0 true)) 0 2), (1, command (.sparsify (conv0 true)) 0 3),
        (1, command (.scalec (conv0 true)) 1 4)],
      let s := croft0 { queue := [x.2] } x.1
      let e := s.engine 0 x.1
      let c := chunkOf s inst0 0 x.1 x.2 e
      x.1 < 3 ∧ e.queue = [x.2] ∧ s.engineDue 0 x.1 = true ∧ s.instD x.2.inst = inst0 ∧ inst0.twin = [] ∧ e.dead = false ∧
      s.gangDead inst0 x.2 = false ∧ e.prog < x.2.total ∧ s.chunkWaits x.1 c = false ∧ s.chunkOpen inst0 x.1 c e = true ∧ e.noFrame = false ∧ s.pageTrap x.1 c.touches = none ∧
      e.row = none ∧ s.flaws = [] := by
  decide +kernel
theorem witness_EngineAgents_operands :
    let x := fun n => Tid.of (Store.get 0 instTid.tids n)
    (x 5).cols ≤ 128 ∧ (x 1).fmt ≠ 0x20 ∧ (x 0).cols = (x 1).cols ∧ (x 2).fmt = 0x20 ∧ 0 < (x 2).rows ∧ (x 0).cols = (x 2).cols ∧ (x 2).sparse = 0 ∧
    (x 0).cols % 8 = 0 ∧ (x 3).fmt ≠ 0x20 ∧ (x 0).cols = (x 3).cols ∧ (x 4).fmt ≠ 0x20 ∧ (x 4).smode = 1 ∧ (x 1).cols = (x 4).cols ∧
    parts 0x300 8 = [(0x300, 8)] ∧ ((croft0 {}).engineBytes 0 0x400 4).bad = false ∧ elemBytes 6 = 4 := by
  decide +kernel
theorem witness_EngineAgents_lands :
    ∃ pl, (croft0 {}).rangePlace 0 0x300 8 true = .ok pl ∧ pl.mirror = none ∧ (croft0 {}).sealedHome pl.home = false :=
  ⟨_, rfl, rfl, by decide +kernel⟩
theorem witness_EngineAgents_combines : ∃ pl, (croft0 {}).rangePlace 0 0x2000000000000000 4 true = .ok pl :=
  ⟨{ key := keyBin 0 0, home := .bin 0, win := some (0, 0) }, by decide +kernel⟩
theorem witness_EngineAgents_stops :
    let m := command (.copy (copy0 false 0x8000000000000000 0)) 0 0
    let op := command (.copyop { copy0 false 0x2000000000000000 6 with len0 := 4 }) 0 0
    let s := croft0 { queue := [m] }
    let dead := croft0 { queue := [m], dead := true }
    let full : State := { croft0 { queue := [op] } with
      launches := [(0, { budgets := [0, 0, 0, 64] })], crofts := [(0, { eng := [(0, { queue := [op] })], spent := [(4, 64)] })] }
    let held : State := { at_ 0 node0 { inst0 with twinq := [{ second := false, lcell := 0, msg := .tid (.node 0 0 0) 5 (.value 0) }] } with
      crofts := [(0, { eng := [(0, { atIssue := some cmd0 })] })] }
    ((s.pageTrap 0 (chunkOf s inst0 0 0 m (s.engine 0 0)).touches).isSome = true ∧ s.chunkWaits 0 (chunkOf s inst0 0 0 m (s.engine 0 0)) = false) ∧
    ((dead.engine 0 0).dead = true ∧ (dead.engine 0 0).begun = false ∧ dead.engineDue 0 0 = true) ∧
    (full.engineDue 0 0 = true ∧ full.chunkWaits 0 (chunkOf full inst0 0 0 op (full.engine 0 0)) = false ∧
      full.chunkOpen inst0 0 (chunkOf full inst0 0 0 op (full.engine 0 0)) (full.engine 0 0) = false) ∧
    held.tidHeld 0 0 = true ∧ (at_ 0 node0).tidHeld 0 0 = false ∧
    (let t := croft0 { queue := [{ cmd0 with event := some 0 }], begun := true, prog := 1 }
     t.inst? 0 = some inst0 ∧ inst0.phase ≠ .between ∧ inst0.permanent 0 ≠ .faulted) ∧
    (let t := croft0 { queue := [cmd0], begun := true, prog := 0 }
     (t.engine 0 0).prog < cmd0.total) ∧ (let t := croft0 { queue := [m], begun := false, prog := m.total }
     m.total ≤ (t.engine 0 0).prog ∧ t.engineDue 0 0 = true) := by
  decide +kernel

theorem witness_DecodeOfEncode :
    (Instr.add 17 8 9 false false 0).wf = true ∧ encode (.add 17 8 9 false false 0) = some 0x06284800 := by decide
theorem witness_EncodeOfDecode : decode 0x06284800 = .ok (.add 17 8 9 false false 0) := by decide

/-- The word ADD g17, g8, g9 stands where the node of cell 3 fetches; with a hint before it, the node stands inside the run. -/
def fetching (n : Node) (c : List Choice) : State :=
  { at_ 3 n with mem := Memory.setNum [] (keyLocal 3 0x1000) 4 0x06284800, agenda := c }
def nodeRun : Node := { node0 with hints := { stall := 3, start := some 0xFFC } }
theorem witness_StepRunsDecoded :
    (∀ n ∈ [node0, nodeRun],
      let s := fetching n [.issue 3]
      let t : State := { s with agenda := [], cur := 3 }
      s.agenda = .issue 3 :: [] ∧ t.run? = some (0, n) ∧ t.clockOn 3 = true ∧ t.awaits 3 = false ∧
      BitVec.ofNat 32 (Memory.num t.mem (keyLocal 3 n.pc.toNat) 4) = (0x06284800 : Word)) ∧
    nodeRun.hints.start.isSome ∧ node0.hints.start = none ∧
    (let t : State := { fetching node0 [] with cur := 3 }
     t.agenda = [] ∧ t.defaultChoice = some (.issue 3) ∧ t.frozen 3 = false ∧ node0.boundary = none ∧ breaks t 3 node0 = false ∧
     (t.cell 3).codeOff ≤ node0.pc.toNat ∧ node0.pc.toNat < (t.cell 3).codeOff + (t.cell 3).codeLen ∧
     poisonedAt t.poison (keyLocal 3 node0.pc.toNat) 4 = false ∧ (0x06284800 : Word).extractLsb' 26 6 ≠ 0x3F) ∧
    Instr.nodeSelect ∈ agents ∧ ({ State.reset with agenda := [.event .nodeSelect {}] } : State).agenda = .event .nodeSelect {} :: [] := by
  decide +kernel
theorem witness_StepKeepsMemory :
    let s := fetching node0 [.issue 3]
    s.MemOk ∧ ∃ t, step s = .next t := ⟨by unfold State.MemOk; decide +kernel, _, rfl⟩

/-- The firmware holds a drain request of TAG 9; a launch of that TAG stands in a phase, with an instance or without. -/
def draining (ph : LaunchPhase) (live : Bool) : State :=
  let s := if live then at_ 3 node0 else State.reset
  { s with launches := [(0, { tag := 9, phase := ph, drainlim := 1, forcelim := 1 })],
           host := [(0, { request := some (leBytes 8 2 ++ leBytes 8 9 ++ leBytes 240 0) })] }
theorem witness_LaunchAgents_drains :
    (∀ ph ∈ [LaunchPhase.dispatching, .draining, .stopping, .forcing, .ended], ∀ live ∈ [false, true],
      let s := draining ph live
      let x : Launch := { tag := 9, phase := ph, drainlim := 1, forcelim := 1 }
      (s.slot 0).request = some (leBytes 8 2 ++ leBytes 8 9 ++ leBytes 240 0) ∧
      requestZero (leBytes 8 2 ++ leBytes 8 9 ++ leBytes 240 0) true false = true ∧ leNat (slice (leBytes 8 2 ++ leBytes 8 9 ++ leBytes 240 0) 8 8) = 9 ∧
      s.launchTag 9 = some (0, x) ∧ s.launch? 0 = some x ∧ x.completed = false ∧ x.drainlim ≠ 0 ∧ x.forcelim ≠ 0 ∧
      ((s.instsOf 0 = []) ↔ live = false)) ∧ State.reset.launch? 0 = none := by
  decide +kernel
theorem witness_LaunchAgents_ends :
    let s : Bool → Launch → State := fun r x => { at_ 3 { node0 with stt := .retired } { inst0 with phase := .between, restart := r } with launches := [(0, x)] }
    (s false { count := 2, nextG := 1 }).endDue 0 = true ∧ (s true { count := 2, nextG := 1 }).endDue 0 = true ∧
    (s false { count := 1, nextG := 1 }).endDue 0 = true ∧ (∀ e ∈ (s false { count := 1, nextG := 1 }).instsOf 0, e.1 = 0) ∧
    (at_ 3 node0).endDue 0 = false ∧ (at_ 3 node0).cleanDue 0 = false ∧ (at_ 3 node0).forcedDue 0 = false ∧
    (at_ 3 node0 { inst0 with phase := .forced, restart := true }).forcedDue 0 = true := by
  decide +kernel

/-- A ring with its head 256 past its tail, or less; reports with and without a held node. -/
def ringed (head : Nat) (l : List Report) : State := { at_ 3 node0 with pkg := { rings := [(0, { head := head, pending := l })] } }
theorem witness_ContainmentAgents_reports :
    let plain : Report := { cause := .divZero }
    let kept : Report := { cause := .pageNotPresent, held := true, pcell := 0, nid := (at_ 0 node0).nid 0 0 }
    let fixed : Report := { cause := .correctedThreshold, pcell := 0 }
    let twice : State := { ringed 0 [fixed] with cells := Tab.set (at_ 3 node0).cells 0 { thresholds := 2 } }
    (∀ h ∈ [0, 255, 256], ((ringed h [kept, plain]).ring 0).head = h ∧ ((ringed h [kept, plain]).ring 0).pending = [kept] ++ plain :: []) ∧
    (256 + 65536 - 0) % 65536 = 256 ∧ (255 + 65536 - 0) % 65536 ≠ 256 ∧ kept.held = true ∧ plain.held = false ∧
    (∃ j, j < 4 ∧ ((ringed 0 []).cell (416 + 4 * 0 + j)).isSealed = false) ∧
    ((twice.ring 0).pending = fixed :: [] ∧ 2 ≤ (twice.cell 0).thresholds ∧ ((ringed 0 [fixed]).cell 0).thresholds < 2) ∧
    (let s : State := { at_ 0 (nodeHeld .pageNotPresent) with pkg := { rings := [(0, { pending := [kept] })] } }
     s.reportWaits 0 0 = true ∧ (at_ 0 (nodeHeld .pageNotPresent)).reportWaits 0 0 = false) ∧
    (let d := keyLocal 0 0x100 / 8
     let s : State := { at_ 3 node0 with flaws := [(d, 2)] }
     ownerOf (8 * d) = some 0 ∧ Store.get 0 s.flaws d = 2 ∧ (∀ x ∈ s.flaws, ownerOf (8 * x.1) ≠ some 1) ∧ (s.cell 1).secnt ≤ 0xFFFF) := by
  decide +kernel
/-- The service of the page at which a node of cell 0 or the copy engine is held: an entry of a table at 0x1000 that is present or not. -/
def serviced (engine : Bool) (v : Addr) : State :=
  let t : Trap := { cause := .pageNotPresent, taddr := 0x8000000000000000 }
  let s := at_ 0 { node0 with stt := .trapped, heldFor := some t }
  { s with mem := Memory.setNum [] 0 8 0x1001, launches := [(0, {})], crofts := [(0, { eng := [(0, { heldFor := some t })] })],
           par := { engine := engine, entry := 0x1000, value := v } }
theorem witness_ContainmentAgents_pages :
    (∀ e ∈ [false, true], ∀ there ∈ [false, true],
      let v : Addr := if there then 0x7 else 0x6
      let s := serviced e v
      let s' : State := s.writeKey (keyTier1 s.par.entry) ((leBytes 8 v.toNat).map (fun b => (b, false)))
      s.par.entry + 8 ≤ 96 * 2 ^ 30 ∧ s.par.entry % 8 = 0 ∧ (s.par.engine = e) ∧ s.reportWaits 0 0 = false ∧
      (s.engine 0 0).heldFor = some { cause := .pageNotPresent, taddr := 0x8000000000000000 } ∧ ((s.node? 0 0).map (·.stt)) = some .trapped ∧
      (s'.pageThere 0 0x8000000000000000 = there)) := by
  decide +kernel
theorem witness_ContainmentAgents_twins :
    let tidOf : Word → TwinMsg := fun _ => .tid (.node 0 0 0) 5 (.value 0)
    let i : Inst := instPair [{ second := false, lcell := 0, msg := tidOf 0 }] [{ second := true, lcell := 0, msg := tidOf 0 }]
    (i.packet false 0 = some (tidOf 0) ∧ i.packet true 0 = some (tidOf 0) ∧ (tidOf 0).same (tidOf 0) = true) ∧
    (TwinMsg.same (.access { store8 with op := .store 1 }) (.access { store8 with op := .store 2 }) = false) ∧
    ((instPair [packet false 1] []).packet false 0).isSome ≠ ((instPair [packet false 1] []).packet true 0).isSome ∧
    instTwin.twin ≠ [] ∧
    (let s : Nat → State := fun e => { at_ 0 node0 instTwin with
       crofts := [(0, { eng := [(0, { standing := [{ ev := 0, addr := 0 }] })] }), (1, { eng := [(0, { standing := [{ ev := e, addr := 0 }] })] })] }
     ((s 1).twinOffers instTwin 0 0).1 = true ∧ ((s 0).twinOffers instTwin 0 0).1 = false) ∧
    ((at_ 0 node0 instTwin).twinOffers instTwin 0 0).2 = false := by
  decide +kernel
theorem witness_ContainmentAgents_silent :
    (let s : Home → Bool → State := fun h ok => { at_ 3 node0 with
       net := [{ store8 with home := h, admitted := ok }], launches := [(0, { tag := 5 })], host := [(0, {})] }
     (∀ h ∈ [Home.cell 415, .bin 415, .bridge], (s h true).net[(s h true).par.i]? = some { store8 with home := h, admitted := true } ∧
       (s h true).par.engine = false) ∧ (∀ a, (s .bridge false).net[0]? = some a → a.admitted = false) ∧
     (s (.bin 1) true).usersOf (.bin 1) = [0] ∧ (s (.bin 1) true).launch? 0 = some { tag := 5 } ∧ ({ tag := 5 } : Launch).completed = false) := by
  decide +kernel

theorem witness_WearAgents_heat :
    ((-40 : Int) < 115 ∧ (-40 : Int) < 90 ∧ ¬ ((105 : Int) ≤ -40) ∧ (115 : Int) ≤ 115 ∧ (114 : Int) < 115 ∧ (105 : Int) ≤ 114) ∧
    (let s : State := { at_ 3 node0 with launches := [(0, { tag := 5 })] }
     s.inst? 0 = some inst0 ∧ inst0.reeve = false ∧ (∃ site ∈ inst0.allSites, islandOf site = islandOf 0) ∧ s.launch? inst0.launch = some { tag := 5 } ∧
     s.instOf 3 = some (0, inst0)) ∧
    (let g : Pkg := { alBank := some (1, { seq := 5 }), alAgain := true }
     g.alBank = some (1, { seq := 5 }) ∧ g.alAgain = true) ∧ ({ booted := true, alBusy := true } : Pkg).alBusy = true ∧ ({ booted := true } : Pkg).booted = true ∧
    96 ≤ 96 ∧ State.reset.siteFailed 0 = false := by
  decide +kernel
/-- What a reading converts to is free, but the bounds that a worn share meets or passes are not. -/
theorem witness_WearAgents_shares :
    let life := 220000000 * 1000000
    let r : Policy := {}
    let below : Nat → Nat → Prop := fun worn share => 100 * worn < share * life
    below 0 r.derate ∧ (¬ below (80 * life / 100) r.derate ∧ below (80 * life / 100) r.drain) ∧
    (¬ below (95 * life / 100) r.drain ∧ below (95 * life / 100) r.retire) ∧ ¬ below life r.retire := by
  decide +kernel

/-- The host's slot 0 takes part in event 0 of the reeve domain; a host atomic or store, with the line held for SYSATOM or not. -/
def reeved (w : Params) (l : List Access) : State :=
  let i : Inst := { reeve := true, image := { image0 with events := [{ kind := 1, parts := [{ id := 0, pkind := 5, role := 1, obs := false }] }] } }
  { State.reset.setInst 0 i with pkg := { linkUp := true }, par := w, net := l }
theorem witness_HostAgents_memory :
    ((reeved {} []).slot 0).offered = none ∧ (∃ v ∈ (((reeved {} []).reeveInst).map (·.2.image.events)).getD [], ∃ p ∈ v.parts, p.pkind = 5 ∧ p.id = 0) ∧
    (let w : Params := { hostMem := true, write := true, off := 0x40, data := [1, 0, 0, 0] }
     w.hostMem = true ∧ w.off % 64 + w.data.length ≤ 64 ∧ 0 < w.data.length ∧ w.off + w.data.length ≤ 2 ^ 56 ∧
     (reeved w []).lineHeld (keyHost 0x40) = false ∧ (reeved w [bridgeAmo true (some (5, none))]).lineHeld (keyHost 0x40) = true ∧
     (reeved w [bridgeAmo false (some (5, none))]).lineHeld (keyHost 0x40) = false) ∧
    (let w : Params := { bar := true, off := 0x3FC0, data := List.replicate 64 0 }
     w.bar = true ∧ 0 < w.data.length ∧ w.off % 64 + w.data.length ≤ 64 ∧ w.off + w.data.length ≤ 0x4000) ∧
    State.reset.flaws = [] ∧ (∀ m ∈ [2, 3, 5, 6], ({ code := 0xE0, arg := m } : Params).arg = m) ∧
    (({} : Pkg).fuseCount ≤ ({} : Pkg).fwVersion ∧ ({} : Pkg).fuseCount ≤ ({} : Pkg).flash.version) ∧
    ({ fuseCount := 1, fwVersion := 1 } : Pkg).flash.version < ({ fuseCount := 1, fwVersion := 1 } : Pkg).fuseCount ∧ ({} : Pkg).chosen = none := by
  decide +kernel

/-- A port whose oldest frame has been sent 8 times, one at the end of its SEQ range, one whose budget is spent. -/
def frame0 (seq sends : Nat) : Frame := { chan := 3, seq := seq, first := true, last := true, moff := 0, payload := [], sends := sends }
theorem witness_LinkAgents_frames :
    let spent : State := { at_ 3 node0 with
      launches := [(0, { budgets := [0, 0, 64, 0] })], crofts := [(0, { spent := [(3, 64)] })],
      ports := [(0, { portSending with bound := some 0 })] }
    let fresh : State := { at_ 3 node0 with ports := [(0, portSending)] }
    ({ rxNext := 1 } : Port).rxNext < ({ seq := 2 } : Params).seq ∧ ({ last := true } : Params).last = true ∧
    ({ up := true, tagFails := 63 } : Port).bound = none ∧ 63 ≤ ({ up := true, tagFails := 63 } : Port).tagFails ∧
    (∀ k ∈ [1, 8], ({ up := true, window := [frame0 4 k] } : Port).window = frame0 4 k :: []) ∧ (frame0 4 1).sends < 8 ∧ 8 ≤ (frame0 4 8).sends ∧
    ¬ (5 ≤ (frame0 4 8).seq ∧ 8 ≤ (frame0 4 8).sends) ∧ 4 ≤ (frame0 4 8).seq ∧ 2 ^ 47 ≤ ({ txSeq := 2 ^ 47 - 1 } : Port).txSeq + 1 ∧
    spent.frameOpen 0 3 = false ∧ fresh.frameOpen 0 3 = true ∧ portSending.held + 32 + 8192 ≤ 384 * 2 ^ 20 ∧ ({ up := true } : Port).sinceAck = 0 ∧
    ({ keyxSent := true } : Port).keyxSent = true ∧ ({ data := [0] } : Params).data.length < 160 ∧
    (let i : Image := { image0 with events := [{ kind := 1, len := 8, parts := [{ id := 0, pkind := 4, role := 1, obs := false }] }] }
     let s := at_ 3 node0 { inst0 with image := i }
     ({ s with ports := [(0, { up := true, bound := some 0 })] } : State).expects 0 0 = some 8 ∧ fresh.expects 0 3 ≠ some 8) := by
  decide +kernel
/-- A drained instance keeps the binding of port 0. -/
theorem witness_LinkAgents_unbound :
    let i : Image := { image0 with events := [{ kind := 1, len := 8, parts := [{ id := 0, pkind := 4, role := 1, obs := false }] }] }
    let s : State := { State.reset with
      ports := [(0, { up := true })], launches := [(1, { image := i, saved := [{ group := 0, kind := 0, ports := [(0, false)] }] })] }
    (s.port 0).bound = none ∧ s.expects 0 0 = some 8 := by
  decide +kernel
theorem witness_StepRunsDecoded_storage :
    (∀ n ∈ [node0, nodeRun],
      let t : State := { fetching n [] with cur := 3 }
      t.readCode = t ∧ t.flaws = [] ∧ t.run? = some (0, n) ∧ n.boundary = none) ∧
    (let t : State := { fetching node0 [] with cur := 3, flaws := [(keyLocal 3 0x1000 / 8, 1)] }
     let r := t.readCode
     r.run? = some (0, node0) ∧ r.flaws = [] ∧ r.clockOn 3 = true ∧ r.awaits 3 = false ∧ r.frozen 3 = false ∧ breaks r 3 node0 = false ∧
     (r.cell 3).codeOff ≤ node0.pc.toNat ∧ node0.pc.toNat < (r.cell 3).codeOff + (r.cell 3).codeLen ∧
     poisonedAt r.poison (keyLocal 3 node0.pc.toNat) 4 = false ∧
     decode (BitVec.ofNat 32 (Memory.num r.mem (keyLocal 3 node0.pc.toNat) 4)) = .ok (.add 17 8 9 false false 0)) := by
  decide +kernel

/-- a1 and a2 name two words of cell 2's memory through space 1. -/
def nodeTwoFar : Node := { node0 with a := [(1, 0x1000000000040100), (2, 0x1000000000040104)] }
theorem witness_AtomicResults_away :
    let k1 : Acc := { size := 4, rd := true, wr := true, amo2 := true }
    let k2 : Acc := { k1 with second := true }
    ∀ i ∈ [inst0, instTwin],
      let s := at_ 3 nodeTwoFar i
      (checkAccess s 3 (nodeTwoFar.getA 1) k1).toOption.map (·.away) = some true ∧
      (checkAccess s 3 (nodeTwoFar.getA 2) k2).toOption.map (·.away) = some true ∧
      nodeTwoFar.getA 1 ≠ nodeTwoFar.getA 2 ∧ s.instOf 3 = some (0, i) ∧ inst0.twin = [] ∧ instTwin.twin ≠ [] := by
  decide +kernel

/-- Followers of CRIT: a sum, a product that lands later, a root and a quotient that are owed; every exception traps, or none. -/
def nodeVoted (fpte : Bool) : Node := { nodeCrit with nctl := if fpte then 0x3E0 else 0 }
def voted (fpte : Bool) (x : List SoftError) : State :=
  let s := at_ 3 (nodeVoted fpte)
  s.setCell 3 { s.cell 3 with soft := x }
theorem witness_CompletionAdvances_followers :
    let calm := (voted false []).setCell 3 { (voted false []).cell 3 with soft := [] }
    let u := pt 3 (nodeVoted false)
    let n := u.used []
    let r : RegName := .g 17
    let root := fpSqrt fp32 0 false 0
    let here : Instr → Node → Prop := fun i m => targetOf i = some (r, []) ∧ exec i calm = .next (calm.finish u 0 0 m)
    here (.add 17 8 9 false false 0) ((n.raise 0).writeReg r (.word 10)) ∧
    here (.mul 17 8 9 false false 0) ((n.raise 0).landing (u.last + 3) r (.word 21)) ∧
    here (.fsqrt 17 10 false 0) (n.owe (n.locs [r]) (.value ((n.locs [r]).map (fun d => ⟨d, .word (BitVec.ofNat 32 root.1)⟩))) 0 root.2 true) ∧
    here (.divs 17 8 9 false false 0) (n.owe (n.locs [r]) (.value ((n.locs [r]).map (fun d => ⟨d, .word 2⟩))) 0) := by
  refine ⟨⟨rfl, ?_⟩, ⟨rfl, ?_⟩, ⟨rfl, ?_⟩, ⟨rfl, ?_⟩⟩
  all_goals rfl
/-- The three executions alike, one of them outvoted, none like another, and two with an exception that traps. -/
theorem witness_CompletionAdvances_outvoted :
    let votes : SoftError → List (RegVal × Exc) := fun x =>
      [(flip x.val.1 (.word 10), 0 ^^^ x.exc.1), (flip x.val.2.1 (.word 10), 0 ^^^ x.exc.2.1), (flip x.val.2.2 (.word 10), 0 ^^^ x.exc.2.2)]
    (∀ f x, (voted f [x]).issuePoint = some (pt 3 (nodeVoted f)) ∧ ((voted f [x]).cell 3).soft = x :: [] ∧ (nodeVoted f).hints.crit = true) ∧
    votes { val := (4, 4, 4) } = List.replicate 3 (.word 14, 0) ∧ votes { val := (0, 0, 4) } = [(.word 10, 0), (.word 10, 0), (.word 14, 0)] ∧
    votes { val := (0, 1, 4) } = [(.word 10, 0), (.word 11, 0), (.word 14, 0)] ∧
    votes { val := (0, 0, 0), exc := (1, 1, 0) } = [(.word 10, 1), (.word 10, 1), (.word 10, 0)] ∧ nodeCrit.flags = 0 ∧
    (1 : Exc) &&& (pt 3 (nodeVoted true)).n.fpte ≠ 0 ∧ (0 : Exc) &&& (pt 3 (nodeVoted false)).n.fpte = 0 :=
  ⟨fun _ _ => ⟨rfl, rfl, rfl⟩, by decide, by decide, by decide, by decide, by decide, by decide, by decide⟩

/-- Two nodes of one croft: a TIDSET of the node waits for the other copy's, or none does. -/
def instEarlier (p : Nat) : Inst :=
  { instTid with twin := [1], gens := [0, 0], twinq := [{ second := false, lcell := p, msg := .tid (.node p 0 0) 5 (.value 0) }] }
theorem witness_EngineInstructions_earlier :
    (∀ p ∈ [0, 1, 2, 3], (at_ p nodeDesc (instEarlier p)).instOf p = some (0, instEarlier p) ∧
      ∃ t ∈ (instEarlier p).twinq, t.msg = .tid (.node p 0 nodeDesc.gen) 5 (.value 0)) ∧
    (∀ p, Clear (at_ p nodeDesc (instEarlier p)) (pt p nodeDesc) [.g 8, .g 9, .g 14] []) ∧
    (∀ p ∈ [0, 1], (at_ p nodeDesc (instEarlier p)).inFlightTo (.node p 0 0) (.cell p) = false) ∧
    (descriptor (at_ 0 nodeDesc (instEarlier 0)) (pt 0 nodeDesc) (nodeDesc.getA 1) 64).toOption.isSome = true ∧
    (descriptor (at_ 1 nodeDesc (instEarlier 1)) (pt 1 nodeDesc) (nodeDesc.getA 1) 32).toOption.isSome = true :=
  ⟨by decide +kernel, fun p => clear_at p _ rfl rfl rfl rfl rfl _ _, by decide +kernel, by decide +kernel, by decide +kernel⟩
theorem witness_TidResults_earlier :
    (at_ 2 nodeDesc (instEarlier 2)).instOf 2 = some (0, instEarlier 2) ∧ Clear (at_ 2 nodeDesc (instEarlier 2)) (pt 2 nodeDesc) [.g 8, .a 1] [] ∧
    (∃ t ∈ (instEarlier 2).twinq, ∃ j y, t.msg = .tid (.node 2 0 nodeDesc.gen) j y) ∧ ¬ (∃ t ∈ instTid.twinq, ∃ j y, t.msg = .tid (.node 2 0 0) j y) :=
  ⟨rfl, clear_at 2 _ rfl rfl rfl rfl rfl _ _, ⟨_, .head _, 5, _, rfl⟩, fun ⟨_, h, _⟩ => nomatch h⟩
/-- The image of a TIDSET lies in tier-1 memory, through a leaf that the station holds: the budget is open, or spent. -/
def nodeFarTid : Node := { node0 with a := [(1, 0x8000000000000100)] }
def tidFar (i : Inst) (n : Nat) : State :=
  { at_ 2 nodeFarTid i with
    launches := [(0, { budgets := [64, 64, 64, 64] })]
    crofts := [(0, { spent := [(1, n)], tlb := [{ root := 0, vpn := 0, level := 2, leaf := 0x7 }] })] }
theorem witness_TidResults_away :
    let rd : Acc := { size := 32, rd := true }
    let pl : Place := { key := keyTier1 0x100, home := .chan (keyTier1 0x100 / 256), tier := 1, away := true }
    (∀ n ∈ [0, 64], checkAccess (tidFar instTid n) 2 (nodeFarTid.getA 1) rd = .ok pl ∧
      (tidFar instTid n).admits (some instTid) (nodeAccess (pt 2 nodeFarTid) pl .load rd (nodeFarTid.getA 1) []) = decide (n = 0)) ∧
    instTid.twin = [] ∧ (instEarlier 2).twin ≠ [] ∧ pl.away = true ∧ (tidFar instTid 0).inFlightTo (.node 2 0 0) pl.home = false := by
  decide +kernel

theorem witness_WorkAndGrowResults_twin :
    let s := grown 5 [] instTwin
    let wait : TwinMsg := .grow (.node 3 0 0) ((s.nid 3 0).extractLsb' 0 16) 0 7
    Clear s (pt 3 node0) [.g 8] [.g 17] ∧ s.launchOf 3 = some 0 ∧ s.groupOf 3 = some 0 ∧ s.launch? 0 = some { count := 5, grows := [] } ∧
    (s.instAt 3).twin ≠ [] ∧ s.instOf 3 = some (0, instTwin) ∧ (∀ y ∈ instTwin.twinq, y.msg ≠ wait) ∧ (node0.getG 8).toNat = 7 :=
  ⟨⟨rfl, rfl, rfl⟩, rfl, rfl, rfl, by decide, rfl, by decide, by decide⟩

/-- A record of which the node has an access in flight, poisoned in its first or its second half; an atomic half done at the bridge. -/
theorem witness_ReeveInstructions_waits :
    let s := at_ 416 nodeReeve
    let own : Access := { store8 with src := .node 416 0 0, home := .cell 416 }
    let bad : Nat → State := fun o => { s with poison := [keyLocal 416 o / 8] }
    ({ s with net := [own] } : State).inFlightTo (.node 416 0 0) (.cell 416) = true ∧
    (∀ o ∈ [0x180, 0x1C0], (bad o).inFlightTo (.node 416 0 0) (.cell 416) = false) ∧ (bad 0x180).poisoned (keyLocal 416 0x180) 64 = true ∧
    (bad 0x1C0).poisoned (keyLocal 416 0x180) 64 = false ∧ (bad 0x1C0).poisoned (keyLocal 416 0x1C0) 64 = true ∧
    (∃ z ∈ ({ s with net := [bridgeAmo false (some (5, none))] } : State).net, z.read ≠ none) ∧ (∀ z ∈ s.net, z.read = none) ∧
    ({ s with net := [bridgeAmo false (some (5, none))] } : State).inFlightTo (.node 416 0 0) (.cell 416) = false := by
  decide +kernel
/-- The node resumes while instant k + 1 waits to begin. -/
theorem witness_NodeAgents_between :
    let i : Inst := { inst0 with phase := .between }
    let s := at_ 3 nodeResolved i
    let s : State := { s with par := { pcell := 3 } }
    s.node? 3 0 = some nodeResolved ∧ nodeResolved.resolved = some 0 ∧ nodeResolved.delay ≤ (s.cell 3).cyc ∧ (s.cell 3).inst = some 0 ∧
    s.inst? 0 = some i ∧ i.phase = .between ∧ i.stop = false ∧ i.forcing = false ∧ (3, 0) ∈ (s.nodesOf i).map (·.1) := by
  decide +kernel

/-- Numbers, infinities, NaNs and zeros of the formats, in a rounding mode. -/
theorem witness_Rounding :
    3 < 4 ∧ fp32.isFin 0x3F800000 ∧ fp32.isFin 0 ∧ fp32.isFin 0xBF800000 ∧ fp32.units (fp32.mag 0) = 0 ∧ fp32.units (fp32.mag 0x3F800000) ≠ 0 ∧
    fp32.neg 0x3F800000 = false ∧ fp32.neg 0xBF800000 = true ∧ fp32.isInf 0x7F800000 ∧ fp32.isInf 0xFF800000 ∧ fp32.isNaN 0x7FC00000 ∧
    ¬ fp32.isNaN 0x7F800000 ∧ fp16.isFin 0x3C00 ∧ fp16.isInf 0x7C00 ∧ fp16.isNaN 0x7E00 ∧ bf16.isFin 0x3F80 ∧ bf16.isInf 0x7F80 ∧
    bf16.isNaN 0x7FC0 ∧ f8a.isFin 0x7E ∧ f8a.isNaN 0x7F ∧ f8b.isFin 0x7B ∧ f8b.isInf 0x7C ∧ f8b.isNaN 0x7D ∧ fa40.isFin 0x1000000000 ∧
    fp32.val 0 = fp32.val 0x80000000 ∧ fp32.neg 0x80000000 = true ∧ fp32.val 0xBF800000 < fp32.val 0x3F800000 ∧
    (0x7F800000 < 2 ^ fp32.width ∧ 0x7C00 < 2 ^ fp16.width ∧ 0x7F80 < 2 ^ bf16.width) := by
  unfold Fmt.isNaN Fmt.isFin Fmt.isInf
  decide +kernel
/-- 1 is exact in every format, and 1 + 2^-24 lies half way above it in FP32. -/
theorem witness_Rounding_bounds :
    (∀ k ∈ [fp32, fp16, bf16, f8a, f8b, fa40], ∃ x < 2 ^ k.width, k.isFin x ∧ k.units (k.mag x) = k.one ∧ k.neg x = false) := by
  intro k hk
  simp only [List.mem_cons, List.not_mem_nil, or_false] at hk
  rcases hk with rfl | rfl | rfl | rfl | rfl | rfl
  · exact ⟨0x3F800000, by unfold Fmt.isFin; decide +kernel⟩
  · exact ⟨0x3C00, by unfold Fmt.isFin; decide +kernel⟩
  · exact ⟨0x3F80, by unfold Fmt.isFin; decide +kernel⟩
  · exact ⟨0x38, by unfold Fmt.isFin; decide +kernel⟩
  · exact ⟨0x3C, by unfold Fmt.isFin; decide +kernel⟩
  · exact ⟨0x3F80000000, by unfold Fmt.isFin; decide +kernel⟩

/-- Values, tables and groups of the engines' formats. -/
theorem witness_EngineFormats :
    let sp (f : Nat) : Tid := Tid.of (tid f 0 1 0 1 32 64 0x2000000000000300 0)
    let nb : Tid := Tid.of (tid 0x20 4 0 0 1 32 4 0x2000000000000200 0)
    (8 * (3 + 1) ≤ 8 * [(1 : Byte), 2, 3, 4].length) ∧ (∀ y ∈ [1, 2, 3], y < 2 ^ 4) ∧ ([1, 2, 3] : List Nat)[2]? = some 3 ∧
    (fa40.isFin 0 ∧ 0 < 2 ^ 40) ∧ (fp16.isFin 0x3C00 ∧ bf16.isNaN 0x7FC0 ∧ fp32.isInf 0x7F800000) ∧
    (nb.fmt = 0x20 ∧ nb.sparse = 0 ∧ 2 ≤ nb.planes ∧ nb.planes ≤ 8 ∧ nb.cols % 8 = 0 ∧ 31 < nb.cols) ∧
    (∀ f ∈ [0x12, 0x11, 0x13, 0x14, 0x03, 0x01], (sp f).sparse ∈ [1, 2] ∧ (sp f).fmt = f ∧ (sp f).fmt ≠ 0x20 ∧ (sp f).cols % 32 = 0) ∧
    ((List.replicate 32 0).length = 32 ∧ ∀ f ∈ [0x12, 0x11, 0x13, 0x14, 0x03, 0x01], ∀ x ∈ List.replicate 32 0, x < 2 ^ fmtBits f) ∧
    ((Tid.of (tid 0x03 0 0 0 1 32 32 0 0)).valid = true ∧ (Tid.of (tid 0x03 0 0 0 0 32 32 0 0)).valid = false ∧
      (Tid.of (tid 0x07 0 0 0 1 32 32 0 0)).valid = false) ∧
    (∀ m ∈ [1, 2, 3], (Tid.of (tid 0x03 0 0 m 1 32 32 0 4)).smode = m) ∧ (0x7F800000 < 2 ^ 32 ∧ fp32.mag 0x80000000 = 0) := by
  unfold Fmt.isNaN Fmt.isFin Fmt.isInf
  decide +kernel
theorem witness_EngineFormats_values : (Machine.Num.nan = .nan) ∧ (elemNum 0x03 0xFE).Mag true 2 1 ∧ (elemNum 0x04 0xFE).Mag false 254 1 := by
  exact ⟨rfl, ⟨2, 0, rfl, rfl⟩, ⟨254, 0, rfl, rfl⟩⟩

/-- Commands whose checks all pass, and one whose first check fails; a record of a cell that may be read, and one that may not. -/
theorem witness_CommandChecks :
    let s := claimed nodeMma
    let u := pt 2 nodeMma
    (mmaCommand s u 0x10 0x500 0).toOption.isSome = true ∧ (mmaCommand s u 0x400 0x500 0).toOption = none ∧
    (mzeroCommand s u 0 0).toOption.isSome = true ∧ (mdrainCommand s u 0x100 0xFFFF 0).toOption.isSome = true ∧
    (cpyCommand (described 0 []) .copy (pt 0 nodeDesc) 0x100 (cpyBytes 0x300 0 0)).toOption.isSome = true ∧
    (cnvCommand (described 1 []) .conv (pt 1 nodeDesc) 0x100 (cnvBytes 0 1)).toOption.isSome = true ∧
    (checkAccess (offering nodeRec) 3 0x100 { size := 8, rd := true }).toOption.isSome = true ∧
    (checkAccess (offering nodeRec) 3 0x20000 { size := 8, rd := true }).toOption = none := by
  decide +kernel

/-- The tables of R313's example: TROOT 0x4000_0000, va 0x1234_5678_9ABC; the last entry is the argument. -/
def tabled (e : Nat) (k : Node := node0) : State :=
  { at_ 3 k with
    mem := Memory.setNum (Memory.setNum (Memory.setNum (Memory.setNum [] 0x40000120 8 0x40001001) 0x40001688 8 0x40002001) 0x40002598 8 0x40003101)
      0x400031C0 8 e
    launches := [(0, { troot := 0x40000000 })] }
theorem witness_AccessPlaces_walk :
    let va := 0x123456789ABC
    let ends (e : Nat) (r : Except Cause (Nat × Nat)) : Prop := Walks (tabled e) va 1 (0x40000000 + 8 * levelIndex va 1) r
    let key := (Pte.of 0x87650005).tier * 2 ^ 56 + ((Pte.of 0x87650005).addr + va % 2 ^ levelBits 4)
    ends 0x87650005 (.ok (4, 0x87650005)) ∧ key = 0x87659ABC ∧ ends 0x87650004 (.error .pageNotPresent) ∧
    ends 0x8765001D (.error .translationWalkError) := by
  have hop (e : Nat) (r : Except Cause (Nat × Nat)) : (tabled e).tableAt 0x40000120 = some 0x40001001 → (tabled e).tableAt 0x40001688 = some 0x40002001 →
      (tabled e).tableAt 0x40002598 = some 0x40003101 → Walks (tabled e) 0x123456789ABC 4 0x400031C0 r →
      Walks (tabled e) 0x123456789ABC 1 (0x40000000 + 8 * levelIndex 0x123456789ABC 1) r := fun h1 h2 h3 h =>
    .table h1 rfl (by unfold leafAt; decide) (by unfold TableEntryOk; decide) (.table h2 rfl (by unfold leafAt; decide) (by unfold TableEntryOk; decide)
      (.table h3 rfl (by unfold leafAt; decide) (by unfold TableEntryOk; decide) h))
  refine ⟨hop _ _ ?_ ?_ ?_ (.leaf (e := 0x87650005) ?_ rfl (.inl rfl) (by unfold LeafOk; decide)), by decide,
    hop _ _ ?_ ?_ ?_ (.absent (e := 0x87650004) ?_ rfl),
    hop _ _ ?_ ?_ ?_ (.malformed (e := 0x8765001D) ?_ rfl (by unfold leafAt LeafOk; decide) (fun h => absurd (.inl rfl) h))⟩ <;> decide +kernel
/-- An access of each place: a word of a cell's memory in space 1, its own, another's or a word of code; one of the window, of a pair
turned over or not; one whose leaf the station holds, with W or without; one of each region of space 15. -/
theorem witness_AccessPlaces :
    let imageP : Image := { image0 with shadow := [{ event := 0, voff := 0, hoff := 256, len := 256 }] }
    let i : Inst := { inst0 with image := imageP, flipped := [0] }
    (∀ a ∈ [0x1000000000040100, 0x1000000000060100, 0x1000000000061000], a % wr4.size = 0 ∧ a / 2 ^ 60 = 1 ∧ a % 2 ^ 60 < 2 ^ 28 ∧
      a % 2 ^ 60 % 2 ^ 17 < 0x18000 ∧ a % 2 ^ 60 / 2 ^ 17 < 4 * inst0.crofts) ∧
    (at_ 3 node0).instOf 3 = some (0, inst0) ∧ ((at_ 3 node0).cell 3).lcell = 3 ∧ (at_ 3 node0 i).instOf 3 = some (0, i) ∧
    (∀ a ∈ [0x2000000000000010, 0x2000000000000110, 0x2000000000000210], a / 2 ^ 60 = 2 ∧ a % 2 ^ 60 < i.windowSize ∧ a % 2 ^ 60 < 2 ^ 32) ∧
    ((∀ j ∈ inst0.flipped, j ≠ j) ∧ 0 ∈ i.flipped ∧ (i.image.shadow[0]?).isSome ∧ (∀ m ∈ i.flipped, m ≠ 0 → m ≠ m)) ∧
    ((tidFar instTid 0).croft (siteOf 2)).tlb.find? (fun t => decide (t.root = 0) && decide (t.vpn = 0x100 / 2 ^ levelBits t.level)) =
      some { root := 0, vpn := 0, level := 2, leaf := 0x7 } ∧
    ((tabled 5).croft 0).tlb = [] ∧ (Pte.of 3).w = false ∧ (Pte.of 7).w = true ∧ (Pte.of 0x17).tier = 2 ∧
    (∀ x ∈ [(0, 96 * 2 ^ 30 - 4), (1, 2 ^ 41 - 4), (2, 2 ^ 56 - 4), (3, 0x17FFC), (4, 416 * 2 ^ 19 - 4)],
      (15 * 2 ^ 60 + x.1 * 2 ^ 56 + x.2) / 2 ^ 60 = 15 ∧ (15 * 2 ^ 60 + x.1 * 2 ^ 56 + x.2) % 2 ^ 60 / 2 ^ 56 = x.1) ∧
    416 ≤ 416 ∧ 416 < 432 := by
  decide +kernel
/-- A store into cell 0's resident code from the reeve, with a node there held for the poisoned word that it rewrites, or none. -/
theorem witness_AccessPlaces_code :
    let held : Node := { node0 with stt := .trapped, heldFor := some { cause := .poisonFetch, taddr := 0x1000 } }
    let k : Acc := { size := 8, wr := true, data := some 0 }
    (∀ n ∈ [node0, held], ((at_ 0 n).cell 0).inst.isSome = true ∧ ((at_ 0 n).cell 0).codeOff < 0x1000 + k.size ∧
      0x1000 < ((at_ 0 n).cell 0).codeOff + ((at_ 0 n).cell 0).codeLen) ∧
    (∃ n ∈ ((at_ 0 held).cell 0).nodes, n.2.stt = .trapped ∧ n.2.heldFor.map (·.cause) = some .poisonFetch) ∧
    (∀ n ∈ ((at_ 0 node0).cell 0).nodes, n.2.stt ≠ .trapped) ∧ k.data = some 0 ∧ (at_ 0 held).instOf 0 = some (0, inst0) ∧
    (∀ j < 8, 0 / 2 ^ (8 * j) % 256 = (inst0.image.code.getD ((0x1000 + j - inst0.image.codeOff) / 4) 0).toNat / 2 ^ (8 * ((0x1000 + j - inst0.image.codeOff) % 4)) % 256) := by
  decide +kernel

/-- An unsigned image with one patch of a word by a parameter of two bytes, its record, and the memory that holds it, with a parameter
above the patch's 4095. -/
def file1 : List Byte :=
  let sec : Nat → Nat → Nat → Nat → List Byte := fun ty off size addr =>
    leBytes 8 0 ++ leBytes 4 ty ++ leBytes 4 0 ++ leBytes 4 off ++ leBytes 4 size ++ leBytes 8 addr
  leBytes 4 0x1A474C52 ++ leBytes 1 0 ++ leBytes 1 1 ++ leBytes 2 2 ++ leBytes 4 4 ++ leBytes 4 64 ++ leBytes 4 312 ++ leBytes 44 0
    ++ sec 5 192 64 0 ++ sec 6 256 32 0 ++ sec 1 288 8 0x1000 ++ sec 10 296 16 0
    ++ leBytes 4 0x11 ++ leBytes 4 1 ++ leBytes 8 0 ++ leBytes 4 8 ++ leBytes 4 0x2000 ++ leBytes 4 0x1000 ++ leBytes 4 8 ++ leBytes 16 0
    ++ leBytes 4 1 ++ leBytes 2 1 ++ leBytes 10 0
    ++ leBytes 2 3 ++ leBytes 2 0 ++ leBytes 4 48 ++ leBytes 4 0x1000 ++ leBytes 4 0x1000 ++ leBytes 16 0
    ++ leBytes 4 0x06284800 ++ leBytes 4 0x08200000
    ++ leBytes 4 0 ++ leBytes 1 2 ++ leBytes 3 0 ++ leBytes 4 1 ++ leBytes 4 0
def record1 : List Byte :=
  leBytes 8 0x8000 ++ leBytes 8 0x9000 ++ leBytes 4 312 ++ leBytes 4 8 ++ leBytes 8 1 ++ leBytes 8 0x1000 ++ leBytes 4 0 ++ leBytes 28 0
    ++ leBytes 8 7 ++ leBytes 48 0
theorem witness_HostRequests_images :
    (∀ x ∈ [(file0, [], true), (file1, leBytes 8 5000, false)],
      headerOk x.1 = true ∧ signatureOk ready0.pkg x.1 = true ∧ layoutOk x.1 = true ∧ leNat (slice x.1 16 4) = x.1.length ∧
      (patchCode (imageOf x.1) x.2.1 (imageOf x.1).patches 0 (imageOf x.1).code).toOption.isSome = x.2.2) ∧
    (headerOk [] = false ∧ ∃ x : Nat × Bool × Bool, x.2.1 = true) :=
  ⟨by decide +kernel, by decide, (0, true, false), rfl⟩
/-- A record whose fields are right, or not; a range that is mapped, that is not, and one to a page without X. -/
theorem witness_HostRequests_fields :
    let fields : List Byte → Bool := fun b =>
      let num : Nat → Nat → Nat := fun o n => leNat (slice b o n)
      decide (num 43 1 = 0 ∧ num 80 48 = 0 ∧ num 41 1 < 32 ∧ num 42 1 < 64 ∧ num 41 1 / 4 % 4 ≠ 3 ∧ 1 ≤ num 24 8 ∧ num 24 8 ≤ 2 ^ 40 ∧
        num 0 8 % 8 = 0 ∧ (num 20 4 = 0 ∨ num 8 8 % 8 = 0) ∧ num 32 8 % 4096 = 0 ∧ num 32 8 < 96 * 2 ^ 30)
    let bare : State := { ready0 with mem := Memory.setNum (Memory.setNum [] 0x1000 8 0x2001) 0x2000 8 0x47 }
    fields (record0 7) = true ∧ fields record1 = true ∧ fields (List.replicate 128 0) = false ∧ (∀ x ∈ ready0.launches, x.2.tag.toNat ≠ 7) ∧
    ready0.flaws = [] ∧ (launchPlaces ready0 0x1000 0x8000 8).isSome = true ∧ (launchPlaces ready0 0x1000 0x40000000 1) = none ∧
    launchPlaces bare 0x1000 0x8000 1 = some [(0x8000, true, true)] ∧ launchPlaces ready0 0x1000 0x8000 1 = some [(0x8000, false, true)] ∧
    (launchPlaces ready0 0x1000 0x8000 8).bind (launchBytes { ready0 with poison := [0x1000] }) = none := by
  decide +kernel
/-- A drained launch whose save set verifies, one whose set does not, and one that is not drained. -/
theorem witness_HostRequests_restores :
    let s : LaunchPhase → List Saved → State := fun ph l => { State.reset with launches := [(4, { tag := 7, phase := ph, saved := l })] }
    let bad : List Saved := [{ group := 0, kind := 0, digest := [1] }]
    (∀ ph ∈ [LaunchPhase.ended, .dispatching], ∀ l ∈ [[], bad],
      (s ph l).launchTag 7 = some (4, { tag := 7, phase := ph, saved := l }) ∧ (s ph l).launch? 4 = some { tag := 7, phase := ph, saved := l }) ∧
    leNat (slice (record0 7) 72 8) = 7 ∧ (s .ended []).launchTag 8 = none ∧ leNat (slice (record0 7) 32 8) % 4096 = 0 ∧
    leNat (slice (record0 7) 32 8) < 96 * 2 ^ 30 := by
  decide +kernel
/-- Requests of each kind, their reserved bytes clear or one of them set, an atomic half done at the bridge or none. -/
theorem witness_HostRequests_kinds :
    let b : Nat → Nat → List Byte := fun kind bad => leBytes 1 kind ++ leBytes 7 bad ++ leBytes 8 0 ++ leBytes 48 0 ++ record0 7 ++ leBytes 64 0
    let s : List Byte → State := fun b => { State.reset with host := [(0, { request := some b })] }
    let num : List Byte → Nat → Nat → Nat := fun b o n => leNat (slice b o n)
    (∀ kind ∈ [1, 3, 4, 5], ∀ bad ∈ [0, 1], ((s (b kind bad)).slot 0).request = some (b kind bad) ∧ num (b kind bad) 0 1 = kind ∧
      num (b kind bad) 1 7 = bad ∧ num (b kind bad) 8 8 = 0 ∧ num (b kind bad) 16 48 = 0 ∧ num (b kind bad) 192 64 = 0) ∧
    (∃ z ∈ (flight [bridgeAmo false (some (5, none))] false).net, z.read ≠ none) ∧ (∀ z ∈ (s (b 1 0)).net, z.read = none) ∧
    (let d : List Byte := leBytes 8 4 ++ leBytes 8 7 ++ leBytes 240 0
     let t : LaunchPhase → State := fun ph => { s d with launches := [(4, { tag := 7, phase := ph })] }
     (∀ ph ∈ [LaunchPhase.ended, .draining], (t ph).launchTag (num d 8 8) = some (4, { tag := 7, phase := ph })) ∧
     num d 1 7 = 0 ∧ num d 16 48 = 0 ∧ num d 192 64 = 0 ∧ num d 64 128 = 0) := by
  decide +kernel
/-- A drained launch of no group whose save set stands in memory under its signature. -/
def launchKept : Launch := { tag := 7, phase := .ended, setAt := some 0, copyAt := some 0, copyDigest := sha256 [] }
theorem witness_HostRequests_verified :
    let s : State := { State.reset with
      mem := Memory.setBytes (Memory.setBytes [] (keyTier1 0) launchKept.directory) (keyTier1 72) (identitySignature launchKept.directory)
      launches := [(4, launchKept)] }
    s.launchTag 7 = some (4, launchKept) ∧ launchKept.phase = .ended ∧ launchKept.verified s = true := by
  refine ⟨rfl, rfl, ?_⟩
  have hl : launchKept.directory.length = 72 := by decide +kernel
  have hs : (identitySignature launchKept.directory).length = 64 := identitySign_length _
  have h1 := Memory.bytes_setBytes_self (Memory.setBytes [] (keyTier1 0) launchKept.directory) (keyTier1 72) (identitySignature launchKept.directory)
  have h2 := Memory.bytes_setBytes_self [] (keyTier1 0) launchKept.directory
  rw [hs] at h1
  rw [hl] at h2
  have h3 := Memory.bytes_setBytes_out (Memory.setBytes [] (keyTier1 0) launchKept.directory) (keyTier1 72) (identitySignature launchKept.directory) 72
    (j := keyTier1 0) (.inl (by decide))
  have he : launchKept.entries = [] := rfl
  have hv : identityVerify (sha256 launchKept.directory) (identitySignature launchKept.directory) = true :=
    identityVerify_own _
  simp only [Launch.verified, show launchKept.setAt = some 0 from rfl, show launchKept.copyAt = some 0 from rfl, State.kept, hl, h1, h2, h3, he, hv,
    Nat.zero_add, decide_true, List.all_nil, Bool.and_true]
  decide +kernel

/-- Engines of the two copies of a twin-mode domain with one command at their heads, a byte of the source of the second's as given. -/
def instCopies : Inst := { instTid with twin := [1], gens := [0, 0] }
def copies (m : Cmd) (b : Byte) (spent : Nat) : State :=
  let s := [0, 1, 2, 3, 4, 5, 6, 7].foldl (fun s p => s.setCell p { inst := some 0, lcell := p % 4, codeOff := 0x1000, codeLen := 16 })
    (State.reset.setInst 0 instCopies)
  let c : Croft := { eng := [(0, { queue := [m] })], spent := [(4, spent)] }
  { s with
    crofts := [(0, c), (1, c)]
    mem := Memory.setNum [] (keyLocal 4 0x600) 1 b.toNat
    launches := [(0, { budgets := [0, 0, 0, 64] })]
    par := { inst := 0 } }
theorem witness_EngineAgents_twins :
    let op := command (.copyop { copy0 false 0x2000000000000000 6 with len0 := 4 }) 0 0
    let far := command (.copy (copy0 false 0x8000000000000000 0)) 0 0
    let paged := copies far 0 0
    (∀ b ∈ [(0 : Byte), 9], ∀ spent ∈ [0, 64],
      let s := copies op b spent
      let c1 := chunkOf s instCopies 0 0 op (s.engine 0 0)
      let c2 := chunkOf s instCopies 1 0 op (s.engine 1 0)
      let s0 := c2.meets (c1.meets ((s.fillTouches 0 c1.touches).fillOwn 4 c2.touches))
      let r2 := s0.copyRun 0 4 c2
      let r1 := r2.1.copyRun 0 0 c1
      s.instD op.inst = instCopies ∧ instCopies.twin ≠ [] ∧ instCopies.index 0 = 0 ∧ instCopies.sites.getD 0 0 = 0 ∧ instCopies.twin.getD 0 0 = 1 ∧
      s.engineDue 0 0 = true ∧ s.engineDue 1 0 = true ∧ (s.engine 0 0).queue = op :: [] ∧ (s.engine 1 0).queue = op :: [] ∧
      (s.engine 0 0).prog < op.total ∧ s.chunkWaits 0 c1 = false ∧ s.pageTrap 0 c1.touches = none ∧ s.inst? op.inst = some instCopies ∧
      (decide (r1.2.2.map Packet.hash = r2.2.2.map Packet.hash) = decide (b = 0)) ∧ s.chunkOpen instCopies 0 c1 (s.engine 0 0) = decide (spent = 0)) ∧
    (let c1 := chunkOf paged instCopies 0 0 far (paged.engine 0 0)
     (paged.pageTrap 0 c1.touches).isSome = true ∧ paged.chunkWaits 0 c1 = false ∧ (paged.engine 0 0).noFrame = false) ∧
    (let s : State := { copies op 0 0 with crofts := [(0, { eng := [(0, { queue := [op] })] })] }
     s.engineDue 1 0 = false) := by
  decide +kernel
/-- A copy to a line that the bridge holds for an atomic. -/
theorem witness_EngineAgents_held :
    let m := command (.copy (copy0 false 0x8000000000000040 0)) 0 0
    let s : State := { croft0 { queue := [m] } with
      net := [bridgeAmo true (some (5, none))]
      crofts := [(0, { eng := [(0, { queue := [m] })], tlb := [{ root := 0, vpn := 0, level := 2, leaf := 0x17 }] })] }
    s.engineDue 0 0 = true ∧ s.chunkWaits 0 (chunkOf s inst0 0 0 m (s.engine 0 0)) = true ∧ (s.engine 0 0).prog < m.total := by
  decide +kernel
/-- Rows of PLANES and SCALEC that go to the engine's own cell, and SCALEC of each SMODE; no budget is shared out. -/
theorem witness_EngineAgents_rows :
    let s := croft0 {} 1
    let y : Nat → Tid := fun m => Tid.of (tid 0x03 0 0 m 1 32 32 0x400 0x500)
    let nb : Tid := Tid.of (tid 0x20 8 0 0 1 32 8 0x400 0)
    let own : Nat → Nat → Prop := fun a n => a < 2 ^ 17 ∧ parts a n = [(a, n)] ∧ (s.rangePlace 1 a n true).toOption.isSome = true
    (∀ m ∈ [1, 2, 3], (y m).smode = m ∧ (y m).fmt ≠ 0x20 ∧ (y m).cols = 32 ∧ (y m).valid = true ∧ (y m).rows ≤ 2 ^ 24 ∧ 0 < (y m).rowLen ∧
      (y m).sbase % 4 = 0 ∧ (∀ c < 32, own ((y m).scaleAddr 0 c) 4)) ∧ own 0x400 32 ∧
    (nb.valid = true ∧ nb.rows ≤ 2 ^ 24 ∧ 0 < nb.rowLen ∧ ∀ j < 8, own ((nb.base + j * nb.rows * nb.stride) % 2 ^ 64) nb.rowLen) ∧
    (s.cell 1).isSealed = false ∧ (∀ kind ∈ [0, 1, 2, 3, 4], s.share inst0 kind = none) := by
  decide +kernel
/-- Packets of TIDSET and GROW: the bytes read, bytes that the pair reads together, and a GROW within the bound or past it. -/
theorem witness_ContainmentAgents_packets :
    let read : Access := { store8 with op := .load, size := 32 }
    let pair : TwinMsg → TwinMsg → Inst := fun x y =>
      instPair [{ second := false, lcell := 0, msg := x }] [{ second := true, lcell := 0, msg := y }]
    let grow : TwinMsg := .grow (.node 0 0 0) 5 0 7
    (∀ m ∈ [TwinMsg.tid (.node 0 0 0) 5 (.value 9), .tid (.node 0 0 0) 5 (.read read), grow],
      (pair m m).packet false 0 = some m ∧ (pair m m).packet true 0 = some m ∧ m.same m = true) ∧
    (TwinMsg.tid (.node 0 0 0) 5 (.value 9)).same (.tid (.node 4 0 0) 5 (.value 8)) = false ∧
    (flight [] false).admits (some instTwin) read = true ∧ (flight [] false).sealedHome read.home = false ∧ read.size = 32 ∧
    (flight [] false).poisoned ((flight [] false).keyNow read.key read.win) 32 = false ∧ (flight [] false).flaws = [] ∧
    (tidFar (pair grow grow) 64).admits (some (pair grow grow)) { read with budget := 1 } = false ∧
    5 + 7 ≤ 2 ^ 40 ∧ 2 ^ 40 < 2 ^ 40 - 6 + 7 ∧ (∀ g ∈ ([] : List GrowKey), (g.group, g.nid, g.count) ≠ (0, 5, 0)) := by
  decide +kernel
theorem witness_ContainmentAgents_sound : (flight [] false).Sound ((flight [] false).keyNow store8.key store8.win) 32 := sound_of rfl _ _
theorem witness_HostAgents_exchange :
    (linked { code := 0xE4 }).pkg.linkUp = true ∧ ({ code := 0xE4 } : Params).code = 0xE4 ∧
    (reeved { value := 0 } []).reeveInst.isSome = true ∧ (reeved { value := 0 } []).pkg.linkUp = true ∧ ({ value := 0 } : Params).value.toNat % 1024 = 0 := by
  decide +kernel
theorem witness_LaunchAgents_bridge : (∀ z ∈ (asked 1).net, z.read = none) ∧ ((asked 1).slot 0).request.isSome = true := by decide +kernel

/-! ### Witnesses of clauses about atomics that stand half done, captures, poison and seals -/

/-- An atomic that the bridge has read and not yet written, by another source, in the line of `keyHost 0x40`. -/
def halfDone : Access := { bridgeAmo true (some (5, none)) with src := .node 7 0 0 }
/-- The node's OFFER has captured its record; a store of the node is still on its way, or none is. -/
def nodeCaptured : Node := { nodeRec with hints := { offer := some [⟨0, 0, 0, 0, 0⟩] } }
theorem witness_ReactionEnds_captured :
    (∀ l ∈ [[], [store8]], ({ offering nodeCaptured with net := l } : State).inFlight (.node 3 0 nodeCaptured.gen) = decide (l = [store8])) ∧
    (∀ l, ({ offering nodeCaptured with net := l } : State).instOf 3 = some (0, inst0)) ∧
    nodeCaptured.hints.offer = some [⟨0, 0, 0, 0, 0⟩] ∧ nodeCaptured.made = none ∧ nodeCaptured.inTrap = false ∧ nodeRec.hints.offer = none ∧
    (let s : State := { offering nodeRec with net := [{ store8 with home := .bin 0 }] }
     s.inFlight (.node 3 0 0) = true ∧ s.inFlightTo (.node 3 0 0) (.cell 3) = false ∧
     ∃ l, checkOffer s (pt 3 nodeRec) (nodeRec.getA 1) = .ok l) ∧
    ({ offering nodeRec with net := [store8] } : State).inFlightTo (.node 3 0 0) (.cell 3) = true :=
  ⟨by decide +kernel, fun _ => rfl, rfl, rfl, rfl, rfl, ⟨by decide +kernel, by decide +kernel, ⟨[⟨0, 0, 0, 0, 0⟩], by decide +kernel⟩⟩, by decide +kernel⟩
theorem witness_ReactionEnds_captured_clear (l : List Access) :
    Clear ({ offering nodeCaptured with net := l } : State) (pt 3 nodeCaptured) [.a 1] [.g 17] ∧
    Clear ({ offering nodeRec with net := l } : State) (pt 3 nodeRec) [.a 1] [.g 17] := ⟨⟨rfl, rfl, rfl⟩, ⟨rfl, rfl, rfl⟩⟩
/-- The image of a TIDSET lies in a host page: its line is held, or an earlier request of the node waits for its budget. -/
def tidHost (l : List Access) : State :=
  { tidFar instTid 0 with
    net := l, crofts := [(0, { tlb := [{ root := 0, vpn := 0, level := 2, leaf := 0x17 }] })] }
theorem witness_TidResults_waits :
    let rd : Acc := { size := 32, rd := true }
    let pl : Place := { key := keyHost 0x100, home := .bridge, tier := 3, away := true }
    let z : Access := { halfDone with key := keyHost 0x100 }
    let q : Access := { store8 with src := .node 2 0 0, home := .bin 0, admitted := false }
    (∀ l ∈ [[z], [q], []], checkAccess (tidHost l) 2 (nodeFarTid.getA 1) rd = .ok pl ∧
      (tidHost l).inFlightTo (.node 2 0 0) .bridge = false) ∧
    keyRegion pl.key = 2 ∧ z.read.isSome = true ∧ z.key / 64 = pl.key / 64 ∧ q.admitted = false ∧ q.src = .node 2 0 nodeFarTid.gen := by
  decide +kernel
theorem witness_ReeveInstructions_busy :
    let far : Addr := 0xF200000000000000
    let rd : Acc := { size := 64, rd := true }
    let pl : Nat → Place := fun o => { key := keyHost o, home := .bridge, tier := 3, away := true }
    let s : State := { at_ 416 { nodeReeve with a := [(1, far)] } with net := [halfDone] }
    far.toNat % 128 = 0 ∧ checkAccess s 416 far rd = .ok (pl 0) ∧ checkAccess s 416 (far + 64) rd = .ok (pl 64) ∧
    s.inFlightTo (.node 416 0 0) .bridge = false ∧ keyRegion (pl 64).key = 2 ∧ halfDone.read.isSome = true ∧ halfDone.key / 64 = (pl 64).key / 64 := by
  decide +kernel
/-- A save set with an error that its code only detects is not restored. -/
theorem witness_HostRequests_flawed :
    let s : State := { State.reset with flaws := [(3, 2)], launches := [(4, launchKept)] }
    let met : State := launchKept.keeps.foldl (fun s r => s.inspect (keyTier1 r.1) r.2) s
    (0, 72) ∈ launchKept.keeps.map (fun r => (r.1, min r.2 72)) ∧ 2 ≤ Store.get 0 s.flaws 3 ∧ s.launchTag 7 = some (4, launchKept) ∧
    s.launch? 4 = some launchKept ∧ launchKept.phase = .ended ∧ launchKept.verified met = false := by
  decide +kernel
/-- A node stopped in mid-instant whose delay has not passed. -/
theorem witness_NodeAgents_stopped :
    let m : Node := { nodeResolved with delay := 5 }
    let s := at_ 3 m { inst0 with phase := .forced, forcing := true }
    s.node? 3 0 = some m ∧ m.resolved = some 0 ∧ (s.cell 3).cyc < m.delay ∧ (s.cell 3).running.isSome = true ∧ s.frozen 3 = true ∧
    (at_ 3 m).frozen 3 = false :=
  ⟨rfl, rfl, by decide +kernel, by decide +kernel, by decide +kernel, by decide +kernel⟩
/-- A contribution of a haul engine in a host page whose line the bridge holds. -/
def lending (l : List Access) : State :=
  let img : Image := { image0 with events := [{ kind := 2, etype := 4, len := 4, parts := [{ id := 0, pkind := 1, role := 1, obs := false }] }] }
  { croft0 {} with
    insts := [(0, { inst0 with image := img })], net := l,
    crofts := [(0, { eng := [(0, { standing := [{ ev := 0, addr := 0x8000000000000040 }] })], tlb := [{ root := 0, vpn := 0, level := 2, leaf := 0x17 }] })] }
theorem witness_SheafAgents_waits :
    ∀ l ∈ [[halfDone], []],
      let s := lending l
      let i := s.instD 0
      let g : Participant := { id := 0, pkind := 1, role := 1, obs := false }
      g ∈ (i.event 0).required ∧ s.standingOf i 0 g false = some { ev := 0, addr := 0x8000000000000040 } ∧ 0 < (i.event 0).len ∧
      (checkAccess s (4 * i.engineSite g false + (g.pkind - 1)) 0x8000000000000040 { size := 1, rd := true } =
        .ok { key := keyHost 0x40, home := .bridge, tier := 3, away := true }) ∧
      s.contributionWaits i 0 = decide (l = [halfDone]) ∧ keyRegion (keyHost 0x40) = 2 ∧ halfDone.key / 64 = keyHost 0x40 / 64 := by
  decide +kernel
theorem witness_SheafAgents_commits :
    ((giving [] 0 0).admitCombine 0 0).commits 0 0 = true ∧ ((giving [] 64 0).admitCombine 0 0).commits 0 0 = false ∧
    (∀ e ∈ offered.offered 0 inst0, ((offered.offered 0 inst0).foldl (fun s e => s.admitCombine 0 e) offered).commits 0 e = true) ∧
    (∀ z ∈ (giving [] 0 0).net, z.read = none) := by
  decide +kernel
/-- An access, and one of two locations by its second, to a line that the bridge holds for an atomic. -/
theorem witness_AtomicPerformed_waits :
    let near : Access := { load8 with home := .bridge, key := keyHost 0x44 }
    let far : Access := { dcas0 with home2 := some .bridge, key2 := keyHost 0x48 }
    (∀ a ∈ [near, far], (flight [a, halfDone] false).net[0]? = some a ∧ a.read = none ∧ halfDone ∈ (flight [a, halfDone] false).net) ∧
    halfDone.read.isSome = true ∧ keyRegion near.key = 2 ∧ halfDone.key / 64 = near.key / 64 ∧ far.home2.isSome = true ∧ keyRegion far.key2 = 2 ∧
    halfDone.key / 64 = far.key2 / 64 := by
  decide +kernel
theorem witness_CompletionAdvances_fps :
    ofFps (.add 17 8 9 false false 0) = false ∧ ofFps (.fsqrt 17 10 false 0) = true := by decide
/-- A command of each kind behind a seal. -/
theorem witness_EngineAgents_sealed :
    ∀ x ∈ [(2, command (.mdrain 0 false 1 false) 1 1), (0, command (.copy (copy0 false 0x300 0)) 0 0), (0, command (.copy (copy0 true 0 0)) 0 0),
        (0, command (.copyg (copy0 false 0x300 0)) 0 0), (0, command (.copyop { copy0 false 0x2000000000000000 6 with len0 := 4 }) 0 0),
        (1, command (.conv (conv0 false)) 0 1), (1, command (.conv (conv0 true)) 0 1), (1, command (.planes (conv0 true)) 0 2),
        (1, command (.sparsify (conv0 true)) 0 3), (1, command (.scalec (conv0 true)) 1 4)],
      let s := croft0 { queue := [x.2], dead := true } x.1
      let e := s.engine 0 x.1
      let i1 := s.instD x.2.inst
      e.begun = false ∧ e.dead = true ∧ s.engineDue 0 x.1 = true ∧ i1.twin = [] ∧ s.taintWaits i1 0 x.1 x.2 = false ∧ s.flaws = [] := by
  decide +kernel
theorem witness_EngineAgents_struck :
    (∃ pl, (∀ l, ({ croft0 {} with poison := l } : State).rangePlace 0 0x300 8 true = .ok pl) ∧ pl.mirror = none ∧ pl.away = false) ∧
    (let m := command (.copy (copy0 false 0x8000000000000040 0)) 0 0
     let s : State := { croft0 { queue := [m], dead := true } with
       net := [halfDone]
       crofts := [(0, { eng := [(0, { queue := [m], dead := true })], tlb := [{ root := 0, vpn := 0, level := 2, leaf := 0x17 }] })] }
     s.taintWaits (s.instD m.inst) 0 0 m = true ∧ s.engineDue 0 0 = true ∧ (s.engine 0 0).dead = true) :=
  ⟨⟨_, fun _ => rfl, rfl, rfl⟩, by decide +kernel⟩
/-- A poisoned source, index, tile and operand; operands that the MMA has kept; a page that may only be read. -/
theorem witness_EngineAgents_poison :
    (let s : State := { croft0 {} with poison := [keyLocal 0 0x600 / 8] }
     ((s.engineBytes 0 0x600 8).getD 3 (0, false)).2 = true) ∧
    (let s : State := { croft0 {} with poison := [keyLocal 0 0x400 / 8] }
     (s.engineBytes 0 0x400 4).bad = true) ∧
    ((some (4, true) : Option (Nat × Bool)) = some (4, true)) ∧
    (let s : State := { croft0 {} with poison := [keySlot 0 0 0 / 8, keyTile 0 1 0 5 / 8] }
     let x := Tid.of (tid 0x03 0 0 0 2 32 32 0 0)
     ((List.range x.cols).zip (rowA s 0 0 x 0)).any (fun o => (o.2.map (·.2)).getD false) = true ∧ keyTile 0 1 0 5 / 8 ∈ s.poison ∧
     ({ operands := some { mem := [], poison := [] } } : Engine).operands = some { mem := [], poison := [] } ∧ ({} : Engine).operands = none) ∧
    (let s : State := { croft0 {} with crofts := [(0, { tlb := [{ root := 0, vpn := 0, level := 2, leaf := 0x3 }] })] }
     (match s.rangePlace 0 0x8000000000000300 8 true with
      | .error f => decide (f.cause = .pageProtection)
      | .ok _ => false) = true ∧
     s.rangePlace 0 0x8000000000000300 8 false = .ok { key := keyTier1 0x300, home := .chan (keyTier1 0x300 / 256), tier := 1, away := true } ∧ parts 0x8000000000000300 8 = [(0x8000000000000300, 8)]) := by
  decide +kernel
/-- A TIDSET of the two copies whose line is held, or behind an earlier request; a silent load; launches whose saved instances keep a port. -/
theorem witness_ContainmentAgents_waits :
    let read : Access := { store8 with op := .load, size := 32, home := .bridge, key := keyHost 0x40 }
    (∀ z ∈ [halfDone], (flight [z] false).keyNow read.key read.win = keyHost 0x40 ∧ keyRegion (keyHost 0x40) = 2 ∧ z.read.isSome = true ∧
      z.key / 64 = keyHost 0x40 / 64) ∧
    (let q : Access := { store8 with admitted := false }
     q ∈ (flight [q] false).net ∧ q.src = store8.src ∧ q.admitted = false) ∧
    (let s := flight [load8] false
     s.net[s.par.i]? = some load8 ∧ load8.admitted = true ∧ load8.rets = [{ pcell := 3, slot := 0, gen := 0, tok := 0, part := 0 }] ∧
     (s.node? 3 0).isSome = true ∧ node0.gen = 0 ∧ store8.rets = []) ∧
    ({ group := 0, kind := 0, ports := [(2, false)] } : Saved).keeps 2 = true := by
  decide +kernel
theorem witness_HostAgents_bank :
    let b : Bank := { valid := true, seq := 3, wear := [(5, { wb := 7 })], signature := [] }
    (b.ok = true → ({ banks := [(1, b)] } : Pkg).chosen = some b) ∧ (b.wear.map (·.1)).Nodup ∧ (Tab.getD b.wear 5 {}).wb = 7 ∧ (Tab.getD b.wear 6 {}).wb = 0 ∧
    (reeved {} []).insts.any (fun x => x.2.reeve) = true ∧ (∃ i, (reeved {} []).inst? 0 = some i ∧ i.reeve = true) :=
  ⟨fun h => (congrArg (List.foldl _ none) (List.filter_cons_of_pos h)).trans rfl, by decide, rfl, rfl, by decide +kernel, ⟨_, rfl, rfl⟩⟩
theorem witness_LinkAgents_reeve :
    let img : Image := { image0 with events := List.replicate 192 { kind := 0, parts := [] } ++ [{ kind := 1, len := 8, parts := [{ id := 4, pkind := 4, role := 1, obs := false }] }] }
    let s : State := State.reset.setInst 0 { reeve := true, image := img }
    ((s.insts.find? (fun x => x.2.reeve && x.2.image.ports.contains 4)).map (·.1)) = some 0 ∧ (s.port 4).bound.isNone = true ∧
    (∀ x ∈ State.reset.insts, x.2.reeve = true → 4 ∉ x.2.image.ports) := by
  decide +kernel

/-! ### Witnesses of the orders, holds and ends that statements add -/

/-- The station holds an AMO2 of the node whose second word lies in its own cell; the word's place in the other copy's cell. -/
def amo2Held : Access := { dcas0 with home := .bin 0, key := keyBin 0 0, home2 := some (.cell 3), key2 := keyLocal 3 0x104 }
def instAmo2 : Inst := { instTwin with twinq := [{ second := false, lcell := 3, msg := .access amo2Held }] }
theorem witness_LoadStoreResults_holds :
    (at_ 3 nodeAddr instAmo2).ownWaits (pt 3 nodeAddr) false = true ∧ (at_ 3 nodeAddr).ownWaits (pt 3 nodeAddr) false = false ∧
    (∀ away, (at_ 3 nodeAddr instTwin).ownWaits (pt 3 nodeAddr) away = false) ∧
    (∃ pl, checkAccess (at_ 3 nodeAddr instAmo2) 3 (nodeAddr.getA 1) rd4 = .ok pl ∧ pl.away = false) ∧
    (∃ pl, checkAccess (at_ 3 nodeAddr instAmo2) 3 (nodeAddr.getA 1) wr4 = .ok pl ∧ pl.away = false) ∧
    Clear (at_ 3 nodeAddr instAmo2) (pt 3 nodeAddr) [.a 1, .g 8] [.g 8] :=
  ⟨by decide +kernel, by decide +kernel, by decide +kernel, ⟨_, rfl, rfl⟩, ⟨_, rfl, rfl⟩, ⟨rfl, rfl, rfl⟩⟩
theorem witness_AtomicResults_holds :
    let k : Acc := { size := 4, rd := true, wr := true }
    let k1 : Acc := { size := 4, rd := true, wr := true, amo2 := true }
    let s := at_ 3 nodeTwoA instAmo2
    Clear s (pt 3 nodeTwoA) [.a 1, .a 2, .g 8, .g 9, .g 18, .g 19] [.g 18, .g 19] ∧ s.ownWaits (pt 3 nodeTwoA) false = true ∧
    (at_ 3 nodeTwoA).ownWaits (pt 3 nodeTwoA) false = false ∧ (∃ pl, checkAccess s 3 (nodeTwoA.getA 1) k = .ok pl ∧ pl.away = false) ∧
    (∃ p1 p2, checkAccess s 3 (nodeTwoA.getA 1) k1 = .ok p1 ∧ checkAccess s 3 (nodeTwoA.getA 2) { k1 with second := true } = .ok p2 ∧
      nodeTwoA.getA 1 ≠ nodeTwoA.getA 2 ∧ (p1.away || p2.away) = false) :=
  ⟨⟨rfl, rfl, rfl⟩, by decide +kernel, by decide +kernel, ⟨_, rfl, rfl⟩, ⟨_, _, rfl, rfl, by decide, rfl⟩⟩
theorem witness_VectorMemoryResults_holds :
    let kind : Nat → Acc := fun j => { size := 4, rd := true, vec := true, lane := j }
    let s := at_ 3 nodeVec instAmo2
    Clear s (pt 3 nodeVec) [.a 1, .v 1, .k 1, .v 2] [.v 2] ∧ s.ownWaits (pt 3 nodeVec) false = true ∧
    (at_ 3 nodeVec).ownWaits (pt 3 nodeVec) false = false ∧ ∃ pl, checkAccess s 3 (nodeVec.getA 1) (kind 0) = .ok pl ∧ pl.away = false :=
  ⟨⟨rfl, rfl, rfl⟩, by decide +kernel, by decide +kernel, ⟨_, rfl, rfl⟩⟩
/-- A store behind one of its node to the same cell; behind the other copy's, whose access is performed for both, in a twin cell. -/
def storeBoth : Access :=
  { store8 with src := .node 3 0 0, src2 := some (.node 7 0 0), home := .bin 0, key := keyBin 0 0, mirror2 := some (keyLocal 7 0x104) }
def storeTwin : Access := { store8 with src := .node 7 0 0, home := .cell 7, key := keyLocal 7 0x104 }
theorem witness_StorePerformed_order :
    (∀ l ∈ [[store8, store4], [storeBoth, storeTwin]], ∀ a b, l = [b, a] →
      (flight l false).net[1]? = some a ∧ (flight l false).net[0]? = some b ∧ (∃ c ∈ b.src :: b.src2.toList, c ∈ a.src :: a.src2.toList) ∧
      ∃ h ∈ b.homes, h ∈ a.homes) ∧ ({ flight [] false with par := { i := 1 } } : State).par.i = 1 ∧
    (∀ a ∈ [store8, store4, storeTail], a.mirror2 = none) := by
  refine ⟨?_, rfl, by decide⟩
  intro l hl a b h
  simp only [List.mem_cons, List.not_mem_nil, or_false] at hl
  obtain rfl | rfl := hl
  · injection h with h1 h2; injection h2 with h2 _; subst h1 h2
    exact ⟨rfl, rfl, ⟨.node 3 0 0, by decide, by decide⟩, .cell 3, by decide, by decide⟩
  · injection h with h1 h2; injection h2 with h2 _; subst h1 h2
    exact ⟨rfl, rfl, ⟨.node 7 0 0, by decide, by decide⟩, .cell 7, by decide, by decide⟩
theorem witness_AtomicPerformed_tail :
    (∀ fn ∈ List.range 11, (amo4 fn).tail = false) ∧ dcas0.tail = false ∧
    (let a : Access := { amo4 0 with tail := true }
     (flight [a] false).net[0]? = some a ∧ (flight [a] false).mayPerform 0 = true ∧ a.op = .amo 0 3 9 ∧ a.tail = true ∧
     (flight [a] false).sealedHome a.home = false ∧ a.home ≠ .bridge) := by
  decide +kernel
/-- The words of the two copies are told apart; the words stand as a DCAS expects them. -/
theorem witness_AtomicPerformed_copies :
    ∀ op ∈ [AccOp.dcas 1 2 9 0, .amov2 4],
      let a : Access := { dcas0 with op := op, mirror := some (keyLocal 7 0x100), mirror2 := some (keyLocal 7 0x104) }
      let s := flight [a] false
      let k1 := s.keyNow a.key a.win
      let k2 := s.keyNow a.key2 a.win2
      s.par.i = 0 ∧ s.net[0]? = some a ∧ s.mayPerform 0 = true ∧ a.tail = false ∧ s.sealedHome a.home = false ∧
      (∀ h ∈ a.home2, s.sealedHome h = false) ∧ a.size = 4 ∧ a.read = none ∧ s.absentAt k1 = false ∧ s.absentAt k2 = false ∧
      poisonedAt s.poison k1 4 = false ∧ poisonedAt s.poison k2 4 = false ∧ s.flaws = [] ∧
      [k1, k2, keyLocal 7 0x100, keyLocal 7 0x104].Pairwise (fun x y => x + 4 ≤ y ∨ y + 4 ≤ x) ∧
      Memory.num s.mem k1 4 = 9 ∧ Memory.num s.mem k2 4 = 0 := by
  decide +kernel
/-- WSPILL with a result owed to a register of the frame to spill; WFILL with a store of the node on its way to its cell. -/
theorem witness_WindowSpillResults_holds :
    let n : Node := { nodeSpill 0x200 0x240 2 0 with owed := [{ tok := 0, dests := [.region 36], form := .discard, need := 1 }] }
    let f : Node := nodeSpill 0x200 0x240 2 1
    let s : State := { at_ 3 f with net := [store8] }
    Clear (at_ 3 n) (pt 3 n) [] [] ∧ n.res ≠ 1 ∧ (∃ o ∈ n.owed, ∃ j, j < 16 ∧ Loc.region (16 * ((n.cur + 1 + n.frames - n.res) % n.frames) + j) ∈ o.dests) ∧
    Clear (at_ 3 (nodeSpill 0x200 0x240 2 0) instAmo2) (pt 3 (nodeSpill 0x200 0x240 2 0)) [] [] ∧
    (at_ 3 (nodeSpill 0x200 0x240 2 0) instAmo2).ownWaits (pt 3 (nodeSpill 0x200 0x240 2 0)) false = true ∧
    (at_ 3 (nodeSpill 0x200 0x240 2 0)).ownWaits (pt 3 (nodeSpill 0x200 0x240 2 0)) false = false ∧
    Clear s (pt 3 f) [] [] ∧ f.res ≠ f.frames ∧ f.spilled ≠ 0 ∧ (∃ y ∈ s.net, y.src = .node 3 0 f.gen ∧ (.cell 3 : Home) ∈ y.homes) :=
  ⟨⟨rfl, rfl, rfl⟩, by decide, ⟨_, List.mem_singleton_self _, 4, by decide, by decide⟩, ⟨rfl, rfl, rfl⟩, by decide +kernel, by decide +kernel, ⟨rfl, rfl, rfl⟩,
   by decide, by decide, ⟨store8, List.mem_singleton_self _, rfl, by decide⟩⟩
/-- Event 0 requires the node that retires, and is unknown or present. -/
theorem witness_ReactionEnds_retires :
    (at_ 3 node0).inFlight (.node 3 0 node0.gen) = false ∧ (at_ 3 node0).instOf 3 = some (0, inst0) ∧ 0 ∈ inst0.evs ∧
    (∃ q ∈ (inst0.event 0).required, q.pkind = 0 ∧ inst0.place q.id = some (3, 0)) ∧ inst0.status 0 = .unknown ∧
    instKnown.status 0 ≠ .unknown ∧ ∃ q ∈ (instKnown.event 0).required, q.pkind = 0 ∧ instKnown.place q.id = some (3, 0) :=
  ⟨by decide +kernel, rfl, by decide, ⟨_, List.mem_singleton_self _, rfl, by decide +kernel⟩, by decide +kernel, by decide +kernel,
   ⟨_, List.mem_singleton_self _, rfl, by decide +kernel⟩⟩
theorem witness_LaunchAgents_busy :
    let s : State := { State.reset with net := [{ store8 with home := .cell (4 * State.reset.siteOfLog 0 + 3) }] }
    ∃ a ∈ s.net, ∃ p, p < 416 ∧ p / 4 = s.siteOfLog 0 ∧ (.cell p : Home) ∈ a.homes :=
  ⟨_, List.mem_singleton_self _, 4 * State.reset.siteOfLog 0 + 3, by decide +kernel, by decide +kernel, by decide +kernel⟩
/-- Twin packets whose words lie in the node's own cells and outside them; a request of two homes of which the second is silent. -/
theorem witness_ContainmentAgents_homes :
    (let i : Inst := instPair [{ second := false, lcell := 3, msg := .access amo2Held }]
       [{ second := true, lcell := 3, msg := .access { amo2Held with src := .node 7 0 0, home2 := some (.cell 7), key2 := keyLocal 7 0x104 } }]
     ∃ a b, i.packet false 3 = some (.access a) ∧ i.packet true 3 = some (.access b) ∧ (a.op, a.size, a.va, a.va2) = (b.op, b.size, b.va, b.va2) ∧
       a.home ≠ .cell a.src.cell ∧ a.home2 = some (.cell a.src.cell) ∧ a.key2 ≠ b.key2) ∧
    (let a : Access := { amo2Held with home := .cell 3, key := keyLocal 3 0x100, home2 := some (.bin 1), key2 := keyBin 1 0, va2 := 0x2000000000000000 }
     let s : State := { flight [a] false with par := { second := true } }
     s.net[s.par.i]? = some a ∧ a.admitted = true ∧ s.par.second = true ∧ a.home2.isSome = true ∧ a.home2.getD a.home = .bin 1 ∧ a.home = .cell 3) := by
  refine ⟨⟨_, _, rfl, rfl, ?_⟩, ?_⟩ <;> decide +kernel

/-! ### One step of single instructions, with values of the manual's tables -/

/-- What g17 holds once the result of one instruction has come, with g8, g9 and g17 as given. -/
def gives (i : Instr) (x y : Word) (z : Word := 0) : Option Word :=
  let n : Node := { node0 with
    g := [(8, { val := x, live := true }), (9, { val := y, live := true })], region := [(1, { val := z, live := true })], a := [(1, 0x100)] }
  match exec i (at_ 3 n) with
  | .next t => (t.node? 3 0).map (fun m =>
      let m := m.flush
      (if m.owed.isEmpty then m else m.arrive 0).getG 17)
  | _ => none
/-- R109's table with x = 0x8000_0010. -/
theorem test_shifts : gives (.shl 17 8 9 false false 0) 0x80000010 4 = some 0x00000100 ∧
    gives (.shr 17 8 9 false false 0) 0x80000010 4 = some 0x08000001 ∧ gives (.sha 17 8 9 false false 0) 0x80000010 32 = some 0xFFFFFFFF ∧
    gives (.rotl 17 8 9 false false 0) 0x80000010 0x124 = some 0x00000108 := by decide +kernel
/-- R110's table of saturating additions. -/
theorem test_saturating : gives (.adds 17 8 9 false false 0) 0x7FFFFFF0 0x20 = some 0x7FFFFFFF ∧
    gives (.add 17 8 9 false false 0) 0x7FFFFFF0 0x20 = some 0x80000010 ∧ gives (.subs 17 8 9 false false 0) 0x80000000 1 = some 0x80000000 ∧
    gives (.subs 17 8 9 false false 0) 0 0x80000000 = some 0x7FFFFFFF := by decide +kernel
/-- R114's values. -/
theorem test_bits : gives (.brev 17 8 false 0) 1 0 = some 0x80000000 ∧ gives (.bswap 17 8 false 0) 0x11223344 0 = some 0x44332211 ∧
    gives (.clz 17 8 false 0) 0x8000 0 = some 16 ∧ gives (.ctz 17 8 false 0) 0 0 = some 32 := by decide +kernel
/-- R115's table with 0xDEAD_BEEF. -/
theorem test_fields : gives (.bfx 17 8 9 false false 0) 0xDEADBEEF 0x70C = some 0xDB ∧
    gives (.bfxs 17 8 9 false false 0) 0xDEADBEEF 0x70C = some 0xFFFFFFDB ∧ gives (.bfi 17 8 9 false false 0) 0xDEADBEEF 0x70C = some 0x000EF000 ∧
    gives (.bfx 17 8 9 false false 0) 0xDEADBEEF 0x71C = some 0xD ∧ gives (.bfxs 17 8 9 false false 0) 0xDEADBEEF 0x71C = some 0xFFFFFFFD ∧
    gives (.bfi 17 8 9 false false 0) 0xDEADBEEF 0x71C = some 0xF0000000 := by decide +kernel
/-- R116's values. -/
theorem test_funnel : gives (.fshl 17 8 9 false false 0 1) 0x80000001 0xC0000000 = some 3 ∧
    gives (.fshr 17 8 9 false false 0 1) 0x80000001 0xC0000000 = some 0xE0000000 := by decide +kernel
/-- R117: the table 0xF0 leaves the first input, 0x96 is the sum bit of a full adder, 0xE8 its carry. -/
theorem test_lut3 : gives (.lut3 17 8 9 false false 0xF0) 5 6 9 = some 9 ∧ gives (.lut3 17 8 9 false false 0x96) 0b0101 0b0110 0b1100 = some 0b1111 ∧
    gives (.lut3 17 8 9 false false 0xE8) 0b0101 0b0110 0b1100 = some 0b0100 := by decide +kernel
/-- R118's values. -/
theorem test_multiply : gives (.mul 17 8 9 false false 0) 0xFFFFFFFF 2 = some 0xFFFFFFFE ∧
    gives (.mulhs 17 8 9 false false 0) 0xFFFFFFFF 2 = some 0xFFFFFFFF ∧ gives (.mulhu 17 8 9 false false 0) 0xFFFFFFFF 2 = some 1 := by decide +kernel
/-- R119's table. -/
theorem test_divide : gives (.divs 17 8 9 false false 0) 7 (-2) = some (-3) ∧ gives (.rems 17 8 9 false false 0) 7 (-2) = some 1 ∧
    gives (.divs 17 8 9 false false 0) (-7) 2 = some (-3) ∧ gives (.rems 17 8 9 false false 0) (-7) 2 = some (-1) ∧
    gives (.divs 17 8 9 false false 0) 0x80000000 (-1) = some 0x80000000 ∧ gives (.rems 17 8 9 false false 0) 5 0 = some 5 ∧
    gives (.divu 17 8 9 false false 0) 0xFFFFFFFF 16 = some 0x0FFFFFFF ∧ gives (.remu 17 8 9 false false 0) 7 0 = some 7 := by decide +kernel
/-- R120's table: FFMA keeps what a multiply and an add lose. -/
theorem test_ffma : gives (.ffma 17 8 9 false false 0) 0x3F800800 0x3F800800 0xBF800000 = some 0x3A000400 ∧
    gives (.fadd 17 8 9 false false 0) 0xBF800000 0x3F801000 = some 0x3A000000 := by decide +kernel
/-- R123's values: -2.5 to -2, and 2^24 + 1 under RNE. -/
theorem test_convert : gives (.fcvtfi 17 8 false 0) 0xC0200000 0 = some (-2) ∧ gives (.fcvtif 17 8 false 0) 0x01000001 0 = some 0x4B800000 := by
  decide +kernel
/-- R43, R121: FABS of a NaN is the canonical NaN; R51: a NaN loses to a number, −0 stands below +0. -/
theorem test_fmin : gives (.fabs 17 8 false 0) 0xFFC00001 0 = some 0x7FC00000 ∧ gives (.fmin 17 8 9 false false 0) 0x7FC00000 0x3F800000 = some 0x3F800000 ∧
    gives (.fmin 17 8 9 false false 0) 0 0x80000000 = some 0x80000000 := by decide +kernel
/-- R111: immediates are sign-extended. -/
theorem test_immediates : gives (.addi 17 8 false 0 (-5)) 3 0 = some (-2) ∧ gives (.andi 17 8 false 0 (-16)) 0xFF 0 = some 0xF0 ∧
    gives (.movi 17 0 (-1)) 0 0 = some 0xFFFFFFFF := by decide +kernel
/-- R125: MOVGA puts g[b] above g[a]; R126. -/
theorem test_addresses :
    ((match exec (.movga 2 8 9 false false 0) (at_ 3 node0) with | .next t => (t.node? 3 0).map (·.getA 2) | _ => none) = some 0x0000000300000007) ∧
    ((match exec (.addai 1 1 0 (-64)) (at_ 3 nodeAddr) with | .next t => (t.node? 3 0).map (·.getA 1) | _ => none) = some 0xC0) := by decide +kernel
/-- R113: cmpiltu with -1 is true for every value but 0xFFFF_FFFF. R112: an AND into p1, which holds 0. -/
theorem test_compare :
    ((match exec (.cmpiltu 1 8 false 0 (-1)) (at_ 3 node0) with | .next t => (t.node? 3 0).map (·.getP 1) | _ => none) = some true) ∧
    ((match exec (.cmpltu 1 1 9 8 false false 0) (at_ 3 node0) with | .next t => (t.node? 3 0).map (·.getP 1) | _ => none) = some false) := by decide +kernel
/-- R127: a branch three words back; R133: a loop of no trips skips its body; R134: the last word of a trip. -/
theorem test_control :
    ((match exec (.br 0 false 0 (-3)) (at_ 3 node0) with | .next t => (t.node? 3 0).map (·.pc) | _ => none) = some 0xFF4) ∧
    ((match exec (.loop 10 false 0 3) (at_ 3 node0) with | .next t => (t.node? 3 0).map (fun m => (m.pc, m.loopc)) | _ => none) = some (0x1010, 0)) ∧
    ((match exec (.addi 17 8 false 0 1) (at_ 3 nodeLoop) with | .next t => (t.node? 3 0).map (fun m => (m.pc, m.loopc)) | _ => none) =
      some (0xFFC, 1)) := by decide +kernel
/-- R19, R128: a call's g31 is the address after it; R131: RTT goes on at TIP. -/
theorem test_calls :
    ((match exec (.call 0 false 0 2) (at_ 3 node0) with | .next t => (t.node? 3 0).map (fun m => (m.pc, m.getG 31, m.res)) | _ => none) =
      some (0x1008, 0x1004, 2)) ∧
    ((match exec (.rtt 0) (at_ 3 nodeTrap) with | .next t => (t.node? 3 0).map (fun m => (m.pc, m.inTrap)) | _ => none) = some (0x1004, false)) := by
  decide +kernel
/-- R196: trap 17 gives TCAUSE 0x0011_0021, with TIP at the next word. -/
theorem test_trap :
    (match exec (.trap 17 0) (at_ 3 node0) with | .next t => (t.node? 3 0).map (fun m => (m.tcause, m.tip, m.pc)) | _ => none) =
      some (0x00110021, 0x1004, 0x1010) := by decide +kernel
/-- R137, R142: a store of the low byte is on its way to a1 + offset; R138: a word at an odd address is misaligned (R139: SIZE 2, RD). -/
theorem test_memory :
    ((match exec (.stb 8 1 false 0 5) (at_ 3 nodeAddr) with | .next t => t.net.map (fun x => (x.key, x.size, x.op)) | _ => []) =
      [(keyLocal 3 0x105, 1, .store 7)]) ∧
    ((match exec (.ldw 17 3 0 0) (at_ 3 nodeTwoA) with | .next t => (t.node? 3 0).map (fun m => (m.tcause % 64, m.taddr)) | _ => none) =
      some (BitVec.ofNat 32 Cause.misaligned.code, 0x101)) := by decide +kernel
/-- R4, R141: a store is performed lowest byte first; R149: FADD in memory. -/
theorem test_performed :
    ((match exec .accessPerformed (flight [store8] false) with | .next t => Memory.bytes t.mem (keyLocal 3 0x100) 3 | _ => []) = [8, 7, 6]) ∧
    ((match exec .accessPerformed { flight [{ amo4 10 with op := .amo 10 0x3F800000 0 }] false with mem := Memory.setNum [] (keyLocal 3 0x100) 4 0x40000000 } with
      | .next t => Memory.num t.mem (keyLocal 3 0x100) 4 | _ => 0) = 0x40400000) := by decide +kernel
/-- R25, R171, R181: the delay registers; an event that is unknown reads 0; a free slot is claimed. -/
theorem test_events :
    ((match exec (.dlw 2 8 false 0) (at_ 3 node0) with | .next t => (t.node? 3 0).map (fun m => (Store.get 0 m.dPend 2, Store.get 0 m.dComm 2)) | _ => none) =
      some (7, 0)) ∧ gives (.evtest 17 9 false 0) 0 0 9 = some 0 ∧
    ((match exec (.mclaim 17 8 false 0) (at_ 2 node0) with | .next t => (t.croft 0).claims | _ => []) = [(7, .held 0x40)]) := by decide +kernel
/-- R27: a result of latency 3 is not there in the next cycle. -/
theorem test_latency :
    (match exec (.mul 17 8 9 false false 0) (at_ 3 node0) with
      | .next t => (t.node? 3 0).map (fun m => ((m.landed 1).getG 17, (m.landed 2).getG 17, (m.landed 3).getG 17)) | _ => none) = some (0, 0, 21) := by
  decide +kernel
/-- R157: bytes of the selected lanes are added, each byte by itself; the other lanes stay. -/
theorem test_vector :
    (match exec (.vadd 2 3 1 2 1 false false 0) (at_ 3 { node0 with vec := some { v := [(1, { val := 0x01FF }), (2, { val := 0x0101 + 2 ^ 32 }), (3, { val := 2 ^ 32 })], k := [(1, 1)] } }) with
      | .next t => (t.node? 3 0).map (fun m => m.flush.getV 3) | _ => none) = some (0x0200 + 2 ^ 32) := by decide +kernel
/-- A word placed where the next fetch finds it is executed: R26 moves the pc on. -/
theorem test_fetch :
    (match step (State.reset.withFetchWord 32 0x06284800) with | .next t => (t.node? 3 0).map (·.pc) | _ => none) = some 0x1004 := by decide +kernel

/-! ### Published values of the schemes that the manual names, and what a sealed engine and a RETIRED node leave -/

/-- The double of the base point of P-256, as the standard's test points give it. -/
theorem test_curve_double : (Point.base.add .base).affine = some (0x7CF27B188D034F7E8A52380304B51AC3C08969E277F21B35A60B48FC47669978,
    0x07775510DB8ED040293D9AC69F7430DBBA7DADE63CE982299E04B79D227873D1) := by decide +kernel
/-- The signature that RFC 6979 gives for "sample" (P-256, SHA-256). -/
theorem test_ecdsa_sample :
    let key := beList 32 0x60FED4BA255A9D31C961EB74C6356D68C049B8923B61FA6CE669622E60F29FB6 ++
      beList 32 0x7903FE1008B8BC99A41AE9E95628BC64F2F1B20C2D7E9F5177A3C294D4462299
    let signature := beList 32 0xEFD48B2AACB6A8FD1140DD9CD45E81D69D2C877B56AAF991C34D0EA84EAF3716 ++
      beList 32 0xF7CB1C942D657C41D436C7A1B6E29F65F3E900DBB9AFF4064DC4AB2F843ACDA8
    let digest := beList 32 0xAF2BDBE1AA9B6EC1E2ADE1D694F41FC71A831D0268E9891562113D8A62ADD1BF
    ecdsaVerify key digest signature = true := by decide +kernel
/-- The public key and the signature that RFC 6979 gives for its secret and the secret number of "sample". -/
theorem test_ecdsa_sign :
    let secret := 0xC9AFA9D845BA75166B5C215767B1D6934E50C3DB36E89B127B8A622B120F6721
    (ecdsaSign secret 0xA6E3C57DD01ABE90086538398355DD4C3B17AA873382B0F24D6129493D8AAD60
        (beList 32 0xAF2BDBE1AA9B6EC1E2ADE1D694F41FC71A831D0268E9891562113D8A62ADD1BF) =
      beList 32 0xEFD48B2AACB6A8FD1140DD9CD45E81D69D2C877B56AAF991C34D0EA84EAF3716 ++
        beList 32 0xF7CB1C942D657C41D436C7A1B6E29F65F3E900DBB9AFF4064DC4AB2F843ACDA8) ∧
    publicOf secret = beList 32 0x60FED4BA255A9D31C961EB74C6356D68C049B8923B61FA6CE669622E60F29FB6 ++
      beList 32 0x7903FE1008B8BC99A41AE9E95628BC64F2F1B20C2D7E9F5177A3C294D4462299 := by decide +kernel
/-- The substitution of AES and the product of its field, as the examples of FIPS 197 give them. -/
theorem test_aes_field : subByte 0x53 = 0xED ∧ gfMul 0x57 0x83 = 0xC1 := by decide +kernel
/-- The product of GHASH: the first of test case 2 of the GCM specification (its H and its ciphertext block). -/
theorem test_ghash_product : ghashMul 0x0388DACE60B6A392F328C2B971B2FE78 0x66E94BD4EF8A2C3B884CFA59CA342B2E =
    0x5E2EC746917062882C85B0685353DEB7 := by decide +kernel
/-- R325, R354: a copy that a seal ends unexecuted writes its destination poisoned, in a host page by one request to the host. -/
theorem test_taint_requests :
    let m := command (.copy (copy0 false 0x8000000000000040 0)) 0 0
    let s : State := { croft0 {} with
      crofts := [(0, { eng := [(0, { queue := [m], dead := true })], tlb := [{ root := 0, vpn := 0, level := 2, leaf := 0x17 }] })] }
    (s.taint (s.instD m.inst) 0 0 m).pkg.cacheReqs.map (·.addr) = [0x40] := by decide +kernel
/-- R173: an event that requires a RETIRED node is absent, though the node's offer of it had settled as faulted. -/
theorem test_retired_offer :
    let s := at_ 3 { node0 with stt := .retired, offer := some resolvedOffer, made := some [0], settled := some none }
    let i := s.refreshEvent 0 inst0 0
    (i.status 0, i.permanent 0) = (.absent, .absent) := by decide +kernel

end Sys2Proof.Tests
end

