-- ==== Sys2Proof/Proofs/Reset.lean ====
section
/-! PROOFS. What reset leaves: the state after reset lists no record, so each record reads as its default. -/

namespace Sys2Proof.Machine

/-! ### Records of the reset state -/

@[simp] theorem State.reset_cell (p : Nat) : State.reset.cell p = {} := rfl
@[simp] theorem State.reset_ring (die : Nat) : State.reset.ring die = {} := rfl
@[simp] theorem State.reset_island (i : Nat) : State.reset.island i = {} := rfl
@[simp] theorem State.reset_port (n : Nat) : State.reset.port n = {} := rfl

/-- A slot that no cell lists is IDLE (R13). -/
@[simp] theorem State.reset_node? (p i : Nat) : State.reset.node? p i = none := rfl

theorem State.reset_memOk : State.reset.MemOk := Memory.wf_nil

/-! ### The registers of the default records -/

/-- No instance, no running slot, no seal and no counted error (R8, R12). -/
theorem State.reset_cell_registers (p : Nat) :
    (State.reset.cell p).inst = none ∧ (State.reset.cell p).running = none ∧ (State.reset.cell p).isSealed = false ∧
      (State.reset.cell p).secnt = 0 := by
  rw [State.reset_cell]
  exact ⟨rfl, rfl, rfl, rfl⟩

/-- The report ring of a die is empty and begins at 0x16000 (R349). -/
theorem State.reset_ring_registers (die : Nat) :
    (State.reset.ring die).base = 0x16000 ∧ (State.reset.ring die).head = 0 ∧ (State.reset.ring die).tail = 0 := by
  rw [State.reset_ring]
  exact ⟨rfl, rfl, rfl⟩

/-- An island asks for level 7 with no thermal cap below it, and is not off (R374). -/
theorem State.reset_island_registers (i : Nat) :
    (State.reset.island i).req = 7 ∧ (State.reset.island i).tcap = 7 ∧ (State.reset.island i).off = false := by
  rw [State.reset_island]
  exact ⟨rfl, rfl, rfl⟩

theorem State.reset_port_down (n : Nat) : (State.reset.port n).up = false := by rw [State.reset_port]

end Sys2Proof.Machine

open Sys2Proof.Machine

/-- Settles O60: the lists and the package's registers are fields of the reset state; cells, rings, islands and ports read as
their defaults. -/
theorem resetValues : Obligations.ResetValues := by
  unfold Obligations.ResetValues
  refine ⟨?_, State.reset_memOk⟩
  exact ⟨rfl, rfl, rfl, rfl, rfl, rfl, rfl, State.reset_cell_registers, State.reset_node?, State.reset_ring_registers, rfl,
    State.reset_island_registers, State.reset_port_down⟩
end

section
/-! PROOFS. Translations that a station has cached, and a destination that a command ending unexecuted does not poison. -/

namespace Sys2Proof.Machine

/-! ### Where poison enters the checks of an access -/

/-- A translation that the station has cached is not walked for (R314). -/
theorem translate_poison_of_cached (s : State) (l : List Nat) (station root va : Nat)
    (h : ((s.croft station).tlb.find? (fun t => decide (t.root = root) && decide (t.vpn = va / 2 ^ pageBits t.level))).isSome) :
    translate { s with poison := l } station root va = translate s station root va := by
  obtain ⟨t, ht⟩ := Option.isSome_iff_exists.mp h
  have hl : (({ s with poison := l } : State).croft station).tlb = (s.croft station).tlb := rfl
  unfold translate
  rw [hl, ht]

/-- Poison enters the checks of R138 through the walk alone. -/
theorem checkAccess_poison_of_translate (s : State) (l : List Nat) (p : Nat) (a : Addr) (k : Acc)
    (h : translate { s with poison := l } (siteOf p) (s.troot p) (a.toNat % 2 ^ 48) =
      translate s (siteOf p) (s.troot p) (a.toNat % 2 ^ 48)) :
    checkAccess { s with poison := l } p a k = checkAccess s p a k := by
  have hroot : ({ s with poison := l } : State).troot p = s.troot p := rfl
  have hstatic : staticCheck { s with poison := l } p a k = staticCheck s p a k := rfl
  have hplace : placeOf { s with poison := l } p a k = placeOf s p a k := by
    unfold placeOf
    dsimp only
    rw [hroot, h]
    rfl
  unfold checkAccess
  rw [hstatic, hplace]

theorem State.rangePlace_one (s : State) (p a : Nat) (wr : Bool) :
    s.rangePlace p a 1 wr = checkAccess s p (BitVec.ofNat 64 a) { size := 1, rd := !wr, wr := wr } := by
  unfold State.rangePlace
  simp only [List.range_one, List.findSome?_cons, List.findSome?_nil, Nat.add_zero]
  cases checkAccess s p (BitVec.ofNat 64 a) { size := 1, rd := !wr, wr := wr } <;> rfl

/-! ### A full station cache whose oldest translation no table holds any more -/

/-- A copy of two bytes to translated memory, one in page 0 and one in page 1 of 2^30 bytes. -/
def twoPages : CpyDesc :=
  { src := 0, dst := 0x8000000000008000, len0 := 1, count1 := 2, count2 := 1, sstride1 := 0, sstride2 := 0, dstride1 := 2 ^ 30,
    dstride2 := 0, dkind := false, publish := false, cop := 0, ctype := 0, mcast := 0, idx := 0 }

def twoPagesCmd : Cmd := { op := .copy twoPages, inst := 0 }

/-- A full cache of 256 translations. The oldest is of page 1; the others are of another root. -/
def fullTlb : List TlbEntry :=
  { root := 0, vpn := 1, level := 2, leaf := 0x40000007 } :: List.replicate 255 { root := 1, vpn := 0, level := 2, leaf := 7 }

/-- The copy stands at the head of a dead engine. The tables map page 0; that of page 1, which the cache still has, is gone from
them. -/
def evicting : State :=
  { crofts := [(0, { eng := [(0, { queue := [twoPagesCmd], dead := true })], tlb := fullTlb })],
    mem := [(0, 0x01), (1, 0x10), (0x1000, 0x07)] }

/-- The place of the second byte, by the cached translation. -/
def evictedPlace : Place := { key := 0x40008000, home := .chan 0x400080, tier := 1 }

theorem evicting_place (l : List Nat) :
    ({ evicting with poison := l } : State).rangePlace 0 0x8000000040008000 1 true = .ok evictedPlace := by
  rw [State.rangePlace_one, checkAccess_poison_of_translate, ← State.rangePlace_one]
  · decide +kernel
  · exact translate_poison_of_cached _ _ _ _ _ (by decide +kernel)

/-- The walk for the first byte puts the translation of the second out of the cache, so the second byte's page is not found. -/
theorem evicting_poison : ∃ t, exec .commandExecution evicting = .next t ∧ 0x40008000 / 8 ∉ t.poison :=
  ⟨_, rfl, by decide +kernel⟩

end Sys2Proof.Machine

open Sys2Proof.Machine

/-- Refutes O47: of a command that stops behind a seal not every destination is poisoned whose place passes the checks before the
step. In `evicting` the second byte passes them by the station's cache alone; poisoning the first fills the cache, which drops its
oldest translation (log entry 10), and the walk for the second byte then finds no page. -/
theorem not_engineAgents : ¬ Obligations.EngineAgents := by
  unfold Obligations.EngineAgents
  intro h
  obtain ⟨-, -, ⟨-, halone, -⟩, -⟩ := h evicting
  obtain ⟨-, -, hstops, -⟩ := halone twoPagesCmd [] (by decide) rfl (by decide +kernel) rfl
  obtain ⟨t, ht, -, -, -, -, -, -, hstruck⟩ := hstops ⟨rfl, .inl rfl⟩ (by decide +kernel)
  obtain ⟨-, hcopy, -⟩ := hstruck rfl
  have hsecond := (hcopy twoPages (.inl rfl) 1 (by decide)).1 rfl
  obtain ⟨t', ht', hclean⟩ := evicting_poison
  have htt : Host.Outcome.next t' = .next t := ht'.symm.trans ht
  obtain rfl : t' = t := by injection htt
  exact hclean (hsecond (0x8000000040008000, 1) (by decide) evictedPlace (fun l _ => evicting_place l) rfl
    (fun _ => ⟨by decide +kernel, rfl⟩) (by decide +kernel) 0 (by decide))
end

section
/-! PROOFS. Floating-point formats (R41, R42): what a pattern stands for, magnitudes as multiples of the smallest subnormal, and their
order (R51). -/

namespace Sys2Proof.Machine

/-! ### Formats and their patterns -/

/-- What the rounding asks of a format: the six formats of R42 and R56 meet it. -/
structure Fmt.Proper (k : Fmt) : Prop where
  f : 2 ≤ k.f
  e : 2 ≤ k.e
  bias : 1 ≤ k.bias

theorem proper_fp32 : fp32.Proper := ⟨by decide, by decide, by decide⟩
theorem proper_fp16 : fp16.Proper := ⟨by decide, by decide, by decide⟩
theorem proper_bf16 : bf16.Proper := ⟨by decide, by decide, by decide⟩
theorem proper_f8a : f8a.Proper := ⟨by decide, by decide, by decide⟩
theorem proper_f8b : f8b.Proper := ⟨by decide, by decide, by decide⟩
theorem proper_fa40 : fa40.Proper := ⟨by decide, by decide, by decide⟩

/-- The significand of a magnitude, and the exponent of its last place over that of the smallest subnormal (R41). -/
def Fmt.sig (k : Fmt) (m : Nat) : Nat := if m / 2 ^ k.f = 0 then m else 2 ^ k.f + m % 2 ^ k.f
def Fmt.place (k : Fmt) (m : Nat) : Nat := m / 2 ^ k.f - 1
/-- The exponent of the smallest subnormal, negated. -/
def Fmt.depth (k : Fmt) : Nat := k.bias + k.f - 1

theorem Fmt.units_eq (k : Fmt) (m : Nat) : k.units m = k.sig m * 2 ^ k.place m := by
  unfold Fmt.units Fmt.sig Fmt.place
  split
  · next h => simp [h]
  · rfl

theorem Fmt.bits_sign (k : Fmt) (x : Nat) : decide (bitsN x (k.e + k.f) 1 = 1) = k.neg x := rfl
theorem Fmt.bits_mag (k : Fmt) (x : Nat) : bitsN x 0 (k.e + k.f) = k.mag x := by simp [bitsN, Fmt.mag]
theorem Fmt.bits_exponent (k : Fmt) (x : Nat) : bitsN x k.f k.e = k.mag x / 2 ^ k.f := by
  rw [bitsN, Fmt.mag, Nat.add_comm k.e, pow_add, Nat.mod_mul_right_div_self]
theorem Fmt.bits_fraction (k : Fmt) (x : Nat) : bitsN x 0 k.f = k.mag x % 2 ^ k.f := by
  rw [bitsN, Fmt.mag, pow_zero, Nat.div_one, Nat.add_comm k.e, pow_add, Nat.mod_mul_right_mod]
theorem Fmt.mag_lt (k : Fmt) (x : Nat) : k.mag x < 2 ^ k.f * 2 ^ k.e := by
  rw [← pow_add, Nat.add_comm]; exact Nat.mod_lt _ (by positivity)

/-- The fields of a magnitude: its exponent and its fraction. -/
theorem Fmt.mag_fields (k : Fmt) (x : Nat) : k.mag x / 2 ^ k.f < 2 ^ k.e ∧ k.mag x % 2 ^ k.f < 2 ^ k.f :=
  ⟨Nat.div_lt_of_lt_mul (k.mag_lt x), Nat.mod_lt _ (by positivity)⟩

theorem Fmt.topExp_pos {k : Fmt} (hk : k.Proper) : 0 < k.topExp := by
  have := Nat.pow_le_pow_right (n := 2) (by decide) hk.e
  unfold Fmt.topExp
  have h : 0 < 2 ^ k.e - 1 := by omega
  positivity

theorem Fmt.maxFin_succ {k : Fmt} (hk : k.Proper) (hi : k.inf = true) : k.maxFin + 1 = k.topExp := by
  have := Fmt.topExp_pos hk
  unfold Fmt.maxFin
  rw [if_pos hi]
  omega

/-- The all-ones exponent begins where the finite magnitudes of a format with an infinity end. -/
theorem Fmt.exponent_top {k : Fmt} (x : Nat) : k.mag x / 2 ^ k.f = 2 ^ k.e - 1 ↔ k.topExp ≤ k.mag x := by
  have h := (k.mag_fields x).1
  unfold Fmt.topExp
  rw [← Nat.le_div_iff_mul_le (by positivity)]
  omega

theorem Fmt.top_infinity {k : Fmt} (x : Nat) : (k.mag x / 2 ^ k.f = 2 ^ k.e - 1 ∧ k.mag x % 2 ^ k.f = 0) ↔ k.mag x = k.topExp := by
  have h := Nat.div_add_mod (k.mag x) (2 ^ k.f)
  constructor
  · rintro ⟨h1, h2⟩
    rw [← h, h1, h2, Fmt.topExp, Nat.mul_comm, Nat.add_zero]
  · intro h3
    rw [h3, Fmt.topExp]
    exact ⟨Nat.mul_div_cancel _ (by positivity), Nat.mul_mod_left _ _⟩

/-- The largest magnitude of all is the NaN of a format without an infinity. -/
theorem Fmt.top_nan {k : Fmt} (hk : k.Proper) (x : Nat) : (k.mag x / 2 ^ k.f = 2 ^ k.e - 1 ∧ k.mag x % 2 ^ k.f = 2 ^ k.f - 1) ↔
    2 ^ (k.e + k.f) - 2 < k.mag x := by
  have h := Nat.div_add_mod (k.mag x) (2 ^ k.f)
  obtain ⟨h1, h2⟩ := k.mag_fields x
  have hf := Nat.pow_le_pow_right (n := 2) (by decide) hk.f
  have hp : 2 ^ (k.e + k.f) = 2 ^ k.f * (2 ^ k.e - 1) + 2 ^ k.f := by
    rw [Nat.add_comm k.e, pow_add, Nat.mul_sub, Nat.mul_one, Nat.sub_add_cancel (Nat.le_mul_of_pos_right _ (by positivity))]
  constructor
  · rintro ⟨e1, e2⟩
    rw [e1, e2] at h
    generalize 2 ^ k.f * (2 ^ k.e - 1) = a at h hp
    generalize 2 ^ (k.e + k.f) = b at hp ⊢
    omega
  · intro hlt
    have he : k.mag x / 2 ^ k.f = 2 ^ k.e - 1 := by
      by_contra hne
      have := Nat.mul_le_mul_left (2 ^ k.f) (show k.mag x / 2 ^ k.f + 1 ≤ 2 ^ k.e - 1 by omega)
      rw [Nat.mul_add, Nat.mul_one] at this
      generalize 2 ^ k.f * (2 ^ k.e - 1) = a at this hp
      generalize 2 ^ k.f * (k.mag x / 2 ^ k.f) = c at this h
      generalize 2 ^ (k.e + k.f) = b at hp hlt
      omega
    rw [he] at h
    refine ⟨he, ?_⟩
    generalize 2 ^ k.f * (2 ^ k.e - 1) = a at h hp
    generalize 2 ^ (k.e + k.f) = b at hp hlt
    omega

/-- The kinds of a pattern, by its magnitude, in a format with an infinity and in one without. -/
theorem Fmt.isFin_iff_lt {k : Fmt} (hk : k.Proper) (hi : k.inf = true) (x : Nat) : k.isFin x ↔ k.mag x < k.topExp := by
  have := Fmt.maxFin_succ hk hi
  unfold Fmt.isFin
  omega
theorem Fmt.isInf_iff_eq {k : Fmt} (hk : k.Proper) (hi : k.inf = true) (x : Nat) : k.isInf x ↔ k.mag x = k.topExp := by
  have := Fmt.maxFin_succ hk hi
  unfold Fmt.isInf
  rw [this]
  exact and_iff_right hi
theorem Fmt.isFin_iff_of_no_inf {k : Fmt} (hi : k.inf = false) (x : Nat) : k.isFin x ↔ k.mag x ≤ 2 ^ (k.e + k.f) - 2 := by
  unfold Fmt.isFin Fmt.maxFin
  rw [hi]
  rfl

theorem unpack_nan {k : Fmt} (hk : k.Proper) {x : Nat} (h : k.isNaN x) : unpack k x = .nan := by
  obtain ⟨hf, hn⟩ := h
  unfold unpack
  rw [k.bits_exponent, k.bits_fraction]
  cases hi : k.inf with
  | true =>
    rw [Fmt.isFin_iff_lt hk hi] at hf
    rw [Fmt.isInf_iff_eq hk hi, ← Fmt.top_infinity] at hn
    have ht := (Fmt.exponent_top x).mpr (not_lt.mp hf)
    have hz : k.mag x % 2 ^ k.f ≠ 0 := fun h => hn ⟨ht, h⟩
    simp [ht, hz]
  | false =>
    rw [Fmt.isFin_iff_of_no_inf hi, not_le, ← Fmt.top_nan hk] at hf
    simp [hf.1, hf.2]

theorem unpack_inf {k : Fmt} (hk : k.Proper) {x : Nat} (h : k.isInf x) : unpack k x = .inf (k.neg x) := by
  have hi : k.inf = true := h.1
  rw [Fmt.isInf_iff_eq hk hi, ← Fmt.top_infinity] at h
  unfold unpack
  rw [k.bits_exponent, k.bits_fraction, k.bits_sign]
  simp [hi, h.1, h.2]

theorem unpack_fin {k : Fmt} (hk : k.Proper) {x : Nat} (h : k.isFin x) :
    unpack k x = .fin (k.neg x) (k.sig (k.mag x)) ((k.place (k.mag x) : Int) - k.depth) false := by
  have hf := hk.f
  have hb := hk.bias
  have htop : ¬ (k.inf = true ∧ k.mag x / 2 ^ k.f = 2 ^ k.e - 1) := by
    rintro ⟨hi, ht⟩
    rw [Fmt.isFin_iff_lt hk hi] at h
    exact absurd ((Fmt.exponent_top x).mp ht) (not_le.mpr h)
  have hnan : ¬ (k.inf = false ∧ k.mag x / 2 ^ k.f = 2 ^ k.e - 1 ∧ k.mag x % 2 ^ k.f = 2 ^ k.f - 1) := by
    rintro ⟨hi, ht⟩
    rw [Fmt.isFin_iff_of_no_inf hi] at h
    exact absurd ((Fmt.top_nan hk x).mp ht) (not_lt.mpr h)
  unfold unpack
  rw [k.bits_exponent, k.bits_fraction, k.bits_sign]
  dsimp only
  rw [if_neg (by simpa using htop), if_neg (by simpa using hnan)]
  unfold Fmt.sig Fmt.place Fmt.depth
  split
  · next h0 =>
    rw [h0]
    congr 1
    · exact Nat.mod_eq_of_lt ((Nat.div_eq_zero_iff_lt (by positivity)).mp h0)
    · omega
  · congr 1
    generalize k.mag x / 2 ^ k.f = c at *
    omega

/-- Every pattern is one of the three. -/
theorem Fmt.kinds (k : Fmt) (x : Nat) : k.isFin x ∨ k.isInf x ∨ k.isNaN x := by
  unfold Fmt.isNaN
  tauto

theorem unpack_isNan {k : Fmt} (hk : k.Proper) (x : Nat) : (unpack k x).isNan = true ↔ k.isNaN x := by
  rcases k.kinds x with h | h | h
  · rw [unpack_fin hk h]
    exact ⟨fun e => absurd e Bool.false_ne_true, fun e => absurd h e.1⟩
  · rw [unpack_inf hk h]
    exact ⟨fun e => absurd e Bool.false_ne_true, fun e => absurd h e.2⟩
  · rw [unpack_nan hk h]
    exact ⟨fun _ => h, fun _ => rfl⟩

/-! ### Magnitudes in order (R41, R51) -/

/-- A magnitude is its significand, `place` binades up. -/
theorem Fmt.mag_eq (k : Fmt) (m : Nat) : m = k.place m * 2 ^ k.f + k.sig m := by
  have h := Nat.div_add_mod m (2 ^ k.f)
  unfold Fmt.place Fmt.sig
  split
  · next h0 => simp [h0]
  · next h0 =>
    obtain ⟨c, hc⟩ := Nat.exists_eq_succ_of_ne_zero h0
    rw [hc, Nat.mul_comm, Nat.succ_mul] at h
    rw [hc, Nat.succ_sub_one]
    omega

theorem Fmt.sig_lt (k : Fmt) (m : Nat) : k.sig m < 2 ^ (k.f + 1) := by
  have h := Nat.mod_lt m (show 0 < 2 ^ k.f by positivity)
  rw [pow_succ]
  unfold Fmt.sig
  split
  · next h0 =>
    have := (Nat.div_eq_zero_iff_lt (by positivity)).mp h0
    omega
  · omega

theorem Fmt.le_sig (k : Fmt) (m : Nat) : k.place m = 0 ∨ 2 ^ k.f ≤ k.sig m := by
  unfold Fmt.place Fmt.sig
  split
  · next h0 => exact .inl (by rw [h0])
  · exact .inr (Nat.le_add_right _ _)

/-- A significand and its binade give the units; one past the largest significand is the first of the next binade (R41). -/
theorem Fmt.units_code (k : Fmt) {q a : Nat} (ha : a ≤ 2 ^ (k.f + 1)) (h : q = 0 ∨ 2 ^ k.f ≤ a) :
    k.units (q * 2 ^ k.f + a) = a * 2 ^ q := by
  have hp : 0 < 2 ^ k.f := by positivity
  rw [pow_succ] at ha
  have hdiv : (q * 2 ^ k.f + a) / 2 ^ k.f = q + a / 2 ^ k.f := by
    rw [Nat.add_comm, Nat.add_mul_div_right _ _ hp, Nat.add_comm]
  have hmod : (q * 2 ^ k.f + a) % 2 ^ k.f = a % 2 ^ k.f := by
    rw [Nat.add_comm, Nat.add_mul_mod_self_right]
  unfold Fmt.units
  rw [hdiv, hmod]
  rcases lt_or_ge a (2 ^ k.f) with hlt | hge
  · obtain rfl : q = 0 := h.resolve_right (by omega)
    rw [Nat.div_eq_of_lt hlt]
    simp
  · rcases eq_or_lt_of_le ha with rfl | hlt
    · rw [Nat.mul_div_cancel_left _ hp, Nat.mul_mod_right, if_neg (by omega), Nat.add_zero, show q + 2 - 1 = q + 1 by omega, pow_succ]
      ring
    · have h1 : a / 2 ^ k.f = 1 := by
        rw [Nat.div_eq_iff hp]
        omega
      rw [h1, if_neg (by omega), Nat.add_sub_cancel, Nat.mod_eq_sub_mod hge, Nat.mod_eq_of_lt (by omega), Nat.add_sub_cancel' hge]

theorem Fmt.units_strictMono (k : Fmt) : StrictMono k.units := by
  refine strictMono_nat_of_lt_succ fun m => ?_
  have hs := k.sig_lt m
  have h1 : k.units m = k.sig m * 2 ^ k.place m := k.units_eq m
  have h2 : k.units (m + 1) = (k.sig m + 1) * 2 ^ k.place m := by
    conv_lhs => rw [k.mag_eq m, Nat.add_assoc]
    exact k.units_code hs ((k.le_sig m).imp_right (by omega))
  rw [h1, h2]
  exact Nat.mul_lt_mul_of_pos_right (Nat.lt_succ_self _) (by positivity)

@[simp] theorem Fmt.units_zero (k : Fmt) : k.units 0 = 0 := by simp [Fmt.units]
theorem Fmt.units_eq_zero (k : Fmt) (m : Nat) : k.units m = 0 ↔ m = 0 := by
  rw [← k.units_zero, k.units_strictMono.injective.eq_iff, k.units_zero]

/-! ### Comparisons (R51) -/

theorem fpOrd_eq (k : Fmt) (x : Nat) : fpOrd k x = if k.neg x then -(k.mag x : Int) else k.mag x := by
  unfold fpOrd
  rw [k.bits_mag, ← k.bits_sign]
  simp

theorem fpRank_eq (k : Fmt) (x : Nat) : fpRank k x = if k.neg x then -(k.mag x : Int) - 1 else k.mag x := by
  unfold fpRank
  rw [k.bits_mag, ← k.bits_sign]
  simp

/-- Magnitudes with signs are ordered as their values are. -/
theorem fpOrd_lt_iff (k : Fmt) (x y : Nat) : fpOrd k x < fpOrd k y ↔ k.val x < k.val y := by
  have hlt := k.units_strictMono.lt_iff_lt (a := k.mag x) (b := k.mag y)
  have hgt := k.units_strictMono.lt_iff_lt (a := k.mag y) (b := k.mag x)
  have hx := k.units_eq_zero (k.mag x)
  have hy := k.units_eq_zero (k.mag y)
  rw [fpOrd_eq, fpOrd_eq]
  unfold Fmt.val
  cases k.neg x <;> cases k.neg y <;> simp only [Bool.false_eq_true, if_true, if_false] <;> omega

theorem fpOrd_eq_iff (k : Fmt) (x y : Nat) : fpOrd k x = fpOrd k y ↔ k.val x = k.val y := by
  have hlt := fpOrd_lt_iff k x y
  have hgt := fpOrd_lt_iff k y x
  omega

theorem fpOrd_le_iff (k : Fmt) (x y : Nat) : fpOrd k x ≤ fpOrd k y ↔ k.val x ≤ k.val y := by
  have hgt := fpOrd_lt_iff k y x
  omega

theorem fpUn_iff {k : Fmt} (hk : k.Proper) (x y : Nat) : fpUn k x y = true ↔ k.isNaN x ∨ k.isNaN y := by
  unfold fpUn
  rw [Bool.or_eq_true, unpack_isNan hk, unpack_isNan hk]

theorem fpEq_iff {k : Fmt} (hk : k.Proper) (x y : Nat) : fpEq k x y = true ↔ ¬ (k.isNaN x ∨ k.isNaN y) ∧ k.val x = k.val y := by
  unfold fpEq
  rw [Bool.and_eq_true, Bool.not_eq_true', ← Bool.not_eq_true, fpUn_iff hk, decide_eq_true_iff, fpOrd_eq_iff]
theorem fpLt_iff {k : Fmt} (hk : k.Proper) (x y : Nat) : fpLt k x y = true ↔ ¬ (k.isNaN x ∨ k.isNaN y) ∧ k.val x < k.val y := by
  unfold fpLt
  rw [Bool.and_eq_true, Bool.not_eq_true', ← Bool.not_eq_true, fpUn_iff hk, decide_eq_true_iff, fpOrd_lt_iff]
theorem fpLe_iff {k : Fmt} (hk : k.Proper) (x y : Nat) : fpLe k x y = true ↔ ¬ (k.isNaN x ∨ k.isNaN y) ∧ k.val x ≤ k.val y := by
  unfold fpLe
  rw [Bool.and_eq_true, Bool.not_eq_true', ← Bool.not_eq_true, fpUn_iff hk, decide_eq_true_iff, fpOrd_le_iff]

end Sys2Proof.Machine
end

section
/-! PROOFS. The comparisons of floating-point values into a predicate (R51, R124). -/

namespace Sys2Proof.Machine

/-! ### FP32 in a register -/

theorem fp32_mag_word (x : Word) : (x &&& 0x7FFFFFFF).toNat = fp32.mag x.toNat := by
  rw [BitVec.toNat_and]
  exact Nat.and_two_pow_sub_one_eq_mod x.toNat 31

theorem fp32_neg_word (x : Word) : x.msb = fp32.neg x.toNat := by
  rw [BitVec.msb_eq_decide]
  unfold Fmt.neg
  have := x.isLt
  rw [show fp32.e + fp32.f = 31 from rfl, decide_eq_decide]
  omega

theorem fp32_isNaN_word (x : Word) : fp32.isNaN x.toNat ↔ 0x7F800000 < (x &&& 0x7FFFFFFF).toNat := by
  rw [fp32_mag_word]
  unfold Fmt.isNaN Fmt.isFin Fmt.isInf
  rw [show fp32.maxFin = 0x7F7FFFFF from rfl, show fp32.inf = true from rfl, eq_self, true_and]
  omega

/-- The order of FP32 words is that of the integers of the statement, a magnitude with its sign. -/
theorem fpOrd_fp32 (x : Word) :
    fpOrd fp32 x.toNat = if x.msb then -((x &&& 0x7FFFFFFF).toNat : Int) else (x &&& 0x7FFFFFFF).toNat := by
  rw [fpOrd_eq, fp32_neg_word, fp32_mag_word]

theorem fpUn_fp32 (x y : Word) : fpUn fp32 x.toNat y.toNat =
    (decide (0x7F800000 < (x &&& 0x7FFFFFFF).toNat) || decide (0x7F800000 < (y &&& 0x7FFFFFFF).toNat)) := by
  rw [Bool.eq_iff_iff, fpUn_iff proper_fp32, fp32_isNaN_word, fp32_isNaN_word]
  simp

/-- A floating-point comparison completes with its predicate on its way, and raises nothing (R51, R124). -/
theorem fcmpR_completes {i : Instr} {f : Nat → Nat → Bool} {s : State} {u : Issue} {p : PReg} {a b : GReg} {la lb : Bool}
    {st : BitVec 2} {t : Bool} (hi : exec i s = fcmpR f p a b la lb st s) (h : Clear s u [.g a, .g b] [.p p]) (hs : Steady s u)
    (hf : f (u.n.getG a).toNat (u.n.getG b).toNat = t) :
    Completes i s u st.toNat ((u.used (rel2 la lb a b)).landing (u.last + 4) (.p p) (.bit t)) := by
  subst hf
  have hc := simple_fixed (st := st.toNat) 4
    { reads := [.g a, .g b], rel := rel2 la lb a b, dest := .p p, lat := some 4, fps := true, st := st.toNat,
      f := fun n => .ok (.bit (f (n.getG a).toNat (n.getG b).toNat), 0) } h hs (fun e => absurd e Bool.false_ne_true) rfl rfl
      (by decide) (by simp) rfl
  rw [Node.raise_zero, Node.keepLanes_p] at hc
  exact hi.trans hc

variable (s : State) (p : PReg) (a b : GReg) (la lb : Bool) (st : BitVec 2)

theorem exec_fcmpeq : exec (.fcmpeq p a b la lb st) s = fcmpR (fpEq fp32) p a b la lb st s := rfl
theorem exec_fcmpne : exec (.fcmpne p a b la lb st) s = fcmpR (fun x y => !fpEq fp32 x y) p a b la lb st s := rfl
theorem exec_fcmplt : exec (.fcmplt p a b la lb st) s = fcmpR (fpLt fp32) p a b la lb st s := rfl
theorem exec_fcmple : exec (.fcmple p a b la lb st) s = fcmpR (fpLe fp32) p a b la lb st s := rfl
theorem exec_fcmpun : exec (.fcmpun p a b la lb st) s = fcmpR (fpUn fp32) p a b la lb st s := rfl

end Sys2Proof.Machine

open Sys2Proof.Machine

/-- Settles O8: each comparison is a simple instruction of latency 4 that raises nothing; a pattern is a NaN where its magnitude
passes that of infinity, and the others are ordered as their magnitudes with signs. -/
theorem floatCompareResults : Obligations.FloatCompareResults := by
  unfold Obligations.FloatCompareResults
  intro s u p a b la lb st h hs
  dsimp only
  refine ⟨fcmpR_completes (exec_fcmpeq ..) h hs ?_, fcmpR_completes (exec_fcmpne ..) h hs ?_, fcmpR_completes (exec_fcmplt ..) h hs ?_,
    fcmpR_completes (exec_fcmple ..) h hs ?_, fcmpR_completes (exec_fcmpun ..) h hs (fpUn_fp32 _ _)⟩
  · rw [fpEq, fpUn_fp32, fpOrd_fp32, fpOrd_fp32]
  · rw [fpEq, fpUn_fp32, fpOrd_fp32, fpOrd_fp32, Bool.not_and, Bool.not_not, decide_not]
  · rw [fpLt, fpUn_fp32, fpOrd_fp32, fpOrd_fp32]
  · rw [fpLe, fpUn_fp32, fpOrd_fp32, fpOrd_fp32]
end

section
/-! PROOFS. Rounding (R46, R47, log entry 68): what `quantise` and `roundFin` make of a magnitude, over the real numbers. -/

namespace Sys2Proof.Machine

/-- `X` is `m` × 2^`e`, or with `more` lies strictly between that and the next multiple of 2^`e`. -/
def Lies (X : ℝ) (m : Nat) (e : Int) (more : Bool) : Prop :=
  if more then (m : ℝ) * 2 ^ e < X ∧ X < ((m : ℝ) + 1) * 2 ^ e else X = m * 2 ^ e

/-- A magnitude `V` from `k` up, below `k` + 1, goes to `k` + 1 (R46). -/
def GoesUp (mode : Nat) (s : Bool) (V : ℝ) (k : Nat) : Prop :=
  mode = 0 ∧ ((k : ℝ) + 1 / 2 < V ∨ V = k + 1 / 2 ∧ k % 2 = 1) ∨ (mode = 2 ∧ s = true ∨ mode = 3 ∧ s = false) ∧ V ≠ k

/-- A magnitude rounded to an integer, and whether that lost anything. -/
def Nears (mode : Nat) (s : Bool) (V : ℝ) (r : Nat × Bool) : Prop :=
  ∃ k : Nat, (k : ℝ) ≤ V ∧ V < k + 1 ∧ (r.2 = true ↔ V ≠ k) ∧ (GoesUp mode s V k → r.1 = k + 1) ∧
    (¬ GoesUp mode s V k → r.1 = k)

theorem Nears.unique {mode : Nat} {s : Bool} {V : ℝ} {r q : Nat × Bool} (hr : Nears mode s V r) (hq : Nears mode s V q) : r = q := by
  obtain ⟨k, hk, hk', h2, hup, hdown⟩ := hr
  obtain ⟨j, hj, hj', h2', hup', hdown'⟩ := hq
  obtain rfl : k = j := by
    have h1 : (k : ℝ) < j + 1 := lt_of_le_of_lt hk hj'
    have h2 : (j : ℝ) < k + 1 := lt_of_le_of_lt hj hk'
    norm_cast at h1 h2
    omega
  refine Prod.ext ?_ (Bool.eq_iff_iff.mpr (h2.trans h2'.symm))
  by_cases h : GoesUp mode s V k
  · rw [hup h, hup' h]
  · rw [hdown h, hdown' h]

/-- What is cut off, in units of the last place kept, decides the direction. -/
theorem roundsUp_iff {mode k r u : Nat} {s more : Bool} {V : ℝ} (hm : mode < 4) (hu : 0 < u)
    (hV : if more then (r : ℝ) < (V - k) * u ∧ (V - k) * u < r + 1 ∧ 2 ∣ u else (V - k) * u = r) :
    roundsUp mode s (k % 2 == 1) r u more = true ↔ GoesUp mode s V k := by
  have hu' : (0 : ℝ) < u := by exact_mod_cast hu
  have hhalf : ((k : ℝ) + 1 / 2 < V) ↔ (u : ℝ) < 2 * ((V - k) * u) := by
    constructor <;> intro h <;> nlinarith
  have htie : V = (k : ℝ) + 1 / 2 ↔ 2 * ((V - k) * u) = u := by
    constructor
    · intro h; rw [h]; ring
    · intro h
      have := mul_right_cancel₀ hu'.ne' (show (2 * (V - k)) * u = 1 * u by linarith)
      linarith
  have hne : V ≠ (k : ℝ) ↔ (V - k) * u ≠ 0 := by
    rw [mul_ne_zero_iff, sub_ne_zero]
    exact ⟨fun h => ⟨h, hu'.ne'⟩, fun h => h.1⟩
  unfold GoesUp
  rw [hhalf, htie, hne]
  generalize (V - k) * u = W at hV
  cases more with
  | false =>
    rw [if_neg Bool.false_ne_true] at hV
    subst hV
    norm_cast
    interval_cases mode <;> cases s <;> simp [roundsUp]
  | true =>
    rw [if_pos rfl] at hV
    obtain ⟨h1, h2, c, rfl⟩ := hV
    have hW : W ≠ 0 := by
      have : (0 : ℝ) ≤ r := Nat.cast_nonneg r
      linarith
    have hlt : ((2 * c : ℕ) : ℝ) < 2 * W ↔ c ≤ r := by
      push_cast
      constructor
      · intro h
        have : (c : ℝ) < r + 1 := by linarith
        exact_mod_cast Nat.lt_succ_iff.mp (by exact_mod_cast this)
      · intro h
        have : (c : ℝ) ≤ r := by exact_mod_cast h
        linarith
    have heq : 2 * W ≠ ((2 * c : ℕ) : ℝ) := by
      push_cast
      intro h
      have ha : (r : ℝ) < c := by linarith
      have hb : (c : ℝ) < r + 1 := by linarith
      norm_cast at ha hb
      omega
    rw [hlt]
    simp only [heq, hW, ne_eq, not_false_eq_true, false_and, or_false, and_true]
    interval_cases mode <;> cases s <;> simp [roundsUp]
    all_goals omega

theorem quantise_nears {mode m : Nat} {s more : Bool} {e q : Int} {V : ℝ} (hm : mode < 4) (hV : Lies V m (e - q) more)
    (hq : more = true → e < q) : Nears mode s V (quantise mode s m e q more) := by
  unfold quantise
  split
  · next hle =>
    have hmore : more = false := by
      cases more
      · rfl
      · exact absurd (hq rfl) (not_lt.mpr hle)
    subst hmore
    have hV' : V = ((m * 2 ^ (e - q).toNat : ℕ) : ℝ) := by
      rw [show V = _ from hV]
      push_cast
      rw [← zpow_natCast, Int.toNat_of_nonneg (by omega)]
    refine ⟨m * 2 ^ (e - q).toNat, hV'.ge, by rw [hV']; exact lt_add_one _, by simp [hV'], fun h => ?_, fun _ => rfl⟩
    exfalso
    rcases h with ⟨-, h | h⟩ | ⟨-, h⟩
    · linarith
    · linarith
    · exact h hV'
  · next hlt =>
    rw [not_le] at hlt
    dsimp only
    have hu : (2 : ℝ) ^ (e - q) = (((2 ^ (q - e).toNat : ℕ)) : ℝ)⁻¹ := by
      push_cast
      rw [← zpow_natCast, Int.toNat_of_nonneg (by omega), ← zpow_neg]
      congr 1
      ring
    have h2 : 2 ∣ 2 ^ (q - e).toNat := dvd_pow_self 2 (by omega)
    have hpos : 0 < 2 ^ (q - e).toNat := by positivity
    generalize 2 ^ (q - e).toNat = u at hu h2 hpos
    have hu' : (0 : ℝ) < u := by exact_mod_cast hpos
    have hdm : (m : ℝ) = u * (m / u : ℕ) + (m % u : ℕ) := by exact_mod_cast (Nat.div_add_mod m u).symm
    have hr : ((m % u : ℕ) : ℝ) + 1 ≤ u := by exact_mod_cast Nat.mod_lt m hpos
    have hr0 : (0 : ℝ) ≤ ((m % u : ℕ) : ℝ) := Nat.cast_nonneg _
    generalize m / u = k at *
    generalize m % u = r at *
    have hcut : if more then (r : ℝ) < (V - k) * u ∧ (V - k) * u < r + 1 ∧ 2 ∣ u else (V - k) * u = r := by
      unfold Lies at hV
      rw [hu] at hV
      split at hV
      · next hmore =>
        rw [if_pos hmore]
        rw [← div_eq_mul_inv, ← div_eq_mul_inv, div_lt_iff₀ hu', lt_div_iff₀ hu'] at hV
        exact ⟨by linarith, by linarith, h2⟩
      · next hmore =>
        rw [if_neg hmore]
        rw [← div_eq_mul_inv, eq_div_iff hu'.ne'] at hV
        linarith
    have hcut0 : 0 ≤ (V - k) * u := by split at hcut <;> linarith
    have hcut1 : (V - k) * u < u := by split at hcut <;> linarith
    refine ⟨k, by nlinarith, by nlinarith, ?_, fun h => ?_, fun h => ?_⟩
    · have hne : V ≠ (k : ℝ) ↔ (V - k) * u ≠ 0 := by
        rw [mul_ne_zero_iff, sub_ne_zero]
        exact ⟨fun h => ⟨h, hu'.ne'⟩, fun h => h.1⟩
      rw [hne]
      split at hcut
      · next hmore => simp [hmore, (lt_of_le_of_lt hr0 hcut.1).ne']
      · next hmore => simp [hmore, hcut]
    · rw [if_pos ((roundsUp_iff hm hpos hcut).mpr h)]
    · rw [if_neg (fun h' => h ((roundsUp_iff hm hpos hcut).mp h'))]

/-- The integer beside `n` / `d` that the mode names (R46). -/
theorem nearInt_nears {mode : Nat} (s : Bool) (n : Nat) {d : Nat} (hm : mode < 4) (hd : 0 < d) :
    Nears mode s ((n : ℝ) / d) (nearInt mode s n d) := by
  have hd' : (0 : ℝ) < d := by exact_mod_cast hd
  have hdm : (n : ℝ) = d * (n / d : ℕ) + (n % d : ℕ) := by exact_mod_cast (Nat.div_add_mod n d).symm
  have hr : ((n % d : ℕ) : ℝ) + 1 ≤ d := by exact_mod_cast Nat.mod_lt n hd
  have hr0 : (0 : ℝ) ≤ ((n % d : ℕ) : ℝ) := Nat.cast_nonneg _
  have hcut : ((n : ℝ) / d - (n / d : ℕ)) * d = (n % d : ℕ) := by
    rw [sub_mul, div_mul_cancel₀ _ hd'.ne']
    linarith
  have hup := roundsUp_iff (k := n / d) (s := s) (more := false) hm hd hcut
  have hne : (n : ℝ) / d ≠ (n / d : ℕ) ↔ n % d ≠ 0 := by
    rw [← sub_ne_zero, ← Nat.cast_ne_zero (R := ℝ), ← hcut, mul_ne_zero_iff]
    exact ⟨fun h => ⟨h, hd'.ne'⟩, fun h => h.1⟩
  have hfst : (nearInt mode s n d).1 = if roundsUp mode s (n / d % 2 == 1) (n % d) d false then n / d + 1 else n / d := by
    unfold nearInt roundsUp
    interval_cases mode <;> simp
  refine ⟨n / d, by nlinarith, by nlinarith, by rw [hne]; exact decide_eq_true_iff, fun h => ?_, fun h => ?_⟩
  · rw [hfst, if_pos (hup.mpr h)]
  · rw [hfst, if_neg (fun h' => h (hup.mp h'))]

theorem Lies.scale {Y : ℝ} {m : Nat} {e : Int} {more : Bool} (h : Lies Y m e more) (q : Int) : Lies (Y / 2 ^ q) m (e - q) more := by
  have hq : (0 : ℝ) < 2 ^ q := by positivity
  unfold Lies at *
  rw [zpow_sub₀ two_ne_zero]
  split at h
  · next hmore =>
    rw [if_pos hmore, ← mul_div_assoc, ← mul_div_assoc]
    exact ⟨div_lt_div_of_pos_right h.1 hq, div_lt_div_of_pos_right h.2 hq⟩
  · next hmore => rw [if_neg hmore, h, mul_div_assoc]

theorem bitLen_pos {m : Nat} (h : m ≠ 0) : 0 < bitLen m := by unfold bitLen; rw [if_neg h]; omega
theorem lt_two_pow_bitLen (m : Nat) : m < 2 ^ bitLen m := by
  unfold bitLen
  split
  · next h => simp [h]
  · exact Nat.lt_log2_self
theorem two_pow_le_of_bitLen {m : Nat} (h : m ≠ 0) : 2 ^ (bitLen m - 1) ≤ m := by
  unfold bitLen
  rw [if_neg h, Nat.add_sub_cancel]
  exact Nat.log2_self_le h
theorem le_bitLen {m n : Nat} (h : 2 ^ n ≤ m) : n < bitLen m :=
  (Nat.pow_lt_pow_iff_right (by decide)).mp (lt_of_le_of_lt h (lt_two_pow_bitLen m))

/-- A magnitude lies in the binade below the exponent that follows its last bit. -/
theorem Lies.binade {Y : ℝ} {m : Nat} {e : Int} {more : Bool} (h : Lies Y m e more) (hm : m ≠ 0) :
    (2 : ℝ) ^ (e + bitLen m - 1) ≤ Y ∧ Y < 2 ^ (e + bitLen m) := by
  have hp : (0 : ℝ) < 2 ^ e := by positivity
  have hlo : ((2 : ℝ) ^ (bitLen m - 1)) ≤ m := by exact_mod_cast two_pow_le_of_bitLen hm
  have hhi : (m : ℝ) + 1 ≤ 2 ^ bitLen m := by exact_mod_cast lt_two_pow_bitLen m
  have e1 : (2 : ℝ) ^ (e + bitLen m - 1) = 2 ^ (bitLen m - 1) * 2 ^ e := by
    have := bitLen_pos hm
    rw [← zpow_natCast, ← zpow_add₀ two_ne_zero]
    congr 1
    omega
  have e2 : (2 : ℝ) ^ (e + bitLen m) = 2 ^ bitLen m * 2 ^ e := by
    rw [← zpow_natCast, ← zpow_add₀ two_ne_zero, add_comm]
  rw [e1, e2]
  unfold Lies at h
  split at h <;> constructor <;> nlinarith

/-- The magnitudes whose rounding with an unbounded exponent stays below the smallest normal magnitude (R47). -/
def Tiny (k : Fmt) (mode : Nat) (s : Bool) (Y : ℝ) : Prop :=
  if mode = 0 then 4 * Y < 4 * 2 ^ k.f - 1
  else if mode = 2 ∧ s = true ∨ mode = 3 ∧ s = false then 4 * Y ≤ 4 * 2 ^ k.f - 2 else 4 * Y < 4 * 2 ^ k.f

/-- In the last binade below the smallest normal magnitude, a rounding to f + 1 bits reaches it where the result is not tiny. -/
theorem Nears.reaches {k : Fmt} {mode : Nat} {s : Bool} {Y : ℝ} {r : Nat × Bool} (h : Nears mode s (2 * Y) r)
    (h1 : Y < 2 ^ k.f) : r.1 = 2 ^ (k.f + 1) ↔ ¬ Tiny k mode s Y := by
  obtain ⟨j, hj, hj', -, hup, hdown⟩ := h
  have hlt : j < 2 ^ (k.f + 1) := by
    have : (j : ℝ) < 2 ^ (k.f + 1) := by rw [pow_succ]; linarith
    exact_mod_cast this
  have hstep : r.1 = 2 ^ (k.f + 1) ↔ GoesUp mode s (2 * Y) j ∧ j + 1 = 2 ^ (k.f + 1) := by
    by_cases hg : GoesUp mode s (2 * Y) j
    · rw [hup hg]; simp [hg]
    · rw [hdown hg]; simp only [hg, false_and, iff_false]; omega
  rw [hstep]
  have hodd : j + 1 = 2 ^ (k.f + 1) → j % 2 = 1 := by rw [pow_succ]; omega
  have hlast : j + 1 = 2 ^ (k.f + 1) ↔ 2 * 2 ^ k.f - 1 ≤ 2 * Y := by
    constructor
    · intro h
      have : (j : ℝ) + 1 = 2 ^ (k.f + 1) := by exact_mod_cast h
      rw [pow_succ] at this
      linarith
    · intro h
      have : (2 : ℝ) ^ (k.f + 1) < j + 2 := by rw [pow_succ]; linarith
      have : 2 ^ (k.f + 1) < j + 2 := by exact_mod_cast this
      omega
  have hcast : j + 1 = 2 ^ (k.f + 1) → (j : ℝ) = 2 * 2 ^ k.f - 1 := by
    intro h
    have : (j : ℝ) + 1 = 2 ^ (k.f + 1) := by exact_mod_cast h
    rw [pow_succ] at this
    linarith
  unfold Tiny GoesUp
  by_cases hmode : mode = 0
  · rw [if_pos hmode, not_lt]
    constructor
    · rintro ⟨⟨-, h | ⟨h, -⟩⟩ | ⟨h, -⟩, he⟩
      · linarith [hcast he]
      · linarith [hcast he]
      · omega
    · intro h
      have he := hlast.mpr (by linarith)
      refine ⟨.inl ⟨hmode, ?_⟩, he⟩
      rcases lt_or_eq_of_le (show (j : ℝ) + 1 / 2 ≤ 2 * Y by linarith [hcast he]) with h | h
      · exact .inl h
      · exact .inr ⟨h.symm, hodd he⟩
  · rw [if_neg hmode]
    split
    · next hout =>
      rw [not_le]
      constructor
      · rintro ⟨⟨h, -⟩ | ⟨-, h⟩, he⟩
        · exact absurd h hmode
        · linarith [hcast he, lt_of_le_of_ne hj (Ne.symm h)]
      · intro h
        have he := hlast.mpr (by linarith)
        exact ⟨.inr ⟨hout, by have := hcast he; intro h'; linarith⟩, he⟩
    · next hin =>
      simp only [hmode, hin, false_and, or_false, false_iff, not_not]
      linarith

theorem natCast_pow_sub (f c : Nat) (hc : c ≤ 4) (hf : 2 ≤ f) : ((4 * 2 ^ f - c : ℕ) : ℝ) = 4 * 2 ^ f - c := by
  have := Nat.pow_le_pow_right (n := 2) (by decide) hf
  rw [Nat.cast_sub (by omega)]
  push_cast
  ring

/-- A magnitude cut at its place `q`: its bits from there up are `j`, at most f + 1 of them, and so many but at the smallest exponent. -/
structure Kept (k : Fmt) (Y : ℝ) (q j : Nat) : Prop where
  low : (j : ℝ) ≤ Y / 2 ^ q
  high : Y / 2 ^ q < j + 1
  lt : j < 2 ^ (k.f + 1)
  ge : q = 0 ∨ 2 ^ k.f ≤ j

/-- The place at which a magnitude of a binade is cut. -/
theorem Kept.of_binade {k : Fmt} {T : Int} {Y : ℝ} {q : Nat} (hq : (q : Int) = max (T - (k.f + 1)) 0) (hlo : (2 : ℝ) ^ (T - 1) ≤ Y)
    (hhi : Y < 2 ^ T) {j : Nat} (hj : (j : ℝ) ≤ Y / 2 ^ q) (hj' : Y / 2 ^ q < j + 1) : Kept k Y q j := by
  have hp : (0 : ℝ) < 2 ^ q := by positivity
  refine ⟨hj, hj', ?_, ?_⟩
  · have h : Y / 2 ^ q < 2 ^ (k.f + 1) := by
      rw [div_lt_iff₀ hp, ← pow_add, ← zpow_natCast]
      refine lt_of_lt_of_le hhi (zpow_le_zpow_right₀ one_le_two ?_)
      push_cast
      omega
    exact_mod_cast lt_of_le_of_lt hj h
  · rcases Nat.eq_zero_or_pos q with h0 | h0
    · exact .inl h0
    · right
      have h : (2 : ℝ) ^ k.f ≤ Y / 2 ^ q := by
        rw [le_div_iff₀ hp, ← pow_add, ← zpow_natCast]
        refine le_trans (zpow_le_zpow_right₀ one_le_two ?_) hlo
        push_cast
        omega
      have : (2 : ℝ) ^ k.f < j + 1 := lt_of_le_of_lt h hj'
      have : 2 ^ k.f < j + 1 := by exact_mod_cast this
      omega

/-- Which results the overflow of R47 gives. -/
theorem overflowed_eq {k : Fmt} (hk : k.Proper) {mode : Nat} (hm : mode < 4) (sat s : Bool) : overflowed k mode sat s =
    if (sat || !(decide (mode = 0) || (decide (mode = 2) && s || decide (mode = 3) && !s))) = true then k.sign s + k.maxFin
    else if k.inf = true then k.sign s + (k.maxFin + 1) else k.nan := by
  have hinf : k.infinity s = if k.inf = true then k.sign s + (k.maxFin + 1) else k.nan := by
    unfold Fmt.infinity
    split
    · next hi => rw [Fmt.maxFin_succ hk hi]
    · rfl
  rw [← hinf]
  unfold overflowed
  interval_cases mode <;> simp

theorem goesUp_iff (mode : Nat) (s : Bool) (V : ℝ) (j : Nat) :
    (!decide (compare (j : ℝ) V = .eq) && (decide (mode = 0) && (decide (compare ((j : ℝ) + 1 / 2) V = .lt) ||
      decide (compare ((j : ℝ) + 1 / 2) V = .eq) && decide (j % 2 = 1)) || (decide (mode = 2) && s || decide (mode = 3) && !s))) = true ↔
    GoesUp mode s V j := by
  unfold GoesUp
  have hne : (j : ℝ) + 1 / 2 ≤ V → (j : ℝ) ≠ V := fun h h' => by linarith
  simp only [Bool.and_eq_true, Bool.or_eq_true, Bool.not_eq_true', decide_eq_true_eq, decide_eq_false_iff_not, compare_eq_iff_eq,
    compare_lt_iff_lt]
  constructor
  · rintro ⟨hj, ⟨h0, h | ⟨h, ho⟩⟩ | h⟩
    · exact .inl ⟨h0, .inl h⟩
    · exact .inl ⟨h0, .inr ⟨h.symm, ho⟩⟩
    · exact .inr ⟨h, Ne.symm hj⟩
  · rintro (⟨h0, h | ⟨h, ho⟩⟩ | ⟨h, hj⟩)
    · exact ⟨hne h.le, .inl ⟨h0, .inl h⟩⟩
    · exact ⟨hne h.ge, .inl ⟨h0, .inr ⟨h.symm, ho⟩⟩⟩
    · exact ⟨Ne.symm hj, .inr h⟩

/-- The statement's test for a tiny result. -/
theorem tiny_iff {k : Fmt} (hk : k.Proper) (mode : Nat) (s : Bool) {Y : ℝ} {cmp : Nat → Ordering}
    (hcmp : ∀ h : Nat, cmp h = compare (h : ℝ) (4 * Y)) :
    (if mode = 0 then decide (cmp (4 * 2 ^ k.f - 1) = .gt) else if (decide (mode = 2) && s || decide (mode = 3) && !s) = true then
      decide (cmp (4 * 2 ^ k.f - 2) ≠ .lt) else decide (cmp (4 * 2 ^ k.f) = .gt)) = true ↔ Tiny k mode s Y := by
  have h1 := natCast_pow_sub k.f 1 (by decide) hk.f
  have h2 := natCast_pow_sub k.f 2 (by decide) hk.f
  push_cast at h1 h2
  unfold Tiny
  rw [hcmp, hcmp, hcmp, h1, h2]
  push_cast
  simp only [Bool.and_eq_true, Bool.or_eq_true, Bool.not_eq_true', decide_eq_true_eq]
  split
  · rw [decide_eq_true_iff, compare_gt_iff_gt]
  · split
    · rw [decide_eq_true_iff, ne_eq, compare_lt_iff_lt, not_lt]
    · rw [decide_eq_true_iff, compare_gt_iff_gt]

/-- The model's test for a tiny result: below the smallest normal magnitude, and not rounded to it with an unbounded exponent. -/
theorem tiny_of_binade {k : Fmt} {mode : Nat} {s : Bool} {Y : ℝ} {T : Int} {r : Nat × Bool} (hlo : (2 : ℝ) ^ (T - 1) ≤ Y)
    (hhi : Y < 2 ^ T) (hf : 2 ≤ k.f) (hr : T = k.f → Nears mode s (2 * Y) r) :
    T < k.f + 1 ∧ ¬ (T = k.f ∧ r.1 = 2 ^ (k.f + 1)) ↔ Tiny k mode s Y := by
  have h4 : (4 : ℝ) ≤ 2 ^ k.f := by exact_mod_cast Nat.pow_le_pow_right (n := 2) (by decide) hf
  rcases lt_trichotomy T k.f with hT | hT | hT
  · have hY : 2 * Y < 2 ^ k.f := by
      have : (2 : ℝ) ^ T ≤ 2 ^ ((k.f : Int) - 1) := zpow_le_zpow_right₀ one_le_two (by omega)
      rw [zpow_sub_one₀ two_ne_zero, zpow_natCast] at this
      linarith
    have ht : Tiny k mode s Y := by
      unfold Tiny
      split
      · linarith
      · split <;> linarith
    exact iff_of_true ⟨by omega, fun h => absurd h.1 hT.ne⟩ ht
  · rw [hT, zpow_natCast] at hhi
    have := (hr hT).reaches hhi
    simp only [hT, lt_add_one, true_and, this, not_not]
  · have hY : (2 : ℝ) ^ k.f ≤ Y := by
      rw [← zpow_natCast]
      exact le_trans (zpow_le_zpow_right₀ one_le_two (by omega)) hlo
    have ht : ¬ Tiny k mode s Y := by
      unfold Tiny
      split
      · linarith
      · split <;> linarith
    exact iff_of_false (by omega) ht

section
variable {k : Fmt} {Y : ℝ} {q j : Nat} (h : Kept k Y q j)
include h

/-- The pattern of what is kept, and the one after it, as multiples of the smallest subnormal. -/
theorem Kept.units : (k.units (q * 2 ^ k.f + j) : ℝ) = j * 2 ^ q ∧ (k.units (q * 2 ^ k.f + j + 1) : ℝ) = (j + 1) * 2 ^ q := by
  have h0 := k.units_code h.lt.le h.ge
  have h1 := k.units_code (q := q) (a := j + 1) h.lt (h.ge.imp_right (by omega))
  rw [← Nat.add_assoc] at h1
  exact ⟨by exact_mod_cast h0, by exact_mod_cast h1⟩

/-- The comparisons of the statement, at the place of the cut: with what is kept, with the next and with the middle of both. -/
theorem Kept.compares {cmp : Nat → Ordering} (hcmp : ∀ h : Nat, cmp h = compare (h : ℝ) (4 * Y)) :
    cmp (4 * k.units (q * 2 ^ k.f + j)) = compare (j : ℝ) (Y / 2 ^ q) ∧
    cmp (4 * k.units (q * 2 ^ k.f + j + 1)) = compare ((j : ℝ) + 1) (Y / 2 ^ q) ∧
    cmp (2 * (k.units (q * 2 ^ k.f + j) + k.units (q * 2 ^ k.f + j + 1))) = compare ((j : ℝ) + 1 / 2) (Y / 2 ^ q) := by
  obtain ⟨hu0, hu1⟩ := h.units
  have hscale : ∀ (x : Nat) (c : ℝ), (x : ℝ) = 4 * 2 ^ q * c → cmp x = compare c (Y / 2 ^ q) := fun x c hc => by
    have h4 : (0 : ℝ) < 4 * 2 ^ q := by positivity
    rw [hcmp, hc, show 4 * Y = 4 * 2 ^ q * (Y / 2 ^ q) by field_simp, ← cmp_eq_compare, cmp_mul_pos_left h4, cmp_eq_compare]
  refine ⟨hscale _ _ ?_, hscale _ _ ?_, hscale _ _ ?_⟩
  · push_cast
    rw [hu0]
    ring
  · push_cast
    rw [hu1]
    ring
  · push_cast
    rw [hu0, hu1]
    ring

/-- What is kept and what its rounding comes to make the rounded result of the statement. -/
theorem Kept.rounds (hk : k.Proper) {mode : Nat} (hm : mode < 4) (sat s : Bool) {cmp : Nat → Ordering}
    (hcmp : ∀ h : Nat, cmp h = compare (h : ℝ) (4 * Y)) {r : Nat × Bool} (hinexact : r.2 = true ↔ Y / 2 ^ q ≠ j)
    (hup : GoesUp mode s (Y / 2 ^ q) j → r.1 = j + 1) (hdown : ¬ GoesUp mode s (Y / 2 ^ q) j → r.1 = j) {tiny : Bool}
    (ht : tiny = true ↔ Tiny k mode s Y) :
    Rounds k mode sat s cmp (if k.maxFin < q * 2 ^ k.f + r.1 then (overflowed k mode sat s, excOverflow ||| excInexact)
      else (k.sign s + (q * 2 ^ k.f + r.1), (if r.2 then excInexact else 0) ||| (if tiny && r.2 then excUnderflow else 0))) := by
  obtain ⟨hfloor, hnext, hmiddle⟩ := h.compares hcmp
  have hodd : (q * 2 ^ k.f + j) % 2 = j % 2 := by
    obtain ⟨c, hc⟩ : 2 ∣ 2 ^ k.f := dvd_pow_self 2 (by have := hk.f; omega)
    rw [hc, Nat.mul_left_comm]
    omega
  have hexact : decide (compare (j : ℝ) (Y / 2 ^ q) = .eq) = !r.2 := by
    rw [Bool.eq_iff_iff, decide_eq_true_iff, compare_eq_iff_eq, Bool.not_eq_true', ← Bool.not_eq_true, hinexact, not_not, eq_comm]
  have hround : ∀ b : Bool, (b = true ↔ GoesUp mode s (Y / 2 ^ q) j) →
      (if b = true then q * 2 ^ k.f + j + 1 else q * 2 ^ k.f + j) = q * 2 ^ k.f + r.1 := by
    intro b hb
    split
    · next h => rw [hup (hb.mp h), Nat.add_assoc]
    · next h => rw [hdown (fun h' => h (hb.mpr h'))]
  refine ⟨q * 2 ^ k.f + j, ?_, ?_, ?_⟩
  · rw [hfloor, ne_eq, compare_gt_iff_gt]
    exact not_lt.mpr h.low
  · rw [hnext, compare_gt_iff_gt]
    exact h.high
  · rw [hfloor, hmiddle, hodd]
    dsimp only
    rw [hround _ (goesUp_iff mode s _ j), overflowed_eq hk hm, hexact,
      Bool.eq_iff_iff.mpr ((tiny_iff hk mode s hcmp).trans ht.symm)]
    split
    · rfl
    · congr 1
      cases r.2 <;> cases tiny <;> rfl

end

/-- The rounding to a format gives a nonzero value rounded once, with its exceptions (R46, R47, R49). -/
theorem roundFin_rounds_pos {k : Fmt} (hk : k.Proper) {mode : Nat} (hm : mode < 4) (sat s : Bool) {m : Nat} {e : Int} {more : Bool}
    {Y : ℝ} {cmp : Nat → Ordering} (hY : Lies Y m (e + k.depth) more) (hm0 : m ≠ 0) (hmore : more = true → 2 ^ (k.f + 2) ≤ m)
    (hcmp : ∀ h : Nat, cmp h = compare (h : ℝ) (4 * Y)) : Rounds k mode sat s cmp (roundFin k mode sat s m e more) := by
  have hf := hk.f
  have hb := hk.bias
  obtain ⟨hlo, hhi⟩ := hY.binade hm0
  have hdepth : (k.depth : Int) = k.bias + k.f - 1 := by unfold Fmt.depth; omega
  have hwide : more = true → k.f + 2 < bitLen m := fun h => le_bitLen (hmore h)
  unfold roundFin
  rw [if_neg (by simp [hm0])]
  dsimp only
  generalize hT : e + (k.depth : Int) + bitLen m = T at hlo hhi
  generalize hq : max (e + (bitLen m : Int) - (k.f + 1)) (1 - (k.bias : Int) - k.f) = q
  obtain ⟨qn, hqn⟩ : ∃ qn : Nat, (qn : Int) = q + k.depth := ⟨(q + k.depth).toNat, by omega⟩
  have hcode : (q + k.bias + k.f - 1).toNat = qn := by omega
  have hV : Lies (Y / 2 ^ qn) m (e - q) more := by
    have := hY.scale qn
    rwa [show e + k.depth - (qn : Int) = e - q by omega, zpow_natCast] at this
  obtain ⟨j, hj, hj', hinexact, hup, hdown⟩ := quantise_nears (s := s) hm hV (fun h => by have := hwide h; omega)
  have hfine : T = k.f → Nears mode s (2 * Y) (quantise mode s m e (e + bitLen m - (k.f + 1)) more) := fun h => by
    refine quantise_nears hm ?_ (fun h' => by have := hwide h'; omega)
    have := hY.scale (-1)
    rwa [zpow_neg_one, div_inv_eq_mul, mul_comm, show e + k.depth - -1 = e - (e + bitLen m - (k.f + 1)) by omega] at this
  have hbelow : e + (bitLen m : Int) < 1 - k.bias + 1 ↔ T < k.f + 1 := by omega
  have hlast : e + (bitLen m : Int) = 1 - k.bias ↔ T = k.f := by omega
  rw [hcode]
  refine (Kept.of_binade (by omega) hlo hhi hj hj').rounds hk hm sat s hcmp hinexact hup hdown ?_
  rw [← tiny_of_binade hlo hhi hf hfine, ← hbelow, ← hlast, Bool.and_eq_true, decide_eq_true_iff, Bool.not_eq_true', ← Bool.not_eq_true,
    Bool.and_eq_true, decide_eq_true_iff, decide_eq_true_iff]

theorem roundFin_rounds {k : Fmt} (hk : k.Proper) {mode : Nat} (hm : mode < 4) (sat s : Bool) {m : Nat} {e : Int} {more : Bool}
    {Y : ℝ} {cmp : Nat → Ordering} (hY : Lies Y m (e + k.depth) more) (hmore : more = true → 2 ^ (k.f + 2) ≤ m)
    (hcmp : ∀ h : Nat, cmp h = compare (h : ℝ) (4 * Y)) : Rounds k mode sat s cmp (roundFin k mode sat s m e more) := by
  by_cases hz : m = 0
  · subst hz
    cases more with
    | true => exact absurd (hmore rfl) (by simp)
    | false =>
      have hY0 : Y = 0 := by simpa [Lies] using hY
      subst hY0
      have h1 : k.units 1 = 1 := by
        have h2 : 1 / 2 ^ k.f = 0 := Nat.div_eq_of_lt (by have := Nat.pow_le_pow_right (n := 2) (by decide) hk.f; omega)
        simp [Fmt.units, h2]
      have hzero : cmp 0 = .eq := by rw [hcmp]; simp
      unfold roundFin
      refine ⟨0, ?_, ?_, ?_⟩
      · rw [k.units_zero, hzero]; decide
      · rw [hcmp, h1, compare_gt_iff_gt]; norm_num
      · simp [hzero]
  · exact roundFin_rounds_pos hk hm sat s hY hz hmore hcmp

end Sys2Proof.Machine
end

section
/-! PROOFS. Values: the exact sums and products and the sufficiently exact quotients and roots that are rounded (R46, R122). -/

namespace Sys2Proof.Machine

/-! ### Finite values -/

/-- An exact finite value: its sign and its magnitude. -/
def Num.Is (v : Num) (s : Bool) (X : ℝ) : Prop := ∃ (m : Nat) (e : Int), v = .fin s m e false ∧ X = m * 2 ^ e

/-- A finite value known exactly, or to 32 bits and that something follows them. -/
def Num.Near (v : Num) (s : Bool) (X : ℝ) : Prop :=
  ∃ (m : Nat) (e : Int) (more : Bool), v = .fin s m e more ∧ Lies X m e more ∧ (more = true → 2 ^ 32 ≤ m)

theorem Fmt.one_eq (k : Fmt) : (k.one : ℝ) = 2 ^ (k.depth : Int) := by
  rw [zpow_natCast]
  exact_mod_cast rfl
theorem Fmt.one_pos (k : Fmt) : 0 < k.one := by unfold Fmt.one; positivity
theorem Fmt.one_pos' (k : Fmt) : (0 : ℝ) < k.one := by exact_mod_cast k.one_pos

/-- A finite pattern has the value of its units (R41). -/
theorem unpack_is {k : Fmt} (hk : k.Proper) {x : Nat} (h : k.isFin x) : (unpack k x).Is (k.neg x) (k.units (k.mag x) / k.one) := by
  refine ⟨_, _, unpack_fin hk h, ?_⟩
  rw [k.units_eq, k.one_eq, zpow_sub₀ two_ne_zero, zpow_natCast, zpow_natCast]
  push_cast
  rw [mul_div_assoc]

/-- The magnitude n / d of the statements. -/
theorem Num.mag_iff_is {v : Num} {s : Bool} {n d : Nat} (hd : 0 < d) : v.Mag s n d ↔ v.Is s ((n : ℝ) / d) := by
  have hd' : (d : ℝ) ≠ 0 := by exact_mod_cast hd.ne'
  unfold Num.Mag Num.Is
  refine exists_congr fun m => exists_congr fun e => and_congr_right fun _ => ?_
  have he : (2 : ℝ) ^ e = 2 ^ e.toNat / 2 ^ (-e).toNat := by
    rw [← zpow_natCast, ← zpow_natCast, ← zpow_sub₀ two_ne_zero]
    congr 1
    omega
  rw [he, ← mul_div_assoc, div_eq_div_iff hd' (by positivity), eq_comm]
  exact_mod_cast Iff.rfl

/-! ### Comparisons as the statements make them -/

theorem compare_natCast (a b : Nat) : compare a b = compare (a : ℝ) (b : ℝ) := by
  rw [← cmp_eq_compare, ← cmp_eq_compare, Nat.strictMono_cast.cmp_map_eq]

/-- Both sides multiplied by a denominator. -/
theorem compare_cross {a b d : Nat} (hd : 0 < d) : compare (a * d) b = compare (a : ℝ) ((b : ℝ) / d) := by
  have hd' : (0 : ℝ) < d := by exact_mod_cast hd
  rw [compare_natCast, show ((b : ℝ)) = (b : ℝ) / d * d by field_simp, Nat.cast_mul, ← cmp_eq_compare, cmp_mul_pos_right hd',
    cmp_eq_compare, div_mul_cancel₀ _ hd'.ne']

/-! ### Rounded values -/

/-- A magnitude known exactly, or to f + 2 bits and that something follows them, is rounded once. -/
theorem roundNum_lies {k : Fmt} (hk : k.Proper) {mode : Nat} (hm : mode < 4) (sat s : Bool) {m : Nat} {e : Int} {more : Bool} {X : ℝ}
    {cmp : Nat → Ordering} (hX : Lies X m e more) (hmore : more = true → 2 ^ (k.f + 2) ≤ m)
    (hcmp : ∀ h : Nat, cmp h = compare (h : ℝ) (4 * (X * k.one))) :
    Rounds k mode sat s cmp (roundNum k mode sat (.fin s m e more)) := by
  refine roundFin_rounds hk hm sat s ?_ hmore hcmp
  have := hX.scale (-(k.depth : Int))
  rwa [zpow_neg, div_inv_eq_mul, ← k.one_eq, sub_neg_eq_add] at this

theorem roundNum_near {k : Fmt} (hk : k.Proper) {mode : Nat} (hm : mode < 4) (sat : Bool) {v : Num} {s : Bool} {X : ℝ}
    {cmp : Nat → Ordering} (hv : v.Near s X) (hf : k.f ≤ 30) (hcmp : ∀ h : Nat, cmp h = compare (h : ℝ) (4 * (X * k.one))) :
    Rounds k mode sat s cmp (roundNum k mode sat v) := by
  obtain ⟨m, e, more, rfl, hX, hmore⟩ := hv
  exact roundNum_lies hk hm sat s hX (fun h => le_trans (Nat.pow_le_pow_right (by decide) (by omega)) (hmore h)) hcmp

theorem roundNum_is {k : Fmt} (hk : k.Proper) {mode : Nat} (hm : mode < 4) (sat : Bool) {v : Num} {s : Bool} {X : ℝ}
    {cmp : Nat → Ordering} (hv : v.Is s X) (hcmp : ∀ h : Nat, cmp h = compare (h : ℝ) (4 * (X * k.one))) :
    Rounds k mode sat s cmp (roundNum k mode sat v) := by
  obtain ⟨m, e, rfl, hX⟩ := hv
  exact roundNum_lies (more := false) hk hm sat s hX (fun h => absurd h Bool.false_ne_true) hcmp

/-! ### Exact arithmetic -/

theorem mulNum_is {v w : Num} {s t : Bool} {X Y : ℝ} (hv : v.Is s X) (hw : w.Is t Y) :
    (mulNum v w).1.Is (s != t) (X * Y) ∧ (mulNum v w).2 = 0 := by
  obtain ⟨m, e, rfl, rfl⟩ := hv
  obtain ⟨n, g, rfl, rfl⟩ := hw
  refine ⟨⟨m * n, e + g, rfl, ?_⟩, rfl⟩
  rw [zpow_add₀ two_ne_zero]
  push_cast
  ring

theorem divNum_fin (s t : Bool) (m : Nat) {n : Nat} (e g : Int) (a b : Bool) (hn : n ≠ 0) :
    divNum (.fin s m e a) (.fin t n g b) = (.fin (s != t) (m * 2 ^ (bitLen n + 40) / n) (e - g - (bitLen n + 40 : ℕ))
      (decide (m * 2 ^ (bitLen n + 40) % n ≠ 0)), 0) := if_neg hn

theorem divNum_near {v w : Num} {s t : Bool} {X Y : ℝ} (hv : v.Is s X) (hw : w.Is t Y) (hY : Y ≠ 0) :
    (divNum v w).1.Near (s != t) (X / Y) ∧ (divNum v w).2 = 0 := by
  obtain ⟨m, e, rfl, rfl⟩ := hv
  obtain ⟨n, g, rfl, rfl⟩ := hw
  have hn : n ≠ 0 := by rintro rfl; simp at hY
  have hn' : (0 : ℝ) < n := by exact_mod_cast Nat.pos_of_ne_zero hn
  rw [divNum_fin _ _ _ _ _ _ _ hn]
  refine ⟨⟨_, _, _, rfl, ?_, fun h => ?_⟩, rfl⟩
  · generalize bitLen n + 40 = j
    have hdm : ((m * 2 ^ j : ℕ) : ℝ) = n * (m * 2 ^ j / n : ℕ) + (m * 2 ^ j % n : ℕ) := by exact_mod_cast (Nat.div_add_mod _ n).symm
    have hlt : ((m * 2 ^ j % n : ℕ) : ℝ) < n := by exact_mod_cast Nat.mod_lt _ (Nat.pos_of_ne_zero hn)
    have hX : (m : ℝ) * 2 ^ e / (n * 2 ^ g) = ((m * 2 ^ j / n : ℕ) + ((m * 2 ^ j % n : ℕ) : ℝ) / n) * 2 ^ (e - g - (j : ℕ)) := by
      rw [zpow_sub₀ two_ne_zero, zpow_sub₀ two_ne_zero, zpow_natCast]
      push_cast at hdm
      field_simp
      linarith
    have hp : (0 : ℝ) < 2 ^ (e - g - (j : ℕ)) := by positivity
    rw [hX]
    unfold Lies
    split
    · next h =>
      have h0 : (0 : ℝ) < (m * 2 ^ j % n : ℕ) := by exact_mod_cast Nat.pos_of_ne_zero (of_decide_eq_true h)
      have h1 : ((m * 2 ^ j % n : ℕ) : ℝ) / n < 1 := (div_lt_one hn').mpr hlt
      have h2 : 0 < ((m * 2 ^ j % n : ℕ) : ℝ) / n := by positivity
      constructor <;> gcongr
      linarith
    · next h =>
      have h0 : m * 2 ^ j % n = 0 := by simpa using h
      rw [h0]
      simp
  · have hm : m ≠ 0 := by rintro rfl; simp at h
    rw [Nat.le_div_iff_mul_le (Nat.pos_of_ne_zero hn), pow_add]
    calc 2 ^ 32 * n ≤ 2 ^ 40 * 2 ^ bitLen n := Nat.mul_le_mul (by decide) (lt_two_pow_bitLen n).le
      _ = 1 * (2 ^ bitLen n * 2 ^ 40) := by ring
      _ ≤ m * (2 ^ bitLen n * 2 ^ 40) := Nat.mul_le_mul_right _ (Nat.pos_of_ne_zero hm)

/-- A magnitude with its sign. -/
noncomputable def withSign (s : Bool) (X : ℝ) : ℝ := if s then -X else X

theorem scaleTo_cast {s : Bool} {m : Nat} {e g : Int} (h : g ≤ e) : (scaleTo s m e g : ℝ) * 2 ^ g = withSign s (m * 2 ^ e) := by
  have he : (2 : ℝ) ^ e = 2 ^ (e - g).toNat * 2 ^ g := by
    rw [← zpow_natCast, ← zpow_add₀ two_ne_zero]
    congr 1
    omega
  unfold scaleTo withSign
  rw [he]
  cases s <;> simp <;> ring

theorem ofInt_is (z : Bool) (x e : Int) : (ofInt z x e).Is (if x = 0 then z else decide (x < 0)) (|(x : ℝ)| * 2 ^ e) := by
  unfold ofInt
  split
  · next h => exact ⟨0, e, rfl, by simp [h]⟩
  · exact ⟨x.natAbs, e, rfl, by rw [Nat.cast_natAbs, Int.cast_abs]⟩

/-- A sum of finite values is exact; a zero sum has the sign of both, or is -0 in RD (R46). -/
theorem addNum_is {mode : Nat} {v w : Num} {s t : Bool} {X Y : ℝ} (hv : v.Is s X) (hw : w.Is t Y) :
    ∃ z : Bool, (addNum mode v w).1.Is z |withSign s X + withSign t Y| ∧ (addNum mode v w).2 = 0 ∧
      (withSign s X + withSign t Y = 0 → z = if s = t then s else mode == 2) ∧
      (withSign s X + withSign t Y ≠ 0 → (z = true ↔ withSign s X + withSign t Y < 0)) := by
  obtain ⟨m, e, rfl, rfl⟩ := hv
  obtain ⟨n, g, rfl, rfl⟩ := hw
  have h1 := scaleTo_cast (s := s) (m := m) (min_le_left e g)
  have h2 := scaleTo_cast (s := t) (m := n) (min_le_right e g)
  have hp : (0 : ℝ) < 2 ^ min e g := by positivity
  have hadd : addNum mode (.fin s m e false) (.fin t n g false) =
    (ofInt (if s = t then s else mode == 2) (scaleTo s m e (min e g) + scaleTo t n g (min e g)) (min e g), 0) := rfl
  rw [← h1, ← h2, ← add_mul, ← Int.cast_add, hadd]
  generalize scaleTo s m e (min e g) + scaleTo t n g (min e g) = x
  refine ⟨if x = 0 then if s = t then s else mode == 2 else decide (x < 0), ?_, rfl, ?_, ?_⟩
  · rw [abs_mul, abs_of_pos hp]
    exact ofInt_is _ _ _
  · intro h
    have h0 : x = 0 := by
      have := (mul_eq_zero.mp h).resolve_right hp.ne'
      exact_mod_cast this
    rw [if_pos h0]
  · intro h
    have h0 : x ≠ 0 := by
      rintro h'
      simp [h'] at h
    rw [if_neg h0, decide_eq_true_iff, mul_neg_iff]
    simp only [hp, hp.not_gt, and_true, and_false, false_or]
    exact_mod_cast Iff.rfl

/-! ### Square roots (R122) -/

theorem isqrtGo_spec (n : Nat) : ∀ b r : Nat, r * r ≤ n → n < (r + 2 ^ b) * (r + 2 ^ b) →
    isqrtGo n b r * isqrtGo n b r ≤ n ∧ n < (isqrtGo n b r + 1) * (isqrtGo n b r + 1)
  | 0, r, h, h' => ⟨h, by simpa [isqrtGo] using h'⟩
  | b + 1, r, h, h' => by
    rw [isqrtGo]
    split
    · next hle =>
      refine isqrtGo_spec n b _ hle ?_
      rwa [Nat.add_assoc, ← two_mul, ← pow_succ']
    · next hgt => exact isqrtGo_spec n b _ h (not_le.mp hgt)

theorem isqrt_spec {n : Nat} (h : n < 2 ^ 128) : isqrt n * isqrt n ≤ n ∧ n < (isqrt n + 1) * (isqrt n + 1) :=
  isqrtGo_spec n 64 0 (Nat.zero_le _) (by rw [Nat.zero_add, ← pow_add]; exact h)

theorem sqrtNum_near {m : Nat} {e : Int} (h0 : m ≠ 0) (h1 : m < 2 ^ 63) :
    (sqrtNum (.fin false m e false)).1.Near false √((m : ℝ) * 2 ^ e) ∧ (sqrtNum (.fin false m e false)).2 = 0 := by
  obtain ⟨j, g, hj, hj0, hj1, heq⟩ : ∃ (j : Nat) (g : Int), e - j = 2 * g ∧ 64 ≤ j ∧ j ≤ 65 ∧
      sqrtNum (.fin false m e false) =
        (.fin false (isqrt (m * 2 ^ j)) g (decide (isqrt (m * 2 ^ j) * isqrt (m * 2 ^ j) ≠ m * 2 ^ j)), 0) := by
    unfold sqrtNum
    dsimp only
    rw [if_neg h0, if_neg Bool.false_ne_true]
    by_cases he : e % 2 = 0
    · refine ⟨64, (e - 64) / 2, by push_cast; omega, by decide, by decide, ?_⟩
      simp [he]
    · refine ⟨65, (e - 65) / 2, by push_cast; omega, by decide, by decide, ?_⟩
      simp [he]
  have hn : m * 2 ^ j < 2 ^ 128 := by
    calc m * 2 ^ j < 2 ^ 63 * 2 ^ j := Nat.mul_lt_mul_of_pos_right h1 (by positivity)
      _ ≤ 2 ^ 63 * 2 ^ 65 := Nat.mul_le_mul_left _ (Nat.pow_le_pow_right (by decide) hj1)
  have hn0 : 2 ^ 64 ≤ m * 2 ^ j := by
    calc 2 ^ 64 = 1 * 2 ^ 64 := by ring
      _ ≤ m * 2 ^ j := Nat.mul_le_mul (Nat.pos_of_ne_zero h0) (Nat.pow_le_pow_right (by decide) hj0)
  have hX : √((m : ℝ) * 2 ^ e) = √((m * 2 ^ j : ℕ) : ℝ) * 2 ^ g := by
    have hp : (0 : ℝ) ≤ 2 ^ g := by positivity
    rw [show (m : ℝ) * 2 ^ e = ((m * 2 ^ j : ℕ) : ℝ) * (2 ^ g * 2 ^ g) by
      push_cast
      rw [mul_assoc, ← zpow_natCast, ← zpow_add₀ two_ne_zero, ← zpow_add₀ two_ne_zero]
      congr 2
      omega, Real.sqrt_mul (Nat.cast_nonneg _), Real.sqrt_mul_self hp]
  obtain ⟨hle, hlt⟩ := isqrt_spec hn
  rw [heq, hX]
  generalize m * 2 ^ j = n at *
  generalize isqrt n = r at *
  have hp : (0 : ℝ) < 2 ^ g := by positivity
  have hlow : (r : ℝ) ≤ √(n : ℝ) := Real.le_sqrt_of_sq_le (by rw [sq]; exact_mod_cast hle)
  have hhigh : √(n : ℝ) < r + 1 := (Real.sqrt_lt' (by positivity)).mpr (by rw [sq]; exact_mod_cast hlt)
  refine ⟨⟨_, _, _, rfl, ?_, fun _ => ?_⟩, rfl⟩
  · unfold Lies
    split
    · next h =>
      refine ⟨mul_lt_mul_of_pos_right (lt_of_le_of_ne hlow fun h' => of_decide_eq_true h ?_) hp, mul_lt_mul_of_pos_right hhigh hp⟩
      have := Real.mul_self_sqrt (Nat.cast_nonneg (α := ℝ) n)
      rw [← h'] at this
      exact_mod_cast this
    · next h =>
      have h' : r * r = n := by simpa using h
      rw [← h', Nat.cast_mul, Real.sqrt_mul_self (Nat.cast_nonneg _)]
  · by_contra hr
    have hr' : r + 1 ≤ 2 ^ 32 := by omega
    have := Nat.mul_le_mul hr' hr'
    omega

end Sys2Proof.Machine
end

section
/-! PROOFS. The operations on bit patterns (R46 to R50): finite operands, then NaNs and infinities. -/

namespace Sys2Proof.Machine

/-! ### The formats of the operations -/

/-- FP32, FP16 and BF16: proper formats with an infinity. -/
theorem wide_format {k : Fmt} (h : k ∈ [fp32, fp16, bf16]) : k.Proper ∧ k.inf = true ∧ k.f ≤ 30 := by
  simp only [List.mem_cons, List.not_mem_nil, or_false] at h
  rcases h with rfl | rfl | rfl
  · exact ⟨proper_fp32, rfl, by decide⟩
  · exact ⟨proper_fp16, rfl, by decide⟩
  · exact ⟨proper_bf16, rfl, by decide⟩

theorem any_format {k : Fmt} (h : k ∈ [fp32, fp16, bf16, f8a, f8b, fa40]) : k.Proper := by
  simp only [List.mem_cons, List.not_mem_nil, or_false] at h
  rcases h with rfl | rfl | rfl | rfl | rfl | rfl
  exacts [proper_fp32, proper_fp16, proper_bf16, proper_f8a, proper_f8b, proper_fa40]

theorem Fmt.infinity_eq {k : Fmt} (hk : k.Proper) (hi : k.inf = true) (s : Bool) : k.infinity s = k.sign s + (k.maxFin + 1) := by
  unfold Fmt.infinity
  rw [if_pos hi, Fmt.maxFin_succ hk hi]

/-! ### Operations on finite operands -/

theorem exc_zero_or (e : Exc) : (0 : Exc) ||| e = e := BitVec.zero_or
theorem exc_or_zero (e : Exc) : e ||| (0 : Exc) = e := BitVec.or_zero
theorem calm_pair (o : Nat × Exc) : (o.1, (0 : Exc) ||| o.2) = o := by rw [exc_zero_or]

theorem withSign_not (s : Bool) (X : ℝ) : withSign (!s) X = -withSign s X := by cases s <;> simp [withSign]
theorem withSign_xor (s t : Bool) (X Y : ℝ) : withSign (s != t) (X * Y) = withSign s X * withSign t Y := by
  cases s <;> cases t <;> simp [withSign]

theorem Num.Is.neg {v : Num} {s : Bool} {X : ℝ} (h : v.Is s X) : v.neg.Is (!s) X := by
  obtain ⟨m, e, rfl, rfl⟩ := h
  exact ⟨m, e, rfl, rfl⟩

theorem Fmt.val_cast (k : Fmt) (x : Nat) : (k.val x : ℝ) / k.one = withSign (k.neg x) (k.units (k.mag x) / k.one) := by
  unfold Fmt.val withSign
  split <;> simp [neg_div]

/-- A sum of finite values, known as the integer `v` over `unit`, is rounded once (R46). -/
theorem addNum_rounds {k : Fmt} (hk : k.Proper) {mode : Nat} (hm : mode < 4) (sat : Bool) {a b : Num} {s t : Bool} {X Y : ℝ}
    (ha : a.Is s X) (hb : b.Is t Y) {v : Int} {unit : Nat} (hu : 0 < unit)
    (hv : (v : ℝ) = (withSign s X + withSign t Y) * k.one * unit) :
    Rounds k mode sat (if v = 0 then if s = t then s else decide (mode = 2) else decide (v < 0))
      (fun h => compare (h * unit) (4 * v.natAbs)) (roundNum k mode sat (addNum mode a b).1) := by
  obtain ⟨z, hz, -, hzero, hsign⟩ := addNum_is (mode := mode) ha hb
  have hone := k.one_pos'
  have hu' : (0 : ℝ) < unit := by exact_mod_cast hu
  have hv0 : v = 0 ↔ withSign s X + withSign t Y = 0 := by
    rw [← Int.cast_eq_zero (α := ℝ), hv]
    simp [hone.ne', hu'.ne']
  have hvneg : v < 0 ↔ withSign s X + withSign t Y < 0 := by
    rw [← Int.cast_lt_zero (R := ℝ), hv, mul_assoc, mul_neg_iff]
    have : (0 : ℝ) < k.one * unit := by positivity
    simp [this, this.not_gt]
  have hz' : z = if v = 0 then if s = t then s else decide (mode = 2) else decide (v < 0) := by
    split
    · next h => exact hzero (hv0.mp h)
    · next h => rw [Bool.eq_iff_iff, decide_eq_true_iff, hvneg, hsign (fun h' => h (hv0.mpr h'))]
  rw [← hz']
  refine roundNum_is hk hm sat hz fun h => ?_
  rw [compare_cross hu]
  congr 1
  push_cast [Nat.cast_natAbs]
  rw [hv, abs_mul, abs_mul, abs_of_pos hone, abs_of_pos hu']
  field_simp

variable {k : Fmt} {mode x y d : Nat}

theorem fpAdd_rounds (hk : k.Proper) (hm : mode < 4) (sat : Bool) (hx : k.isFin x) (hy : k.isFin y) :
    Rounds k mode sat (if k.val x + k.val y = 0 then if k.neg x = k.neg y then k.neg x else decide (mode = 2)
      else decide (k.val x + k.val y < 0)) (fun h => compare (h * 1) (4 * (k.val x + k.val y).natAbs)) (fpAdd k mode sat x y) := by
  have ha := unpack_is hk hx
  have hb := unpack_is hk hy
  have hone := k.one_pos'
  obtain ⟨z, -, he, -⟩ := addNum_is (mode := mode) ha hb
  unfold fpAdd
  dsimp only
  rw [he, calm_pair]
  refine addNum_rounds hk hm sat ha hb Nat.one_pos ?_
  rw [← k.val_cast, ← k.val_cast]
  push_cast
  field_simp

theorem fpSub_rounds (hk : k.Proper) (hm : mode < 4) (sat : Bool) (hx : k.isFin x) (hy : k.isFin y) :
    Rounds k mode sat (if k.val x - k.val y = 0 then if k.neg x = !k.neg y then k.neg x else decide (mode = 2)
      else decide (k.val x - k.val y < 0)) (fun h => compare (h * 1) (4 * (k.val x - k.val y).natAbs)) (fpSub k mode sat x y) := by
  have ha := unpack_is hk hx
  have hb := (unpack_is hk hy).neg
  have hone := k.one_pos'
  obtain ⟨z, -, he, -⟩ := addNum_is (mode := mode) ha hb
  unfold fpSub
  dsimp only
  rw [he, calm_pair]
  refine addNum_rounds hk hm sat ha hb Nat.one_pos ?_
  rw [withSign_not, ← k.val_cast, ← k.val_cast]
  push_cast
  field_simp
  ring

theorem fpMul_rounds (hk : k.Proper) (hm : mode < 4) (sat : Bool) (hx : k.isFin x) (hy : k.isFin y) :
    Rounds k mode sat (k.neg x != k.neg y) (fun h => compare (h * k.one) (4 * (k.units (k.mag x) * k.units (k.mag y))))
      (fpMul k mode sat x y) := by
  obtain ⟨hp, he⟩ := mulNum_is (unpack_is hk hx) (unpack_is hk hy)
  have hone := k.one_pos'
  unfold fpMul
  dsimp only
  rw [he, calm_pair]
  refine roundNum_is hk hm sat hp fun h => ?_
  rw [compare_cross k.one_pos]
  congr 1
  push_cast
  field_simp

theorem fpDiv_rounds (hk : k.Proper) (hf : k.f ≤ 30) (hm : mode < 4) (sat : Bool) (hx : k.isFin x) (hy : k.isFin y)
    (h0 : k.units (k.mag y) ≠ 0) :
    Rounds k mode sat (k.neg x != k.neg y) (fun h => compare (h * k.units (k.mag y)) (4 * (k.units (k.mag x) * k.one)))
      (fpDiv k mode sat x y) := by
  have hone := k.one_pos'
  have hy0 : (0 : ℝ) < k.units (k.mag y) := by exact_mod_cast Nat.pos_of_ne_zero h0
  obtain ⟨hp, he⟩ := divNum_near (unpack_is hk hx) (unpack_is hk hy) (by positivity)
  unfold fpDiv
  dsimp only
  rw [he, calm_pair]
  refine roundNum_near hk hm sat hp hf fun h => ?_
  rw [compare_cross (Nat.pos_of_ne_zero h0)]
  congr 1
  push_cast
  field_simp

theorem fpFma_rounds (hk : k.Proper) (hm : mode < 4) (sat : Bool) (hx : k.isFin x) (hy : k.isFin y) (hd : k.isFin d) (n : Bool) :
    let v := k.val d * k.one + (if n then -(k.val x * k.val y) else k.val x * k.val y)
    Rounds k mode sat (if v = 0 then if k.neg d = (n != (k.neg x != k.neg y)) then k.neg d else decide (mode = 2) else decide (v < 0))
      (fun h => compare (h * k.one) (4 * v.natAbs)) (fpFma k mode sat n d x y) := by
  obtain ⟨hp, he⟩ := mulNum_is (unpack_is hk hx) (unpack_is hk hy)
  have hone := k.one_pos'
  have hq : (if n then (mulNum (unpack k x) (unpack k y)).1.neg else (mulNum (unpack k x) (unpack k y)).1).Is (n != (k.neg x != k.neg y))
      (k.units (k.mag x) / k.one * (k.units (k.mag y) / k.one)) := by
    cases n
    · simpa using hp
    · simpa using hp.neg
  have ha := unpack_is hk hd
  obtain ⟨z, -, he', -⟩ := addNum_is (mode := mode) ha hq
  unfold fpFma
  dsimp only
  rw [he, he', exc_zero_or, calm_pair]
  refine addNum_rounds hk hm sat ha hq k.one_pos ?_
  have hw : withSign (n != (k.neg x != k.neg y)) (k.units (k.mag x) / k.one * (k.units (k.mag y) / k.one)) =
      (if n then -1 else 1) * ((k.val x : ℝ) / k.one * (k.val y / k.one)) := by
    rw [k.val_cast, k.val_cast, ← withSign_xor]
    cases n <;> simp [withSign_not]
  rw [hw, ← k.val_cast]
  push_cast
  cases n <;> field_simp <;> simp

/-! ### Operations with a NaN or an infinity -/

/-- What an operation gives of its exact result: rounded, and with the exceptions of both. -/
def rounded (k : Fmt) (mode : Nat) (sat : Bool) (r : Num × Exc) : Nat × Exc :=
  ((roundNum k mode sat r.1).1, r.2 ||| (roundNum k mode sat r.1).2)

section
variable (k : Fmt) (mode : Nat) (sat : Bool) (x y : Nat)

theorem fpAdd_eq : fpAdd k mode sat x y = rounded k mode sat (addNum mode (unpack k x) (unpack k y)) := rfl
theorem fpSub_eq : fpSub k mode sat x y = rounded k mode sat (addNum mode (unpack k x) (unpack k y).neg) := rfl
theorem fpMul_eq : fpMul k mode sat x y = rounded k mode sat (mulNum (unpack k x) (unpack k y)) := rfl
theorem fpDiv_eq : fpDiv k mode sat x y = rounded k mode sat (divNum (unpack k x) (unpack k y)) := rfl
theorem fpSqrt_eq : fpSqrt k mode sat x = rounded k mode sat (sqrtNum (unpack k x)) := rfl
theorem fpFma_eq (n : Bool) (d : Nat) : fpFma k mode sat n d x y = rounded k mode sat
    ((addNum mode (unpack k d) (if n then (mulNum (unpack k x) (unpack k y)).1.neg else (mulNum (unpack k x) (unpack k y)).1)).1,
      (mulNum (unpack k x) (unpack k y)).2 |||
      (addNum mode (unpack k d) (if n then (mulNum (unpack k x) (unpack k y)).1.neg else (mulNum (unpack k x) (unpack k y)).1)).2) := rfl

theorem rounded_nan (e : Exc) : rounded k mode sat (.nan, e) = (k.nan, e) := by
  unfold rounded roundNum
  rw [exc_or_zero]

theorem rounded_zero (s : Bool) (e : Int) : rounded k mode sat (.fin s 0 e false, 0) = (k.sign s, 0) := by
  unfold rounded roundNum roundFin
  simp

end

theorem rounded_inf {k : Fmt} (hk : k.Proper) (hi : k.inf = true) (mode : Nat) (sat s : Bool) (e : Exc) :
    rounded k mode sat (.inf s, e) = (k.sign s + (k.maxFin + 1), e) := by
  rw [← Fmt.infinity_eq hk hi, rounded]
  exact congrArg (Prod.mk _) (exc_or_zero e)

theorem addNum_nan (mode : Nat) (v : Num) : addNum mode v .nan = (.nan, excInvalid) := by cases v <;> rfl
theorem mulNum_nan (v : Num) : mulNum v .nan = (.nan, excInvalid) := by cases v <;> rfl
theorem divNum_nan (v : Num) : divNum v .nan = (.nan, excInvalid) := by cases v <;> rfl
theorem addNum_nan_left (mode : Nat) (v : Num) : addNum mode .nan v = (.nan, excInvalid) := rfl

/-- Infinities of one sign add up, those of two do not (R49). -/
theorem addNum_inf_inf (mode : Nat) (s t : Bool) :
    addNum mode (.inf s) (.inf t) = if s = t then (.inf s, 0) else (.nan, excInvalid) := rfl

/-- The exceptions of a product are those of its invalid operands. -/
theorem mulNum_exc (v w : Num) : (mulNum v w).2 = 0 ∨ (mulNum v w).2 = excInvalid := by
  have hzero : ∀ (m : Nat) (t : Bool), (if m = 0 then (Num.nan, excInvalid) else (.inf t, 0)).2 = 0 ∨
      (if m = 0 then (Num.nan, excInvalid) else (.inf t, 0)).2 = excInvalid := fun m t => by
    split
    · exact .inr rfl
    · exact .inl rfl
  cases v <;> cases w
  case inf.fin => exact hzero _ _
  case fin.inf => exact hzero _ _
  case inf.inf | fin.fin => exact .inl rfl
  all_goals exact .inr rfl

theorem Fmt.sig_eq_zero {k : Fmt} (x : Nat) : k.sig (k.mag x) = 0 ↔ k.units (k.mag x) = 0 := by simp [k.units_eq]

theorem Fmt.isInf.units_ne_zero {k : Fmt} {x : Nat} (h : k.isInf x) : k.units (k.mag x) ≠ 0 := by
  rw [ne_eq, k.units_eq_zero, h.2]
  exact Nat.succ_ne_zero _

theorem Fmt.isInf.not_isFin {k : Fmt} {x : Nat} (h : k.isInf x) : ¬ k.isFin x := by
  unfold Fmt.isFin
  have := h.2
  omega

section
variable {k : Fmt} (hk : k.Proper) (hi : k.inf = true) (mode : Nat) (sat : Bool) {x y d : Nat}
include hk

/-- A NaN operand gives the NaN. -/
theorem fpAdd_nan (h : k.isNaN x ∨ k.isNaN y) : fpAdd k mode sat x y = (k.nan, excInvalid) := by
  rw [fpAdd_eq]
  rcases h with h | h <;> rw [unpack_nan hk h]
  · exact rounded_nan k mode sat excInvalid
  · rw [addNum_nan, rounded_nan]

theorem fpSub_nan (h : k.isNaN x ∨ k.isNaN y) : fpSub k mode sat x y = (k.nan, excInvalid) := by
  rw [fpSub_eq]
  rcases h with h | h <;> rw [unpack_nan hk h]
  · exact rounded_nan k mode sat excInvalid
  · rw [Num.neg, addNum_nan, rounded_nan]

theorem fpMul_nan (h : k.isNaN x ∨ k.isNaN y) : fpMul k mode sat x y = (k.nan, excInvalid) := by
  rw [fpMul_eq]
  rcases h with h | h <;> rw [unpack_nan hk h]
  · exact rounded_nan k mode sat excInvalid
  · rw [mulNum_nan, rounded_nan]

theorem fpDiv_nan (h : k.isNaN x ∨ k.isNaN y) : fpDiv k mode sat x y = (k.nan, excInvalid) := by
  rw [fpDiv_eq]
  rcases h with h | h <;> rw [unpack_nan hk h]
  · exact rounded_nan k mode sat excInvalid
  · rw [divNum_nan, rounded_nan]

/-- A product with an infinity and no NaN: no number where the other factor is zero, an infinity else. -/
theorem mulNum_inf (h : k.isInf x ∧ ¬ k.isNaN y ∨ k.isInf y ∧ ¬ k.isNaN x) : mulNum (unpack k x) (unpack k y) =
    if k.units (k.mag x) = 0 ∨ k.units (k.mag y) = 0 then (.nan, excInvalid) else (.inf (k.neg x != k.neg y), 0) := by
  rcases h with ⟨hx, hy⟩ | ⟨hy, hx⟩
  · have hx0 := hx.units_ne_zero
    rw [unpack_inf hk hx]
    rcases k.kinds y with hy' | hy' | hy'
    · rw [unpack_fin hk hy']
      simp only [mulNum, Fmt.sig_eq_zero, hx0, false_or]
    · have hy0 := hy'.units_ne_zero
      rw [unpack_inf hk hy']
      simp only [mulNum, hx0, hy0, or_self, if_false]
    · exact absurd hy' hy
  · have hy0 := hy.units_ne_zero
    rw [unpack_inf hk hy]
    rcases k.kinds x with hx' | hx' | hx'
    · rw [unpack_fin hk hx']
      simp only [mulNum, Fmt.sig_eq_zero, hy0, or_false]
    · have hx0 := hx'.units_ne_zero
      rw [unpack_inf hk hx']
      simp only [mulNum, hx0, hy0, or_self, if_false]
    · exact absurd hx' hx

theorem fpFma_nan_factor (n : Bool) (h : k.isNaN x ∨ k.isNaN y) : fpFma k mode sat n d x y = (k.nan, excInvalid) := by
  have hp : mulNum (unpack k x) (unpack k y) = (.nan, excInvalid) := by
    rcases h with h | h <;> rw [unpack_nan hk h]
    · rfl
    · exact mulNum_nan _
  rw [fpFma_eq, hp]
  simp only [Num.neg, ite_self, addNum_nan, rounded_nan, BitVec.or_self]

theorem fpFma_nan_addend (n : Bool) (h : k.isNaN d) : fpFma k mode sat n d x y = (k.nan, excInvalid) := by
  rw [fpFma_eq, unpack_nan hk h, addNum_nan_left, rounded_nan]
  rcases mulNum_exc (unpack k x) (unpack k y) with he | he <;> rw [he]
  · rw [exc_zero_or]
  · rw [BitVec.or_self]

include hi

theorem fpAdd_inf_inf (hx : k.isInf x) (hy : k.isInf y) : fpAdd k mode sat x y =
    if k.neg x = k.neg y then (k.sign (k.neg x) + (k.maxFin + 1), 0) else (k.nan, excInvalid) := by
  rw [fpAdd_eq, unpack_inf hk hx, unpack_inf hk hy, addNum_inf_inf]
  split
  · exact rounded_inf hk hi mode sat _ 0
  · exact rounded_nan k mode sat excInvalid

theorem fpSub_inf_inf (hx : k.isInf x) (hy : k.isInf y) : fpSub k mode sat x y =
    if k.neg x = k.neg y then (k.nan, excInvalid) else (k.sign (k.neg x) + (k.maxFin + 1), 0) := by
  rw [fpSub_eq, unpack_inf hk hx, unpack_inf hk hy, Num.neg, addNum_inf_inf]
  by_cases h : k.neg x = k.neg y
  · rw [if_pos h, h, if_neg (Bool.not_eq_not.mpr rfl)]
    exact rounded_nan k mode sat excInvalid
  · rw [if_neg h, if_pos (Bool.eq_not_of_ne h)]
    exact rounded_inf hk hi mode sat _ 0

omit hi in
theorem fpDiv_inf_inf (hx : k.isInf x) (hy : k.isInf y) : fpDiv k mode sat x y = (k.nan, excInvalid) := by
  rw [fpDiv_eq, unpack_inf hk hx, unpack_inf hk hy]
  exact rounded_nan k mode sat excInvalid

theorem fpAdd_inf_fin (hx : k.isInf x) (hy : k.isFin y) : fpAdd k mode sat x y = (k.sign (k.neg x) + (k.maxFin + 1), 0) := by
  rw [fpAdd_eq, unpack_inf hk hx, unpack_fin hk hy]
  exact rounded_inf hk hi mode sat _ 0
theorem fpSub_inf_fin (hx : k.isInf x) (hy : k.isFin y) : fpSub k mode sat x y = (k.sign (k.neg x) + (k.maxFin + 1), 0) := by
  rw [fpSub_eq, unpack_inf hk hx, unpack_fin hk hy]
  exact rounded_inf hk hi mode sat _ 0
theorem fpDiv_inf_fin (hx : k.isInf x) (hy : k.isFin y) :
    fpDiv k mode sat x y = (k.sign (k.neg x != k.neg y) + (k.maxFin + 1), 0) := by
  rw [fpDiv_eq, unpack_inf hk hx, unpack_fin hk hy]
  exact rounded_inf hk hi mode sat _ 0

theorem fpAdd_fin_inf (hx : k.isFin x) (hy : k.isInf y) : fpAdd k mode sat x y = (k.sign (k.neg y) + (k.maxFin + 1), 0) := by
  rw [fpAdd_eq, unpack_fin hk hx, unpack_inf hk hy]
  exact rounded_inf hk hi mode sat _ 0
theorem fpSub_fin_inf (hx : k.isFin x) (hy : k.isInf y) : fpSub k mode sat x y = (k.sign (!k.neg y) + (k.maxFin + 1), 0) := by
  rw [fpSub_eq, unpack_fin hk hx, unpack_inf hk hy]
  exact rounded_inf hk hi mode sat _ 0
omit hi in
theorem fpDiv_fin_inf (hx : k.isFin x) (hy : k.isInf y) : fpDiv k mode sat x y = (k.zero (k.neg x != k.neg y), 0) := by
  rw [fpDiv_eq, unpack_fin hk hx, unpack_inf hk hy]
  exact rounded_zero k mode sat _ 0

theorem fpDiv_zero (hx : k.isFin x) (hy : k.isFin y) (h0 : k.units (k.mag y) = 0) : fpDiv k mode sat x y =
    if k.units (k.mag x) = 0 then (k.nan, excInvalid) else (k.sign (k.neg x != k.neg y) + (k.maxFin + 1), excDivZero) := by
  rw [fpDiv_eq, unpack_fin hk hx, unpack_fin hk hy]
  simp only [divNum, Fmt.sig_eq_zero, h0, if_true]
  split
  · exact rounded_nan k mode sat excInvalid
  · exact rounded_inf hk hi mode sat _ _

theorem fpMul_inf (h : k.isInf x ∧ ¬ k.isNaN y ∨ k.isInf y ∧ ¬ k.isNaN x) : fpMul k mode sat x y =
    if k.units (k.mag x) = 0 ∨ k.units (k.mag y) = 0 then (k.nan, excInvalid)
    else (k.sign (k.neg x != k.neg y) + (k.maxFin + 1), 0) := by
  rw [fpMul_eq, mulNum_inf hk h]
  split
  · exact rounded_nan k mode sat excInvalid
  · exact rounded_inf hk hi mode sat _ 0

theorem fpFma_inf_addend (n : Bool) (hx : k.isFin x) (hy : k.isFin y) (hd : k.isInf d) :
    fpFma k mode sat n d x y = (k.sign (k.neg d) + (k.maxFin + 1), 0) := by
  rw [fpFma_eq, unpack_fin hk hx, unpack_fin hk hy, unpack_inf hk hd]
  cases n <;> exact rounded_inf hk hi mode sat _ ((0 : Exc) ||| 0)

theorem fpFma_inf_factor (n : Bool) (h : k.isInf x ∧ ¬ k.isNaN y ∨ k.isInf y ∧ ¬ k.isNaN x) (hd : ¬ k.isNaN d) :
    fpFma k mode sat n d x y = if k.units (k.mag x) = 0 ∨ k.units (k.mag y) = 0 ∨
        (k.mag d = k.maxFin + 1 ∧ k.neg d ≠ (n != (k.neg x != k.neg y))) then (k.nan, excInvalid)
      else (k.sign (n != (k.neg x != k.neg y)) + (k.maxFin + 1), 0) := by
  rw [fpFma_eq, mulNum_inf hk h]
  by_cases h0 : k.units (k.mag x) = 0 ∨ k.units (k.mag y) = 0
  · rw [if_pos (show _ ∨ _ ∨ _ from h0.imp_right .inl)]
    simp only [h0, if_true, Num.neg, ite_self, addNum_nan, rounded_nan, BitVec.or_self]
  · obtain ⟨hx0, hy0⟩ := not_or.mp h0
    have hinf : (if n then Num.neg (.inf (k.neg x != k.neg y)) else .inf (k.neg x != k.neg y)) = .inf (n != (k.neg x != k.neg y)) := by
      cases n <;> simp [Num.neg]
    simp only [hx0, hy0, or_self, if_false, false_or, hinf, exc_zero_or]
    generalize (n != (k.neg x != k.neg y)) = t
    rcases k.kinds d with hd' | hd' | hd'
    · have : k.mag d ≠ k.maxFin + 1 := fun h => absurd ⟨hi, h⟩ (fun h => Fmt.isInf.not_isFin h hd')
      rw [unpack_fin hk hd', if_neg (fun h => this h.1)]
      exact rounded_inf hk hi mode sat _ 0
    · rw [unpack_inf hk hd', addNum_inf_inf]
      simp only [hd'.2, true_and]
      by_cases h : k.neg d = t
      · rw [if_pos h, if_neg (not_not_intro h), h]
        exact rounded_inf hk hi mode sat _ 0
      · rw [if_neg h, if_pos h]
        exact rounded_nan k mode sat excInvalid
    · exact absurd hd' hd

end

end Sys2Proof.Machine
end

section
/-! PROOFS. Roots, minima, maxima and conversions (R49, R51, R52, R122), and O9. -/

namespace Sys2Proof.Machine

/-! ### Square roots, minima and maxima -/

/-- A pattern is its sign and its magnitude. -/
theorem Fmt.pattern_eq {k : Fmt} {x : Nat} (h : x < 2 ^ k.width) : x = k.sign (k.neg x) + k.mag x := by
  have hlt : x / 2 ^ (k.e + k.f) < 2 := by
    rw [Nat.div_lt_iff_lt_mul (by positivity), ← pow_succ']
    refine lt_of_lt_of_le h (Nat.pow_le_pow_right (by decide) ?_)
    unfold Fmt.width
    omega
  have hdm := Nat.div_add_mod x (2 ^ (k.e + k.f))
  unfold Fmt.sign Fmt.neg Fmt.mag
  generalize x / 2 ^ (k.e + k.f) = q at hlt hdm
  obtain rfl | rfl : q = 0 ∨ q = 1 := by omega
  · simpa using hdm.symm
  · simpa using hdm.symm

theorem fpRank_lt_iff (k : Fmt) (x y : Nat) :
    fpRank k x < fpRank k y ↔ k.val x < k.val y ∨ k.val x = k.val y ∧ k.neg x = true ∧ k.neg y = false := by
  have hlt := fpOrd_lt_iff k x y
  have heq := fpOrd_eq_iff k x y
  rw [← hlt, ← heq, fpRank_eq, fpRank_eq, fpOrd_eq, fpOrd_eq]
  cases k.neg x <;> cases k.neg y <;>
    simp only [Bool.false_eq_true, Bool.true_eq_false, if_true, if_false, and_false, and_true, or_false] <;> omega

/-- Patterns of equal rank are the same. -/
theorem fpRank_inj {k : Fmt} {x y : Nat} (hx : x < 2 ^ k.width) (hy : y < 2 ^ k.width) (h : fpRank k x = fpRank k y) : x = y := by
  rw [fpRank_eq, fpRank_eq] at h
  have hs : k.neg x = k.neg y := by
    revert h
    cases k.neg x <;> cases k.neg y <;> simp <;> omega
  have hm : k.mag x = k.mag y := by
    rw [hs] at h
    revert h
    cases k.neg y <;> simp
  rw [Fmt.pattern_eq hx, Fmt.pattern_eq hy, hs, hm]

section
variable {k : Fmt} (hk : k.Proper) {x y : Nat}
include hk

theorem fpMin_nan_nan (hx : k.isNaN x) (hy : k.isNaN y) : fpMin k x y = k.nan ∧ fpMax k x y = k.nan := by
  unfold fpMin fpMax
  rw [unpack_nan hk hx, unpack_nan hk hy]
  exact ⟨rfl, rfl⟩

theorem not_isNaN_unpack (h : ¬ k.isNaN x) : (unpack k x).isNan = false := by
  rw [← Bool.not_eq_true, unpack_isNan hk]
  exact h

theorem fpMin_nan_left (hx : k.isNaN x) (hy : ¬ k.isNaN y) : fpMin k x y = y ∧ fpMax k x y = y := by
  unfold fpMin fpMax
  rw [unpack_nan hk hx, not_isNaN_unpack hk hy]
  exact ⟨rfl, rfl⟩

theorem fpMin_nan_right (hx : ¬ k.isNaN x) (hy : k.isNaN y) : fpMin k x y = x ∧ fpMax k x y = x := by
  unfold fpMin fpMax
  rw [unpack_nan hk hy, not_isNaN_unpack hk hx]
  exact ⟨rfl, rfl⟩

theorem fpMin_eq (hx : ¬ k.isNaN x) (hy : ¬ k.isNaN y) : fpMin k x y = if fpRank k y < fpRank k x then y else x := by
  unfold fpMin
  rw [not_isNaN_unpack hk hx, not_isNaN_unpack hk hy]
theorem fpMax_eq (hx : ¬ k.isNaN x) (hy : ¬ k.isNaN y) : fpMax k x y = if fpRank k x < fpRank k y then y else x := by
  unfold fpMax
  rw [not_isNaN_unpack hk hx, not_isNaN_unpack hk hy]

/-- The smaller and the larger of two numbers; equal ranks are one pattern. -/
theorem fpMin_rank (hx : ¬ k.isNaN x) (hy : ¬ k.isNaN y) (hxw : x < 2 ^ k.width) (hyw : y < 2 ^ k.width) :
    (fpRank k y < fpRank k x → fpMin k x y = y ∧ fpMax k x y = x) ∧
    (¬ fpRank k y < fpRank k x → fpMin k x y = x ∧ fpMax k x y = y) := by
  rw [fpMin_eq hk hx hy, fpMax_eq hk hx hy]
  refine ⟨fun h => ⟨if_pos h, if_neg h.not_gt⟩, fun h => ⟨if_neg h, ?_⟩⟩
  split
  · rfl
  · next h' => exact fpRank_inj hxw hyw (by omega)

/-- The square root of a positive number (R122). -/
theorem fpSqrt_rounds {mode : Nat} (hf : k.f ≤ 30) (hm : mode < 4) (sat : Bool) (hx : k.isFin x) (h0 : k.units (k.mag x) ≠ 0)
    (hs : k.neg x = false) :
    Rounds k mode sat false (fun h => compare (h * h) (16 * (k.units (k.mag x) * k.one))) (fpSqrt k mode sat x) := by
  obtain ⟨m, e, hv, hX⟩ := unpack_is hk hx
  have hone := k.one_pos'
  have hu : (0 : ℝ) < k.units (k.mag x) := by exact_mod_cast Nat.pos_of_ne_zero h0
  have hsig : m = k.sig (k.mag x) := by
    rw [unpack_fin hk hx] at hv
    injection hv with _ h
    exact h.symm
  have hm0 : m ≠ 0 := by rw [hsig, ne_eq, Fmt.sig_eq_zero]; exact h0
  have hm1 : m < 2 ^ 63 := hsig ▸ lt_of_lt_of_le (k.sig_lt _) (Nat.pow_le_pow_right (by decide) (by omega))
  obtain ⟨hn, he⟩ := sqrtNum_near (e := e) hm0 hm1
  rw [hs] at hv
  unfold fpSqrt
  rw [hv]
  dsimp only
  rw [he, calm_pair]
  refine roundNum_near hk hm sat hn hf fun h => ?_
  rw [← hX, compare_natCast, ← cmp_eq_compare, ← cmp_eq_compare]
  have hroot : (0 : ℝ) ≤ 4 * (√(k.units (k.mag x) / k.one) * k.one) := by positivity
  have hsq : ((16 * (k.units (k.mag x) * k.one) : ℕ) : ℝ) = (4 * (√(k.units (k.mag x) / k.one) * k.one)) ^ 2 := by
    push_cast
    rw [mul_pow, mul_pow, Real.sq_sqrt (by positivity)]
    field_simp
    ring
  rw [hsq, Nat.cast_mul, ← sq]
  exact (pow_left_strictMonoOn₀ two_ne_zero).cmp_map_eq (Set.mem_ofPred.mpr (Nat.cast_nonneg h)) hroot

theorem fpSqrt_zero {mode : Nat} (sat : Bool) (h0 : k.units (k.mag x) = 0) (hxw : x < 2 ^ k.width) : fpSqrt k mode sat x = (x, 0) := by
  have hmag := (k.units_eq_zero _).mp h0
  have hx : k.isFin x := by unfold Fmt.isFin; omega
  have hsig := (Fmt.sig_eq_zero x).mpr h0
  rw [fpSqrt_eq, unpack_fin hk hx, hsig]
  refine (rounded_zero k mode sat (k.neg x) ((k.place (k.mag x) : Int) - k.depth)).trans ?_
  conv_rhs => rw [Fmt.pattern_eq hxw, hmag]
  rfl

theorem fpSqrt_inf {mode : Nat} (sat : Bool) (hx : k.isInf x) (hs : k.neg x = false) (hxw : x < 2 ^ k.width) :
    fpSqrt k mode sat x = (x, 0) := by
  rw [fpSqrt_eq, unpack_inf hk hx, hs]
  refine (rounded_inf hk hx.1 mode sat false 0).trans ?_
  conv_rhs => rw [Fmt.pattern_eq hxw, hs, hx.2]

/-- A NaN and a negative number have no root. -/
theorem fpSqrt_invalid {mode : Nat} (sat : Bool) (h : k.isNaN x ∨ k.neg x = true ∧ k.units (k.mag x) ≠ 0) :
    fpSqrt k mode sat x = (k.nan, excInvalid) := by
  have hr : sqrtNum (unpack k x) = (.nan, excInvalid) := by
    rcases k.kinds x with hx | hx | hx
    · obtain ⟨hs, h0⟩ := h.resolve_left fun h => h.1 hx
      rw [unpack_fin hk hx, hs]
      simp only [sqrtNum, Fmt.sig_eq_zero, h0, if_false, if_true]
    · obtain ⟨hs, -⟩ := h.resolve_left fun h => h.2 hx
      rw [unpack_inf hk hx, hs]
      rfl
    · rw [unpack_nan hk hx]
      rfl
  rw [fpSqrt_eq, hr, rounded_nan]

/-! ### Conversions -/

theorem fpCvt_rounds {t : Fmt} (ht : t.Proper) {mode : Nat} (hm : mode < 4) (sat : Bool) (hx : k.isFin x) :
    Rounds t mode sat (k.neg x) (fun h => compare (h * k.one) (4 * (k.units (k.mag x) * t.one))) (fpCvt k t mode sat x) := by
  have hcvt : fpCvt k t mode sat x = roundNum t mode sat (unpack k x) := by
    unfold fpCvt
    rw [unpack_fin hk hx]
    rfl
  rw [hcvt]
  refine roundNum_is ht hm sat (unpack_is hk hx) fun h => ?_
  rw [compare_cross k.one_pos]
  congr 1
  push_cast
  ring

theorem fpCvt_nan (t : Fmt) (mode : Nat) (sat : Bool) (hx : k.isNaN x) : fpCvt k t mode sat x = (t.nan, 0) := by
  unfold fpCvt
  rw [unpack_nan hk hx]

theorem fpCvt_inf {t : Fmt} (ht : t.Proper) (mode : Nat) (sat : Bool) (hx : k.isInf x) : fpCvt k t mode sat x =
    if t.inf then (t.sign (k.neg x) + (t.maxFin + 1), 0) else (if sat then t.sign (k.neg x) + t.maxFin else t.nan, excInvalid) := by
  unfold fpCvt
  rw [unpack_inf hk hx]
  dsimp only
  by_cases hi : t.inf = true
  · rw [if_pos hi, if_pos hi, Fmt.infinity_eq ht hi]
  · rw [if_neg hi, if_neg hi]

end

theorem intToFp_rounds {t : Fmt} (ht : t.Proper) {mode : Nat} (hm : mode < 4) (x : Int) :
    Rounds t mode false (decide (x < 0)) (fun h => compare h (4 * (x.natAbs * t.one))) (intToFp t mode x) := by
  have h0 : (if x = 0 then false else decide (x < 0)) = decide (x < 0) := by
    split
    · next h => simp [h]
    · rfl
  have hx := ofInt_is false x 0
  rw [h0] at hx
  unfold intToFp
  refine roundNum_is ht hm false hx fun h => ?_
  rw [compare_natCast]
  congr 1
  push_cast [Nat.cast_natAbs]
  rw [zpow_zero, mul_one]

/-- A value with the magnitude `n` / `d` becomes the integer beside it that the mode names (R49, R52). -/
theorem numToInt_toInt {mode : Nat} (hm : mode < 4) (lo hi : Int) {v : Num} {s : Bool} {n d : Nat} (hd : 0 < d)
    (hv : v.Is s ((n : ℝ) / d)) : ToInt mode lo hi s n d (numToInt mode lo hi v) := by
  obtain ⟨m, e, rfl, hX⟩ := hv
  have hq : Nears mode s ((n : ℝ) / d) (quantise mode s m e 0 false) :=
    quantise_nears (e := e) hm (by rw [sub_zero]; exact hX) (fun h => absurd h Bool.false_ne_true)
  unfold ToInt numToInt
  rw [(nearInt_nears s n hm hd).unique hq]

end Sys2Proof.Machine

open Sys2Proof.Machine

/-- Settles O9: an exact result of finite operands is rounded once (`roundFin_rounds`), and a NaN or an infinity among them decides
the rest. -/
theorem rounding : Obligations.Rounding := by
  unfold Obligations.Rounding
  intro mode sat hm
  refine ⟨fun k hk x y d _ _ _ => ?_, fun x hx => ?_, fun k hk x y hx hy => ?_, fun k hk t ht x _ => ?_,
    fun x => ?_, fun x lo hi _ _ _ => ?_⟩
  · obtain ⟨hp, hi, hf⟩ := wide_format hk
    dsimp only
    refine ⟨fun hx hy => ⟨fpAdd_rounds hp hm sat hx hy, fpSub_rounds hp hm sat hx hy, fpMul_rounds hp hm sat hx hy,
      fpDiv_rounds hp hf hm sat hx hy, fpDiv_zero hp hi mode sat hx hy, fun hd n => fpFma_rounds hp hm sat hx hy hd n,
      fun hd n => fpFma_inf_addend hp hi mode sat n hx hy hd⟩, fun h => ?_, fun hd n => fpFma_nan_addend hp mode sat n hd,
      fun hx hy => ⟨fpAdd_inf_inf hp hi mode sat hx hy, fpSub_inf_inf hp hi mode sat hx hy, fpDiv_inf_inf hp mode sat hx hy⟩,
      fun hx hy => ⟨fpAdd_inf_fin hp hi mode sat hx hy, fpSub_inf_fin hp hi mode sat hx hy, fpDiv_inf_fin hp hi mode sat hx hy⟩,
      fun hx hy => ⟨fpAdd_fin_inf hp hi mode sat hx hy, fpSub_fin_inf hp hi mode sat hx hy, fpDiv_fin_inf hp mode sat hx hy⟩,
      fun h => ⟨fpMul_inf hp hi mode sat h, fun hd n => fpFma_inf_factor hp hi mode sat n h hd⟩⟩
    simp only [List.cons_append, List.nil_append, List.forall_mem_cons, List.not_mem_nil, false_imp_iff, implies_true, and_true]
    exact ⟨fpAdd_nan hp mode sat h, fpSub_nan hp mode sat h, fpMul_nan hp mode sat h, fpDiv_nan hp mode sat h,
      fpFma_nan_factor hp mode sat false h, fpFma_nan_factor hp mode sat true h⟩
  · have hp := proper_fp32
    exact ⟨fun hf => fpSqrt_rounds hp (by decide) hm sat hf, fun h0 => fpSqrt_zero hp sat h0 hx, fun hi hs => fpSqrt_inf hp sat hi hs hx,
      fun h => fpSqrt_invalid hp sat h⟩
  · obtain ⟨hp, -, -⟩ := wide_format hk
    dsimp only
    refine ⟨fpMin_nan_nan hp, fpMin_nan_left hp, fpMin_nan_right hp, fun h => ?_, fpEq_iff hp x y, fpLt_iff hp x y, fpLe_iff hp x y,
      fpUn_iff hp x y⟩
    rw [← fpRank_lt_iff]
    exact fpMin_rank hp (fun hx => h (.inl hx)) (fun hy => h (.inr hy)) hx hy
  · exact ⟨fpCvt_rounds (any_format hk) (any_format ht) hm sat, fpCvt_nan (any_format hk) t mode sat,
      fpCvt_inf (any_format hk) (any_format ht) mode sat⟩
  · exact intToFp_rounds proper_fp32 hm x
  · refine ⟨fun hx => numToInt_toInt hm lo hi fp32.one_pos (unpack_is proper_fp32 hx), fun hx => ?_, fun hx => ?_⟩
    · rw [unpack_nan proper_fp32 hx]
      rfl
    · rw [unpack_inf proper_fp32 hx]
      rfl
end

section
/-! PROOFS. Checks in their order: a list of checks as the statements give it beside the model's list of traps (R63, R138, R176 to R180). -/

namespace Sys2Proof.Machine

/-! ### Lists of checks -/

/-- The trap of the first of the checks that fails. -/
def failing (l : List (Bool × Trap)) : Option Trap := (l.find? (fun c => !c.1)).map (·.2)

theorem failing_nil : failing [] = none := rfl
theorem failing_append (l m : List (Bool × Trap)) : failing (l ++ m) = (failing l).or (failing m) := by
  unfold failing
  rw [List.find?_append, Option.map_or]
theorem failing_cons (c : Bool × Trap) (l : List (Bool × Trap)) : failing (c :: l) = (need c.1 c.2).or (failing l) := by
  obtain ⟨ok, t⟩ := c
  cases ok <;> rfl

theorem firstTrap_nil : firstTrap [] = none := rfl
theorem firstTrap_cons (o : Option Trap) (l : List (Option Trap)) : firstTrap (o :: l) = o.or (firstTrap l) := by
  cases o <;> rfl
theorem firstTrap_append (l m : List (Option Trap)) : firstTrap (l ++ m) = (firstTrap l).or (firstTrap m) := by
  induction l with
  | nil => exact (Option.none_or ..).symm
  | cons o l ih => rw [List.cons_append, firstTrap_cons, ih, firstTrap_cons, Option.or_assoc]

/-- A command that takes the trap of the first failing check of a list of the model's, where that is the first to fail here. -/
theorem checks_of_firstTrap {α : Type} {l : List (Bool × Trap)} {m : List (Option Trap)} {x : α} {ok : α → Prop}
    (h : failing l = firstTrap m) (hx : ok x) :
    Checks l (match firstTrap m with | some t => Except.error t | none => .ok x) ok := by
  rw [← h]
  unfold Checks failing
  cases l.find? (fun c => !c.1) with
  | some c => rfl
  | none => exact ⟨x, rfl, hx⟩

/-! ### The checks that commands share -/

/-- ENGINE_DESCRIPTOR as R176 gives it. -/
def descriptorBad (source pos : Nat) (a : Addr) : Trap :=
  { cause := .engineDescriptor, detail := BitVec.ofNat 16 (pos + 256 * source), taddr := a }

theorem descTrap_eq {pos : Nat} (h : pos < 256) (source : Nat) (a : Addr) : descTrap source pos a = descriptorBad source pos a := by
  unfold descTrap descriptorBad
  rw [Nat.mod_eq_of_lt h, Nat.mul_comm source]

/-- Bits that must be zero. -/
def zeroChecks (x : Word) (bits : List Nat) (source : Nat) : List (Bool × Trap) :=
  bits.map (fun b => (!x.getLsbD b, descriptorBad source b 0))

theorem find?_filter_and {α : Type} (l : List α) (p q : α → Bool) : (l.filter p).find? q = l.find? (fun b => p b && q b) := by
  rw [List.find?_filter]
  congr 1
  funext b
  rw [Bool.decide_and, Bool.decide_eq_true, Bool.decide_eq_true]

theorem failing_map {α : Type} (l : List α) (f : α → Bool) (t : α → Trap) :
    failing (l.map (fun b => (!f b, t b))) = (l.find? f).map t := by
  unfold failing
  rw [List.find?_map, Option.map_map]
  simp only [Function.comp_def, Bool.not_not]

theorem failing_zeroChecks {x mask : Word} {bits : List Nat} (source : Nat)
    (h : (List.range 32).filter (fun b => mask.getLsbD b) = bits) : failing (zeroChecks x bits source) = zeroBits x mask source := by
  subst h
  unfold zeroChecks zeroBits
  rw [failing_map, find?_filter_and]
  simp only [BitVec.getLsbD_and, Bool.and_comm (x.getLsbD _)]
  refine Option.map_congr fun b hb => (descTrap_eq ?_ source 0).symm
  have := List.mem_range.mp (List.mem_of_find?_eq_some hb)
  omega

/-- The WAIT bit of the command's own SLOT is clear (R176). -/
def ownSlotClear (x : Word) : Bool := !(x.getLsbD 11 && x.getLsbD (x.toNat / 256 % 8))
/-- The checks of an order control in a register, and of one in the ORDER field at byte `off`. -/
def orderChecks (x : Word) : List (Bool × Trap) :=
  (ownSlotClear x, descriptorBad 3 (x.toNat / 256 % 8) 0) :: zeroChecks x (List.range' 12 20) 3
def orderFieldChecks (x off : Nat) (a : Addr) : List (Bool × Trap) :=
  (ownSlotClear (BitVec.ofNat 32 x), descriptorBad 0 off a) :: (List.range' 12 4).map (fun b => (!x.testBit b, descriptorBad 0 off a))

theorem failing_orderChecks (x : Word) : failing (orderChecks x) = orderTrap x 32 none 0 := by
  unfold orderChecks orderTrap ownSlotClear
  have hr : List.range' 12 20 = (List.range 32).filter (fun b => decide (12 ≤ b)) := by decide
  rw [failing_cons, zeroChecks, failing_map, hr, find?_filter_and]
  dsimp only [bitsN]
  rw [show (2 : Nat) ^ 8 = 256 from rfl, show (2 : Nat) ^ 3 = 8 from rfl]
  cases h : (x.getLsbD 11 && x.getLsbD (x.toNat / 256 % 8)) with
  | true => exact congrArg some (descTrap_eq (by omega) 3 0).symm
  | false =>
    change Option.map _ _ = Option.map _ _
    refine Option.map_congr fun b hb => (descTrap_eq ?_ 3 0).symm
    have := List.mem_range.mp (List.mem_of_find?_eq_some hb)
    omega

theorem failing_orderFieldChecks (x : Nat) {off : Nat} (ho : off < 256) (a : Addr) :
    failing (orderFieldChecks x off a) = orderTrap (BitVec.ofNat 32 x) 16 (some off) a := by
  unfold orderFieldChecks orderTrap ownSlotClear
  have hr : List.range' 12 4 = (List.range 16).filter (fun b => decide (12 ≤ b)) := by decide
  rw [failing_cons, failing_map, hr, find?_filter_and]
  dsimp only [bitsN]
  rw [show (2 : Nat) ^ 8 = 256 from rfl, show (2 : Nat) ^ 3 = 8 from rfl]
  cases h : ((BitVec.ofNat 32 x).getLsbD 11 && (BitVec.ofNat 32 x).getLsbD ((BitVec.ofNat 32 x).toNat / 256 % 8)) with
  | true => exact congrArg some (descTrap_eq ho 0 a).symm
  | false =>
    simp only [descTrap_eq ho]
    refine congrArg (Option.map _) (List.find?_congr fun b hb => ?_)
    have := List.mem_range.mp hb
    rw [BitVec.getLsbD_ofNat, decide_eq_true (show b < 32 by omega), Bool.true_and]

/-- Checks 1 to 6 of R138 on byte addresses (R180). -/
def spanChecks (s : State) (p : Nat) (wr : Bool) (l : List Int) : List (Bool × Trap) := l.map (fun x =>
  match staticCheck s p (BitVec.ofInt 64 x) { size := 1, rd := !wr, wr := wr } with
  | .ok _ => (true, descriptorBad 0 0 0)
  | .error t => (false, t))

theorem failing_spanChecks (s : State) (p : Nat) (wr : Bool) (l : List Int) : failing (spanChecks s p wr l) = spanTrap s p wr l := by
  unfold spanTrap
  induction l with
  | nil => rfl
  | cons x l ih =>
    rw [spanChecks, List.map_cons, failing_cons, List.findSome?_cons, ← ih, spanChecks]
    cases staticCheck s p (BitVec.ofInt 64 x) { size := 1, rd := !wr, wr := wr } <;> rfl

/-- Some participant of the event is engine `eng` of the site. -/
def engineIn (i : Inst) (site eng e : Nat) (f : Participant → Bool) : Bool :=
  (i.event e).parts.any (fun q => decide (q.pkind = eng + 1) && decide (q.id = i.index site) && f q)
/-- The checks of an event field (R178). -/
def eventChecks (i : Inst) (site eng e : Nat) (t : Trap) (a : Addr) : List (Bool × Trap) :=
  [(decide (e = 0xFFFF) || decide (e < i.image.events.length), t),
   (decide (e = 0xFFFF) || engineIn i site eng e (fun _ => true),
    { cause := .eventNotParticipant, detail := BitVec.ofNat 16 e, taddr := a })]

theorem failing_eventChecks (i : Inst) (site eng e : Nat) (t : Trap) (a : Addr) :
    failing (eventChecks i site eng e t a) = eventTrap i site eng e t a := by
  unfold eventChecks eventTrap engineIn
  simp only [failing_cons, failing_nil, Option.or_none, Bool.and_true]
  by_cases h : e = 0xFFFF
  · simp [h, need]
  · simp only [h, decide_false, Bool.false_or, if_false]
    by_cases hl : i.image.events.length ≤ e
    · simp [hl, need]
    · simp only [hl, if_false, not_le.mp hl, decide_true, need, if_true, Option.none_or]

/-- The whole of a destination lies in one shadow pair of the event (R186). -/
def inPair (i : Inst) (e : Nat) (l : List Int) : Bool := decide (e ≠ 0xFFFF) &&
  l.all (fun x => decide ((BitVec.ofInt 64 x).toNat / 2 ^ 60 = 2)) &&
  i.image.shadow.any (fun q => decide (q.event = e) && l.all (fun x =>
    let o := (BitVec.ofInt 64 x).toNat % 2 ^ 60
    decide (q.voff ≤ o ∧ o < q.voff + q.len)))

theorem spaceOf_eq (a : Addr) : spaceOf a = a.toNat / 2 ^ 60 := by
  unfold spaceOf bitsN
  have := a.isLt
  exact Nat.mod_eq_of_lt (by omega)

theorem publishOk_eq (i : Inst) (e : Nat) (l : List Int) : publishOk i e l = inPair i e l := by
  unfold publishOk inPair
  simp only [spaceOf_eq]

/-- The engine contributes to the event (R274). -/
def contributes (i : Inst) (site eng e : Nat) : Bool :=
  decide (e ≠ 0xFFFF) && engineIn i site eng e (fun q => decide (q.role = 1))

/-- A claimed operand slot, and an entry of the TID table. -/
def heldCheck (s : State) (u : Issue) (n : Nat) : Bool × Trap :=
  (decide ((s.croft (u.p / 4)).claim n = .held (s.nid u.p u.i)), { cause := .slotNotOwned, detail := BitVec.ofNat 16 n })
def tidCheck (i : Inst) (n : Nat) : Bool × Trap := ((i.tid n).valid, { cause := .tidInvalid, detail := BitVec.ofNat 16 n })

/-- The command is one of the domain that the node runs. -/
def Issuing (s : State) (u : Issue) (m : Cmd) : Prop := m.inst = ((s.instOf u.p).map (·.1)).getD 0

end Sys2Proof.Machine
end

section
/-! PROOFS. The checks of MMA, MZERO and MDRAIN (R182, R185, R186). -/

namespace Sys2Proof.Machine

/-! ### Matrix commands (R182, R185, R186) -/

/-- The checks of an MMA's formats and shapes (R182). -/
def mmaChecks (a b : Tid) : List (Bool × Trap) :=
  [(decide (a.fmt ∈ [0x12, 0x11, 0x13, 0x14, 0x03, 0x01, 0x20]), descriptorBad 2 0 0),
   (decide (a.rows ≤ 128) && (decide (a.fmt ≠ 0x01) || decide (a.cols % 2 = 0)) &&
     (decide (a.fmt ≠ 0x20) || decide (a.cols % 8 = 0)) && (decide (a.sparse = 0) || decide (a.cols % 32 = 0)) &&
     decide ((if a.fmt = 0x20 then 8 else 1) * a.rows * a.rowLen ≤ 32768), descriptorBad 2 0 0),
   (if a.fmt = 0x13 ∨ a.fmt = 0x14 then decide (b.fmt = 0x13) || decide (b.fmt = 0x14)
    else decide (b.fmt = if a.fmt = 0x20 then 0x03 else a.fmt), descriptorBad 2 8 0),
   (decide (b.rows = a.cols) && decide (b.cols ≤ 128) && decide (b.sparse = 0) && decide (a.cols * b.rowLen ≤ 32768),
    descriptorBad 2 8 0)]

/-- A test that fails with a detail is the check of its negation. -/
theorem map_ite_some {α β : Type} (p : Prop) [Decidable p] (x : α) (o : Option α) (f : α → β) :
    (if p then some x else o).map f = if p then some (f x) else o.map f := by split <;> rfl

theorem need_or_eq_ite {ok : Bool} {p : Prop} [Decidable p] (h : ok = !decide p) (t : Trap) (o : Option Trap) :
    (need ok t).or o = if p then some t else o := by
  subst h
  by_cases hp : p <;> simp [hp, need]

theorem failing_mmaChecks (a b : Tid) : failing (mmaChecks a b) = (mmaFault a b).map (descTrap 2) := by
  unfold mmaChecks mmaFault
  dsimp only
  simp only [failing_cons, failing_nil, map_ite_some, Option.map_none, descTrap_eq (show 0 < 256 by decide),
    descTrap_eq (show 8 < 256 by decide)]
  refine (need_or_eq_ite ?_ ..).trans (ite_congr rfl (fun _ => rfl) fun _ => (need_or_eq_ite ?_ ..).trans
    (ite_congr rfl (fun _ => rfl) fun _ => (need_or_eq_ite ?_ ..).trans (ite_congr rfl (fun _ => rfl) fun _ => need_or_eq_ite ?_ ..)))
  · rw [← decide_not, Bool.eq_iff_iff]
    simp
  · rw [← decide_not, Bool.eq_iff_iff]
    simp [imp_iff_not_or, and_assoc]
  · rw [← decide_not, Bool.eq_iff_iff]
    split
    · simp
    · split <;> simp
  · rw [← decide_not, Bool.eq_iff_iff]
    simp [and_assoc]

theorem mma_checks (s : State) (u : Issue) (x y oc : Word) :
    Checks (zeroChecks x (List.range' 10 22) 1 ++ zeroChecks y ([6, 7, 14, 15] ++ List.range' 17 15) 2 ++
      [heldCheck s u (x.toNat % 16), heldCheck s u (x.toNat / 16 % 16), tidCheck (s.instAt u.p) (y.toNat % 64),
       tidCheck (s.instAt u.p) (y.toNat / 256 % 64)] ++
      mmaChecks ((s.instAt u.p).tid (y.toNat % 64)) ((s.instAt u.p).tid (y.toNat / 256 % 64)) ++
      [(!y.getLsbD 16 || (decide ((s.instAt u.p).image.w ≤ 5) && decide ((s.instAt u.p).image.h ≤ 3)), descriptorBad 2 16 0)] ++
      orderChecks oc) (mmaCommand s u x y oc) (Issuing s u) := by
  have hx := failing_zeroChecks (x := x) (mask := 0xFFFFFC00) (bits := List.range' 10 22) 1 (by decide)
  have hy := failing_zeroChecks (x := y) (mask := 0xFFFEC0C0) (bits := [6, 7, 14, 15] ++ List.range' 17 15) 2 (by decide)
  refine checks_of_firstTrap ?_ rfl
  simp only [failing_append, failing_cons, failing_nil, firstTrap_cons, firstTrap_nil, Option.or_none, Option.or_assoc, hx, hy,
    failing_mmaChecks, failing_orderChecks, descTrap_eq (show 16 < 256 by decide)]
  simp only [bitsN, pow_zero, Nat.div_one]
  rfl

theorem mzero_checks (s : State) (u : Issue) (x oc : Word) :
    Checks (zeroChecks x (List.range' 2 30) 1 ++ orderChecks oc) (mzeroCommand s u x oc) (Issuing s u) := by
  have hx := failing_zeroChecks (x := x) (mask := 0xFFFFFFFC) (bits := List.range' 2 30) 1 (by decide)
  refine checks_of_firstTrap ?_ rfl
  simp only [failing_append, firstTrap_cons, firstTrap_nil, Option.or_none, hx, failing_orderChecks]

theorem drainOk_eq (i : Bool) (t : Tid) : drainOk i t =
    (decide (t.fmt ∈ if i then [0x06, 0x03, 0x10, 0x11, 0x12] else [0x10, 0x11, 0x12, 0x13, 0x14]) ||
      (!i && decide (t.fmt = 0x18) && decide (t.smode = 0))) := by
  cases i <;> simp [drainOk]

/-- MDRAIN (R186): its operands, its entry, where the tile goes, and the event it may publish to. -/
theorem mdrain_checks (s : State) (u : Issue) (x y oc : Word) :
    let i := s.instAt u.p
    let n := x.toNat / 256 % 64
    let t := i.tid n
    let e := y.toNat % 2 ^ 16
    let ends := rowEnds t 1 0 t.rows
    Checks (zeroChecks x ([3, 4, 5, 6, 7] ++ List.range' 14 18) 1 ++ zeroChecks y (List.range' 17 15) 2 ++
      [tidCheck i n,
       (decide (t.fmt ∈ if x.getLsbD 2 then [0x06, 0x03, 0x10, 0x11, 0x12] else [0x10, 0x11, 0x12, 0x13, 0x14]) ||
         (!x.getLsbD 2 && decide (t.fmt = 0x18) && decide (t.smode = 0)), { cause := .tidInvalid, detail := BitVec.ofNat 16 n }),
       (decide (t.rows ≤ 128) && decide (t.cols ≤ 128) && decide (t.sparse = 0), descriptorBad 1 8 0)] ++
      spanChecks s u.p true ends ++ eventChecks i (u.p / 4) 2 e (descriptorBad 2 0 0) 0 ++
      [(!y.getLsbD 16 || inPair i e ends, descriptorBad 2 16 0)] ++ orderChecks oc) (mdrainCommand s u x y oc) (Issuing s u) := by
  have hx := failing_zeroChecks (x := x) (mask := 0xFFFFC0F8) (bits := [3, 4, 5, 6, 7] ++ List.range' 14 18) 1 (by decide)
  have hy := failing_zeroChecks (x := y) (mask := 0xFFFE0000) (bits := List.range' 17 15) 2 (by decide)
  dsimp only
  refine checks_of_firstTrap ?_ rfl
  simp only [failing_append, failing_cons, failing_nil, firstTrap_cons, firstTrap_nil, Option.or_none, Option.or_assoc, hx, hy,
    failing_spanChecks, failing_eventChecks, failing_orderChecks, ← drainOk_eq, publishOk_eq, descTrap_eq (show 16 < 256 by decide),
    descTrap_eq (show 8 < 256 by decide), descTrap_eq (show 0 < 256 by decide)]
  simp only [bitsN, pow_zero, Nat.div_one]
  rfl

end Sys2Proof.Machine
end

section
/-! PROOFS. Descriptors and the checks of the copies (R187 to R190, R382). -/

namespace Sys2Proof.Machine

/-! ### Fields of a descriptor -/

theorem leNat_lt (l : List Byte) : leNat l < 256 ^ l.length := by
  induction l with
  | nil => exact Nat.one_pos
  | cons b l ih =>
    have := b.isLt
    rw [leNat, List.length_cons, pow_succ]
    omega

theorem slice_length (l : List Byte) (o n : Nat) : (slice l o n).length = n := by
  unfold slice
  simp only [List.length_append, List.length_replicate, List.length_take, List.length_drop]
  omega

theorem field_lt (l : List Byte) (o n : Nat) : field l o n < 256 ^ n := by
  have := leNat_lt (slice l o n)
  rwa [slice_length] at this

theorem sgn_eq_toInt {w : Nat} (hw : 0 < w) (x : Nat) : sgn w x = (BitVec.ofNat w x).toInt := by
  obtain ⟨v, rfl⟩ := Nat.exists_eq_succ_of_ne_zero hw.ne'
  unfold sgn
  rw [BitVec.toInt_eq_toNat_cond, BitVec.toNat_ofNat, Nat.succ_sub_one, Nat.succ_eq_add_one]
  dsimp only
  have h2 : 2 ^ (v + 1) = 2 * 2 ^ v := pow_succ' 2 v
  by_cases h : x % 2 ^ (v + 1) < 2 ^ v
  · rw [if_pos h, if_pos (by omega)]
  · rw [if_neg h, if_neg (by omega)]
    push_cast
    rfl

theorem toNat_ofNat_field (l : List Byte) (o : Nat) : (BitVec.ofNat 64 (field l o 8)).toNat = field l o 8 := by
  rw [BitVec.toNat_ofNat]
  exact Nat.mod_eq_of_lt (field_lt l o 8)

/-- A field of a descriptor that must be zero. -/
theorem ofNat_field_eq_zero (l : List Byte) (o n : Nat) {w : Nat} (hw : 256 ^ n = 2 ^ w) :
    BitVec.ofNat w (field l o n) = 0 ↔ field l o n = 0 := by
  have hlt := field_lt l o n
  rw [hw] at hlt
  rw [← BitVec.toNat_inj, BitVec.toNat_ofNat, Nat.mod_eq_of_lt hlt]
  simp

/-! ### Copies (R187 to R190, R382) -/

/-- The crofts that a slot designation selects (R190). -/
def copyTargets (dst mcast : Nat) : List (Nat × Nat) :=
  (if mcast = 0 then [0] else (List.range 32).filter (fun b => mcast.testBit b)).map
    (fun b => (dst / 2 ^ 8 % 16 + b % 8, dst / 2 ^ 12 % 16 + b / 8))

section
variable (l : List Byte)

theorem targets_isSome (w h : Nat) : ((CpyDesc.of l).targets w h).isSome =
    (copyTargets (field l 8 8) (field l 52 4)).all (fun c => decide (c.1 < w) && decide (c.2 < h)) := by
  have hbits : (List.range 32).filter (fun b => (BitVec.ofNat 32 (field l 52 4)).getLsbD b) =
      (List.range 32).filter (fun b => (field l 52 4).testBit b) := by
    refine List.filter_congr fun b hb => ?_
    rw [BitVec.getLsbD_ofNat, decide_eq_true (List.mem_range.mp hb), Bool.true_and]
  have hsel : (if (CpyDesc.of l).mcast = 0 then [(bitsN (CpyDesc.of l).dst.toNat 8 4, bitsN (CpyDesc.of l).dst.toNat 12 4)]
      else ((List.range 32).filter (fun b => (CpyDesc.of l).mcast.getLsbD b)).map
        (fun b => (bitsN (CpyDesc.of l).dst.toNat 8 4 + b % 8, bitsN (CpyDesc.of l).dst.toNat 12 4 + b / 8))) =
      copyTargets (field l 8 8) (field l 52 4) := by
    unfold copyTargets
    simp only [CpyDesc.of]
    rw [hbits, toNat_ofNat_field]
    simp only [ofNat_field_eq_zero l 52 4 (w := 32) rfl]
    split <;> rfl
  unfold CpyDesc.targets
  dsimp only
  rw [hsel]
  split
  · next h => rw [h]; rfl
  · next h => rw [Bool.not_eq_true _ |>.mp h]; rfl

theorem bitsN_eq_zero (x lo w : Nat) : bitsN x lo w = 0 ↔ ∀ b, lo ≤ b → b < lo + w → x.testBit b = false := by
  unfold bitsN
  constructor
  · intro h b hb hb'
    have := congrArg (fun z => z.testBit (b - lo)) h
    simpa [Nat.testBit_mod_two_pow, Nat.testBit_div_two_pow, show b - lo < w by omega, Nat.sub_add_cancel hb] using this
  · intro h
    refine Nat.eq_of_testBit_eq fun j => ?_
    rw [Nat.testBit_mod_two_pow, Nat.testBit_div_two_pow, Nat.zero_testBit]
    by_cases hj : j < w
    · rw [h (j + lo) (by omega) (by omega), Bool.and_false]
    · rw [decide_eq_false hj, Bool.false_and]

/-- The bits of the mask of a slot designation: 63 to 31 and 7 to 4 (R190). -/
theorem slot_mask_bits : ∀ b : Nat, b < 64 → ((0xFFFFFFFF800000F0#64).getLsbD b = true ↔ 4 ≤ b ∧ b < 8 ∨ 31 ≤ b) := by decide

theorem slot_reserved {x : Nat} (hx : x < 2 ^ 64) :
    BitVec.ofNat 64 x &&& 0xFFFFFFFF800000F0#64 = 0 ↔ x / 2 ^ 4 % 16 = 0 ∧ x / 2 ^ 31 = 0 := by
  have h1 : x / 2 ^ 31 = bitsN x 31 33 := (Nat.mod_eq_of_lt (by omega)).symm
  have h2 : x / 2 ^ 4 % 16 = bitsN x 4 4 := rfl
  rw [h1, h2, bitsN_eq_zero, bitsN_eq_zero]
  constructor
  · intro h
    have hbit : ∀ b, b < 64 → (4 ≤ b ∧ b < 8 ∨ 31 ≤ b) → x.testBit b = false := fun b hb hm => by
      have := congrArg (fun z => z.getLsbD b) h
      simp only [BitVec.getLsbD_and, BitVec.getLsbD_ofNat, (slot_mask_bits b hb).mpr hm, hb, decide_true, Bool.true_and,
        Bool.and_true] at this
      exact this.trans BitVec.getLsbD_zero
    exact ⟨fun b h4 h8 => hbit b (by omega) (.inl ⟨h4, h8⟩), fun b h31 h64 => hbit b (by omega) (.inr h31)⟩
  · rintro ⟨hlow, hhigh⟩
    refine BitVec.eq_of_getLsbD_eq fun b hb => ?_
    rw [BitVec.getLsbD_and, BitVec.getLsbD_ofNat]
    by_cases hm : (0xFFFFFFFF800000F0#64).getLsbD b = true
    · have : x.testBit b = false := by
        rcases (slot_mask_bits b hb).mp hm with ⟨h4, h8⟩ | h31
        · exact hlow b h4 h8
        · exact hhigh b h31 hb
      rw [this]
      simp
    · rw [Bool.not_eq_true _ |>.mp hm]
      simp

/-- The parts of the checks of a copy, as R382 and R190 give them. -/
def copyUnit : Int := if field l 51 1 = 0x06 ∨ field l 51 1 = 0x10 then 4 else if field l 51 1 = 0x12 then 2 else 1
def copyInt (o : Nat) : Int := (BitVec.ofNat 32 (field l o 4)).toInt
def copySlots : Bool := decide (field l 48 1 % 2 = 1)
def copyOffset : Nat := field l 8 8 / 2 ^ 16 % 2 ^ 15
def copyEnds (base s1 s2 : Int) : List Int :=
  ([0, field l 24 4 - 1] : List Nat).flatMap (fun j => ([0, field l 20 4 - 1] : List Nat).flatMap (fun k =>
    ([0, field l 16 4 - 1] : List Nat).map (fun e => base + (j : Int) * s2 + (k : Int) * s1 + (e : Int))))
def copyDst : List Int :=
  copyEnds l (if copySlots l then (copyOffset l : Int) else (field l 8 8 : Int)) (copyInt l 36) (copyInt l 40)

theorem dstEnds_eq : (CpyDesc.of l).dstEnds = copyDst l := by
  unfold CpyDesc.dstEnds CpyDesc.base CpyDesc.slotOff copyDst copyEnds copyInt corners copySlots copyOffset
  simp only [CpyDesc.of]
  rw [toNat_ofNat_field, sgn_eq_toInt (by decide), sgn_eq_toInt (by decide)]
  rfl

def copyFieldChecks (form : CpyForm) (a : Addr) : List (Bool × Trap) :=
  [(decide (1 ≤ field l 16 4 ∧ field l 16 4 ≤ 2 ^ 24), descriptorBad 0 16 a),
   (decide (1 ≤ field l 20 4 ∧ field l 20 4 ≤ 2 ^ 16), descriptorBad 0 20 a),
   (decide (1 ≤ field l 24 4 ∧ field l 24 4 ≤ 2 ^ 16) && (decide (form ≠ .copyg) || decide (field l 24 4 = 1)),
    descriptorBad 0 24 a),
   (decide (field l 48 1 < 2), descriptorBad 0 48 a), (decide (field l 49 1 < 2), descriptorBad 0 49 a),
   (decide (form = .copyop) || decide (field l 50 1 = 0), descriptorBad 0 50 a),
   (decide (form = .copyop) || decide (field l 51 1 = 0), descriptorBad 0 51 a),
   (copySlots l || decide (field l 52 4 = 0), descriptorBad 0 52 a),
   (decide (form = .copyg) || decide (field l 56 8 = 0), descriptorBad 0 56 a)]

theorem failing_copyFieldChecks (form : CpyForm) (a : Addr) :
    failing (copyFieldChecks l form a) = firstTrap (cpyFields form (CpyDesc.of l) (field l 48 1) (field l 49 1) a) := by
  unfold copyFieldChecks cpyFields copySlots
  simp only [CpyDesc.of]
  simp only [failing_cons, failing_nil, firstTrap_cons, firstTrap_nil, Option.or_none, ofNat_field_eq_zero l 52 4 (w := 32) rfl,
    ofNat_field_eq_zero l 56 8 (w := 64) rfl, decide_not]
  simp only [descTrap, descriptorBad]
  rfl

def copyopChecks (a : Addr) : List (Bool × Trap) :=
  [(!copySlots l && decide (field l 8 8 / 2 ^ 60 = 2), descriptorBad 0 8 a),
   (decide (((field l 0 8 : Nat) : Int) % copyUnit l = 0), descriptorBad 0 0 a),
   (decide (((field l 8 8 : Nat) : Int) % copyUnit l = 0), descriptorBad 0 8 a),
   (decide (((field l 16 4 : Nat) : Int) % copyUnit l = 0), descriptorBad 0 16 a),
   (decide (copyInt l 28 % copyUnit l = 0), descriptorBad 0 28 a), (decide (copyInt l 32 % copyUnit l = 0), descriptorBad 0 32 a),
   (decide (copyInt l 36 % copyUnit l = 0), descriptorBad 0 36 a), (decide (copyInt l 40 % copyUnit l = 0), descriptorBad 0 40 a),
   (decide (field l 50 1 ≤ 5), descriptorBad 0 50 a), (decide (field l 51 1 ∈ [0x06, 0x10, 0x12]), descriptorBad 0 51 a)]

theorem copyUnit_eq :
    (if [0x06, 0x10, 0x12].contains (field l 51 1) then ((elemBytes (field l 51 1) : Nat) : Int) else 1) = copyUnit l := by
  unfold copyUnit elemBytes
  generalize field l 51 1 = c
  by_cases h6 : c = 0x06
  · subst h6; rfl
  · by_cases h10 : c = 0x10
    · subst h10; rfl
    · by_cases h12 : c = 0x12
      · subst h12; rfl
      · simp [h6, h10, h12]

theorem failing_copyopChecks (a : Addr) : failing (copyopChecks l a) = firstTrap (copyopRules (CpyDesc.of l) a) := by
  have hunit : (if [0x06, 0x10, 0x12].contains (CpyDesc.of l).ctype then ((elemBytes (CpyDesc.of l).ctype : Nat) : Int) else 1) =
      copyUnit l := copyUnit_eq l
  unfold copyopChecks copyopRules copySlots
  dsimp only
  rw [hunit, Bool.decide_eq_false]
  simp only [CpyDesc.of, failing_cons, failing_nil, firstTrap_cons, firstTrap_nil, Option.or_none, spaceOf_eq, toNat_ofNat_field,
    sgn_eq_toInt (show 0 < 32 by decide), copyInt, List.contains_eq_mem]
  simp only [descTrap, descriptorBad]
  rfl

def copySlotChecks (i : Inst) (a : Addr) : List (Bool × Trap) :=
  [(decide (field l 8 8 / 2 ^ 4 % 16 = 0) && decide (field l 8 8 / 2 ^ 31 = 0) && decide (copyOffset l % 64 = 0), descriptorBad 0 8 a),
   ((copyTargets (field l 8 8) (field l 52 4)).all (fun c => decide (c.1 < i.image.w) && decide (c.2 < i.image.h)),
    { cause := .remoteOutsideDomain, detail := 0x0A01, taddr := a }),
   ((copyDst l).all (fun o => decide (0 ≤ o ∧ o ≤ 32767)), descriptorBad 0 8 a)]

theorem failing_copySlotChecks (i : Inst) (a : Addr) : failing (copySlotChecks l i a) = firstTrap (slotRules i (CpyDesc.of l) a) := by
  have hres := slot_reserved (field_lt l 8 8)
  unfold copySlotChecks slotRules
  rw [targets_isSome, dstEnds_eq]
  simp only [CpyDesc.of, CpyDesc.slotOff]
  simp only [failing_cons, failing_nil, firstTrap_cons, firstTrap_nil, Option.or_none, toNat_ofNat_field, hres, Bool.decide_and]
  simp only [descTrap, descriptorBad]
  rfl

end

/-- Where a copy goes: a designated slot of the domain, or memory. -/
theorem failing_copyDst (s : State) (u : Issue) (i : Inst) (a : Addr) (l : List Byte) :
    failing (if copySlots l then copySlotChecks l i a else spanChecks s u.p true (copyDst l)) =
      (if (CpyDesc.of l).dkind then none else spanTrap s u.p true (CpyDesc.of l).dstEnds).or
        (firstTrap (if (CpyDesc.of l).dkind then slotRules i (CpyDesc.of l) a else [])) := by
  have hk : (CpyDesc.of l).dkind = copySlots l := rfl
  rw [hk]
  cases copySlots l
  · rw [if_neg Bool.false_ne_true, if_neg Bool.false_ne_true, if_neg Bool.false_ne_true, failing_spanChecks, dstEnds_eq, firstTrap_nil,
      Option.or_none]
  · rw [if_pos rfl, if_pos rfl, if_pos rfl, failing_copySlotChecks, Option.none_or]

/-- The source bytes that a copy checks (R180, log entry 102). -/
def copySrc (form : CpyForm) (l : List Byte) : List Int :=
  if form = .copyg then [((field l 0 8 : Nat) : Int), ((field l 0 8 : Nat) : Int) + field l 16 4 - 1]
  else copyEnds l (field l 0 8) (copyInt l 28) (copyInt l 32)

theorem copySrc_eq (form : CpyForm) (l : List Byte) : copySrc form l = match form with
    | .copyg => [((CpyDesc.of l).src.toNat : Int), (CpyDesc.of l).src.toNat + (CpyDesc.of l).len0 - 1]
    | _ => corners (CpyDesc.of l).src.toNat (CpyDesc.of l).sstride1 (CpyDesc.of l).sstride2 (CpyDesc.of l).count1 (CpyDesc.of l).count2
        (CpyDesc.of l).len0 := by
  simp only [CpyDesc.of, toNat_ofNat_field, sgn_eq_toInt (show 0 < 32 by decide)]
  cases form <;> rfl

theorem cpy_checks (s : State) (u : Issue) (form : CpyForm) (a : Addr) (l : List Byte) :
    let i := s.instAt u.p
    let e := field l 44 2
    Checks (copyFieldChecks l form a ++ (if form = .copyop then copyopChecks l a else []) ++ spanChecks s u.p false (copySrc form l) ++
      (if copySlots l then copySlotChecks l i a else spanChecks s u.p true (copyDst l)) ++
      eventChecks i (u.p / 4) 0 e (descriptorBad 0 44 a) a ++
      [(!(copySlots l && contributes i (u.p / 4) 0 e), descriptorBad 0 44 a),
       (!decide (field l 49 1 % 2 = 1) || (!copySlots l && inPair i e (copyDst l)), descriptorBad 0 49 a)] ++
      orderFieldChecks (field l 46 2) 46 a) (cpyCommand s form u a l) (Issuing s u) := by
  dsimp only
  have hop : failing (if form = .copyop then copyopChecks l a else []) =
      firstTrap (if form = .copyop then copyopRules (CpyDesc.of l) a else []) := by
    split
    · exact failing_copyopChecks l a
    · rfl
  refine checks_of_firstTrap ?_ rfl
  simp only [failing_append, failing_cons, failing_nil, firstTrap_append, firstTrap_cons, firstTrap_nil, Option.or_none, Option.or_assoc,
    failing_copyFieldChecks, hop, failing_spanChecks, failing_copyDst, failing_eventChecks,
    failing_orderFieldChecks _ (show 46 < 256 by decide), publishOk_eq, dstEnds_eq, copySrc_eq, descTrap_eq (show 49 < 256 by decide),
    descTrap_eq (show 44 < 256 by decide)]
  rfl

end Sys2Proof.Machine
end

section
/-! PROOFS. The checks of the conversions (R191 to R193). -/

namespace Sys2Proof.Machine

/-! ### Conversions (R191 to R193) -/

/-- The format pairs of R192. -/
def cnvPairs (form : CnvForm) (x y : Tid) : Bool := decide (x.sparse = 0) && decide (x.fmt ≠ 0x20) && match form with
  | .conv => decide (y.sparse = 0) && decide (y.fmt ≠ 0x20)
  | .planes => decide (x.fmt = 0x03) && decide (y.fmt = 0x20)
  | .sparsify => decide (x.fmt ∈ [0x12, 0x11, 0x13, 0x14, 0x03, 0x01]) && decide (y.fmt = x.fmt) && decide (y.sparse ≠ 0)
  | .scalec => decide (x.fmt ∈ [0x10, 0x11, 0x12]) && decide (y.fmt ∈ [0x03, 0x01, 0x13, 0x14]) && decide (y.sparse = 0) &&
      decide (y.smode ≠ 0)

theorem cnvPair_eq (form : CnvForm) (x y : Tid) : cnvPair form x y = cnvPairs form x y := by
  cases form <;> simp [cnvPair, cnvPairs, sparseFmt]

theorem testBit_eq_bitsN (x b : Nat) : decide (bitsN x b 1 = 1) = x.testBit b := by
  rw [Nat.testBit_eq_decide_div_mod_eq]
  rfl

section
variable (s : State) (u : Issue) (form : CnvForm) (l : List Byte)

/-- The entries, the rows and the planes of a conversion. -/
def cnvSrc : Tid := (s.instAt u.p).tid (field l 0 1)
def cnvDst : Tid := (s.instAt u.p).tid (field l 1 1)
def cnvRows : Nat := if field l 12 4 = 0 then (cnvSrc s u l).rows - field l 8 4 else field l 12 4
def cnvPlanes : Nat := if (cnvDst s u l).fmt = 0x20 then 8 else 1
def cnvEnds : List Int := rowEnds (cnvDst s u l) (cnvPlanes s u l) (field l 8 4) (cnvRows s u l)
def cnvSlot : Bool := (field l 2 1).testBit 3

def cnvFieldChecks (a : Addr) : List (Bool × Trap) :=
  [(decide (field l 0 1 < 64), descriptorBad 0 0 a), (decide (field l 1 1 < 64), descriptorBad 0 1 a),
   (decide (field l 2 1 < 16), descriptorBad 0 2 a),
   (decide (field l 3 1 < 32) && (cnvSlot l || decide (field l 3 1 % 16 = 0)), descriptorBad 0 3 a),
   (if cnvSlot l then decide (field l 16 4 % 64 = 0) else decide (field l 16 4 = 0), descriptorBad 0 16 a),
   ((List.range' 20 12).all (fun o => decide (field l o 1 = 0)), descriptorBad 0 20 a)]

def cnvEntryChecks (a : Addr) : List (Bool × Trap) :=
  [tidCheck (s.instAt u.p) (field l 0 1), tidCheck (s.instAt u.p) (field l 1 1),
   (decide ((cnvSrc s u l).rows = (cnvDst s u l).rows) && decide ((cnvSrc s u l).cols = (cnvDst s u l).cols), descriptorBad 0 1 a),
   (decide (field l 8 4 ≤ (cnvSrc s u l).rows) && decide (field l 8 4 + cnvRows s u l ≤ (cnvSrc s u l).rows), descriptorBad 0 8 a),
   (cnvPairs form (cnvSrc s u l) (cnvDst s u l), descriptorBad 0 1 a),
   (decide (form ≠ .scalec) || decide ((cnvDst s u l).smode ≠ 2) ||
     (decide (field l 8 4 = 0) && decide (cnvRows s u l = (cnvSrc s u l).rows)), descriptorBad 0 8 a)]

theorem cnv_checks (a : Addr) :
    Checks (cnvFieldChecks l a ++ cnvEntryChecks s u form l a ++
      spanChecks s u.p false (rowEnds (cnvSrc s u l) 1 (field l 8 4) (cnvRows s u l)) ++
      (if cnvSlot l then
        [(decide (field l 16 4 + ((cnvPlanes s u l - 1) * (cnvDst s u l).rows + cnvRows s u l) * (cnvDst s u l).rowLen ≤ 32768),
          descriptorBad 0 16 a)]
       else spanChecks s u.p true (cnvEnds s u l)) ++
      eventChecks (s.instAt u.p) (u.p / 4) 1 (field l 4 2) (descriptorBad 0 4 a) a ++
      [(!(cnvSlot l && contributes (s.instAt u.p) (u.p / 4) 1 (field l 4 2)), descriptorBad 0 4 a),
       (!(field l 3 1).testBit 4 || (!cnvSlot l && inPair (s.instAt u.p) (field l 4 2) (cnvEnds s u l)), descriptorBad 0 3 a)] ++
      orderFieldChecks (field l 6 2) 6 a) (cnvCommand s form u a l) (Issuing s u) := by
  have hr : List.range' 20 12 = (List.range 12).map (fun o => 20 + o) := by decide
  have hall : (List.range' 20 12).all (fun o => decide (field l o 1 = 0)) =
      (List.range 12).all (fun o => decide (field l (20 + o) 1 = 0)) := by
    rw [hr, List.all_map]
    rfl
  have hdst : ∀ t, failing (if cnvSlot l then [t] else spanChecks s u.p true (cnvEnds s u l)) =
      if cnvSlot l then need t.1 t.2 else spanTrap s u.p true (cnvEnds s u l) := fun t => by
    cases cnvSlot l
    · exact failing_spanChecks ..
    · rw [if_pos rfl, if_pos rfl, failing_cons, failing_nil, Option.or_none]
  refine checks_of_firstTrap ?_ rfl
  unfold cnvFieldChecks cnvEntryChecks
  simp only [failing_append, failing_cons, failing_nil, firstTrap_append, firstTrap_cons, firstTrap_nil, Option.or_none, Option.or_assoc,
    hall, hdst, failing_spanChecks, failing_eventChecks, failing_orderFieldChecks _ (show 6 < 256 by decide), publishOk_eq, cnvPair_eq,
    testBit_eq_bitsN]
  simp only [descTrap, descriptorBad]
  rfl

end

end Sys2Proof.Machine
end

section
/-! PROOFS. Choice records (R164 to R167): their header, their poison and their entries, and O35. -/

namespace Sys2Proof.Machine

/-! ### Results that a list of checks decides -/

/-- The trap of the first failing check, or `x` where none fails. -/
def Decides {α : Type} (r : Except Trap α) (l : List (Bool × Trap)) (x : α) : Prop :=
  r = match failing l with
    | some t => .error t
    | none => .ok x

section
variable {α β : Type} {r : Except Trap α} {l m : List (Bool × Trap)} {x : α} {t : Trap}

theorem Decides.ok (x : α) : Decides (.ok x) [] x := rfl

theorem Decides.checks {ok : α → Prop} (h : Decides r l x) (hx : ok x) : Checks l r ok := by
  unfold Decides failing at h
  subst h
  unfold Checks
  cases l.find? (fun c => !c.1) with
  | some c => rfl
  | none => exact ⟨x, rfl, hx⟩

theorem Decides.ite {p : Prop} [Decidable p] {ok : Bool} (h : ok = true ↔ ¬ p) (hr : ¬ p → Decides r l x) :
    Decides (if p then .error t else r) ((ok, t) :: l) x := by
  unfold Decides at *
  rw [failing_cons]
  by_cases hp : p
  · rw [if_pos hp, (Bool.not_eq_true ok).mp (fun h' => h.mp h' hp)]
    rfl
  · rw [if_neg hp, hr hp, h.mpr hp]
    rfl

/-- The failing of a check decides, whatever those after it. -/
theorem Decides.fail (l : List (Bool × Trap)) : Decides (.error t : Except Trap α) ((false, t) :: l) x := rfl

theorem Decides.pass (h : Decides r l x) : Decides r ((true, t) :: l) x := h

/-- A result that goes on from an earlier one. -/
theorem Decides.bind {q : Except Trap β} {y : β} {r' : Except Trap α} (hq : Decides q m y) (hr : Decides r' l x)
    (herr : ∀ e, q = .error e → r = .error e) (hok : q = .ok y → r = r') : Decides r (m ++ l) x := by
  unfold Decides at *
  rw [failing_append]
  cases hm : failing m with
  | some e =>
    rw [hm] at hq
    exact herr e hq
  | none =>
    rw [hm] at hq
    rw [hok hq, Option.none_or]
    exact hr

theorem Decides.after {o : Option Trap} (ho : failing m = o) (hr : Decides r l x) :
    Decides (match o with | some e => .error e | none => r) (m ++ l) x := by
  subst ho
  unfold Decides at *
  rw [failing_append]
  cases failing m with
  | some e => rfl
  | none => exact hr

end

/-! ### Records in local memory -/

theorem bytes_length (m : Memory) (k n : Nat) : (Memory.bytes m k n).length = n := by
  induction n generalizing k with
  | zero => rfl
  | succ n ih => rw [Memory.bytes, List.length_cons, ih]

theorem bytes_drop (m : Memory) (k n o : Nat) : (Memory.bytes m k n).drop o = Memory.bytes m (k + o) (n - o) := by
  induction o generalizing k n with
  | zero => rfl
  | succ o ih =>
    cases n with
    | zero => simp [Memory.bytes]
    | succ n => rw [Memory.bytes, List.drop_succ_cons, ih, Nat.add_sub_add_right, Nat.add_assoc, Nat.add_comm 1]

theorem bytes_take (m : Memory) (k : Nat) {n o : Nat} (h : o ≤ n) : (Memory.bytes m k n).take o = Memory.bytes m k o := by
  induction o generalizing k n with
  | zero => rfl
  | succ o ih =>
    obtain ⟨n, rfl⟩ := Nat.exists_eq_succ_of_ne_zero (show n ≠ 0 by omega)
    rw [Nat.succ_eq_add_one, Memory.bytes, List.take_succ_cons, ih _ (by omega), Memory.bytes]

/-- A field of bytes read from memory is the number there. -/
theorem field_bytes (m : Memory) (k : Nat) {N o n : Nat} (h : o + n ≤ N) : field (Memory.bytes m k N) o n = Memory.num m (k + o) n := by
  unfold field slice Memory.num
  dsimp only
  rw [bytes_drop, bytes_take _ _ (show n ≤ N - o by omega), bytes_length, Nat.sub_self, List.replicate_zero, List.append_nil]

theorem num_lt (m : Memory) (k n : Nat) : Memory.num m k n < 256 ^ n := by
  have := leNat_lt (Memory.bytes m k n)
  rwa [bytes_length] at this

/-- The poisoned doublewords of an aligned range, checked from the lowest up (R141, R167). -/
theorem failing_poison (s : State) {p off n : Nat} (a : Addr) (k : Acc) (hoff : off % 8 = 0) (hn : n % 8 = 0) :
    failing ((List.range (n / 8)).map (fun d => (decide (keyLocal p off / 8 + d ∉ s.poison),
      { cause := .poisonConsumed, detail := k.detail, taddr := a + BitVec.ofNat 64 (8 * d) }))) = localPoison s p off n a k := by
  have hkey : keyLocal p off = 8 * (keyLocal p off / 8) := by
    unfold keyLocal
    omega
  have hpos : 0 < keyLocal p off / 8 := by
    unfold keyLocal
    omega
  unfold localPoison poisonedAt firstPoison dwords
  generalize keyLocal p off / 8 = w at *
  have hcount : (8 * w + n - 1) / 8 + 1 - w = n / 8 := by omega
  rw [hkey, hcount]
  simp only [decide_not, failing_map, List.any_map, List.find?_map, Function.comp_def, List.contains_eq_mem, Nat.add_comm _ w]
  rw [← List.isSome_find?]
  cases (List.range (n / 8)).find? (fun d => decide (w + d ∈ s.poison)) with
  | none => rfl
  | some d =>
    dsimp only [Option.map_some, Option.isSome_some]
    rw [if_pos rfl, Nat.mul_add, Nat.add_sub_cancel_left]
    rfl

/-! ### Choice records (R164 to R167) -/

section
variable (s : State) (u : Issue) (a : Addr)

/-- The record in local memory: where it lies, its numbers, its entries. -/
def recordLow : Nat := a.toNat % 2 ^ 17
def recordNum (o n : Nat) : Nat := Memory.num s.mem (keyLocal u.p (recordLow a) + o) n
def recordEntry (j : Nat) : OfferEntry :=
  { ev := recordNum s u a (16 + 16 * j) 2 % 2 ^ 10, role := recordNum s u a (16 + 16 * j + 2) 1,
    cbuf := recordNum s u a (16 + 16 * j + 4) 4, rbuf := recordNum s u a (16 + 16 * j + 8) 4, len := recordNum s u a (16 + 16 * j + 12) 4 }

/-- EVENT_CHOICE_INVALID with its entry and its reason. -/
def choiceBad (j r : Nat) : Trap := { cause := .eventChoiceInvalid, detail := BitVec.ofNat 16 (j + 8 * r), taddr := a }
def lengthBad (j : Nat) (recv : Bool) : Trap :=
  { cause := .eventLength, detail := BitVec.ofNat 16 (j + if recv then 8 else 0), taddr := a }

/-- The node's own entry in the list of participants of entry `j`'s event. -/
def recordPart (j : Nat) : Participant :=
  (((s.instAt u.p).event (recordEntry s u a j).ev).parts.find? (fun q => decide (q.pkind = 0) && decide (q.id = u.n.ordinal))).getD
    { id := 0, pkind := 0, role := 0, obs := true }

/-- The checks of entry `j` for a participant `q` (R167). -/
def buffersChecks (j : Nat) (q : Participant) : List (Bool × Trap) :=
  let i := s.instAt u.p
  let r := recordEntry s u a j
  let v := i.event r.ev
  let c := s.cell u.p
  let cnt := recordNum s u a 0 1
  let gives := decide (q.role = 1 ∨ q.role = 3)
  let takes := decide (q.role = 2 ∨ q.role = 3)
  let inl := takes && !v.gran
  let room := if v.gran then i.windowSize else localSize
  let need := if v.kind = 3 then v.len * (v.parts.filter (fun q => !q.obs && decide (q.role = 1 ∨ q.role = 3))).length else v.len
  [(decide (r.role = q.role), choiceBad a j 4),
   ((gives || decide (r.cbuf = 0)) && (inl || decide (r.rbuf = 0)) && (gives || takes || decide (r.len = 0)), choiceBad a j 1),
   ((v.gran || (decide (r.cbuf % 8 = 0) && decide (r.rbuf % 8 = 0))) && (!gives || decide (r.cbuf + r.len ≤ room)) &&
     (!inl || decide (r.rbuf + r.len ≤ room)), choiceBad a j 5),
   (!(inl && (overlaps r.rbuf r.len c.codeOff c.codeLen || overlaps r.rbuf r.len (recordLow a) (16 + 16 * cnt))), choiceBad a j 6),
   (decide (q.role ≠ 1) || decide (r.len = v.len), lengthBad a j false),
   (!takes || (decide (need ≤ r.len) && (v.gran || decide (r.len % 8 = 0))), lengthBad a j true)]

def entryChecks (j : Nat) : List (Bool × Trap) :=
  let i := s.instAt u.p
  let r := recordEntry s u a j
  let v := i.event r.ev
  [(decide (recordNum s u a (16 + 16 * j) 2 / 2 ^ 10 = 0) && decide (recordNum s u a (16 + 16 * j + 3) 1 = 0), choiceBad a j 1),
   (decide (r.ev < i.image.events.length), choiceBad a j 2),
   (decide (r.ev ∉ (List.range j).map (fun h => (recordEntry s u a h).ev)), choiceBad a j 3),
   (v.parts.any (fun q => decide (q.pkind = 0) && decide (q.id = u.n.ordinal)),
    { cause := .eventNotParticipant, detail := BitVec.ofNat 16 (r.ev + 2 ^ 10 * j), taddr := a })] ++
  buffersChecks s u a j (recordPart s u a j)

/-- The sixteen bytes of entry `j`. -/
def recordRaw (j : Nat) : RawEntry := RawEntry.of (Memory.bytes s.mem (keyLocal u.p (recordLow a) + 16 + 16 * j) 16)

theorem recordRaw_eq (j : Nat) : recordRaw s u a j =
    { ev := (recordEntry s u a j).ev, high := recordNum s u a (16 + 16 * j) 2 / 2 ^ 10, role := (recordEntry s u a j).role,
      mbz := recordNum s u a (16 + 16 * j + 3) 1, cbuf := (recordEntry s u a j).cbuf, rbuf := (recordEntry s u a j).rbuf,
      len := (recordEntry s u a j).len } := by
  have hf : ∀ o n, o + n ≤ 16 → field (Memory.bytes s.mem (keyLocal u.p (recordLow a) + 16 + 16 * j) 16) o n =
      recordNum s u a (16 + 16 * j + o) n := fun o n h => by
    rw [field_bytes _ _ h, recordNum, Nat.add_assoc (keyLocal _ _), Nat.add_assoc (keyLocal _ _)]
  have hlt : recordNum s u a (16 + 16 * j) 2 < 2 ^ 16 := num_lt ..
  unfold recordRaw RawEntry.of recordEntry bitsN
  rw [hf 0 2 (by decide), hf 2 1 (by decide), hf 3 1 (by decide), hf 4 4 (by decide), hf 8 4 (by decide), hf 12 4 (by decide),
    Nat.add_zero, pow_zero, Nat.div_one, Nat.mod_eq_of_lt (show recordNum s u a (16 + 16 * j) 2 / 2 ^ 10 < 2 ^ 6 by omega)]

theorem choiceInvalid_eq (j r : Nat) : choiceInvalid j r a = choiceBad a j r := by
  unfold choiceInvalid choiceBad
  rw [Nat.mul_comm]

/-- The tests of an entry's buffers, and when they hold: of a participant that gives or takes, in a granary bin or inline. -/
theorem unused_zero (gives takes gran : Bool) (c r l : Nat) :
    ((gives || decide (c = 0)) && (takes && !gran || decide (r = 0)) && (gives || takes || decide (l = 0))) = true ↔
      ¬ (!gives && decide (c ≠ 0) || !(takes && !gran) && decide (r ≠ 0) || !gives && !takes && decide (l ≠ 0)) = true := by
  cases gives <;> cases takes <;> cases gran <;> simp [and_assoc]

theorem buffers_fit (gives takes gran : Bool) (c r l room : Nat) :
    ((gran || (decide (c % 8 = 0) && decide (r % 8 = 0))) && (!gives || decide (c + l ≤ room)) &&
        (!(takes && !gran) || decide (r + l ≤ room))) = true ↔
      ¬ (decide (c % (if gran then 1 else 8) ≠ 0) || decide (r % (if gran then 1 else 8) ≠ 0) || gives && decide (room < c + l) ||
        takes && !gran && decide (room < r + l)) = true := by
  cases gran <;> cases gives <;> cases takes <;> simp [Nat.mod_one, and_assoc]

theorem required_givers (v : EventEntry) : v.required.filter (fun q => decide (q.role = 1 ∨ q.role = 3)) =
    v.parts.filter (fun q => !q.obs && decide (q.role = 1 ∨ q.role = 3)) := by
  unfold EventEntry.required
  rw [List.filter_filter]
  simp only [Bool.and_comm]

theorem length_ok (takes gran : Bool) (l cap : Nat) :
    (!takes || (decide (cap ≤ l) && (gran || decide (l % 8 = 0)))) = true ↔
      ¬ (takes && (decide (l < cap) || !gran && decide (l % 8 ≠ 0))) = true := by
  cases takes <;> cases gran <;> simp

/-- Checks 7 to 10 of R167 on one entry. -/
theorem checkEntry_decides (j : Nat) :
    Decides (checkEntry (s.instAt u.p) (s.cell u.p) u.n.ordinal a (recordLow a) (recordLow a + 16 + 16 * recordNum s u a 0 1)
      ((List.range j).map (fun h => (recordEntry s u a h).ev)) j (recordRaw s u a j)) (entryChecks s u a j) (recordEntry s u a j) := by
  rw [recordRaw_eq]
  unfold checkEntry entryChecks
  dsimp only
  simp only [choiceInvalid_eq]
  refine Decides.ite (by simp) fun _ => Decides.ite (by simp) fun _ => Decides.ite (by simp) fun _ => ?_
  unfold recordPart EventEntry.nodePart
  rw [← List.isSome_find?]
  cases ((s.instAt u.p).event (recordEntry s u a j).ev).parts.find? (fun q => decide (q.pkind = 0) && decide (q.id = u.n.ordinal)) with
  | none =>
    rw [Nat.mul_comm (2 ^ 10)]
    exact Decides.fail _
  | some q =>
    refine Decides.pass ?_
    unfold buffersChecks
    simp only [Option.getD_some]
    have hlen : recordLow a + 16 + 16 * recordNum s u a 0 1 - recordLow a = 16 + 16 * recordNum s u a 0 1 := by omega
    rw [hlen, required_givers]
    refine Decides.ite (by simp) fun _ => Decides.ite (unused_zero ..) fun _ => Decides.ite (buffers_fit ..) fun _ =>
      Decides.ite (by rw [Bool.not_eq_true', Bool.not_eq_true]) fun _ => Decides.ite (by simp [imp_iff_not_or]) fun _ =>
      Decides.ite (length_ok ..) fun _ => Decides.ok _

/-- The entries in ascending order. -/
theorem checkEntries_decides (n j : Nat) :
    Decides (checkEntries (s.instAt u.p) (s.cell u.p) u.n.ordinal a (recordLow a) (recordLow a + 16 + 16 * recordNum s u a 0 1)
      ((List.range' j n).map (recordRaw s u a)) ((List.range j).map (recordEntry s u a)) j)
      ((List.range' j n).flatMap (entryChecks s u a)) ((List.range (j + n)).map (recordEntry s u a)) := by
  induction n generalizing j with
  | zero => exact Decides.ok _
  | succ n ih =>
    rw [List.range'_succ, List.map_cons, List.flatMap_cons, checkEntries, List.map_map]
    have hnext := ih (j + 1)
    rw [List.range_succ, List.map_append, Nat.add_right_comm j] at hnext
    refine Decides.bind (checkEntry_decides s u a j) hnext (fun e h => ?_) (fun h => ?_)
    · rw [Function.comp_def, h]
    · rw [Function.comp_def, h]
      rfl

/-- What the record must pass before its entries are looked at (R164, R167). -/
def headerChecks (k : Acc) : List (Bool × Trap) :=
  let low := recordLow a
  let c := s.cell u.p
  let cnt := recordNum s u a 0 1
  [(decide (a.toNat / 2 ^ 60 = 0) || (decide (a.toNat / 2 ^ 60 = 1) && decide (a.toNat / 2 ^ 17 % 2 ^ 11 = c.lcell)),
      { cause := .addressSpace, detail := k.detail, taddr := a }),
    (!(overlaps low 16 c.codeOff c.codeLen), { cause := .pageProtection, detail := 0x601, taddr := a }),
    (decide (a.toNat % 16 = 0), { cause := .misaligned, detail := k.detail, taddr := a })] ++
  (List.range (min (2 + 2 * min cnt 8) ((localSize - low) / 8))).map (fun d =>
    (decide (keyLocal u.p low / 8 + d ∉ s.poison),
     { cause := .poisonConsumed, detail := k.detail, taddr := a + BitVec.ofNat 64 (8 * d) })) ++
  [(decide (1 ≤ cnt ∧ cnt ≤ 8), choiceBad a 0 0), (decide (recordNum s u a 0 4 / 2 ^ 9 = 0), choiceBad a 0 1),
   (decide (low + 16 + 16 * cnt ≤ localSize), choiceBad a 0 0)]

theorem ownLocal_iff : ownLocal s u.p a =
    (decide (a.toNat / 2 ^ 60 = 0) || (decide (a.toNat / 2 ^ 60 = 1) && decide (a.toNat / 2 ^ 17 % 2 ^ 11 = (s.cell u.p).lcell))) := by
  unfold ownLocal
  rw [spaceOf_eq]
  rfl

theorem checkOffer_decides {pl : Place} (h : checkAccess s u.p a { size := 8, rd := true } = .ok pl) :
    Decides (checkOffer s u a)
      (headerChecks s u a { size := 8, rd := true } ++ (List.range (recordNum s u a 0 1)).flatMap (entryChecks s u a))
      ((List.range (recordNum s u a 0 1)).map (recordEntry s u a)) := by
  have hn : (Memory.get s.mem (keyLocal u.p (bitsN a.toNat 0 17))).toNat = recordNum s u a 0 1 := by
    simp [recordNum, recordLow, Memory.num, Memory.bytes, leNat, bitsN]
  have hlow : bitsN a.toNat 0 17 = recordLow a := by simp [bitsN, recordLow]
  have hnum : Memory.num s.mem (keyLocal u.p (recordLow a)) 4 = recordNum s u a 0 4 := rfl
  have hhdr : bitsN (recordNum s u a 0 4) 9 23 = recordNum s u a 0 4 / 2 ^ 9 :=
    Nat.mod_eq_of_lt (by have : recordNum s u a 0 4 < 2 ^ 32 := num_lt ..; omega)
  unfold checkOffer
  dsimp only
  rw [h]
  dsimp only
  rw [hn, hlow, hnum, hhdr]
  simp only [choiceInvalid_eq]
  unfold headerChecks
  simp only [List.append_assoc, List.cons_append, List.nil_append]
  refine Decides.ite (by rw [← ownLocal_iff, Bool.not_eq_true', Bool.not_eq_false]) fun _ =>
    Decides.ite (by rw [Bool.not_eq_true', ← Bool.not_eq_true]; rfl) fun _ =>
    Decides.ite (by simp) fun hal => Decides.after ?_ (Decides.ite (by simp; omega) fun _ => Decides.ite (by simp) fun _ =>
      Decides.ite (by simp) fun _ => ?_)
  · have hal8 : recordLow a % 8 = 0 := by unfold recordLow; omega
    have hsize : localSize = 98304 := rfl
    rw [← failing_poison s a _ hal8 (by omega)]
    congr 3
    omega
  · have := checkEntries_decides s u a (recordNum s u a 0 1) 0
    rw [Nat.zero_add, ← List.range_eq_range'] at this
    exact this

end

end Sys2Proof.Machine

open Sys2Proof.Machine

/-- Settles O35: each command takes the first trap of a list of checks that fails in step with the statement's (`checks_of_firstTrap`),
and the record of an OFFER is decided by its header, its poison and its entries in turn (`checkOffer_decides`). -/
theorem commandChecks : Obligations.CommandChecks := by
  unfold Obligations.CommandChecks
  intro s u
  refine ⟨fun x y oc => ⟨mma_checks s u x y oc, mzero_checks s u x oc⟩, mdrain_checks s u, cpy_checks s u,
    fun form a l => cnv_checks s u form l a, fun a => ⟨fun t h => ?_, fun pl h => (checkOffer_decides s u a h).checks rfl⟩⟩
  unfold checkOffer
  dsimp only
  rw [h]

end

section
/-! PROOFS. Rows of packed elements as numbers (R39, R40, R54). -/

namespace Sys2Proof.Machine

/-! ### Bits of packed rows (R39, R40) -/

theorem leNat_append (l m : List Byte) : leNat (l ++ m) = leNat l + 256 ^ l.length * leNat m := by
  induction l with
  | nil => simp [leNat]
  | cons b l ih =>
    rw [List.cons_append, leNat, ih, leNat, List.length_cons, pow_succ]
    ring

theorem leNat_replicate_zero (n : Nat) : leNat (List.replicate n 0) = 0 := by
  induction n with
  | zero => rfl
  | succ n ih => rw [List.replicate_succ, leNat, ih]; rfl

theorem leNat_split (l : List Byte) (o : Nat) : leNat l = leNat (l.take o) + 256 ^ o * leNat (l.drop o) := by
  rcases Nat.lt_or_ge l.length o with h | h
  · rw [List.take_of_length_le h.le, List.drop_of_length_le h.le]
    rfl
  · conv_lhs => rw [← List.take_append_drop o l, leNat_append, List.length_take, Nat.min_eq_left h]

theorem leNat_take_lt (l : List Byte) (o : Nat) : leNat (l.take o) < 256 ^ o :=
  lt_of_lt_of_le (leNat_lt _) (Nat.pow_le_pow_right (by decide) (List.length_take_le o l))

theorem leNat_drop (l : List Byte) (o : Nat) : leNat (l.drop o) = leNat l / 256 ^ o := by
  rw [leNat_split l o, Nat.add_mul_div_left _ _ (by positivity), Nat.div_eq_of_lt (leNat_take_lt l o), Nat.zero_add]

theorem leNat_take (l : List Byte) (o : Nat) : leNat (l.take o) = leNat l % 256 ^ o := by
  rw [leNat_split l o, Nat.add_mul_mod_self_left, Nat.mod_eq_of_lt (leNat_take_lt l o)]

theorem leNat_slice (l : List Byte) (o n : Nat) : leNat (slice l o n) = leNat l / 256 ^ o % 256 ^ n := by
  unfold slice
  dsimp only
  rw [leNat_append, leNat_replicate_zero, Nat.mul_zero, Nat.add_zero, leNat_take, leNat_drop]

theorem pow_256 (n : Nat) : 256 ^ n = 2 ^ (8 * n) := pow_mul 2 8 n |>.symm

/-- A field of bits inside a field of bits. -/
theorem div_mod_div_mod (x : Nat) {a b c w : Nat} (h : b + w ≤ c) : x / 2 ^ a % 2 ^ c / 2 ^ b % 2 ^ w = x / 2 ^ (a + b) % 2 ^ w := by
  obtain ⟨d, rfl⟩ := Nat.exists_eq_add_of_le h
  rw [pow_add 2 a, ← Nat.div_div_eq_div_mul, Nat.add_assoc, pow_add 2 b, Nat.mod_mul_right_div_self, pow_add, Nat.mod_mul_right_mod]

/-- An element is the bits of its place in the row. -/
theorem elemOf_eq (w c : Nat) (l : List Byte) : elemOf w l c = leNat l / 2 ^ (w * c) % 2 ^ w := by
  unfold elemOf
  rw [leNat_slice, pow_256, pow_256, div_mod_div_mod _ (by omega), Nat.div_add_mod]

/-- The elements of a row as one number, lowest first. -/
def packed (w : Nat) (l : List Nat) : Nat := l.foldr (fun x acc => x + 2 ^ w * acc) 0

theorem packed_cons (w x : Nat) (l : List Nat) : packed w (x :: l) = x + 2 ^ w * packed w l := rfl

theorem packed_lt {w : Nat} {l : List Nat} (h : ∀ y ∈ l, y < 2 ^ w) : packed w l < 2 ^ (w * l.length) := by
  induction l with
  | nil => exact Nat.one_pos
  | cons x l ih =>
    have hx := h x List.mem_cons_self
    have hl := ih fun y hy => h y (List.mem_cons_of_mem x hy)
    rw [packed_cons, List.length_cons, Nat.mul_succ, Nat.add_comm (w * _), pow_add]
    calc x + 2 ^ w * packed w l < 2 ^ w * (packed w l + 1) := by rw [Nat.mul_succ]; omega
      _ ≤ 2 ^ w * 2 ^ (w * l.length) := Nat.mul_le_mul_left _ hl

theorem packed_elem {w : Nat} {l : List Nat} (h : ∀ y ∈ l, y < 2 ^ w) {c x : Nat} (hx : l[c]? = some x) :
    packed w l / 2 ^ (w * c) % 2 ^ w = x := by
  induction l generalizing c with
  | nil => simp at hx
  | cons y l ih =>
    have hy := h y List.mem_cons_self
    have hp : 0 < 2 ^ w := by positivity
    cases c with
    | zero =>
      obtain rfl : y = x := by simpa using hx
      rw [packed_cons, Nat.mul_zero, pow_zero, Nat.div_one, Nat.add_mul_mod_self_left, Nat.mod_eq_of_lt hy]
    | succ c =>
      rw [packed_cons, Nat.mul_succ, Nat.add_comm (w * c), pow_add, ← Nat.div_div_eq_div_mul, Nat.add_mul_div_left _ _ hp,
        Nat.div_eq_of_lt hy, Nat.zero_add]
      exact ih (fun z hz => h z (List.mem_cons_of_mem y hz)) (by simpa using hx)

theorem packRow_length (w : Nat) (l : List Nat) : (packRow w l).length = (w * l.length + 7) / 8 := Memory.leBytes_length ..

theorem leNat_packRow {w : Nat} {l : List Nat} (h : ∀ y ∈ l, y < 2 ^ w) : leNat (packRow w l) = packed w l := by
  unfold packRow
  rw [Memory.leNat_leBytes, pow_256]
  exact Nat.mod_eq_of_lt (lt_of_lt_of_le (packed_lt h) (Nat.pow_le_pow_right (by decide) (by omega)))

/-- Plane `j` holds bit 7 - j of each element (R54). -/
theorem planeRow_bit {j c q : Nat} {l : List Nat} (h : l[c]? = some q) : leNat (planeRow j l) / 2 ^ c % 2 = q / 2 ^ (7 - j) % 2 := by
  have hbits : ∀ y ∈ l.map (fun q => bitsN q (7 - j) 1), y < 2 ^ 1 := by
    intro y hy
    obtain ⟨q, -, rfl⟩ := List.mem_map.mp hy
    exact Nat.mod_lt _ (by decide)
  have := packed_elem hbits (c := c) (x := bitsN q (7 - j) 1) (by rw [List.getElem?_map, h]; rfl)
  rw [Nat.one_mul] at this
  unfold planeRow
  rw [leNat_packRow hbits]
  exact this

end Sys2Proof.Machine
end

section
/-! PROOFS. The values of elements and of scales, destination formats, drained elements and sums of products (R39, R49, R52, R53, R56, R57). -/

namespace Sys2Proof.Machine

/-! ### Values of elements (R39, R40, R53) -/

/-- The floating formats of elements by their codes, and the widths of the integer ones (R39). -/
def floatCodes : List (Nat × Fmt) := [(0x10, fp32), (0x11, fp16), (0x12, bf16), (0x13, f8a), (0x14, f8b), (0x18, fa40)]
def intCodes : List (Nat × Nat) := [(0x01, 4), (0x02, 6), (0x03, 8), (0x05, 16), (0x06, 32)]

theorem floatCodes_spec {f : Nat × Fmt} (h : f ∈ floatCodes) : fltOf f.1 = some f.2 ∧ f.2.Proper := by
  simp only [floatCodes, List.mem_cons, List.not_mem_nil, or_false] at h
  rcases h with rfl | rfl | rfl | rfl | rfl | rfl
  exacts [⟨rfl, proper_fp32⟩, ⟨rfl, proper_fp16⟩, ⟨rfl, proper_bf16⟩, ⟨rfl, proper_f8a⟩, ⟨rfl, proper_f8b⟩, ⟨rfl, proper_fa40⟩]

theorem intCodes_spec {f : Nat × Nat} (h : f ∈ intCodes) :
    fltOf f.1 = none ∧ f.1 ≠ 0x04 ∧ fmtBits f.1 = f.2 ∧ 0 < f.2 ∧ f.2 ≤ 32 := by
  simp only [intCodes, List.mem_cons, List.not_mem_nil, or_false] at h
  rcases h with rfl | rfl | rfl | rfl | rfl <;> decide

theorem elemNum_float {c : Nat} {k : Fmt} (h : fltOf c = some k) (x : Nat) : elemNum c x = unpack k x := by
  unfold elemNum
  rw [h]
theorem elemNum_int {c : Nat} (h : fltOf c = none) (h4 : c ≠ 0x04) (x : Nat) : elemNum c x = ofInt false (sgn (fmtBits c) x) 0 := by
  unfold elemNum
  rw [h]
  exact if_neg h4

theorem numInt_ofInt (v : Int) : numInt (ofInt false v 0) = v := by
  unfold ofInt
  split
  · next h => rw [h]; rfl
  · unfold numInt
    simp only [Int.toNat_zero, pow_zero, Nat.mul_one]
    by_cases hn : v < 0
    · rw [decide_eq_true hn, if_pos rfl]
      omega
    · rw [decide_eq_false hn, if_neg Bool.false_ne_true]
      omega

/-- An integer as a value. -/
theorem ofInt_is_int (v : Int) : (ofInt false v 0).Is (decide (v < 0)) ((v.natAbs : ℝ) / (1 : ℕ)) := by
  have h := ofInt_is false v 0
  have hs : (if v = 0 then false else decide (v < 0)) = decide (v < 0) := by
    split
    · next h => rw [h]; rfl
    · rfl
  rw [hs, zpow_zero, mul_one, ← Int.cast_abs, Int.abs_eq_natAbs, Int.cast_natCast] at h
  rwa [Nat.cast_one, div_one]

theorem ofInt_mag (v : Int) : (ofInt false v 0).Mag (decide (v < 0)) v.natAbs 1 := (Num.mag_iff_is Nat.one_pos).mpr (ofInt_is_int v)

/-- A finite value times a finite scale (R53). -/
theorem scaleNum_mag {v : Num} {s : Bool} {n d sc : Nat} (h : v.Mag s n d) (hd : 0 < d) (hf : fp32.isFin sc) :
    (scaleNum v sc).Mag (s != fp32.neg sc) (n * fp32.units (fp32.mag sc)) (d * fp32.one) := by
  have hp := (mulNum_is ((Num.mag_iff_is hd).mp h) (unpack_is proper_fp32 hf)).1
  rw [Num.mag_iff_is (Nat.mul_pos hd fp32.one_pos)]
  push_cast
  rwa [← div_mul_div_comm]

/-- A finite value times an infinite scale. -/
theorem scaleNum_inf {v : Num} {s : Bool} {n d sc : Nat} (h : v.Mag s n d) (hd : 0 < d) (hf : fp32.isInf sc) :
    scaleNum v sc = if n = 0 then .nan else .inf (s != fp32.neg sc) := by
  obtain ⟨m, e, rfl, hm⟩ := h
  have h0 : m = 0 ↔ n = 0 := by
    constructor
    · rintro rfl
      simpa using hm.symm
    · rintro rfl
      simpa [hd.ne'] using hm
  unfold scaleNum
  rw [unpack_inf proper_fp32 hf]
  simp only [mulNum, h0]
  split <;> rfl

theorem scaleNum_nan (v : Num) {sc : Nat} (h : fp32.isNaN sc) : scaleNum v sc = .nan := by
  unfold scaleNum
  rw [unpack_nan proper_fp32 h, mulNum_nan]

/-! ### Destination formats (R49, R52, R192) -/

theorem toElem_float {c : Nat} {k : Fmt} (h : fltOf c = some k) (mode : Nat) (sat : Bool) {s : Bool} {m : Nat} {e : Int} {more : Bool} :
    toElem c mode sat (.fin s m e more) = (roundNum k mode sat (.fin s m e more)).1 := by
  unfold toElem
  rw [h]
  rfl

/-- The comparison of a quotient, as the statements make it. -/
theorem compare_quotient {d : Nat} (hd : 0 < d) (h n one : Nat) :
    compare (h * d) (4 * (n * one)) = compare (h : ℝ) (4 * ((n : ℝ) / d * one)) := by
  rw [compare_cross hd]
  congr 1
  push_cast
  ring

/-- A value known well enough, and an exact one, is rounded once to a floating destination. -/
theorem toElem_rounds {c : Nat} {k : Fmt} (h : fltOf c = some k) (hk : k.Proper) (hf : k.f ≤ 30) {mode : Nat} (hm : mode < 4) (sat : Bool)
    {v : Num} {s : Bool} {n d : Nat} (hd : 0 < d) (hv : v.Near s ((n : ℝ) / d)) :
    ∃ e, Rounds k mode sat s (fun h => compare (h * d) (4 * (n * k.one))) (toElem c mode sat v, e) := by
  have hr := roundNum_near hk hm sat hv hf fun h => compare_quotient hd h n k.one
  obtain ⟨m, g, more, rfl, -⟩ := hv
  rw [toElem_float h]
  exact ⟨_, hr⟩

theorem toElem_rounds_exact {c : Nat} {k : Fmt} (h : fltOf c = some k) (hk : k.Proper) {mode : Nat} (hm : mode < 4) (sat : Bool)
    {v : Num} {s : Bool} {n d : Nat} (hd : 0 < d) (hv : v.Mag s n d) :
    ∃ e, Rounds k mode sat s (fun h => compare (h * d) (4 * (n * k.one))) (toElem c mode sat v, e) := by
  have hr := roundNum_is hk hm sat ((Num.mag_iff_is hd).mp hv) fun h => compare_quotient hd h n k.one
  obtain ⟨m, g, rfl, -⟩ := hv
  rw [toElem_float h]
  exact ⟨_, hr⟩

theorem toElem_float_nan {c : Nat} {k : Fmt} (h : fltOf c = some k) (mode : Nat) (sat : Bool) : toElem c mode sat .nan = k.nan := by
  unfold toElem
  rw [h]
theorem toElem_float_inf {c : Nat} {k : Fmt} (h : fltOf c = some k) (hk : k.Proper) (mode : Nat) (sat s : Bool) :
    toElem c mode sat (.inf s) = if k.inf then k.sign s + (k.maxFin + 1) else if sat then k.sign s + k.maxFin else k.nan := by
  unfold toElem
  rw [h]
  dsimp only
  split
  · next hi => rw [Fmt.infinity_eq hk hi]
  · rfl

/-- The range of an integer destination. -/
def intLow (c w : Nat) : Int := if c = 0x04 then 0 else -2 ^ (w - 1)
def intHigh (c w : Nat) : Int := if c = 0x04 then 255 else 2 ^ (w - 1) - 1

theorem toElem_int {f : Nat × Nat} (h : f ∈ intCodes ++ [(0x04, 8)]) (mode : Nat) (sat : Bool) (v : Num) :
    toElem f.1 mode sat v = ((numToInt mode (intLow f.1 f.2) (intHigh f.1 f.2) v).1 % 2 ^ f.2).toNat := by
  rcases List.mem_append.mp h with h | h
  · obtain ⟨hf, h4, hw, -⟩ := intCodes_spec h
    unfold toElem intLow intHigh unsgn
    rw [hf, if_neg h4, if_neg h4]
    dsimp only
    rw [if_neg h4, hw]
    push_cast
    rfl
  · obtain rfl : f = (0x04, 8) := by simpa using h
    rfl

/-! ### Drained elements (R57) and sums of products (R56) -/

theorem drainElem_eq (itype : Bool) (t : Tid) (x : Nat) (sc : Option Nat) :
    let y := if itype then x % 2 ^ 32 else x % 2 ^ 40
    let own := if itype then 0x06 else 0x18
    drainElem itype t x sc = match sc with
      | none => if t.fmt = own then y else toElem t.fmt 0 t.sat (elemNum own y)
      | some sc => toElem t.fmt 0 t.sat (scaleNum (elemNum own y) sc) := rfl

/-- What is added to an element before -0 is made +0. -/
def fa40Sum (acc : Nat) (a b : Num) : Nat := (roundNum fa40 0 false (addNum 0 (unpack fa40 acc) (mulNum a b).1).1).1

theorem addFa40_eq (acc : Nat) (a b : Num) : addFa40 acc (a, b) = if fa40Sum acc a b = 2 ^ 39 then 0 else fa40Sum acc a b := rfl

/-- An element is never -0. -/
theorem addFa40_ne (acc : Nat) (a b : Num) : addFa40 acc (a, b) ≠ 2 ^ 39 := by
  rw [addFa40_eq]
  split
  · decide
  · next h => exact h

/-- A product of finite values added to a finite element is rounded once. -/
theorem fa40Sum_rounds {acc : Nat} {a b : Num} {sa sb : Bool} {n d m e : Nat} (ha : a.Mag sa n d) (hb : b.Mag sb m e) (hd : 0 < d)
    (he : 0 < e) (hacc : fa40.isFin acc) :
    let p : Int := ((n * m * fa40.one : Nat) : Int) * (if sa = sb then 1 else -1)
    let v : Int := fa40.val acc * ((d * e : Nat) : Int) + p
    let s : Bool := if v = 0 then fa40.neg acc && (sa != sb) else decide (v < 0)
    ∃ x, Rounds fa40 0 false s (fun h => compare (h * (d * e)) (4 * v.natAbs)) (fa40Sum acc a b, x) := by
  have hone := fa40.one_pos'
  have hd' : (0 : ℝ) < d := by exact_mod_cast hd
  have he' : (0 : ℝ) < e := by exact_mod_cast he
  have hp := (mulNum_is ((Num.mag_iff_is hd).mp ha) ((Num.mag_iff_is he).mp hb)).1
  have hr := addNum_rounds (v := fa40.val acc * ((d * e : Nat) : Int) + ((n * m * fa40.one : Nat) : Int) * (if sa = sb then 1 else -1))
    proper_fa40 (show 0 < 4 by decide) false (unpack_is proper_fa40 hacc) hp (Nat.mul_pos hd he) (by
      have hw : withSign (sa != sb) ((n : ℝ) / d * (m / e)) = (n : ℝ) / d * (m / e) * (if sa = sb then 1 else -1) := by
        cases sa <;> cases sb <;> simp [withSign]
      rw [← fa40.val_cast, hw]
      push_cast
      field_simp)
  dsimp only
  generalize fa40.val acc * ((d * e : Nat) : Int) + ((n * m * fa40.one : Nat) : Int) * (if sa = sb then 1 else -1) = v at *
  have hs : (if v = 0 then if fa40.neg acc = (sa != sb) then fa40.neg acc else decide ((0 : Nat) = 2) else decide (v < 0)) =
      if v = 0 then fa40.neg acc && (sa != sb) else decide (v < 0) := by
    congr 1
    cases fa40.neg acc <;> cases (sa != sb) <;> rfl
  rw [hs] at hr
  exact ⟨_, hr⟩

theorem fa40Sum_nan {acc : Nat} {a b : Num} (h : fa40.isNaN acc ∨ (mulNum a b).1 = .nan) : fa40Sum acc a b = fa40.nan := by
  unfold fa40Sum
  rcases h with h | h
  · rw [unpack_nan proper_fa40 h, addNum_nan_left]
    rfl
  · rw [h, addNum_nan]
    rfl

/-- A product that is no number: a NaN, or infinity times zero. -/
theorem mulNum_nan_of {a b : Num} {sa sb : Bool} {d e : Nat}
    (h : a = .nan ∨ b = .nan ∨ (a = .inf sa ∧ b.Mag sb 0 e ∧ 0 < e ∨ b = .inf sb ∧ a.Mag sa 0 d ∧ 0 < d)) :
    (mulNum a b).1 = .nan := by
  have hzero : ∀ {m : Nat} {g : Int} {d : Nat}, 0 < d → m * 2 ^ g.toNat * d = 0 * 2 ^ (-g).toNat → m = 0 := fun hd h => by
    simpa [hd.ne'] using h
  rcases h with rfl | rfl | ⟨rfl, ⟨m, g, rfl, hm⟩, he⟩ | ⟨rfl, ⟨m, g, rfl, hm⟩, hd⟩
  · rfl
  · rw [mulNum_nan]
  · rw [hzero he hm]
    rfl
  · rw [hzero hd hm]
    rfl

/-- A finite product leaves an infinite element as it is. -/
theorem fa40Sum_inf {acc : Nat} {a b : Num} {sa sb : Bool} {n d m e : Nat} (hlt : acc < 2 ^ 40) (ha : a.Mag sa n d) (hb : b.Mag sb m e)
    (h : fa40.isInf acc) : fa40Sum acc a b = acc := by
  obtain ⟨x, g, rfl, -⟩ := ha
  obtain ⟨y, i, rfl, -⟩ := hb
  unfold fa40Sum
  rw [unpack_inf proper_fa40 h]
  refine (Fmt.infinity_eq proper_fa40 rfl (fa40.neg acc)).trans ?_
  rw [← h.2]
  exact (Fmt.pattern_eq (k := fa40) hlt).symm

theorem addFa40_nan {acc : Nat} {a b : Num} (h : fa40Sum acc a b = fa40.nan) : addFa40 acc (a, b) = fa40.nan := by
  rw [addFa40_eq, h]
  decide

theorem addFa40_inf {acc : Nat} {a b : Num} (hi : fa40.isInf acc) (h : fa40Sum acc a b = acc) : addFa40 acc (a, b) = acc := by
  rw [addFa40_eq, h, if_neg]
  rintro rfl
  exact absurd hi.2 (by decide)

/-! ### Quantised values (R193) -/

/-- A magnitude past 32 bits saturates. -/
theorem saturates {lo hi : Int} (hlo : -2 ^ 31 ≤ lo) (hhi : hi < 2 ^ 31) (hle : lo ≤ hi) (s : Bool) {q : Nat}
    (hq : 2 ^ 32 ≤ q) (x : Exc) :
    (if (if s then -(q : Int) else q) < lo then (lo, excInvalid) else if hi < (if s then -(q : Int) else q) then (hi, excInvalid)
      else ((if s then -(q : Int) else q), x)) = (if s then lo else hi, excInvalid) := by
  cases s
  · simp only [Bool.false_eq_true, if_false]
    rw [if_pos (show hi < (q : Int) by omega)]
    split
    · omega
    · rfl
  · simp only [if_true]
    rw [if_pos (by omega)]

/-- A quotient known to 32 bits becomes the integer beside it that the mode names: past 32 bits it saturates as the exact one does. -/
theorem numToInt_near {mode : Nat} (hm : mode < 4) {lo hi : Int} (hlo : -2 ^ 31 ≤ lo) (hhi : hi < 2 ^ 31) (hle : lo ≤ hi) {v : Num}
    {s : Bool} {n d : Nat} (hd : 0 < d) (hv : v.Near s ((n : ℝ) / d)) : ToInt mode lo hi s n d (numToInt mode lo hi v) := by
  obtain ⟨m, e, more, rfl, hX, hmore⟩ := hv
  by_cases he : more = true → e < 0
  · have hq : Nears mode s ((n : ℝ) / d) (quantise mode s m e 0 more) := quantise_nears (e := e) hm (by rwa [sub_zero]) he
    unfold ToInt numToInt
    rw [(nearInt_nears s n hm hd).unique hq]
  · obtain ⟨rfl, hge⟩ := Classical.not_imp.mp he
    have he : 0 ≤ e := not_lt.mp hge
    have hm32 := hmore rfl
    have hquant : (quantise mode s m e 0 true).1 = m * 2 ^ e.toNat := by
      unfold quantise
      rw [if_pos he, sub_zero]
    have hbig : 2 ^ 32 ≤ (quantise mode s m e 0 true).1 := by
      rw [hquant]
      exact hm32.trans (Nat.le_mul_of_pos_right _ (by positivity))
    have hfloor : 2 ^ 32 ≤ n / d := by
      have hd' : (0 : ℝ) < d := by exact_mod_cast hd
      have h1 : (m : ℝ) * 1 ≤ n / d :=
        le_trans (mul_le_mul_of_nonneg_left (one_le_zpow₀ one_le_two he) (Nat.cast_nonneg m)) hX.1.le
      rw [mul_one, le_div_iff₀ hd'] at h1
      exact hm32.trans ((Nat.le_div_iff_mul_le hd).mpr (by exact_mod_cast h1))
    have hnear : 2 ^ 32 ≤ (nearInt mode s n d).1 := by
      refine hfloor.trans ?_
      unfold nearInt
      dsimp only
      exact iteInduction (motive := fun x => n / d ≤ x) (fun _ => Nat.le_succ _) (fun _ => le_rfl)
    unfold ToInt numToInt
    dsimp only
    rw [saturates hlo hhi hle s hbig, saturates hlo hhi hle s hnear]

end Sys2Proof.Machine
end

section
/-! PROOFS. Operand rows: dense, in planes and sparse (R54, R55, R60, R271). -/

namespace Sys2Proof.Machine

/-! ### Operand rows (R54, R55, R60, R271) -/

/-- The bytes that an operand row is read from. -/
theorem readKey_bytes (s : State) (key n : Nat) : (s.readKey key n).map (·.1) = Memory.bytes s.mem key n := by
  unfold State.readKey
  rw [List.map_map]
  induction n generalizing key with
  | zero => rfl
  | succ n ih =>
    rw [List.range_succ_eq_map, List.map_cons, List.map_map, Memory.bytes, ← ih (key + 1)]
    refine congrArg _ (List.map_congr_left fun j _ => ?_)
    dsimp only [Function.comp_apply]
    rw [Nat.succ_eq_add_one, Nat.add_assoc, Nat.add_comm 1]

theorem rowA_dense (s : State) (site sl : Nat) (t : Tid) (r : Nat) {c : Nat} (hc : c < t.cols) (hf : t.fmt ≠ 0x20) (hs : t.sparse = 0) :
    ((rowA s site sl t r).map (Option.map (·.1)))[c]? = some (some (elemNum t.fmt (elemOf (fmtBits t.fmt)
      ((s.readKey (keySlot site sl (r * t.rowLen)) t.rowLen).map (·.1)) c))) := by
  unfold rowA
  rw [if_neg hf, if_neg (not_not_intro hs)]
  dsimp only
  rw [List.map_map, List.getElem?_map, List.getElem?_range hc]
  rfl

/-- The bits of the planes of an element, from the highest plane down, are the high bits of its pattern. -/
theorem planes_fold (b : Nat → Nat) {q k : Nat} (hq : q < 256) (hk : k ≤ 8) (hb : ∀ j, j < k → b j = q / 2 ^ (7 - j) % 2) :
    (List.range k).foldl (fun acc j => 2 * acc + b j) 0 = q / 2 ^ (8 - k) := by
  induction k with
  | zero => exact (Nat.div_eq_of_lt hq).symm
  | succ k ih =>
    rw [List.range_succ, List.foldl_append, ih (by omega) (fun j hj => hb j (by omega)), List.foldl_cons, List.foldl_nil, hb k (by omega)]
    have h1 : 8 - k = (7 - k) + 1 := by omega
    have h2 : 8 - (k + 1) = 7 - k := by omega
    rw [h1, h2, pow_succ, ← Nat.div_div_eq_div_mul]
    omega

theorem nested_eq (k q : Nat) : nested k (q * 2 ^ (8 - k)) = sgn k q * 2 ^ (8 - k) + (if k < 8 then 2 ^ (7 - k) else 0) := by
  unfold nested
  rw [Nat.mul_div_cancel _ (by positivity)]

theorem leNat_mod (l : List Byte) : leNat l % 256 = (l.getD 0 0).toNat := by
  cases l with
  | nil => rfl
  | cons b l =>
    have := b.isLt
    rw [leNat, Nat.add_mul_mod_self_left, Nat.mod_eq_of_lt this]
    rfl

/-- Bit `c` of a row of bytes lies in byte `c` / 8. -/
theorem leNat_bit (l : List Byte) (c : Nat) : bitsN (l.getD (c / 8) 0).toNat (c % 8) 1 = leNat l / 2 ^ c % 2 := by
  have hbyte : l.getD (c / 8) 0 = (l.drop (c / 8)).getD 0 0 := by
    simp [List.getD_eq_getElem?_getD, List.getElem?_drop]
  rw [hbyte, ← leNat_mod, leNat_drop, pow_256, bitsN]
  have h := div_mod_div_mod (leNat l) (a := 8 * (c / 8)) (b := c % 8) (c := 8) (w := 1) (by omega)
  rwa [Nat.div_add_mod] at h

theorem rowA_planes (s : State) (site sl : Nat) (t : Tid) (r : Nat) {c : Nat} (hc : c < t.cols) (hf : t.fmt = 0x20) (hp : t.planes ≤ 8)
    {q : Nat} (hq : q < 256) (hb : ∀ j, j < t.planes →
      leNat ((s.readKey (keySlot site sl ((j * t.rows + r) * t.rowLen)) t.rowLen).map (·.1)) / 2 ^ c % 2 = q / 2 ^ (7 - j) % 2) :
    ∃ v, ((rowA s site sl t r).map (Option.map (·.1)))[c]? = some (some v) ∧
      numInt v = sgn t.planes (q / 2 ^ (8 - t.planes)) * 2 ^ (8 - t.planes) + (if t.planes < 8 then 2 ^ (7 - t.planes) else 0) := by
  have hfold := planes_fold (fun j => bitsN ((s.readKey (keySlot site sl (j * t.rows * t.rowLen + r * t.rowLen)) t.rowLen).getD (c / 8)
    (0, false)).1.toNat (c % 8) 1) hq hp (fun j hj => by
      rw [← hb j hj, Nat.add_mul, ← leNat_bit, ← List.getD_map (f := fun x : Byte × Bool => x.1)])
  refine ⟨ofInt false (nested t.planes (q / 2 ^ (8 - t.planes) * 2 ^ (8 - t.planes))) 0, ?_, ?_⟩
  · unfold rowA
    rw [if_pos hf]
    dsimp only
    rw [List.map_map, List.getElem?_map, List.getElem?_range hc]
    dsimp only [Option.map_some, Function.comp_apply]
    rw [List.foldl_map, List.foldl_map]
    exact congrArg (fun x => some (some (ofInt false (nested t.planes (x * 2 ^ (8 - t.planes))) 0))) hfold
  · rw [numInt_ofInt, nested_eq]

/-- Place `c` of groups of 32 in a row. -/
theorem groups_getElem? {α : Type} (f : Nat → Nat → α) {g c : Nat} (hc : c < 32 * g) :
    ((List.range g).flatMap (fun i => (List.range 32).map (f i)))[c]? = some (f (c / 32) (c % 32)) := by
  induction g with
  | zero => omega
  | succ g ih =>
    have hlen : ((List.range g).flatMap (fun i => (List.range 32).map (f i))).length = 32 * g := by
      simp [List.length_flatMap, Nat.mul_comm]
    rw [List.range_succ (n := g), List.flatMap_append, List.flatMap_singleton]
    by_cases h : c < 32 * g
    · rw [List.getElem?_append_left (by omega), ih h]
    · rw [List.getElem?_append_right (by omega), hlen, List.getElem?_map, List.getElem?_range (by omega)]
      have h1 : c / 32 = g := by omega
      have h2 : c % 32 = c - 32 * g := by omega
      rw [h1, h2]
      rfl

/-- The slot that a set bit of a mask takes: as many as set bits lie below it. -/
theorem maskBits_findIdx? (n mask : Nat) {j : Nat} (hj : j < 32) : (maskBits n mask).findIdx? (· == j) =
    if mask.testBit j = true ∧ ((List.range j).filter (fun i => mask.testBit i)).length < n then
      some ((List.range j).filter (fun i => mask.testBit i)).length else none := by
  have hsplit : List.range 32 = List.range j ++ j :: List.range' (j + 1) (31 - j) := by
    have : 32 = j + (1 + (31 - j)) := by omega
    conv_lhs => rw [this, List.range_eq_range', ← List.range'_append_1, Nat.zero_add, ← List.range'_append_1, ← List.range_eq_range']
    rfl
  have hbelow : ∀ i ∈ (List.range j).filter (fun i => mask.testBit i), (i == j) = false := fun i hi => by
    have := List.mem_range.mp (List.mem_of_mem_filter hi)
    exact beq_false_of_ne (by omega)
  unfold maskBits
  simp only [testBit_eq_bitsN]
  have habove : ∀ i ∈ (List.range' (j + 1) (31 - j)).filter (fun i => mask.testBit i), (i == j) = false := fun i hi => by
    have := List.mem_range'_1.mp (List.mem_of_mem_filter hi)
    exact beq_false_of_ne (by omega)
  rw [hsplit, List.filter_append, List.filter_cons]
  generalize (List.range j).filter (fun i => mask.testBit i) = A at *
  generalize (List.range' (j + 1) (31 - j)).filter (fun i => mask.testBit i) = B at *
  have hnone : ∀ {l : List Nat}, (∀ i ∈ l, i ∈ A ∨ i ∈ B) → l.findIdx? (· == j) = none := fun h =>
    List.findIdx?_eq_none_iff.mpr fun i hi => (h i hi).elim (hbelow i) (habove i)
  by_cases hset : mask.testBit j = true
  · rw [if_pos hset, List.take_append]
    by_cases hn : A.length < n
    · obtain ⟨k, hk⟩ := Nat.exists_eq_add_of_lt hn
      have hk' : n - A.length = k + 1 := by omega
      rw [if_pos ⟨hset, hn⟩, List.take_of_length_le hn.le, hk', List.take_succ_cons, List.findIdx?_append, hnone fun i hi => .inl hi,
        List.findIdx?_cons, beq_self_eq_true]
      simp
    · rw [if_neg fun h => hn h.2, Nat.sub_eq_zero_of_le (not_lt.mp hn), List.take_zero, List.append_nil]
      exact hnone fun i hi => .inl (List.mem_of_mem_take hi)
  · rw [if_neg hset, if_neg fun h => hset h.1]
    exact hnone fun i hi => List.mem_append.mp (List.mem_of_mem_take hi)

theorem rowA_sparse (s : State) (site sl : Nat) (t : Tid) (r : Nat) {c : Nat} (hc : c < t.cols) (hf : t.fmt ≠ 0x20) (hs : t.sparse ≠ 0)
    (h32 : t.cols % 32 = 0) :
    let group := (s.readKey (keySlot site sl (r * t.rowLen + c / 32 * t.groupLen)) t.groupLen).map (·.1)
    let mask := leNat (group.take 4)
    let place := ((List.range (c % 32)).filter (fun i => mask.testBit i)).length
    ((rowA s site sl t r).map (Option.map (·.1)))[c]? = some (if mask.testBit (c % 32) = true ∧ place < 8 * t.sparse then
      some (elemNum t.fmt (elemOf (fmtBits t.fmt) (group.drop 4) place)) else none) := by
  dsimp only
  unfold rowA
  rw [if_neg hf, if_pos hs, List.getElem?_map]
  dsimp only
  rw [groups_getElem? _ (show c < 32 * (t.cols / 32) by omega), maskBits_findIdx? _ _ (show c % 32 < 32 by omega)]
  unfold State.slotBytes Marked.bytes Tid.slots
  rw [← List.map_take, ← List.map_drop]
  split_ifs <;> rfl

/-- Element `j` of row `k` of B is read from the bytes that it touches. -/
theorem elemB_eq (s : State) (site sl : Nat) (t : Tid) (k : Nat) {j : Nat} (hj : j < t.cols) (hs : t.sparse = 0)
    (hw : t.cols * fmtBits t.fmt % 8 = 0) : (elemB s site sl t k j).1 = elemNum t.fmt (elemOf (fmtBits t.fmt)
      ((s.readKey (keySlot site sl (k * t.rowLen)) t.rowLen).map (·.1)) j) := by
  have hlen : t.rowLen = t.cols * fmtBits t.fmt / 8 := if_neg (not_not_intro hs)
  unfold elemB
  dsimp only
  generalize fmtBits t.fmt = w at *
  have hend : w * j + w ≤ 8 * t.rowLen := by
    have := Nat.mul_le_mul_left w (show j + 1 ≤ t.cols from hj)
    rw [Nat.mul_succ, Nat.mul_comm w t.cols] at this
    omega
  congr 1
  rcases Nat.eq_zero_or_pos w with rfl | hpos
  · rw [elemOf_eq, pow_zero, Nat.mod_one, Nat.mod_one]
  unfold State.slotBytes Marked.bytes
  rw [readKey_bytes, readKey_bytes, elemOf_eq]
  have hspan : (spanOf w j).1 + (spanOf w j).2 ≤ t.rowLen := by
    unfold spanOf
    dsimp only
    omega
  have hkey : keySlot site sl (k * t.rowLen + (spanOf w j).1) = keySlot site sl (k * t.rowLen) + (spanOf w j).1 := by
    unfold keySlot
    omega
  have hfield := field_bytes s.mem (keySlot site sl (k * t.rowLen)) hspan
  unfold field Memory.num at hfield
  rw [hkey, ← hfield, leNat_slice, pow_256, pow_256]
  unfold spanOf
  dsimp only
  rw [div_mod_div_mod _ (by omega), Nat.div_add_mod]

end Sys2Proof.Machine
end

section
/-! PROOFS. Groups made sparse: the order of magnitudes, the indices kept, and the mask (R60, R61). -/

namespace Sys2Proof.Machine

/-! ### Sparse groups (R60, R61) -/

/-- `j` comes before `i`: of greater rank, or of equal rank and lower index. -/
def Precedes (rank : Nat → Nat) (i j : Nat) : Prop := rank i < rank j ∨ rank j = rank i ∧ j < i

/-- How many of the first `n` indices come before `i`. -/
def position (rank : Nat → Nat) (n i : Nat) : Nat :=
  ((List.range n).filter (fun j => decide (rank i < rank j) || (decide (rank j = rank i) && decide (j < i)))).length

theorem mem_before {rank : Nat → Nat} {n i j : Nat} :
    j ∈ (List.range n).filter (fun j => decide (rank i < rank j) || (decide (rank j = rank i) && decide (j < i))) ↔
      j < n ∧ Precedes rank i j := by
  simp [Precedes]

/-- The index that comes before another one has the lower position. -/
theorem position_lt {rank : Nat → Nat} {n i j : Nat} (hj : j < n) (h : Precedes rank i j) : position rank n j < position rank n i := by
  unfold position
  rw [← List.toFinset_card_of_nodup (List.nodup_range.filter _), ← List.toFinset_card_of_nodup (List.nodup_range.filter _)]
  refine Finset.card_lt_card ((Finset.ssubset_iff_of_subset fun k hk => ?_).mpr ⟨j, ?_, ?_⟩)
  · rw [List.mem_toFinset, mem_before] at hk ⊢
    obtain ⟨hkn, hk⟩ := hk
    refine ⟨hkn, ?_⟩
    unfold Precedes at *
    omega
  · rw [List.mem_toFinset, mem_before]
    exact ⟨hj, h⟩
  · rw [List.mem_toFinset, mem_before]
    unfold Precedes
    omega

theorem position_inj {rank : Nat → Nat} {n i j : Nat} (hi : i < n) (hj : j < n) (h : position rank n i = position rank n j) : i = j := by
  by_contra hne
  have htotal : Precedes rank i j ∨ Precedes rank j i := by
    unfold Precedes
    omega
  rcases htotal with hp | hp
  · exact absurd h (position_lt hj hp).ne'
  · exact absurd h (position_lt hi hp).ne

theorem position_lt_size {rank : Nat → Nat} {n i : Nat} (hi : i < n) : position rank n i < n := by
  unfold position
  conv_rhs => rw [← List.length_range (n := n)]
  refine List.length_filter_lt_length_iff_exists.mpr ⟨i, List.mem_range.mpr hi, ?_⟩
  simp

/-- The `m` first of `n` indices in the order of their ranks are `m`. -/
theorem length_first (rank : Nat → Nat) {m n : Nat} (h : m ≤ n) :
    ((List.range n).filter (fun i => decide (position rank n i < m))).length = m := by
  have hmaps : ∀ i ∈ Finset.range n, position rank n i ∈ Finset.range n := fun i hi =>
    Finset.mem_range.mpr (position_lt_size (Finset.mem_range.mp hi))
  have hinj : Set.InjOn (position rank n) (Finset.range n) := fun i hi j hj h =>
    position_inj (Finset.mem_range.mp hi) (Finset.mem_range.mp hj) h
  have hsurj := Finset.surjOn_of_injOn_of_card_le (position rank n) hmaps hinj le_rfl
  suffices hcard : ((List.range n).filter (fun i => decide (position rank n i < m))).toFinset.card = (Finset.range m).card by
    rwa [List.toFinset_card_of_nodup (List.nodup_range.filter _), Finset.card_range] at hcard
  refine Finset.card_bij (fun i _ => position rank n i) ?_ ?_ ?_
  · intro i hi
    simp only [List.mem_toFinset, List.mem_filter, decide_eq_true_eq] at hi
    exact Finset.mem_range.mpr hi.2
  · intro i hi j hj hij
    simp only [List.mem_toFinset, List.mem_filter, List.mem_range] at hi hj
    exact position_inj hi.1 hj.1 hij
  · intro k hk
    have hk := Finset.mem_range.mp hk
    obtain ⟨i, hi, rfl⟩ := hsurj (Finset.mem_coe.mpr (Finset.mem_range.mpr (lt_of_lt_of_le hk h)))
    refine ⟨i, ?_, rfl⟩
    simp only [List.mem_toFinset, List.mem_filter, List.mem_range, decide_eq_true_eq]
    exact ⟨Finset.mem_range.mp hi, hk⟩

/-- A sum of powers of two has the bits of its exponents. -/
theorem sum_pow_testBit (p : Nat → Bool) (n : Nat) :
    (((List.range n).filter p).map (fun i => 2 ^ i)).foldl (· + ·) 0 < 2 ^ n ∧
    ∀ i, ((((List.range n).filter p).map (fun i => 2 ^ i)).foldl (· + ·) 0).testBit i = decide (i ∈ (List.range n).filter p) := by
  induction n with
  | zero => exact ⟨Nat.one_pos, fun i => by simp⟩
  | succ n ih =>
    obtain ⟨hlt, hbit⟩ := ih
    rw [List.range_succ, List.filter_append, List.map_append, List.foldl_append]
    generalize hx : (((List.range n).filter p).map (fun i => 2 ^ i)).foldl (· + ·) 0 = x at *
    cases hp : p n with
    | false =>
      rw [List.filter_singleton, hp]
      refine ⟨hlt.trans (Nat.pow_lt_pow_right (by decide) (Nat.lt_succ_self n)), fun i => ?_⟩
      simpa using hbit i
    | true =>
      rw [List.filter_singleton, hp, cond_true]
      refine ⟨?_, fun i => ?_⟩
      · rw [pow_succ]
        simpa [Nat.mul_two] using hlt
      · have hsum : (([n].map (fun i => 2 ^ i)).foldl (· + ·) x) = 2 ^ n + x := Nat.add_comm ..
        rw [hsum]
        rcases lt_trichotomy i n with h | rfl | h
        · rw [Nat.testBit_two_pow_add_gt h, hbit i]
          simp [h.ne]
        · rw [Nat.testBit_two_pow_add_eq, Nat.testBit_lt_two_pow hlt]
          simp
        · have hpow : 2 ^ n + x < 2 ^ i := by
            have := Nat.pow_le_pow_right (n := 2) (by decide) (show n + 1 ≤ i from h)
            rw [pow_succ] at this
            omega
          rw [Nat.testBit_lt_two_pow hpow]
          simp [h.ne', h.not_gt]

/-- The rank of a magnitude as R61 orders them, a NaN above infinity above every number. -/
def elementRank (fmt x : Nat) : Nat :=
  match floatCodes.find? (fun f => decide (f.1 = fmt)) with
  | some (_, k) => if k.inf = true ∧ k.mag x > k.maxFin + 1 ∨ k.inf = false ∧ k.mag x > k.maxFin then 2 ^ 40 else k.mag x
  | none => (sgn (fmtBits fmt) x).natAbs

/-- The two ranks of a floating element: both its magnitude, or both past every number. -/
theorem magRank_float {k : Fmt} (hk : k.Proper) {c : Nat} (h : fltOf c = some k) (x : Nat) :
    let r := if k.inf = true ∧ k.mag x > k.maxFin + 1 ∨ k.inf = false ∧ k.mag x > k.maxFin then 2 ^ 40 else k.mag x
    r = magRank c x ∧ r ≤ k.maxFin ∨ r = k.maxFin + 1 ∧ magRank c x = 2 ^ 32 ∨ r = 2 ^ 40 ∧ magRank c x = 2 ^ 32 + 1 := by
  unfold magRank
  rw [h]
  dsimp only
  rcases k.kinds x with hx | hx | hx
  · have hle : k.mag x ≤ k.maxFin := hx
    rw [unpack_fin hk hx, if_neg (by omega), k.bits_mag]
    exact .inl ⟨rfl, hle⟩
  · have heq := hx.2
    rw [unpack_inf hk hx, if_neg (by rw [hx.1]; simp; omega), heq]
    exact .inr (.inl ⟨rfl, rfl⟩)
  · have hgt : k.maxFin < k.mag x := not_le.mp hx.1
    have hne : k.inf = true → k.mag x ≠ k.maxFin + 1 := fun hi h => hx.2 ⟨hi, h⟩
    rw [unpack_nan hk hx, if_pos]
    · exact .inr (.inr ⟨rfl, rfl⟩)
    · cases hi : k.inf with
      | true => exact .inl ⟨rfl, lt_of_le_of_ne hgt (hne hi).symm⟩
      | false => exact .inr ⟨rfl, hgt⟩

/-- The ranks order the elements of a sparse operand alike. -/
theorem magRank_lt_iff {fmt : Nat} (h : fmt ∈ [0x12, 0x11, 0x13, 0x14, 0x03, 0x01]) (x y : Nat) :
    magRank fmt x < magRank fmt y ↔ elementRank fmt x < elementRank fmt y := by
  have hfloat : ∀ {k : Fmt}, k.Proper → k.maxFin + 1 < 2 ^ 32 → fltOf fmt = some k →
      floatCodes.find? (fun f => decide (f.1 = fmt)) = some (fmt, k) →
      (magRank fmt x < magRank fmt y ↔ elementRank fmt x < elementRank fmt y) := by
    intro k hk hmax hf hc
    have hx := magRank_float hk hf x
    have hy := magRank_float hk hf y
    unfold elementRank
    rw [hc]
    dsimp only at *
    omega
  simp only [List.mem_cons, List.not_mem_nil, or_false] at h
  rcases h with rfl | rfl | rfl | rfl | rfl | rfl
  · exact hfloat proper_bf16 (by decide) rfl rfl
  · exact hfloat proper_fp16 (by decide) rfl rfl
  · exact hfloat proper_f8a (by decide) rfl rfl
  · exact hfloat proper_f8b (by decide) rfl rfl
  · exact Iff.rfl
  · exact Iff.rfl

/-- The indices that a group keeps: the first ones in the order of their magnitudes. -/
theorem keeps_eq {fmt : Nat} (h : fmt ∈ [0x12, 0x11, 0x13, 0x14, 0x03, 0x01]) (n : Nat) {l : List Nat} (hl : l.length = 32) :
    keeps fmt n l = (List.range 32).filter (fun i => decide (position (fun i => elementRank fmt (l.getD i 0)) 32 i < n)) := by
  have hrank : ∀ i, i < 32 → (l.map (magRank fmt)).getD i 0 = magRank fmt (l.getD i 0) := fun i hi => by
    rw [List.getD_eq_getElem _ _ (by rw [List.length_map, hl]; exact hi), List.getElem_map, List.getD_eq_getElem _ _ (by rw [hl]; exact hi)]
  unfold keeps position
  refine List.filter_congr fun i hi => ?_
  congr 2
  refine congrArg _ (List.filter_congr fun j hj => ?_)
  have hlt := magRank_lt_iff h (l.getD i 0) (l.getD j 0)
  have hgt := magRank_lt_iff h (l.getD j 0) (l.getD i 0)
  have heq : magRank fmt (l.getD j 0) = magRank fmt (l.getD i 0) ↔ elementRank fmt (l.getD j 0) = elementRank fmt (l.getD i 0) := by omega
  rw [hrank i (List.mem_range.mp hi), hrank j (List.mem_range.mp hj), decide_eq_decide.mpr hlt, decide_eq_decide.mpr heq]

/-- A group made sparse (R60, R61). -/
theorem sparseRow_one {t : Tid} (hs : t.sparse ∈ [1, 2]) (hf : t.fmt ∈ [0x12, 0x11, 0x13, 0x14, 0x03, 0x01]) {l : List Nat}
    (hl : l.length = 32) :
    let kept := (List.range 32).filter (fun i => decide (position (fun i => elementRank t.fmt (l.getD i 0)) 32 i < 8 * t.sparse))
    kept.length = 8 * t.sparse ∧ (∀ i, (leNat ((sparseRow t 1 l).take 4)).testBit i = decide (i ∈ kept)) ∧
      (sparseRow t 1 l).drop 4 = packRow (fmtBits t.fmt) (kept.map (fun i => l.getD i 0)) := by
  have hn : 8 * t.sparse ≤ 32 := by
    simp only [List.mem_cons, List.not_mem_nil, or_false] at hs
    omega
  have hrow : sparseRow t 1 l = sparseGroup t l := by
    rw [sparseRow, sparseRow, List.append_nil, List.take_of_length_le hl.le]
  obtain ⟨hlt, hbits⟩ := sum_pow_testBit (fun i => decide (position (fun i => elementRank t.fmt (l.getD i 0)) 32 i < 8 * t.sparse)) 32
  refine ⟨length_first _ hn, fun i => ?_, ?_⟩
  · rw [hrow, sparseGroup, Tid.slots, keeps_eq hf _ hl, List.take_append_of_le_length (Memory.leBytes_length ..).ge,
      List.take_of_length_le (Memory.leBytes_length ..).le, Memory.leNat_leBytes, Nat.mod_eq_of_lt (by rw [pow_256]; exact hlt)]
    exact hbits i
  · rw [hrow, sparseGroup, Tid.slots, keeps_eq hf _ hl]
    exact List.drop_left' (Memory.leBytes_length ..)

end Sys2Proof.Machine
end

section
/-! PROOFS. Scales of groups, quantised elements, combining, and the TID table (R59, R63, R64, R189, R193). -/

namespace Sys2Proof.Machine

/-! ### Scales that SCALEC computes (R193) -/

theorem foldl_max_eq {l : List Nat} {a m : Nat} (ha : a ≤ m) (hle : ∀ x ∈ l, x ≤ m) (h : a = m ∨ m ∈ l) :
    l.foldl max a = m := by
  induction l generalizing a with
  | nil => simpa using h
  | cons x l ih =>
    have hx := hle x List.mem_cons_self
    refine ih (max_le ha hx) (fun y hy => hle y (List.mem_cons_of_mem x hy)) ?_
    rcases h with rfl | h
    · exact .inl (max_eq_left hx)
    · rcases List.mem_cons.mp h with rfl | h
      · exact .inl (max_eq_right ha)
      · exact .inr h

/-- One element joins the largest magnitude of its group. -/
def maxStep (k : Fmt) (a x : Nat) : Nat := if (unpack k a).isNan || (unpack k x).isNan then k.nan else fpMax k a (fpAbs k x)

section
variable {k : Fmt} (hk : k.Proper) (hi : k.inf = true)
include hk hi

/-- Patterns up to infinity are their own magnitudes. -/
theorem Fmt.mag_of_le {a : Nat} (h : a ≤ k.maxFin + 1) : k.mag a = a ∧ k.neg a = false ∧ ¬ k.isNaN a := by
  have hp : 0 < 2 ^ k.f := by positivity
  have hlt : a < 2 ^ (k.e + k.f) := by
    refine lt_of_le_of_lt (h.trans (Fmt.maxFin_succ hk hi).le) ?_
    rw [Fmt.topExp, pow_add]
    exact Nat.mul_lt_mul_of_pos_right (Nat.sub_lt (by positivity) Nat.one_pos) hp
  have hmag : k.mag a = a := Nat.mod_eq_of_lt hlt
  refine ⟨hmag, ?_, fun ⟨hf, hn⟩ => ?_⟩
  · unfold Fmt.neg
    rw [Nat.div_eq_of_lt hlt]
    rfl
  · have h1 : ¬ a ≤ k.maxFin := by
      rw [← hmag]
      exact hf
    exact hn ⟨hi, by rw [hmag]; omega⟩

omit hk hi in
theorem Fmt.mag_le_inf {x : Nat} (h : ¬ k.isNaN x) : k.mag x ≤ k.maxFin + 1 := by
  rcases k.kinds x with hx | hx | hx
  · exact Nat.le_succ_of_le hx
  · exact hx.2.le
  · exact absurd hx h

theorem maxStep_number {a x : Nat} (ha : a ≤ k.maxFin + 1) (hx : ¬ k.isNaN x) : maxStep k a x = max a (k.mag x) := by
  obtain ⟨hmag, hneg, hnan⟩ := Fmt.mag_of_le hk hi ha
  obtain ⟨hmag', hneg', hnan'⟩ := Fmt.mag_of_le hk hi (Fmt.mag_le_inf hx)
  have habs : fpAbs k x = k.mag x := by
    unfold fpAbs
    rw [not_isNaN_unpack hk hx, if_neg Bool.false_ne_true, k.bits_mag]
  unfold maxStep
  rw [not_isNaN_unpack hk hnan, not_isNaN_unpack hk hx, Bool.or_self, if_neg Bool.false_ne_true, habs, fpMax_eq hk hnan hnan', fpRank_eq,
    fpRank_eq, hmag, hneg, hmag', hneg', if_neg Bool.false_ne_true, if_neg Bool.false_ne_true]
  split <;> omega

theorem foldl_maxStep_number {l : List Nat} {a : Nat} (ha : a ≤ k.maxFin + 1) (hl : ∀ x ∈ l, ¬ k.isNaN x) :
    l.foldl (maxStep k) a = (l.map k.mag).foldl max a := by
  induction l generalizing a with
  | nil => rfl
  | cons x l ih =>
    have hx := hl x List.mem_cons_self
    rw [List.foldl_cons, List.map_cons, List.foldl_cons, maxStep_number hk hi ha hx]
    exact ih (max_le ha (Fmt.mag_le_inf hx)) fun y hy => hl y (List.mem_cons_of_mem x hy)

omit hk hi in
theorem foldl_maxStep_of_nan {l : List Nat} {a : Nat} (hnan : (unpack k k.nan).isNan = true) (ha : (unpack k a).isNan = true) :
    (unpack k (l.foldl (maxStep k) a)).isNan = true := by
  induction l generalizing a with
  | nil => exact ha
  | cons x l ih =>
    refine ih ?_
    unfold maxStep
    rw [ha, Bool.true_or, if_pos rfl]
    exact hnan

omit hi in
theorem foldl_maxStep_nan {l : List Nat} {a : Nat} (hnan : (unpack k k.nan).isNan = true) (hl : ∃ x ∈ l, k.isNaN x) :
    (unpack k (l.foldl (maxStep k) a)).isNan = true := by
  induction l generalizing a with
  | nil => simp at hl
  | cons x l ih =>
    rw [List.foldl_cons]
    by_cases hx : k.isNaN x
    · refine foldl_maxStep_of_nan hnan ?_
      unfold maxStep
      rw [(unpack_isNan hk x).mpr hx, Bool.or_true, if_pos rfl]
      exact hnan
    · obtain ⟨y, hy, hn⟩ := hl
      rcases List.mem_cons.mp hy with rfl | hy
      · exact absurd hn hx
      · exact ih ⟨y, hy, hn⟩

end

theorem divisor_is {dst q : Nat} (hq : scaleQ dst = q) : (ofInt false (scaleQ dst) 0).Is false ((q : ℝ) / (1 : ℕ)) := by
  have h := ofInt_is_int (scaleQ dst)
  rwa [hq, Int.natAbs_natCast, decide_eq_false (Int.natCast_nonneg q).not_gt, ← hq] at h

theorem groupScale_eq {c : Nat} {k : Fmt} (h : fltOf c = some k) (dst rnd : Nat) (l : List Nat) : groupScale c dst rnd l =
    (roundNum fp32 rnd false (divNum (unpack k (l.foldl (maxStep k) 0)) (ofInt false (scaleQ dst) 0)).1).1 := by
  unfold groupScale
  rw [h]
  rfl

section
variable {c : Nat} {k : Fmt} (hc : fltOf c = some k) (hk : k.Proper) (hi : k.inf = true) {dst q : Nat} (hq : scaleQ dst = q) (hq0 : 0 < q)
  {rnd : Nat} {l : List Nat}
include hc hk

theorem groupScale_nan (hnan : (unpack k k.nan).isNan = true) (hl : ∃ x ∈ l, k.isNaN x) : groupScale c dst rnd l = fp32.nan := by
  have hfold := foldl_maxStep_nan (a := 0) hk hnan hl
  rw [groupScale_eq hc]
  cases h : unpack k (l.foldl (maxStep k) 0) with
  | nan => rfl
  | inf s => rw [h] at hfold; exact absurd hfold Bool.false_ne_true
  | fin s m e more => rw [h] at hfold; exact absurd hfold Bool.false_ne_true

include hi hq

theorem groupScale_inf (hl : ∀ x ∈ l, ¬ k.isNaN x) (hinf : ∃ x ∈ l, k.isInf x) : groupScale c dst rnd l = fp32.maxFin + 1 := by
  obtain ⟨x, hx, hinf⟩ := hinf
  have hfold : l.foldl (maxStep k) 0 = k.maxFin + 1 := by
    rw [foldl_maxStep_number hk hi (Nat.zero_le _) hl]
    refine foldl_max_eq (Nat.zero_le _) ?_ (.inr (List.mem_map.mpr ⟨x, hx, hinf.2⟩))
    simp only [List.forall_mem_map]
    exact fun y hy => Fmt.mag_le_inf (hl y hy)
  obtain ⟨hmag, hneg, -⟩ := Fmt.mag_of_le hk hi (le_refl (k.maxFin + 1))
  obtain ⟨m, e, hd, -⟩ := divisor_is hq
  rw [groupScale_eq hc, hfold, unpack_inf hk ⟨hi, hmag⟩, hneg, hd]
  rfl

include hq0

theorem groupScale_rounds (hm : rnd < 4) (hl : ∀ x ∈ l, k.isFin x) {m : Nat} (hle : ∀ x ∈ l, k.mag x ≤ m)
    (hmem : m = 0 ∨ ∃ x ∈ l, k.mag x = m) :
    ∃ e, Rounds fp32 rnd false false (fun h => compare (h * (q * k.one)) (4 * (k.units m * fp32.one))) (groupScale c dst rnd l, e) := by
  have hfin : m ≤ k.maxFin := by
    rcases hmem with rfl | ⟨x, hx, rfl⟩
    · exact Nat.zero_le _
    · exact hl x hx
  have hfold : l.foldl (maxStep k) 0 = m := by
    rw [foldl_maxStep_number hk hi (Nat.zero_le _) fun x hx h => h.1 (hl x hx)]
    refine foldl_max_eq (Nat.zero_le _) ?_ (hmem.imp Eq.symm fun ⟨x, hx, h⟩ => List.mem_map.mpr ⟨x, hx, h⟩)
    simp only [List.forall_mem_map]
    exact hle
  obtain ⟨hmag, hneg, -⟩ := Fmt.mag_of_le hk hi (Nat.le_succ_of_le hfin)
  have hnum := unpack_is hk (x := m) (by unfold Fmt.isFin; rw [hmag]; exact hfin)
  rw [hmag, hneg] at hnum
  have hq' : (0 : ℝ) < q := by exact_mod_cast hq0
  have hone := k.one_pos'
  have hquot := (divNum_near hnum (divisor_is hq) (by positivity)).1
  rw [groupScale_eq hc, hfold]
  refine ⟨_, roundNum_near proper_fp32 hm false hquot (by decide) fun h => ?_⟩
  rw [compare_cross (Nat.mul_pos hq0 k.one_pos)]
  congr 1
  push_cast
  field_simp

end

/-! ### Quantised elements (R193) -/

/-- The formats that SCALEC quantises to, with their Q. -/
def quantCodes : List (Nat × Nat) := [(0x03, 127), (0x01, 7), (0x13, 448), (0x14, 57344)]

theorem quantCodes_spec {t : Nat × Nat} (h : t ∈ quantCodes) : scaleQ t.1 = t.2 ∧ 0 < t.2 := by
  simp only [quantCodes, List.mem_cons, List.not_mem_nil, or_false] at h
  rcases h with rfl | rfl | rfl | rfl <;> decide

theorem toElem_quant_nan {t : Nat × Nat} (h : t ∈ quantCodes) (rnd : Nat) :
    toElem t.1 rnd true .nan = if t.1 = 0x13 then f8a.nan else if t.1 = 0x14 then f8b.nan else 0 := by
  simp only [quantCodes, List.mem_cons, List.not_mem_nil, or_false] at h
  rcases h with rfl | rfl | rfl | rfl <;> rfl

theorem toElem_quant_zero {t : Nat × Nat} (h : t ∈ quantCodes) (rnd : Nat) (s : Bool) :
    toElem t.1 rnd true (.fin s 0 0 false) = if t.1 = 0x13 then f8a.zero s else if t.1 = 0x14 then f8b.zero s else 0 := by
  simp only [quantCodes, List.mem_cons, List.not_mem_nil, or_false] at h
  rcases h with rfl | rfl | rfl | rfl
  · cases s <;> rfl
  · cases s <;> rfl
  · rw [toElem_float (k := f8a) rfl]
    exact congrArg Prod.fst (rounded_zero f8a rnd true s 0)
  · rw [toElem_float (k := f8b) rfl]
    exact congrArg Prod.fst (rounded_zero f8b rnd true s 0)

theorem quantElem_zero (src dst rnd : Nat) {sc : Nat} (x : Nat) (h : fp32.mag sc = 0) : quantElem src dst rnd sc x = 0 :=
  if_pos (fp32.bits_mag sc |>.trans h)

theorem quantElem_eq {src : Nat} {k : Fmt} (hc : fltOf src = some k) (dst rnd : Nat) {sc : Nat} (x : Nat) (h : fp32.mag sc ≠ 0) :
    quantElem src dst rnd sc x = toElem dst rnd true (divNum (unpack k x) (unpack fp32 sc)).1 := by
  unfold quantElem
  rw [if_neg (show ¬ bitsN sc 0 31 = 0 from fun h' => h ((fp32.bits_mag sc).symm.trans h')), elemNum_float hc]

section
variable {src : Nat} {k : Fmt} (hc : fltOf src = some k) (hk : k.Proper) {t : Nat × Nat} (ht : t ∈ quantCodes) (rnd : Nat) {sc x : Nat}
include hc hk ht

/-- A quotient that is no number: of a NaN, by a NaN, and of infinity by infinity. -/
theorem quantElem_nan (h : fp32.isNaN sc ∨ fp32.mag sc ≠ 0 ∧ k.isNaN x ∨ k.isInf x ∧ fp32.isInf sc) :
    quantElem src t.1 rnd sc x = if t.1 = 0x13 then f8a.nan else if t.1 = 0x14 then f8b.nan else 0 := by
  have h0 : fp32.mag sc ≠ 0 := by
    rcases h with h | ⟨h, -⟩ | ⟨-, h⟩
    · exact fun h0 => h.1 (h0.trans_le (Nat.zero_le _))
    · exact h
    · rw [h.2]
      exact Nat.succ_ne_zero _
  have hq : (divNum (unpack k x) (unpack fp32 sc)).1 = .nan := by
    rcases h with h | ⟨-, h⟩ | ⟨h, h'⟩
    · rw [unpack_nan proper_fp32 h, divNum_nan]
    · rw [unpack_nan hk h]
      rfl
    · rw [unpack_inf hk h, unpack_inf proper_fp32 h']
      rfl
  rw [quantElem_eq hc _ _ _ h0, hq]
  exact toElem_quant_nan ht rnd

theorem quantElem_inf (h : fp32.isInf sc) (hx : k.isFin x) : quantElem src t.1 rnd sc x =
    if t.1 = 0x13 then f8a.zero (k.neg x != fp32.neg sc) else if t.1 = 0x14 then f8b.zero (k.neg x != fp32.neg sc) else 0 := by
  rw [quantElem_eq hc _ _ _ (by rw [h.2]; exact Nat.succ_ne_zero _), unpack_fin hk hx, unpack_inf proper_fp32 h]
  exact toElem_quant_zero ht rnd _

omit hc ht in
/-- A quotient of numbers. -/
theorem quotient_near (h : fp32.isFin sc) (h0 : fp32.mag sc ≠ 0) (hx : k.isFin x) :
    (divNum (unpack k x) (unpack fp32 sc)).1.Near (k.neg x != fp32.neg sc)
      (((k.units (k.mag x) * fp32.one : Nat) : ℝ) / (fp32.units (fp32.mag sc) * k.one : Nat)) := by
  have hone := k.one_pos'
  have hone' := fp32.one_pos'
  have hu : (0 : ℝ) < fp32.units (fp32.mag sc) := by
    exact_mod_cast Nat.pos_of_ne_zero fun h' => h0 ((fp32.units_eq_zero _).mp h')
  have hn := (divNum_near (unpack_is hk hx) (unpack_is proper_fp32 h) (by positivity)).1
  convert hn using 1
  push_cast
  field_simp

omit ht in
theorem quantElem_rounds {rnd : Nat} (hm : rnd < 4) (h : fp32.isFin sc) (h0 : fp32.mag sc ≠ 0) (hx : k.isFin x) :
    (∀ j : Fmt, (t.1, j) ∈ [(0x13, f8a), (0x14, f8b)] → ∃ e, Rounds j rnd true (k.neg x != fp32.neg sc)
      (fun h => compare (h * (fp32.units (fp32.mag sc) * k.one)) (4 * (k.units (k.mag x) * fp32.one * j.one)))
      (quantElem src t.1 rnd sc x, e)) ∧
    (t.1 = 0x03 ∨ t.1 = 0x01 → ∃ v e, ToInt rnd (-2 ^ (fmtBits t.1 - 1)) (2 ^ (fmtBits t.1 - 1) - 1) (k.neg x != fp32.neg sc)
      (k.units (k.mag x) * fp32.one) (fp32.units (fp32.mag sc) * k.one) (v, e) ∧
      quantElem src t.1 rnd sc x = (v % 2 ^ fmtBits t.1).toNat) := by
  have hd : 0 < fp32.units (fp32.mag sc) * k.one :=
    Nat.mul_pos (Nat.pos_of_ne_zero fun h' => h0 ((fp32.units_eq_zero _).mp h')) k.one_pos
  have hnear := quotient_near hk h h0 hx
  rw [quantElem_eq hc _ _ _ h0]
  refine ⟨fun j hj => ?_, fun hint => ?_⟩
  · simp only [List.mem_cons, Prod.mk.injEq, List.not_mem_nil, or_false] at hj
    rcases hj with ⟨h1, rfl⟩ | ⟨h1, rfl⟩ <;> rw [h1]
    · exact toElem_rounds rfl proper_f8a (by decide) hm true hd hnear
    · exact toElem_rounds rfl proper_f8b (by decide) hm true hd hnear
  · rcases hint with h1 | h1 <;> rw [h1]
    · rw [toElem_int (f := (0x03, 8)) (by decide)]
      exact ⟨_, _, numToInt_near hm (by decide) (by decide) (by decide) hd hnear, rfl⟩
    · rw [toElem_int (f := (0x01, 4)) (by decide)]
      exact ⟨_, _, numToInt_near hm (by decide) (by decide) (by decide) hd hnear, rfl⟩

end

/-! ### Combining (R59, R189) and the TID table (R63, R64) -/

theorem opElem_logical (t x y : Nat) : opElem t 3 x y = x &&& y ∧ opElem t 4 x y = x ||| y ∧ opElem t 5 x y = x ^^^ y :=
  ⟨rfl, rfl, rfl⟩
theorem opElem_int (x y : Nat) : opElem 0x06 0 x y = (x + y) % 2 ^ 32 ∧ opElem 0x06 1 x y = (if sgn 32 y < sgn 32 x then y else x) ∧
    opElem 0x06 2 x y = (if sgn 32 x < sgn 32 y then y else x) := ⟨rfl, rfl, rfl⟩
theorem opElem_float {t : Nat × Fmt} (h : t ∈ [(0x10, fp32), (0x12, bf16)]) (x y : Nat) :
    opElem t.1 0 x y = (fpAdd t.2 0 false x y).1 ∧ opElem t.1 1 x y = fpMin t.2 x y ∧ opElem t.1 2 x y = fpMax t.2 x y := by
  simp only [List.mem_cons, List.not_mem_nil, or_false] at h
  rcases h with rfl | rfl <;> exact ⟨rfl, rfl, rfl⟩

/-- The widths of elements by their format codes; one plane of NB has one bit an element (R39, R62). -/
def elementWidths : List (Nat × Nat) := intCodes ++ [(0x04, 8), (0x20, 1)] ++ floatCodes.map (fun x => (x.1, x.2.width))

theorem elementWidths_spec {c w : Nat} (h : (c, w) ∈ elementWidths) : fmtBits c = w ∧ w ≠ 0 ∧
    ((c = 0x18 ∨ w < 8) ↔ c ∈ [0x01, 0x02, 0x18, 0x20]) := by
  have hall : ∀ x ∈ elementWidths, fmtBits x.1 = x.2 ∧ x.2 ≠ 0 ∧
      ((x.1 = 0x18 ∨ x.2 < 8) ↔ x.1 ∈ [0x01, 0x02, 0x18, 0x20]) := by decide
  exact hall _ h

theorem elementWidths_of_fmtBits {c : Nat} (h : fmtBits c ≠ 0) : (c, fmtBits c) ∈ elementWidths := by
  revert h
  unfold fmtBits
  split
  case h_14 => exact fun h => absurd rfl h
  all_goals decide

theorem colsUnit_dvd (c n : Nat) : n % colsUnit c = 0 ↔
    (c = 0x01 → n % 2 = 0) ∧ (c = 0x02 → n % 4 = 0) ∧ (c = 0x20 → n % 8 = 0) := by
  unfold colsUnit
  by_cases h1 : c = 0x01
  · subst h1; simp
  · by_cases h2 : c = 0x02
    · subst h2; simp
    · by_cases h3 : c = 0x20
      · subst h3; simp
      · simp [h1, h2, h3, Nat.mod_one]

theorem not_valid {t : Tid} (h : ∀ w, (t.fmt, w) ∉ elementWidths) : t.valid = false := by
  have h0 : fmtBits t.fmt = 0 := by
    by_contra h0
    exact h _ (elementWidths_of_fmtBits h0)
  simp [Tid.valid, h0]

theorem valid_iff {t : Tid} {w : Nat} (h : (t.fmt, w) ∈ elementWidths) :
    let len := if t.sparse = 0 then t.cols * w / 8 else t.cols / 32 * (4 + t.sparse * w)
    let unit := if t.sparse ≠ 0 then 4 else if t.fmt ∈ [0x01, 0x02, 0x18, 0x20] then 1 else w / 8
    (t.valid = true ↔ 1 ≤ t.rows ∧ t.rows ≤ 2 ^ 24 ∧ 1 ≤ t.cols ∧ t.cols ≤ 2 ^ 24 ∧ t.mbz = 0 ∧
      (if t.fmt = 0x20 then 2 ≤ t.planes ∧ t.planes ≤ 8 else t.planes = 0) ∧ t.sparse ≤ 2 ∧
      (t.sparse ≠ 0 → t.fmt ∈ [0x12, 0x11, 0x13, 0x14, 0x03, 0x01] ∧ t.cols % 32 = 0) ∧
      (t.fmt = 0x01 → t.cols % 2 = 0) ∧ (t.fmt = 0x02 → t.cols % 4 = 0) ∧ (t.fmt = 0x20 → t.cols % 8 = 0) ∧
      len ≤ t.stride ∧ t.base % unit = 0 ∧ t.stride % unit = 0 ∧ (t.smode ≠ 0 → t.sbase % 4 = 0)) := by
  obtain ⟨hw, hw0, hunit⟩ := elementWidths_spec h
  have hlen : t.rowLen = if t.sparse = 0 then t.cols * w / 8 else t.cols / 32 * (4 + t.sparse * w) := by
    unfold Tid.rowLen Tid.groupLen Tid.slots
    rw [hw, Nat.mul_assoc, Nat.mul_div_cancel_left _ (show 0 < 8 by decide), ite_not]
  have halign : t.align = if t.sparse ≠ 0 then 4 else if t.fmt ∈ [0x01, 0x02, 0x18, 0x20] then 1 else w / 8 := by
    unfold Tid.align
    rw [hw]
    simp only [hunit]
  have hplanes : ((if t.fmt = 0x20 then decide (2 ≤ t.planes ∧ t.planes ≤ 8) else decide (t.planes = 0)) = true) ↔
      if t.fmt = 0x20 then 2 ≤ t.planes ∧ t.planes ≤ 8 else t.planes = 0 := by
    split <;> exact decide_eq_true_iff
  dsimp only
  rw [← hlen, ← halign, Tid.valid, hw]
  simp only [Bool.and_eq_true, Bool.or_eq_true, decide_eq_true_eq, hplanes, colsUnit_dvd, sparseFmt, List.contains_eq_mem, ne_eq, hw0,
    not_false_eq_true, true_and, imp_iff_not_or, not_not]
  constructor
  · rintro ⟨⟨⟨⟨⟨⟨⟨⟨⟨⟨hmbz, hr1, hr2⟩, hc1, hc2⟩, hp⟩, hs⟩, hg⟩, h4, h6, hb⟩, hl⟩, hbase⟩, hstride⟩, hscale⟩
    exact ⟨hr1, hr2, hc1, hc2, hmbz, hp, hs, hg, h4, h6, hb, hl, hbase, hstride, hscale⟩
  · rintro ⟨hr1, hr2, hc1, hc2, hmbz, hp, hs, hg, h4, h6, hb, hl, hbase, hstride, hscale⟩
    exact ⟨⟨⟨⟨⟨⟨⟨⟨⟨⟨hmbz, hr1, hr2⟩, hc1, hc2⟩, hp⟩, hs⟩, hg⟩, h4, h6, hb⟩, hl⟩, hbase⟩, hstride⟩, hscale⟩

theorem scaleAddr_eq (t : Tid) (r c : Nat) : (t.smode = 1 → t.scaleAddr r c = t.sbase + 4 * r) ∧
    (t.smode = 2 → t.scaleAddr r c = t.sbase + 4 * c) ∧
    (t.smode = 3 → t.scaleAddr r c = t.sbase + 4 * (r * ((t.cols + 127) / 128) + c / 128)) := by
  unfold Tid.scaleAddr
  exact ⟨fun h => by rw [h]; rfl, fun h => by rw [h]; rfl, fun h => by rw [h]; rfl⟩

end Sys2Proof.Machine
end

section
/-! PROOFS. The formats of the engines: O48. -/

namespace Sys2Proof.Machine

/-! ### The values of elements, gathered -/

theorem elemNum_floats {f : Nat × Fmt} (h : f ∈ floatCodes) (x : Nat) :
    (f.2.isFin x → (elemNum f.1 x).Mag (f.2.neg x) (f.2.units (f.2.mag x)) f.2.one) ∧
    (f.2.isInf x → elemNum f.1 x = .inf (f.2.neg x)) ∧ (f.2.isNaN x → elemNum f.1 x = .nan) := by
  obtain ⟨hc, hk⟩ := floatCodes_spec h
  rw [elemNum_float hc]
  exact ⟨fun hx => (Num.mag_iff_is f.2.one_pos).mpr (unpack_is hk hx), unpack_inf hk, unpack_nan hk⟩

theorem elemNum_ints {f : Nat × Nat} (h : f ∈ intCodes) (x : Nat) : numInt (elemNum f.1 x) = sgn f.2 x ∧
    (elemNum f.1 x).Mag (decide (sgn f.2 x < 0)) (sgn f.2 x).natAbs 1 := by
  obtain ⟨hc, h4, hw, -⟩ := intCodes_spec h
  rw [elemNum_int hc h4, hw]
  exact ⟨numInt_ofInt _, ofInt_mag _⟩

theorem elemNum_unorm (x : Nat) : numInt (elemNum 0x04 x) = x ∧ (elemNum 0x04 x).Mag false x 1 := by
  have h := ofInt_mag (x : Int)
  rw [Int.natAbs_natCast, decide_eq_false (Int.natCast_nonneg x).not_gt] at h
  exact ⟨numInt_ofInt x, h⟩

/-- An integer destination takes the integer that the value becomes, and the bits of its ends for an infinity. -/
theorem toElem_ints {f : Nat × Nat} (h : f ∈ intCodes ++ [(0x04, 8)]) {mode : Nat} (hm : mode < 4) (sat : Bool) (v : Num) :
    (∀ s n d, v.Mag s n d → 0 < d → ∃ x e, ToInt mode (intLow f.1 f.2) (intHigh f.1 f.2) s n d (x, e) ∧
      toElem f.1 mode sat v = (x % 2 ^ f.2).toNat) ∧
    (v = .nan → toElem f.1 mode sat v = 0) ∧
    (∀ s, v = .inf s → toElem f.1 mode sat v = ((if s then intLow f.1 f.2 else intHigh f.1 f.2) % 2 ^ f.2).toNat) := by
  rw [toElem_int h]
  refine ⟨fun s n d hv hd => ⟨_, _, numToInt_toInt hm _ _ hd ((Num.mag_iff_is hd).mp hv), rfl⟩, ?_, ?_⟩
  · rintro rfl
    rfl
  · rintro s rfl
    rfl

/-- Sums of products in FA40 (R56). -/
theorem addFa40_spec {acc : Nat} (a b : Num) (sa sb : Bool) (n d m e : Nat) (hlt : acc < 2 ^ 40) :
    addFa40 acc (a, b) ≠ 2 ^ 39 ∧
    (a.Mag sa n d → b.Mag sb m e → 0 < d → 0 < e → fa40.isFin acc →
      let p : Int := ((n * m * fa40.one : Nat) : Int) * (if sa = sb then 1 else -1)
      let v : Int := fa40.val acc * ((d * e : Nat) : Int) + p
      let s : Bool := if v = 0 then fa40.neg acc && (sa != sb) else decide (v < 0)
      ∃ y x, Rounds fa40 0 false s (fun h => compare (h * (d * e)) (4 * v.natAbs)) (y, x) ∧
        addFa40 acc (a, b) = if y = 2 ^ 39 then 0 else y) ∧
    (fa40.isNaN acc ∨ a = .nan ∨ b = .nan ∨ (a = .inf sa ∧ b.Mag sb 0 e ∧ 0 < e ∨ b = .inf sb ∧ a.Mag sa 0 d ∧ 0 < d) →
      addFa40 acc (a, b) = fa40.nan) ∧
    (a.Mag sa n d → b.Mag sb m e → fa40.isInf acc → addFa40 acc (a, b) = acc) := by
  refine ⟨addFa40_ne acc a b, fun ha hb hd he hacc => ?_, fun h => ?_, fun ha hb hi => ?_⟩
  · obtain ⟨x, hx⟩ := fa40Sum_rounds ha hb hd he hacc
    exact ⟨_, x, hx, rfl⟩
  · exact addFa40_nan (fa40Sum_nan (h.imp_right mulNum_nan_of))
  · exact addFa40_inf hi (fa40Sum_inf hlt ha hb hi)

/-- The formats that SCALEC reads. -/
theorem scaleSrc_spec {f : Nat × Fmt} (h : f ∈ [(0x10, fp32), (0x11, fp16), (0x12, bf16)]) :
    fltOf f.1 = some f.2 ∧ f.2.Proper ∧ f.2.inf = true ∧ (unpack f.2 f.2.nan).isNan = true := by
  simp only [List.mem_cons, List.not_mem_nil, or_false] at h
  rcases h with rfl | rfl | rfl
  exacts [⟨rfl, proper_fp32, rfl, by decide⟩, ⟨rfl, proper_fp16, rfl, by decide⟩, ⟨rfl, proper_bf16, rfl, by decide⟩]

end Sys2Proof.Machine

open Sys2Proof.Machine

/-- Settles O48: rows are numbers of packed bits (`elemOf_eq`, `leNat_packRow`), the values and destinations of elements rest on the
rounding of O9, a kept group is its first indices in the order of ranks (`sparseRow_one`), and the TID table is read field by field. -/
theorem engineFormats : Obligations.EngineFormats := by
  unfold Obligations.EngineFormats
  dsimp only
  refine ⟨fun w c b _ => elemOf_eq w c b, fun w c x l hl hx => ⟨?_, packRow_length w l⟩, fun f hf x _ => elemNum_floats hf x,
    fun f hf x => elemNum_ints hf x, fun x _ => elemNum_unorm x,
    fun v s n d sc hv hd _ => ⟨scaleNum_mag hv hd, scaleNum_inf hv hd, scaleNum_nan v⟩,
    fun mode sat v hm => ⟨fun f hf => ⟨fun s n d hv hd => ?_, ?_⟩, fun f hf => toElem_ints hf hm sat v⟩, drainElem_eq,
    fun acc a b sa sb n d m e hlt => addFa40_spec a b sa sb n d m e hlt, fun j c q l _ h => planeRow_bit h,
    fun s site sl t r c hc => ⟨rowA_dense s site sl t r hc, fun hf _ _ hp _ q hq hb => rowA_planes s site sl t r hc hf hp hq hb,
      fun hf hs h32 => rowA_sparse s site sl t r hc hf ?_ h32⟩, fun s site sl t k j => ?_,
    fun t l hl hs hf _ => sparseRow_one hs hf hl, fun t g l => ?_, fun f hf t ht rnd hm => ⟨fun l _ => ?_, fun sc x _ _ => ?_⟩,
    fun x y _ _ => ⟨fun t => opElem_logical t x y, opElem_int x y |>.1, opElem_int x y |>.2.1, opElem_int x y |>.2.2,
      fun t ht => opElem_float ht x y⟩, fun t => ⟨not_valid, fun w hw => valid_iff hw, scaleAddr_eq t⟩⟩
  · rw [leNat_packRow hl]
    exact packed_elem hl hx
  · obtain ⟨hc, hk⟩ := floatCodes_spec hf
    exact toElem_rounds_exact hc hk hm sat hd hv
  · obtain ⟨hc, hk⟩ := floatCodes_spec hf
    rintro (⟨s, rfl⟩ | rfl)
    · exact toElem_float_inf hc hk mode sat s
    · exact toElem_float_nan hc mode sat
  · rintro h0
    rw [h0] at hs
    exact absurd hs (by decide)
  · by_cases hc : t.cols ≤ j
    · exact .inr (.inl hc)
    · by_cases hs : t.sparse = 0
      · by_cases hw : t.cols * fmtBits t.fmt % 8 = 0
        · exact .inl (elemB_eq s site sl t k (not_le.mp hc) hs hw)
        · exact .inr (.inr (.inr hw))
      · exact .inr (.inr (.inl hs))
  · rw [sparseRow, sparseRow, sparseRow, List.append_nil, List.take_take]
    rfl
  · obtain ⟨hc, hk, hi, hnan⟩ := scaleSrc_spec hf
    obtain ⟨hq, hq0⟩ := quantCodes_spec ht
    exact ⟨groupScale_nan hc hk hnan, groupScale_inf hc hk hi hq, fun hl m => groupScale_rounds hc hk hi hq hq0 hm hl⟩
  · obtain ⟨hc, hk, -, -⟩ := scaleSrc_spec hf
    exact ⟨quantElem_zero f.1 t.1 rnd x, quantElem_nan hc hk ht rnd, quantElem_inf hc hk ht rnd,
      fun h h0 hx => quantElem_rounds hc hk hm h h0 hx⟩
end
